-- ==== Sys2Proof/Word.lean ====
section
/-! DEFINITION. The words of the SK3 and the plain types its instructions name: registers, stream prefixes,
identifiers of contexts, and the operands that the hardware's own steps carry. -/

namespace Sys2Proof

/-- A general register, control register or virtual address (R14). -/
abbrev Word := BitVec 64
/-- One byte of memory (R2). -/
abbrev Byte := BitVec 8
/-- A 16-bit instruction word (R70). -/
abbrev IWord := BitVec 16
/-- A vector register (R21). -/
abbrev VWord := BitVec 4096
/-- The number of a general register, g0 to g63 (R14). -/
abbrev GReg := Fin 64
/-- The number of a vector register, v0 to v31 (R21). -/
abbrev VReg := Fin 32
/-- The q field of XP (R74). -/
abbrev QType := Fin 8
/-- The lookahead field la of XP (R74). -/
abbrev La := Fin 16
/-- A context of the package: core × 16 + bank × 8 + context number (R7). -/
abbrev CtxId := Nat
/-- A core: its place die × 256 + ridge × 8 + core (R12), or 1,024 + n for service core n. -/
abbrev CoreId := Nat

/-- The fields of an XS prefix word (R75). -/
structure XS where
  sid : Fin 64
  cls : Fin 4
  deriving DecidableEq, Repr

/-- Why a bundle is not an instruction: the cause's class 0 detail and the fields of R88's detail word. -/
structure BadBundle where
  /-- class 0 detail (R86) -/
  detail : Nat
  /-- position of the offending prefix word -/
  pos : Nat
  /-- prefix words decoded -/
  npre : Nat
  /-- the offending prefix word, or zero -/
  pre : IWord
  /-- the base word -/
  word : IWord
  /-- the missing k.EXT bit, when the bundle names an unlisted page (0 to 15) or family (16 to 20): R58, R59 -/
  ext : Option Nat
  deriving DecidableEq, Repr

/-- Where a fabric packet goes (R275): a core of this package, or a package of the pod by its 21-bit global id. -/
inductive Dest where
  | core (c : CoreId)
  | package (gid : Nat)
  deriving DecidableEq, Repr

/-- A message of R41 on its way: where it goes, the team it is addressed to (R251), its words, and the context that sent it, with its
identity. A crossing task for another package travels as one, with its timestamp and rank (R335, R336). -/
structure Message where
  dest : Dest
  place : Nat
  part : Nat
  team : Nat
  words : List Word
  crossing : Option (Nat × Nat)
  src : Option CtxId := none
  owner : Nat := 0
  deriving DecidableEq, Repr

/-- A request record of R285 on its way to a core's queue S6; the owner is the requester's identity, zero for one of another package. -/
structure Request where
  dest : Dest
  place : Nat
  part : Nat
  team : Nat
  src : Option CtxId
  words : List Word
  owner : Nat := 0
  deriving DecidableEq, Repr

/-- What a packet does when it commits (R276, R279, R297, R301). A part of a copy's destination row moves its bytes from
their locations at that moment (R186, R241). A routed store is the routing engine's, whose lines in this package are claimed until it commits
(R221, R292). A message on its way to another package travels beside the streams (R42). -/
inductive PacketBody where
  | store (addr : Word) (data : List Byte)
  | copied (core id : Nat) (addr : Word) (srcs : List Nat)
  | routed (addr : Word) (data : List Byte)
  | atomAdd (addr x : Word)
  | atomFadd (addr x : Word)
  | atomXchg (addr x : Word)
  | atomCas (addr expected new : Word)
  | setCounter (x : Word)
  | close (hen : Bool) (hid : Nat)
  | message (m : Message)
  deriving DecidableEq, Repr

/-- How a packet leaves the package (R460, R461): not at all; through a station to a switch plane of its pod; or through an Ethernet port to
the endpoint that the pod map gives its destination. -/
inductive Link where
  | inside
  | station (n plane : Nat)
  | port (n : Nat) (endpoint : List Byte)
  deriving DecidableEq, Repr

/-- How far a packet has come: sent, committed at its destination, refused there, dropped as stale (R278, R284), or failed, its region
having noted it (R280, R288). -/
inductive PacketState where
  | sent | committed | refused | dropped | failed
  deriving DecidableEq, Repr

/-- A stream packet between its issue and its acknowledgement (R276): the fields of its header, the counter its stream
names (R281), what it does, how far it has come, its partition's clock when it was sent, whether the trail
holds what it overwrites (R305), the ordered task that issued it (R224), and whether it is a strong access, with the contexts that are
ordered after it by an acquire (R219), and the link that it takes (R460, R461). A packet of another package has no issuing
context here; the owner is the issuing context's identity, which finds the context wherever it stands (R282, R443). -/
structure Packet where
  id : Nat
  src : Option CtxId
  owner : Nat
  srcPackage : Nat
  srcPlace : Nat
  srcCtx : Nat
  part : Nat
  team : Nat
  dest : Dest
  sid : Nat
  cls : Nat
  seq : Nat
  epoch : Nat
  region : Bool
  counter : Word
  body : PacketBody
  state : PacketState
  result : Word
  sentAt : Nat := 0
  logged : Bool := false
  task : Option Nat := none
  gen : BitVec 32 := 0
  strong : Bool := false
  seen : List Nat := []
  link : Link := .inside
  deriving DecidableEq, Repr

/-- A launch record that Brukezin writes for a job (R399): the die whose ring takes it, the dies that it names, the job's team whose
descriptor and region it launches (R363), the number of teams, the first team's id, and the status word's address. -/
structure LaunchPlan where
  die : Nat
  dies : Nat
  team : Nat
  nteams : Nat
  team0 : Nat
  status : Nat
  deriving DecidableEq, Repr

/-- What Brukezin chooses for an accepted job (R463): the partition, its HBM base, the physical writes that make its descriptor and page
tables, the virtual address of each team's descriptor, the address of the block of each region record (R364), and its launch records.
The service's own choices are an input of the machine. -/
structure JobPlan where
  partition : Nat
  hbase : Nat
  writes : List (Nat × List Byte)
  descs : List Nat
  blocks : List Nat
  launches : List LaunchPlan
  deriving DecidableEq, Repr

/-- A job message of R463: the 64-byte header's words, the image and the signature. -/
structure JobMessage where
  header : List Word
  image : List Byte
  signature : List Byte
  plan : JobPlan
  deriving DecidableEq, Repr

/-- Which storage an uncorrectable error struck (R25, R26, R211, R424, R450): a 128-byte line of HBM4, an L2 slice, scratch, a tile or a B
store, by a location in it; the line of a location in a core's cache carve; a context's general registers or ports; or its register carve. -/
inductive ErrorSite where
  | line (loc : Nat)
  | cache (core : CoreId) (loc : Nat)
  | registers (c : CtxId)
  | carve (c : CtxId)
  deriving DecidableEq, Repr

/-- What a signed configuration record says (R465). The byte layout of a payload is Brukezin's own; this is its meaning. A pod map gives the
endpoint of each global id (R461); a ridge map gives the physical ridge, 0 to 33 of its die, of each of the 128 ridge numbers, and lists the
retired ones as 34 × die + physical ridge. -/
inductive FlashContent where
  | ownership (operatorKey : List Byte)
  | placement (pod accel planes : Nat) (timeMaster : Bool) (podMap : List (Nat × List Byte))
  | ridgeMap (physical retired : List Nat)
  | submitterKeys (keys : List (List Byte))
  | defaults (heartPeriod rootQuantum rootThot : Nat)
  deriving DecidableEq, Repr

/-- A signed record of R464: its bytes, from its header to its signature, and what its payload says. -/
structure FlashRecord where
  bytes : List Byte
  content : FlashContent
  deriving DecidableEq, Repr

/-- What the I/O die finds at power-good (R464 to R467): the records in flash, the Odhal root key of its boot ROM, the
identity key formed from its seed, the Brukezin image with its signature, and the step of bring-up that fails, if one does. -/
structure BootConfig where
  rootKey : List Byte
  seed : List Byte
  image : List Byte
  imageSignature : List Byte
  records : List FlashRecord
  failedStep : Option Nat
  deriving DecidableEq, Repr

/-- `x` as an unsigned number cut to `n` bits, starting at bit `lo`. -/
abbrev field (x : Word) (hi lo : Nat) : Nat := x.toNat / 2 ^ lo % 2 ^ (hi + 1 - lo)

end Sys2Proof
end

