-- ==== Sys2Proof/Machine/Num.lean ====
section
/-! DEFINITION. Number formats and arithmetic (spec/04_numbers.md, R97 to R116): exact values, rounding to nearest-even
and stochastically, conversions, and q4 blocks. Every function works on exact naturals and integers and narrows at its end. -/

namespace Sys2Proof.Machine

/-- The floating-point formats of R97. -/
inductive Fmt where
  | f64 | f32 | bf16 | e5m2 | e4m3
  deriving DecidableEq, Repr

/-- Fraction bits (R97). -/
def Fmt.frac : Fmt → Nat
  | .f64 => 52 | .f32 => 23 | .bf16 => 7 | .e5m2 => 2 | .e4m3 => 3
/-- Exponent bits (R97). -/
def Fmt.ebits : Fmt → Nat
  | .f64 => 11 | .f32 => 8 | .bf16 => 8 | .e5m2 => 5 | .e4m3 => 4
/-- Exponent bias (R97). -/
def Fmt.bias : Fmt → Nat
  | .f64 => 1023 | .f32 => 127 | .bf16 => 127 | .e5m2 => 15 | .e4m3 => 7
/-- Width in bits. -/
def Fmt.width (f : Fmt) : Nat := 1 + f.ebits + f.frac
/-- The canonical NaN (R97, R99). -/
def Fmt.nan : Fmt → Nat
  | .f64 => 0x7FF8000000000000 | .f32 => 0x7FC00000 | .bf16 => 0x7FC0 | .e5m2 => 0x7E | .e4m3 => 0x7F
/-- The magnitude bits of the largest finite value (R97). -/
def Fmt.maxBits : Fmt → Nat
  | .f64 => 0x7FEFFFFFFFFFFFFF | .f32 => 0x7F7FFFFF | .bf16 => 0x7F7F | .e5m2 => 0x7B | .e4m3 => 0x7E
/-- The exponent of one unit of the smallest subnormal. -/
def Fmt.qmin (f : Fmt) : Int := 1 - (f.bias : Int) - (f.frac : Int)

/-- An exact value: NaN, an infinity, or (−1)^neg × m × 2^e (a zero keeps its sign, R101). -/
inductive Val where
  | nan
  | inf (neg : Bool)
  | fin (neg : Bool) (m : Nat) (e : Int)
  deriving DecidableEq, Repr

/-- The value that a pattern of bits has in a format (R97, R98). -/
def Fmt.decode (f : Fmt) (bits : Nat) : Val :=
  let neg := bits / 2 ^ (f.ebits + f.frac) % 2 = 1
  let ex := bits / 2 ^ f.frac % 2 ^ f.ebits
  let fr := bits % 2 ^ f.frac
  if f = .e4m3 then
    if ex = 15 ∧ fr = 7 then .nan
    else if ex = 0 then .fin neg fr f.qmin
    else .fin neg (2 ^ f.frac + fr) (f.qmin + (ex - 1))
  else if ex = 2 ^ f.ebits - 1 then
    if fr = 0 then .inf neg else .nan
  else if ex = 0 then .fin neg fr f.qmin
  else .fin neg (2 ^ f.frac + fr) (f.qmin + (ex - 1))

/-- `m ÷ 2^k` to the nearest natural, ties to even (R104). -/
def shiftRne (m k : Nat) : Nat :=
  if k = 0 then m
  else if Nat.log2 m + 2 < k then 0
  else
    let q := m / 2 ^ k
    let r := m % 2 ^ k
    if r * 2 < 2 ^ k then q
    else if 2 ^ k < r * 2 then q + 1
    else q + q % 2

/-- `m ÷ 2^k` stochastically: up when `u ÷ 2^32` lies below the fraction (R105). -/
def shiftSr (u m k : Nat) : Nat :=
  if k = 0 then m
  else if Nat.log2 m + 64 < k then (if u = 0 ∧ m ≠ 0 then 1 else 0)
  else
    let q := m / 2 ^ k
    let r := m % 2 ^ k
    if r = 0 then q
    else if u * 2 ^ k < r * 2 ^ 32 then q + 1 else q

/-- How a result is rounded: to nearest-even, or stochastically with the draw u of R105. -/
inductive Rounding where
  | rne
  | sr (u : Nat)
  deriving DecidableEq, Repr

/-- `m ÷ 2^k` under a rounding. -/
def Rounding.shift : Rounding → Nat → Nat → Nat
  | .rne, m, k => shiftRne m k
  | .sr u, m, k => shiftSr u m k

/-- The bits of an infinity of the format; e4m3 has none and saturates (R104). -/
def Fmt.infBits : Fmt → Nat
  | .e4m3 => 0x7E
  | f => (2 ^ f.ebits - 1) * 2 ^ f.frac

/-- Puts the sign bit before the magnitude bits. -/
def Fmt.signed (f : Fmt) (neg : Bool) (mag : Nat) : Nat :=
  (if neg then 2 ^ (f.ebits + f.frac) else 0) + mag

/-- The bits of the exact value rounded to the format (R98, R99, R101, R104, R105). From the first step past the largest finite value on, a
stochastic rounding gives what R104 makes of an overflow, whatever the draw: its hi is that step (DEDUCED, log 85). -/
def Fmt.encode (f : Fmt) (rm : Rounding) : Val → Nat
  | .nan => f.nan
  | .inf neg => f.signed neg f.infBits
  | .fin neg m e =>
    if m = 0 then f.signed neg 0
    else
      let top : Int := e + Nat.log2 m
      let q : Int := max (top - f.frac) f.qmin
      let n := if q ≤ e then m * 2 ^ (e - q).toNat else rm.shift m (q - e).toNat
      let mag :=
        if (4096 : Int) < q - f.qmin then f.maxBits + 1
        else n + (q - f.qmin).toNat * 2 ^ f.frac
      f.signed neg (if f.maxBits < mag then f.infBits else mag)

/-- The value negated. -/
def Val.neg : Val → Val
  | .nan => .nan
  | .inf s => .inf (!s)
  | .fin s m e => .fin (!s) m e

/-- The signed mantissa of a finite value. -/
def signedMant (neg : Bool) (m : Nat) : Int := if neg then -(m : Int) else m

/-- The exact sum (R99, R101). Two zeros of opposite signs, of which R101 does not speak, give +0 (DEDUCED, log 85). -/
def Val.add : Val → Val → Val
  | .nan, _ => .nan
  | _, .nan => .nan
  | .inf s, .inf t => if s = t then .inf s else .nan
  | .inf s, _ => .inf s
  | _, .inf t => .inf t
  | .fin s m e, .fin t n d =>
    if m = 0 ∧ n = 0 then .fin (s && t) 0 0
    else
      let x := min e d
      let a := signedMant s (m * 2 ^ (e - x).toNat) + signedMant t (n * 2 ^ (d - x).toNat)
      .fin (decide (a < 0)) a.natAbs x

/-- The exact product (R99, R101). -/
def Val.mul : Val → Val → Val
  | .nan, _ => .nan
  | _, .nan => .nan
  | .inf s, .inf t => .inf (s != t)
  | .inf s, .fin t n _ => if n = 0 then .nan else .inf (s != t)
  | .fin s m _, .inf t => if m = 0 then .nan else .inf (s != t)
  | .fin s m e, .fin t n d => .fin (s != t) (m * n) (e + d)

/-- The quotient with a sticky bit below at least 64 good bits, so that any rounding of a format is that of the exact
quotient (R99, R149). -/
def Val.div : Val → Val → Val
  | .nan, _ => .nan
  | _, .nan => .nan
  | .inf _, .inf _ => .nan
  | .inf s, .fin t _ _ => .inf (s != t)
  | .fin s _ _, .inf t => .fin (s != t) 0 0
  | .fin s m e, .fin t n d =>
    if n = 0 then (if m = 0 then .nan else .inf (s != t))
    else if m = 0 then .fin (s != t) 0 0
    else
      let k : Nat := Nat.log2 n + 66
      let q := m * 2 ^ k / n
      let r := m * 2 ^ k % n
      .fin (s != t) (2 * q + (if r = 0 then 0 else 1)) (e - d - k - 1)

/-- The natural square root rounded down, found bit by bit from bit `k` downward. -/
def isqrtFrom (n : Nat) : Nat → Nat → Nat
  | 0, r => if (r + 1) * (r + 1) ≤ n then r + 1 else r
  | k + 1, r =>
    let c := r + 2 ^ (k + 1)
    isqrtFrom n k (if c * c ≤ n then c else r)

/-- The natural square root rounded down. -/
def isqrt (n : Nat) : Nat := isqrtFrom n (Nat.log2 n / 2 + 1) 0

/-- The square root with a sticky bit below at least 64 good bits (R149). -/
def Val.sqrt : Val → Val
  | .nan => .nan
  | .inf s => if s then .nan else .inf false
  | .fin s m e =>
    if m = 0 then .fin s 0 0
    else if s then .nan
    else
      let m' : Nat := if e % 2 = 0 then m else 2 * m
      let e' : Int := if e % 2 = 0 then e else e - 1
      let k : Nat := 66
      let n := m' * 2 ^ (2 * k)
      let r := isqrt n
      .fin false (2 * r + (if r * r = n then 0 else 1)) (e' / 2 - k - 1)

/-- 1 ÷ √x with a sticky bit (R171). -/
def Val.rsqrt : Val → Val
  | .nan => .nan
  | .inf s => if s then .nan else .fin false 0 0
  | .fin s m e =>
    if m = 0 then .inf s
    else if s then .nan
    else
      let m' : Nat := if e % 2 = 0 then m else 2 * m
      let e' : Int := if e % 2 = 0 then e else e - 1
      let k : Nat := Nat.log2 m' + 66
      let n := 2 ^ (2 * k) / m'
      let r := isqrt n
      .fin false (2 * r + (if r * r * m' = 2 ^ (2 * k) then 0 else 1)) (-(e' / 2) - k - 1)

/-- 1 ÷ x (R171). -/
def Val.recip (x : Val) : Val := Val.div (.fin false 1 0) x

/-- ln 2 × 2^256, rounded down. -/
def ln2Fixed : Nat := 80260960185991308862233904206310070533990667611589946606122867505419956976171

/-- The sum of x^n ÷ n! from term n on, in units of 2^−256, `x` and `term` in the same units. -/
def expTail (x : Nat) : Nat → Nat → Nat → Nat
  | 0, _, _ => 0
  | k + 1, n, term => term + expTail x k (n + 1) (term * x / 2 ^ 256 / (n + 1))

/-- 2^x with a sticky bit (R171): the integer part is exact, the fraction's power comes from a series whose error lies
below 2^−240, far below the distance of any f32 argument's power from a rounding boundary (DEDUCED, log 11). -/
def Val.exp2 : Val → Val
  | .nan => .nan
  | .inf s => if s then .fin false 0 0 else .inf false
  | .fin s m e =>
    if m = 0 then .fin false 1 0
    else if (11 : Int) ≤ e + Nat.log2 m then (if s then .fin false 1 (-100000) else .inf false)
    else if e + Nat.log2 m < -200 then (if s then .fin false (2 ^ 201 - 1) (-201) else .fin false (2 ^ 201 + 1) (-201))
    else
      let x : Int := if 0 ≤ e then signedMant s m * 2 ^ (e + 400).toNat else signedMant s m * 2 ^ (e + 400).toNat
      let n := x / 2 ^ 400
      let f := (x % 2 ^ 400).toNat
      if f = 0 then .fin false 1 n
      else
        let y := f * ln2Fixed / 2 ^ 400
        .fin false (2 * expTail y 70 0 (2 ^ 256) + 1) (n - 257)

/-- Which comparison holds of two values: none when either is a NaN (R149, R164). -/
def Val.cmp : Val → Val → Option Ordering
  | .nan, _ => none
  | _, .nan => none
  | .inf s, .inf t => some (compare (!s).toNat (!t).toNat)
  | .inf s, _ => some (if s then .lt else .gt)
  | _, .inf t => some (if t then .gt else .lt)
  | .fin s m e, .fin t n d =>
    let x := min e d
    some (compare (signedMant s (m * 2 ^ (e - x).toNat)) (signedMant t (n * 2 ^ (d - x).toNat)))

/-- The sign of a value that is not a NaN. -/
def Val.isNeg : Val → Bool
  | .nan => false
  | .inf s => s
  | .fin s _ _ => s

/-- The lesser value; a NaN if either is one, and −0 of two zeros of both signs (R115, R149, R163). -/
def Val.min (a b : Val) : Val :=
  match a.cmp b with
  | none => .nan
  | some .lt => a
  | some .gt => b
  | some .eq => if a.isNeg then a else b

/-- The greater value; a NaN if either is one, and +0 of two zeros of both signs (R115, R149, R163). -/
def Val.max (a b : Val) : Val :=
  match a.cmp b with
  | none => .nan
  | some .lt => b
  | some .gt => a
  | some .eq => if a.isNeg then b else a

/-- The value times 2^n (R163 vscal). -/
def Val.scale (n : Int) : Val → Val
  | .fin s m e => .fin s m (if m = 0 then e else e + n)
  | v => v

/-- The exact value of an integer. -/
def Val.ofInt (i : Int) : Val := .fin (decide (i < 0)) i.natAbs 0

/-- The nearest integer under a rounding, clamped to [lo, hi]; a NaN gives 0 (R106). -/
def Val.toInt (rm : Rounding) (lo hi : Int) : Val → Int
  | .nan => 0
  | .inf s => if s then lo else hi
  | .fin s m e =>
    let mag : Nat :=
      if 0 ≤ e then (if 128 < e + Nat.log2 m then 2 ^ 130 else m * 2 ^ e.toNat) else rm.shift m (-e).toNat
    Max.max lo (Min.min hi (signedMant s mag))

/-- The class mask of R150. -/
def Fmt.classMask (f : Fmt) (bits : Nat) : Nat :=
  let v := f.decode bits
  let sub := decide (bits / 2 ^ f.frac % 2 ^ f.ebits = 0)
  match v with
  | .nan => 2 ^ 8
  | .inf s => if s then 2 ^ 0 else 2 ^ 7
  | .fin s m _ =>
    if m = 0 then (if s then 2 ^ 3 else 2 ^ 4)
    else if sub then (if s then 2 ^ 2 else 2 ^ 5)
    else (if s then 2 ^ 1 else 2 ^ 6)

/-- One step of the generator of R105, a zero state replaced first. -/
def rngNext (s : Word) : Word :=
  let s0 : Word := if s = 0 then 0x9E3779B97F4A7C15#64 else s
  let s1 := s0 ^^^ (s0 <<< 13)
  let s2 := s1 ^^^ (s1 >>> 7)
  s2 ^^^ (s2 <<< 17)

/-- The draw u × 2^32 of an advanced state (R105). -/
def rngDraw (s : Word) : Nat := s.toNat / 2 ^ 32

/-- The element types that q names (R90). -/
inductive Elem where
  | flt (f : Fmt)
  | int (w : Nat)
  | q4
  deriving DecidableEq, Repr

/-- The element type of a q value (R90, R21). -/
def elemOf (q : QType) : Elem :=
  match q.val with
  | 0 => .flt .f32
  | 1 => .flt .bf16
  | 2 => .flt .e4m3
  | 3 => .flt .e5m2
  | 4 => .int 32
  | 5 => .int 16
  | 6 => .int 8
  | _ => .q4

/-- The lane width w (R21). -/
def laneWidth (q : QType) : Nat :=
  match q.val with
  | 0 | 4 => 32
  | 1 | 5 => 16
  | 2 | 3 | 6 => 8
  | _ => 4

/-- The lane count n (R21). -/
def laneCount (q : QType) : Nat := 4096 / laneWidth q

/-- The number whose w-bit digits these are, lowest first. -/
def joinLanes (w : Nat) : List Nat → Nat
  | [] => 0
  | x :: xs => x % 2 ^ w + 2 ^ w * joinLanes w xs

/-- The w-bit lanes of a vector register, lane 0 first (R21). -/
def lanesOf (w : Nat) (v : VWord) : List Nat := (List.range (4096 / w)).map (fun i => v.toNat / 2 ^ (w * i) % 2 ^ w)

/-- A vector register from its w-bit lanes; lanes not given are zero. -/
def ofLanes (w : Nat) (xs : List Nat) : VWord := BitVec.ofNat 4096 (joinLanes w xs)

/-- A w-bit pattern as a two's-complement integer. -/
def toSigned (w bits : Nat) : Int :=
  if bits % 2 ^ w < 2 ^ (w - 1) then (bits % 2 ^ w : Nat) else (bits % 2 ^ w : Nat) - (2 ^ w : Int)

/-- An integer cut to w bits (R6, R103). -/
def wrapBits (w : Nat) (i : Int) : Nat := (i % (2 ^ w : Int)).toNat

/-- The exact value of an element (q4 codes need their block: see `codeValue`). -/
def Elem.value : Elem → Nat → Val
  | .flt f, b => f.decode b
  | .int w, b => Val.ofInt (toSigned w b)
  | .q4, _ => .nan

/-- A value converted to an element type (R106). -/
def Elem.ofVal (rm : Rounding) : Elem → Val → Nat
  | .flt f, v => f.encode rm v
  | .int w, v => wrapBits w (v.toInt rm (-(2 ^ (w - 1) : Int)) (2 ^ (w - 1) - 1))
  | .q4, _ => 0

/-- The value of a code times 8, by the type of its block (R110). -/
def codeEighths (t code : Nat) : Int :=
  let m := code % 8
  let mag : Int :=
    match t with
    | 0 => 8 * m
    | 1 => (match m with | 0 => 0 | 1 => 4 | 2 => 8 | 3 => 12 | 4 => 16 | 5 => 24 | 6 => 32 | _ => 48)
    | 2 => (match m with | 0 => 0 | _ => 2 ^ (m - 1))
    | _ => (match m with | 0 => 0 | 1 => 8 | 2 => 16 | 3 => 24 | 4 => 32 | 5 => 48 | 6 => 64 | _ => 96)
  if t = 0 ∧ code % 16 = 8 then -64 else if code % 16 < 8 then mag else -mag

/-- The value of a code under its block's scale byte; 0xFF marks a NaN block (R110). -/
def codeValue (scale code : Nat) : Val :=
  if scale = 0xFF then .nan
  else
    let i := codeEighths (scale / 64) code
    .fin (decide (i < 0)) i.natAbs ((scale % 64 : Nat) - 35)

/-- The largest magnitude M_T of a type's grid (R112). -/
def gridMax : Nat → Nat
  | 0 => 7 | 1 => 6 | 2 => 8 | _ => 12

/-- The magnitude of a value, and zero of a NaN. -/
def Val.abs : Val → Val
  | .fin _ m e => .fin false m e
  | .inf _ => .inf false
  | .nan => .nan

/-- Whether a ≤ b for values that are not NaNs. -/
def Val.le (a b : Val) : Bool :=
  match a.cmp b with
  | some .lt | some .eq => true
  | _ => false

/-- The largest magnitude of a list of finite values. -/
def maxAbs : List Val → Val
  | [] => .fin false 0 0
  | v :: vs => Val.max v.abs (maxAbs vs)

/-- The scale exponent of R112 for a type: the least E that fits, or E_max. -/
def blockExponent (t : Nat) (amax : Val) : Nat :=
  let emax := if t = 3 then 62 else 63
  match (List.range (emax + 1)).find? (fun e => amax.le (.fin false (gridMax t) ((e : Nat) - 32))) with
  | some e => e
  | none => emax

/-- The codes that packing may produce, by ascending magnitude on the side of the given sign (R112). -/
def sideCodes (t : Nat) (neg : Bool) : List Nat :=
  if neg then
    [0, 9, 10, 11, 12, 13, 14, 15] ++ (if t = 0 then [8] else [])
  else [0, 1, 2, 3, 4, 5, 6, 7]

/-- Whether a tie takes this code: even T0 integer, or even magnitude index (R112). -/
def codeEven (code : Nat) : Bool := code % 2 = 0

/-- The code of a finite element on its block's grid: between its two neighbours in magnitude, by nearest-even or by a
draw; beyond the grid it saturates (R112). -/
def packCode (rm : Rounding) (t e : Nat) (x : Val) : Nat :=
  match x with
  | .fin neg m ex =>
    let units (c : Nat) : Nat := (codeEighths t c).natAbs
    let rec go : List Nat → Nat
      | [] => 0
      | [c] => c
      | c :: d :: rest =>
        -- the magnitude in eighths of the scale: m × 2^(ex + 35 − e)
        let sh : Int := ex + 35 - e
        let num := if 0 ≤ sh then m * 2 ^ sh.toNat else m
        let den := if 0 ≤ sh then 1 else 2 ^ (-sh).toNat
        if units d * den ≤ num then go (d :: rest)
        else if num ≤ units c * den then c
        else
          let lo := num - units c * den
          let gap := (units d - units c) * den
          match rm with
          | .rne => if 2 * lo < gap then c else if gap < 2 * lo then d else if codeEven c then c else d
          | .sr u => if u * gap < lo * 2 ^ 32 then d else c
    go (sideCodes t neg)
  | _ => 0

/-- The scale byte of a type and exponent (R110). -/
def scaleByte (t e : Nat) : Nat := t * 64 + e

/-- Whether a value is finite. -/
def Val.isFin : Val → Bool
  | .fin _ _ _ => true
  | _ => false

/-- The exact squared error of a type's nearest-even encoding (R114). -/
def blockError (t : Nat) (xs : List Val) : Val :=
  let e := blockExponent t (maxAbs xs)
  xs.foldl (fun acc x =>
    let d := (codeValue (scaleByte t e) (packCode .rne t e x)).add x.neg
    acc.add (d.mul d)) (.fin false 0 0)

/-- The type that R114 chooses: least error, the lower type on a tie. -/
def bestType (xs : List Val) : Nat :=
  (List.range 3).foldl (fun best i =>
    match (blockError (i + 1) xs).cmp (blockError best xs) with
    | some .lt => i + 1
    | _ => best) 0

/-- The type of a block under a mode of R111. -/
def modeType (mode : Nat) (xs : List Val) : Nat :=
  match mode with
  | 4 | 5 => bestType xs
  | 6 => 1
  | 7 => 0
  | m => m

/-- Encodes a block's elements in ascending order, drawing once for each under sr (R112, R105). -/
def packCodes (sr : Bool) (t e : Nat) : List Val → Word → List Nat × Word
  | [], g => ([], g)
  | x :: xs, g =>
    let g' := if sr then rngNext g else g
    let c := packCode (if sr then .sr (rngDraw g') else .rne) t e x
    let (cs, g'') := packCodes sr t e xs g'
    (c :: cs, g'')

/-- The generator advanced once for each element of a block (R113). -/
def advanceBy : Nat → Word → Word
  | 0, g => g
  | n + 1, g => advanceBy n (rngNext g)

/-- One packed block: its codes, its scale byte and the generator afterwards (R111 to R114). -/
def packBlock (mode : Nat) (xs : List Val) (g : Word) : List Nat × Nat × Word :=
  let sr := decide (mode = 5 ∨ mode = 6 ∨ mode = 7)
  if xs.all Val.isFin then
    let t := modeType mode xs
    let e := blockExponent t (maxAbs xs)
    let (cs, g') := packCodes sr t e xs g
    (cs, scaleByte t e, g')
  else
    (xs.map (fun _ => 0), 0xFF, if sr then advanceBy xs.length g else g)

/-- A list of lanes reduced by the fixed tree of R115: lane i with lane i + m ÷ 2 until one is left. -/
def treeReduce {α : Type} (f : α → α → α) (dflt : α) : Nat → List α → α
  | 0, xs => xs.headD dflt
  | k + 1, xs =>
    let h := xs.length / 2
    if xs.length ≤ 1 then xs.headD dflt
    else treeReduce f dflt k (List.zipWith f (xs.take h) (xs.drop h))

/-- rne(a + b) of two f32 values, kept as a value (R115). -/
def addF32 (a b : Val) : Val := Fmt.f32.decode (Fmt.f32.encode .rne (a.add b))

/-- One K-group of R107 and R109: the exact sum of products, times the block scales, rounded to f32. -/
def groupSum (as bs : List Val) : Val :=
  let ps := List.zipWith Val.mul as bs
  ps.foldl Val.add (.fin false 0 0)

/-- A list cut into runs of n. -/
def chunks {α : Type} (n : Nat) : Nat → List α → List (List α)
  | 0, _ => []
  | k + 1, xs => if xs.isEmpty then [] else xs.take n :: chunks n k (xs.drop n)

/-- The f32 accumulation of R107 over groups of 32. A group whose special values make it infinite or a NaN takes R109. -/
def accumulateF32 (c : Nat) (as bs : List Val) : Nat :=
  let gs := List.zip (chunks 32 as.length as) (chunks 32 bs.length bs)
  gs.foldl (fun acc g =>
    let s := Fmt.f32.decode (Fmt.f32.encode .rne (groupSum g.1 g.2))
    Fmt.f32.encode .rne ((Fmt.f32.decode acc).add s)) c

/-- The s8 accumulation of R108: the element and whether any step overflowed. -/
def accumulateS32 (c : Nat) (as bs : List Int) : Nat × Bool :=
  let gs := List.zip (chunks 32 as.length as) (chunks 32 bs.length bs)
  gs.foldl (fun acc g =>
    let s := (List.zipWith (· * ·) g.1 g.2).foldl (· + ·) 0
    let exact := toSigned 32 acc.1 + s
    (wrapBits 32 exact, acc.2 || decide (exact < -(2 ^ 31 : Int) ∨ (2 ^ 31 - 1 : Int) < exact))) (c, false)

end Sys2Proof.Machine
end

