-- ==== Sys2Proof/Config.lean ====
section
/-! DEFINITION. What the spec leaves open: free values that no proof can evaluate. Each one is applied to the operands
it depends on, or to the counter State.free, which the step that uses it advances (log 4). -/

namespace Sys2Proof.Config

/-- A free bit: which of two outcomes that the spec leaves open comes about (R62, R219, R80). -/
opaque freeBit : Nat → Bool
/-- A free byte: a byte that the spec leaves unpredictable (R241). -/
opaque freeByte : Nat → Byte
/-- How many ns of pod time a step takes (R462 gives no figure; log 10). -/
opaque elapsed : Nat → Nat
/-- How many cycles a step takes (log 10). -/
opaque cycles : Nat → Nat
/-- The slot of the context registry (R384) that holds a team's context, by its context and its team (log 6). -/
opaque recordSlot : CtxId → Nat → Nat
/-- The area that Brukezin gives a team for the state of a ridge, by team and number of the ridge in member order (R442; log 6). -/
opaque ridgeArea : Nat → Nat → Nat
/-- The loop hops between two cores (R58); the spec draws no loop (log 20). -/
opaque hops : CoreId → CoreId → Nat
/-- The address at which Brukezin starts on a service core (R467; log 9). -/
opaque serviceEntry : CoreId → Word
/-- The one-way latencies that Brukezin publishes, in ns: within the pod, and across pods (R283, R463; log 9). -/
opaque linkLatency : Bool → Word
/-- Whether a signature is valid for a key and a message: Ed25519, RFC 8032 (R466; log 8). -/
opaque signatureValid : List Byte → List Byte → List Byte → Bool
/-- The 64-byte Ed25519 signature of a message under a private key (R466; log 8). -/
opaque sign : List Byte → List Byte → BitVec 512
/-- The 32-byte Ed25519 public key of a private key (R466; log 8). -/
opaque publicKey : List Byte → BitVec 256
/-- The 64-byte SHA-512 digest of a message (R466; log 8). -/
opaque sha512 : List Byte → BitVec 512
/-- What the pod's time master counts when this package locks to it (R462; log 10). -/
opaque masterTime : Nat → Nat

end Sys2Proof.Config
end

