-- ==== Sys2Proof/Machine/Sparse.lean ====
section
/-! DEFINITION. Sparse tables and the byte memory, as plain lists in rising order of their keys. -/

namespace Sys2Proof.Machine

/-- A sparse table: entries in rising order of their keys; an unlisted key has a default. -/
abbrev Table (α : Type) := List (Nat × α)

/-- The entry of a key, or the default that belongs to the key. -/
def Table.get {α : Type} (dflt : Nat → α) (t : Table α) (k : Nat) : α :=
  match t with
  | [] => dflt k
  | (j, x) :: t => if j = k then x else Table.get dflt t k

/-- The table with a key's entry replaced. -/
def Table.put {α : Type} (t : Table α) (k : Nat) (x : α) : Table α :=
  match t with
  | [] => [(k, x)]
  | (j, y) :: t =>
    if k < j then (k, x) :: (j, y) :: t
    else if j = k then (k, x) :: t
    else (j, y) :: Table.put t k x

/-- The table without a key's entry. -/
def Table.drop {α : Type} (t : Table α) (k : Nat) : Table α := t.filter (fun e => e.1 != k)

/-- Whether the keys of a list rise strictly. -/
def risingFrom {α : Type} : Nat → List (Nat × α) → Bool
  | _, [] => true
  | lo, (k, _) :: t => decide (lo ≤ k) && risingFrom (k + 1) t

/-- A table's keys rise strictly. -/
def Table.wf {α : Type} (t : Table α) : Bool := risingFrom 0 t

/-- The memory of the package: bytes by location, in canonical form. -/
abbrev Memory := List Host.Cell

/-- What a byte that no entry lists reads as: zero (R467 for scratch, tiles and B stores; DESIGN CHOICE for HBM4, log 3). -/
def Memory.unlisted : Byte := 0

/-- One byte of memory. -/
def Memory.read (m : Memory) (a : Nat) : Byte :=
  match m with
  | [] => Memory.unlisted
  | (b, x) :: m => if b = a then x else Memory.read m a

/-- Memory without an entry for a location. -/
def Memory.erase (m : Memory) (a : Nat) : Memory :=
  match m with
  | [] => []
  | (b, x) :: m => if b = a then Memory.erase m a else (b, x) :: Memory.erase m a

/-- Memory with a byte written; a byte equal to what an unlisted location reads as is not listed. -/
def Memory.write (m : Memory) (a : Nat) (x : Byte) : Memory :=
  if x = Memory.unlisted then Memory.erase m a else Table.put m a x

/-- Memory with consecutive bytes written. -/
def Memory.writes (m : Memory) (a : Nat) : List Byte → Memory
  | [] => m
  | x :: xs => Memory.writes (Memory.write m a x) (a + 1) xs

/-- The entries of a memory that no default hides. -/
def Memory.listed (m : Memory) : Bool := m.all (fun c => decide (c.2 ≠ Memory.unlisted))

/-- The canonical form: strictly rising locations, and no entry equal to what an unlisted location reads as. -/
def Memory.wf (m : Memory) : Bool := risingFrom 0 m && Memory.listed m

/-- Consecutive bytes of memory, lowest location first. -/
def Memory.bytes (m : Memory) (a : Nat) : Nat → List Byte
  | 0 => []
  | n + 1 => m.read a :: Memory.bytes m (a + 1) n

/-- The number whose little-endian bytes these are (R2). -/
def leNat : List Byte → Nat
  | [] => 0
  | b :: bs => b.toNat + 256 * leNat bs

/-- The n little-endian bytes of a number (R2). -/
def leBytes : Nat → Nat → List Byte
  | 0, _ => []
  | n + 1, x => BitVec.ofNat 8 x :: leBytes n (x / 256)

end Sys2Proof.Machine
end

