-- ==== Sys2Proof/Syntax.lean ====
section
/-! DEFINITION. The instructions and steps of the SK3, one constructor for each row of the table of operations and events:
the encodable instructions of the opcode map (R95), then the steps that the hardware and the outside party make without
an encoding (those act at the place that State.focus and State.cur name). An immediate holds the value that R81 gives it; a memory or branch offset is in units of its R83 scale. -/

namespace Sys2Proof

/-- One constructor for each row of the table of operations and events. -/
inductive Instr where
  /-- R123: Adds two general registers, wrapping to 64 bits or to 32 bits sign-extended under .w. -/
  | add (d a b : GReg) (f : Bool)
  /-- R123: Subtracts g[b] from g[a] with wrap. -/
  | sub (d a b : GReg) (f : Bool)
  /-- R123: Bitwise and of two registers. -/
  | and (d a b : GReg) (f : Bool)
  /-- R123: Bitwise or of two registers. -/
  | or (d a b : GReg) (f : Bool)
  /-- R123: Bitwise exclusive or of two registers. -/
  | xor (d a b : GReg) (f : Bool)
  /-- R123: Shifts g[a] left by a register amount. -/
  | shl (d a b : GReg) (f : Bool)
  /-- R123: Logical right shift by a register amount. -/
  | shr (d a b : GReg) (f : Bool)
  /-- R123: Arithmetic right shift by a register amount. -/
  | sra (d a b : GReg) (f : Bool)
  /-- R123: Multiplies two registers, keeping the low bits. -/
  | mul (d a b : GReg) (f : Bool)
  /-- R123: Writes the high 64 bits of the signed or natural 128-bit product. -/
  | mulh (d a b : GReg) (f : Bool)
  /-- R123: Writes the lesser operand, signed or natural. -/
  | min (d a b : GReg) (f : Bool)
  /-- R123: Writes the greater operand, signed or natural. -/
  | max (d a b : GReg) (f : Bool)
  /-- R123: Writes 1 when the operands are equal, else 0. -/
  | seq (d a b : GReg) (f : Bool)
  /-- R123: Writes 1 when g[a] is less than g[b], signed or natural. -/
  | slt (d a b : GReg) (f : Bool)
  /-- R124: Selects g[a] or g[b] by the condition word held in g[d]. -/
  | sel (d a b : GReg)
  /-- R125: Adds a sign-extended immediate to g[a]. -/
  | addi (d a : GReg) (imm : Int)
  /-- R125: Ands g[a] with a zero-extended immediate. -/
  | andi (d a : GReg) (imm : Nat)
  /-- R125: Ors g[a] with a zero-extended immediate. -/
  | ori (d a : GReg) (imm : Nat)
  /-- R125: Exclusive-ors g[a] with a zero-extended immediate. -/
  | xori (d a : GReg) (imm : Nat)
  /-- R125: Shifts g[a] left by an immediate count 0 to 63. -/
  | shli (d a : GReg) (imm : Nat)
  /-- R125: Logical right shift by an immediate count. -/
  | shri (d a : GReg) (imm : Nat)
  /-- R125: Arithmetic right shift by an immediate count. -/
  | srai (d a : GReg) (imm : Nat)
  /-- R125: Writes 1 when g[a] is below a signed immediate. -/
  | slti (d a : GReg) (imm : Int)
  /-- R125: Loads a sign-extended immediate into g[d]. -/
  | li (d : GReg) (imm : Int)
  /-- R125: Replaces bits 63 to 40 of g[d] with an immediate. -/
  | lih (d : GReg) (imm : Nat)
  /-- R125: Writes the bundle address plus a byte offset. -/
  | pcrel (d : GReg) (imm : Int)
  /-- R127: Loads one byte, sign-extended. -/
  | ldb (d a : GReg) (imm : Int) (la : La)
  /-- R127: Loads one byte, zero-extended. -/
  | ldbn (d a : GReg) (imm : Int) (la : La)
  /-- R127: Loads two bytes, sign-extended. -/
  | ldh (d a : GReg) (imm : Int) (la : La)
  /-- R127: Loads two bytes, zero-extended. -/
  | ldhn (d a : GReg) (imm : Int) (la : La)
  /-- R127: Loads four bytes, sign-extended. -/
  | ldw (d a : GReg) (imm : Int) (la : La)
  /-- R127: Loads four bytes, zero-extended. -/
  | ldwn (d a : GReg) (imm : Int) (la : La)
  /-- R127: Loads eight bytes. -/
  | ldd (d a : GReg) (imm : Int) (la : La)
  /-- R127: Stores one byte of g[d]. -/
  | stb (d a : GReg) (imm : Int) (xs : Option XS)
  /-- R127: Stores two bytes of g[d]. -/
  | sth (d a : GReg) (imm : Int) (xs : Option XS)
  /-- R127: Stores four bytes of g[d]. -/
  | stw (d a : GReg) (imm : Int) (xs : Option XS)
  /-- R127: Stores eight bytes of g[d]. -/
  | std (d a : GReg) (imm : Int) (xs : Option XS)
  /-- R136: Translates and checks a page and records a pin with a window of 64 bundles. -/
  | tch (kind : Fin 8) (a : GReg) (imm : Int) (la : La)
  /-- R140: Acquire load of the size that q names. -/
  | lda (d a : GReg) (imm : Int) (q : QType) (la : La)
  /-- R140: Release store of the size that q names. -/
  | stl (d a : GReg) (imm : Int) (q : QType) (xs : Option XS)
  /-- R142: Branches when the two registers are equal. -/
  | beq (a b : GReg) (imm : Int)
  /-- R142: Branches when the two registers differ. -/
  | bne (a b : GReg) (imm : Int)
  /-- R142: Branches on signed less than. -/
  | blt (a b : GReg) (imm : Int)
  /-- R142: Branches on signed greater or equal. -/
  | bge (a b : GReg) (imm : Int)
  /-- R142: Branches on natural less than. -/
  | bltn (a b : GReg) (imm : Int)
  /-- R142: Branches on natural greater or equal. -/
  | bgen (a b : GReg) (imm : Int)
  /-- R143: Jumps by a signed word offset. -/
  | jmp (imm : Int)
  /-- R143: Jumps and writes the next bundle address to g55. -/
  | jal (imm : Int)
  /-- R143: Jumps to g[a] and writes the link to g[d]; an odd target traps. -/
  | jr (d a : GReg)
  /-- R145: Signed division truncated toward zero; never traps. -/
  | div (d a b : GReg) (f : Bool) (la : La)
  /-- R145: Natural division. -/
  | divn (d a b : GReg) (f : Bool) (la : La)
  /-- R145: Signed remainder with the sign of the dividend. -/
  | rem (d a b : GReg) (f : Bool) (la : La)
  /-- R145: Natural remainder. -/
  | remn (d a b : GReg) (f : Bool) (la : La)
  /-- R147: Counts set bits. -/
  | popc (d a : GReg) (f : Bool)
  /-- R147: Counts leading zero bits. -/
  | clz (d a : GReg) (f : Bool)
  /-- R147: Counts trailing zero bits. -/
  | ctz (d a : GReg) (f : Bool)
  /-- R147: Rotates g[a] right by a register amount. -/
  | rot (d a b : GReg) (f : Bool)
  /-- R147: Reverses the byte order. -/
  | bswap (d a : GReg) (f : Bool)
  /-- R148: Extracts a bit field that the spec in g[b] names. -/
  | bext (d a b : GReg)
  /-- R148: Inserts a bit field into g[d]. -/
  | bins (d a b : GReg)
  /-- R149: Floating-point add, f32 or f64, rounded to nearest even. -/
  | fadd (d a b : GReg) (f : Bool)
  /-- R149: Floating-point subtract. -/
  | fsub (d a b : GReg) (f : Bool)
  /-- R149: Floating-point multiply. -/
  | fmul (d a b : GReg) (f : Bool)
  /-- R149: Fused multiply-add into g[d], rounded once. -/
  | fma (d a b : GReg) (f : Bool)
  /-- R149: Floating-point divide. -/
  | fdiv (d a b : GReg) (f : Bool)
  /-- R149: Floating-point square root. -/
  | fsqrt (d a : GReg) (f : Bool)
  /-- R149: Floating-point minimum. -/
  | fmin (d a b : GReg) (f : Bool)
  /-- R149: Floating-point maximum. -/
  | fmax (d a b : GReg) (f : Bool)
  /-- R149: Floating-point equality compare. -/
  | feq (d a b : GReg) (f : Bool)
  /-- R149: Floating-point less-than compare. -/
  | flt (d a b : GReg) (f : Bool)
  /-- R149: Floating-point less-or-equal compare. -/
  | fle (d a b : GReg) (f : Bool)
  /-- R151: Converts between f32, f64, s64 and n64 by a conversion code. -/
  | fcvt (d a : GReg) (code : Fin 8)
  /-- R150: Writes a one-hot class mask of g[a]. -/
  | fcls (d a : GReg) (f : Bool)
  /-- R152: Reads a control register into g[d]. -/
  | kget (d : GReg) (imm : Nat)
  /-- R152: Writes g[d] to a control register that has no row of its own. -/
  | kput (d : GReg) (imm : Nat)
  /-- R154: Advances k.RNG by one xorshift step and writes the new state. -/
  | rand (d : GReg)
  /-- R160: Loads 512 consecutive bytes into a vector register. -/
  | vld (d : VReg) (a : GReg) (imm : Int) (q : QType) (la : La)
  /-- R160: Stores a vector register to 512 consecutive bytes. -/
  | vst (d : VReg) (a : GReg) (imm : Int) (q : QType)
  /-- R160: Strided vector load. -/
  | vlds (d : VReg) (a b : GReg) (q : QType) (la : La)
  /-- R160: Strided vector store. -/
  | vsts (d : VReg) (a b : GReg) (q : QType)
  /-- R160: Indexed vector load. -/
  | vldx (d : VReg) (a : GReg) (b : VReg) (q : QType) (la : La)
  /-- R160: Indexed vector store. -/
  | vstx (d : VReg) (a : GReg) (b : VReg) (q : QType)
  /-- R163: Lane-wise add. -/
  | vadd (d a b : VReg) (q : QType)
  /-- R163: Lane-wise subtract. -/
  | vsub (d a b : VReg) (q : QType)
  /-- R163: Lane-wise multiply. -/
  | vmul (d a b : VReg) (q : QType)
  /-- R163: Lane-wise fused multiply-add into v[d]. -/
  | vfma (d a b : VReg) (q : QType)
  /-- R163: Lane-wise minimum. -/
  | vmin (d a b : VReg) (q : QType)
  /-- R163: Lane-wise maximum. -/
  | vmax (d a b : VReg) (q : QType)
  /-- R163: Bitwise and of vector registers. -/
  | vand (d a b : VReg) (q : QType)
  /-- R163: Bitwise or of vector registers. -/
  | vor (d a b : VReg) (q : QType)
  /-- R163: Bitwise exclusive or of vector registers. -/
  | vxor (d a b : VReg) (q : QType)
  /-- R163: Lane-wise left shift of integer lanes. -/
  | vshl (d a b : VReg) (q : QType)
  /-- R163: Lane-wise arithmetic right shift of integer lanes. -/
  | vshr (d a b : VReg) (q : QType)
  /-- R164: Writes an all-ones mask lane where the lanes are equal. -/
  | vcmpeq (d a b : VReg) (q : QType)
  /-- R164: Writes an all-ones mask lane where a is less than b. -/
  | vcmplt (d a b : VReg) (q : QType)
  /-- R165: Selects lanes by the mask held in v[d]. -/
  | vsel (d a b : VReg) (q : QType)
  /-- R166: Converts lanes from the source type to type q. -/
  | vcvt (d a : VReg) (code : Fin 8) (q : QType)
  /-- R167: Packs a register group into a q4 pair under a mode. -/
  | vpack4 (d a : VReg) (code : Fin 8) (q : QType) (la : La)
  /-- R168: Unpacks a q4 pair into a register group of type q. -/
  | vunpk4 (d a : VReg) (q : QType)
  /-- R169: Tree sum of the lanes into g[d]. -/
  | vredsum (d : GReg) (a : VReg) (q : QType)
  /-- R169: Tree maximum of the lanes into g[d]. -/
  | vredmax (d : GReg) (a : VReg) (q : QType)
  /-- R169: Tree minimum of the lanes into g[d]. -/
  | vredmin (d : GReg) (a : VReg) (q : QType)
  /-- R170: Broadcasts g[a] into every lane. -/
  | vbcast (d : VReg) (a : GReg) (q : QType)
  /-- R170: Extracts one lane into g[d]. -/
  | vext (d : GReg) (a : VReg) (imm : Nat) (q : QType)
  /-- R170: Inserts g[a] into one lane. -/
  | vins (d : VReg) (a : GReg) (imm : Nat) (q : QType)
  /-- R170: Permutes lanes by index lanes. -/
  | vperm (d a b : VReg) (q : QType)
  /-- R171: Correctly rounded reciprocal of each lane. -/
  | vrcp (d a : VReg) (q : QType)
  /-- R171: Correctly rounded reciprocal square root of each lane. -/
  | vrsq (d a : VReg) (q : QType)
  /-- R171: Correctly rounded power of two of each lane. -/
  | vexp (d a : VReg) (q : QType)
  /-- R163: Scales each lane by 2 to the power g[b]. -/
  | vscal (d a : VReg) (b : GReg) (q : QType)
  /-- R170: Copies a vector register, and the scales for q4. -/
  | vmov (d a : VReg) (q : QType)
  /-- R165: Counts the non-zero lanes of a mask. -/
  | vmcnt (d : GReg) (a : VReg) (q : QType)
  /-- R170: Writes lane numbers into the lanes. -/
  | viota (d : VReg) (q : QType)
  /-- R190: Obtains the ridge's matrix array lease, waiting for the grant. -/
  | mlease (d : GReg)
  /-- R191: Loads the core's matrix format context and clears ovf. -/
  | mfmt (a : GReg) (q : QType)
  /-- R192: Accepts a command that loads B-store slices from consecutive rows. -/
  | mbld (d a b : GReg) (q : QType)
  /-- R192: Accepts a command that loads B-store slices from listed rows. -/
  | mbldg (d a b : GReg) (q : QType)
  /-- R193: Accepts a multiply of consecutive A rows into a tile window. -/
  | mmul (d a b : GReg) (q : QType)
  /-- R193: Accepts a multiply of listed A rows into a tile window. -/
  | mgath (d a b : GReg) (q : QType)
  /-- R194: Accepts a command that zeroes one tile. -/
  | mzero (d : GReg) (imm : Nat)
  /-- R195: Accepts a dense or sampled drain of a tile to memory or MRES. -/
  | mdrain (d a b : GReg)
  /-- R196: Accepts an index-engine walk that bins coordinates into tiles. -/
  | mwalk (d a b : GReg)
  /-- R197: Stalls until a matrix job is complete. -/
  | mwait (a : GReg)
  /-- R197: Reads the status of a matrix job. -/
  | mpoll (d a : GReg)
  /-- R243: Loads the copy shadow registers from a descriptor. -/
  | cpput (a : GReg)
  /-- R244: Launches a copy from the shadow registers and returns its transfer id. -/
  | cplaunch (d : GReg)
  /-- R245: Launches a copy of rows named by index lanes. -/
  | cpgath (d a : GReg) (b : VReg)
  /-- R245: Launches a copy to rows named by index lanes. -/
  | cpscat (d a : GReg) (b : VReg)
  /-- R246: Stalls until a transfer is complete, then acquires. -/
  | cpwait (a : GReg)
  /-- R244: A kget of CP_LAUNCH launches a copy exactly as cplaunch. -/
  | cpLaunchRead (d : GReg)
  /-- R247: Gathers up to 128 elements through the slices into a vector. -/
  | sgath (d : VReg) (a : GReg) (b : VReg) (q : QType) (la : La)
  /-- R248: Atomic add at the home slice, returning the old value. -/
  | aadd (d a b : GReg) (q : QType) (la : La)
  /-- R248: Atomic and at the home slice. -/
  | aand (d a b : GReg) (q : QType) (la : La)
  /-- R248: Atomic or at the home slice. -/
  | aor (d a b : GReg) (q : QType) (la : La)
  /-- R248: Atomic signed minimum at the home slice. -/
  | amin (d a b : GReg) (q : QType) (la : La)
  /-- R248: Atomic signed maximum at the home slice. -/
  | amax (d a b : GReg) (q : QType) (la : La)
  /-- R248: Atomic exchange at the home slice. -/
  | axchg (d a b : GReg) (q : QType) (la : La)
  /-- R249: Atomic compare-and-swap with a register pair. -/
  | acas (d a : GReg) (q : QType) (la : La)
  /-- R248: Atomic f32 add at the home slice. -/
  | afadd (d a b : GReg) (q : QType) (la : La)
  /-- R251: Sends the assembled words as one message to a core's inbox. -/
  | msend (a b : GReg)
  /-- R252: Writes one entry of the team's handler table. -/
  | hset (a : GReg) (imm : Nat)
  /-- R253: Reads a task packet and pushes it at the deque head. -/
  | spawn (a : GReg)
  /-- R254: Arms a codelet or join record at its owning core. -/
  | cdarm (a b : GReg)
  /-- R254: Decrements a codelet or join count, readying the codelet at zero. -/
  | cddec (a b : GReg)
  /-- R255: Stalls until a join's remain is zero and returns its status. -/
  | jwait (d a : GReg)
  /-- R218: Orders all earlier accesses before later ones at a scope. -/
  | fence (q : QType)
  /-- R218: Orders earlier loads and atomics before later accesses. -/
  | fencea (q : QType)
  /-- R218: Orders earlier accesses before later stores and commands. -/
  | fencer (q : QType)
  /-- R257: Waits until every earlier packet of one stream is acknowledged. -/
  | sfence (sid : Fin 64)
  /-- R260: Arrives at a barrier and continues. -/
  | barr (imm : Nat)
  /-- R260: Arrives at a barrier and waits for the phase. -/
  | barw (imm : Nat)
  /-- R260: Waits for the phase of the member's latest arrival. -/
  | barx (imm : Nat)
  /-- R258: Waits until a word reaches a value, then acquires. -/
  | waitge (a b : GReg)
  /-- R265: Team barrier that re-carves cache, trail and scratch. -/
  | carve (a : GReg)
  /-- R266: Requests, extends or ends a sprint lease on the ridge. -/
  | sprint (d a : GReg)
  /-- R267: Reads the sprint status word. -/
  | sprintq (d : GReg)
  /-- R264: Services 4 to 1,023 return the refusal status. -/
  | scallRefused (imm : Nat)
  /-- R296: Stores one word in a stream to a remote or aperture address. -/
  | rst (d a : GReg) (imm : Int) (sid : Fin 64) (cls : Fin 4)
  /-- R296: Stores a vector register in a stream. -/
  | rstv (d : VReg) (a : GReg) (imm : Int) (sid : Fin 64) (cls : Fin 4)
  /-- R296: Stores a memory block in a stream. -/
  | rstm (a b : GReg) (sid : Fin 64) (cls : Fin 4)
  /-- R297: Remote atomic add in stream order. -/
  | raadd (d a b : GReg) (la : La) (sid : Fin 64) (cls : Fin 4)
  /-- R297: Remote atomic f32 add. -/
  | rafadd (d a b : GReg) (la : La) (sid : Fin 64) (cls : Fin 4)
  /-- R297: Remote atomic compare-and-swap. -/
  | racas (d a : GReg) (la : La) (sid : Fin 64) (cls : Fin 4)
  /-- R297: Remote atomic exchange. -/
  | raxchg (d a b : GReg) (la : La) (sid : Fin 64) (cls : Fin 4)
  /-- R299: Allocates a request tag and sends a request record. -/
  | rreq (d a b : GReg)
  /-- R300: Appends an entry to the routing engine's send list. -/
  | rsl (a b : GReg)
  /-- R301: Sets the stream's counter at the destination. -/
  | rsetc (a b : GReg) (sid : Fin 64) (cls : Fin 4)
  /-- R301: Sends a close marker that adds 2^48 to the stream counter. -/
  | rclose (a b : GReg) (sid : Fin 64) (cls : Fin 4)
  /-- R307: Pushes a choice point record and snapshot. -/
  | tryChoice (a b : GReg)
  /-- R307: Pushes a stealable choice point record. -/
  | trySteal (a b : GReg)
  /-- R309: Discards choice points down to a mark. -/
  | cut (a : GReg)
  /-- R311: Writes k.TRAILTOP to g[d]. -/
  | mark (d : GReg)
  /-- R314: Queues an ordered task with a 96-bit timestamp. -/
  | otask (d a : GReg)
  /-- R324: Reads the horizon that the core holds into a pair. -/
  | ohoriz (d : GReg)
  /-- R347: Defines a contour slot from a descriptor. -/
  | cvdef (a b : GReg)
  /-- R348: Installs a new slope and reschedules the slot. -/
  | cvslope (a b : GReg)
  /-- R348: Installs a new quantum. -/
  | cvquant (a b : GReg)
  /-- R349: Installs a slot's fanout list. -/
  | cvfan (a b : GReg)
  /-- R350: Makes a stopped or parked slot run and schedules it. -/
  | cvrun (a : GReg)
  /-- R350: Stops a slot. -/
  | cvstop (a : GReg)
  /-- R351: Reads one field of a slot. -/
  | cvread (d a : GReg)
  /-- R352: Sets a slot's avalanche guard. -/
  | cvguard (a b : GReg)
  /-- R353: Arms a survey at time T and waits until it fires. -/
  | cvsurvey (a b : GReg)
  /-- R268: Forms a rope with this context as leader. -/
  | rlead (d a : GReg)
  /-- R269: Joins a rope as a follower at a position. -/
  | rfollow (a b : GReg)
  /-- R270: Registers a residency handle for a tensor. -/
  | thset (d a b : GReg)
  /-- R271: Changes a handle's residency priority. -/
  | thprio (a b : GReg)
  /-- R271: Writes back and invalidates a tensor's lines and frees the handle. -/
  | thevict (a : GReg)
  /-- R271: Sets all of a tensor's lines to priority 0. -/
  | thdemote (a : GReg)
  /-- R272: Returns a feature value by number. -/
  | xprobe (d a : GReg)
  /-- R387: Reads a control register, of a staged context when redirected. -/
  | skget (d : GReg) (imm : Nat)
  /-- R387: Writes a control register, of a staged context when redirected. -/
  | skput (d : GReg) (imm : Nat)
  /-- R389: Accepts a copy of a context record or bank image into a shadow slot. -/
  | stage (a b : GReg)
  /-- R389: Accepts a copy of a shadow slot out to memory. -/
  | spill (a b : GReg)
  /-- R392: Retires translations across the partition and advances the generation. -/
  | tlbinv (a b : GReg)
  /-- R393: Ends every live pin of a named context. -/
  | pinrel (a : GReg)
  /-- R394: Stops or releases a partition through the halt tree. -/
  | gstop (a : GReg)
  /-- R395: Ends a parked system fault by the action in its record. -/
  | gresume (a : GReg)
  /-- R396: Re-binds a frozen context to its registry record. -/
  | adopt (d a : GReg)
  /-- R405: Context 0 of each member starts at the entry after its ridge's phase delay. -/
  | teamStart (team : Nat)
  /-- R407: A resident team's quantum expires and the dispenser issues yield requests. -/
  | quantumExpire (team : Nat)
  /-- R446: A write to k.YREQ places a yield request with a deadline. -/
  | yieldRequest (deadline : Word)
  /-- R34: The spill engine swaps a whole team out and the next waiting team in. -/
  | teamSwap (team : Nat)
  /-- R42: A message leaves an outbox and enters a destination inbox with room. -/
  | messageArrive (bank : Option Nat)
  /-- R317: A halt-tree wave reduces the domain horizon and contour message sums. -/
  | horizonReduction (team : Nat)
  /-- R242: A copy completes, writing k.XFER and pushing a DONE word if asked. -/
  | copyComplete (n : Nat)
  /-- R259: A barrier phase completes when arrivals and departures reach the members. -/
  | barrierPhaseComplete (team id : Nat)
  /-- R264: An armed timer fires with an S7 event or a context 0 wake-up. -/
  | timerFire (n : Nat)
  /-- R159: A pending long-latency result completes into its destination wherever the bank stands. -/
  | longLatencyComplete (n : Nat)
  /-- R278: A destination commits a stream packet in sequence order and adds to the counter. -/
  | streamCommit (packet : Nat)
  /-- R279: An acknowledgement reaches the source and decrements k.UNACK. -/
  | streamAck (packet : Nat)
  /-- R297: A remote atomic's old value returns into g[d]. -/
  | remoteAtomicResult (packet : Nat)
  /-- R284: A packet fails after its retries, raising trap(3, 9) and breaking the stream. -/
  | fabricFailure (packet : Nat)
  /-- R285: A request record enters a core's S6 queue. -/
  | requestArrive (n : Nat)
  /-- R286: A request tag is freed when the request timeout expires. -/
  | requestTimeout (tag : Nat)
  /-- R293: A received UALink read or atomic request is answered as unsupported. -/
  | ualinkReadRequest (gid : Nat)
  /-- R460: A failed station link is skipped from the next packet on. -/
  | stationLinkDown (station : Nat)
  /-- R452: Every 1 ms the icefield account and k.MELT are updated from package power. -/
  | icefieldUpdate (milliwatts : Nat)
  /-- R449: Every 1 ms the bias controller adjusts the trim from the ECC event count. -/
  | biasWindow (events : Nat)
  /-- R451: Every 100 µs a region's temperature is compared with T_hot. -/
  | temperatureSample (rcb : Nat) (readings : List (Nat × Word))
  /-- R451: A deferred change of hot is taken when the 1 ms dwell ends, if still due. -/
  | hotDwellExpire (rcb : Nat)
  /-- R450: An uncorrectable error poisons data and, when margined or sprinting, returns the bias to safe. -/
  | uncorrectableError (site : ErrorSite)
  /-- R433: A write to k.HEART restarts the service watchdog. -/
  | heartWrite (value : Word)
  /-- R380: A write to k.PLOAD checks and loads a partition descriptor. -/
  | ploadWrite (n : Word)
  /-- R438: A write to k.STAGECTL sets or clears staged mode. -/
  | stagectlWrite (value : Word)
  /-- R463: A signed job arrives, is checked, placed and answered. -/
  | jobMessage (job : JobMessage)
  /-- R466: An attestation request is answered with a signed identity reply. -/
  | attestationRequest (nonce : List Byte)
  /-- R467: Power-good starts bring-up in order. -/
  | powerGood (config : BootConfig)
  /-- R96: A bundle that is not an instruction (unassigned op, misc i10 2–1,023, illegal bundle shape, or a page 10–13 or 15 opcode) raises trap(0, 0), details 1–3, or migrates or traps under R58 and R59. -/
  | unassignedOpcode (bad : BadBundle)
  /-- R284: After the partition's region timeout, a destination discards packets held above a sequence gap and counts them as stale. -/
  | streamGapTimeout (packet : Nat)
  /-- R284: The service core clears the broken mark of a (context, stream, destination), so later stores issue again. -/
  | brokenStreamClear (sid : Nat) (dest : Dest)
  /-- R460: A station link comes up and is used again for spraying packets. -/
  | stationLinkUp (station : Nat)
  /-- R461: An Ultra Ethernet port link goes down or up, changing the ports over which cross-pod packets are sprayed. -/
  | portLinkChange (port : Nat) (up : Bool)
  /-- R468: A service core is removed while the other seven run, and its ring work passes to them. -/
  | serviceCoreRemoval (n : Nat)
  /-- R144: Has no effect. -/
  | nop
  /-- R144: Raises the breakpoint system fault. -/
  | brk
  /-- R190: Ends the context's lease. -/
  | mfree
  /-- R261: Ends a handler's event, or in context 0 waits for a wake-up or event. -/
  | evwait
  /-- R262: Marks the context yielded when a yield request is pending. -/
  | yield
  /-- R263: Returns from a user trap and unmasks user traps. -/
  | uret
  /-- R33: Service 0: exits the member, or is refused in a handler context. -/
  | scallExit
  /-- R264: Service 1: arms a one-shot timer and returns its id. -/
  | scallTimerArm
  /-- R264: Service 2: cancels an armed timer. -/
  | scallTimerCancel
  /-- R47: Service 3: closes the core's deque to spawn. -/
  | scallDestroyDeque
  /-- R287: Opens a fabric region with a trail mark and register snapshot. -/
  | rbegin
  /-- R298: Waits for every packet of the region and closes it. -/
  | rcommit
  /-- R292: Flushes the context's send-list entries as stream stores. -/
  | rslgo
  /-- R308: Unwinds the trail to the newest live choice point and enters its next alternative. -/
  | fail
  /-- R318: Ends an ordered task's body and waits to commit. -/
  | oend
  /-- R320: Ends an ordered task without effect. -/
  | oabort
  /-- R269: Detaches a follower, or ends the rope in the leader. -/
  | rdetach
  /-- R54: Waits for the leader at a rejoin point and re-attaches. -/
  | rrejoin
  /-- R388: Returns to user mode at k.SEPC. -/
  | tret
  /-- R391: Exchanges the active and shadow banks of the core. -/
  | swapgo
  /-- R398: The dispenser takes the next launch record from its ring once tail is ahead of head. -/
  | launchRecordTake
  /-- R401: The dispenser fills slots, chooses queues by weighted credit and admits heads. -/
  | dispenserDecision
  /-- R447: At the deadline every context neither yielded nor dormant is taken. -/
  | yieldDeadline
  /-- R38: The percolator starts the oldest event of the next source on the lowest dormant handler context. -/
  | handlerStart
  /-- R252: A member applies a handler table write between events. -/
  | handlerTableApply
  /-- R46: An idle core sends a steal request to a pseudo-randomly drawn victim after its backoff. -/
  | stealRequest
  /-- R310: The victim's queue engine answers with its tail entry, a choice-point alternative or an empty reply. -/
  | stealAnswer
  /-- R46: The thief places a stolen entry in its steal buffer or counts a failed steal. -/
  | stealReplyReceive
  /-- R49: A held zero-reaching decrement pushes its record once the ready ring has room. -/
  | readyRingPush
  /-- R318: An ended ordered task commits once it is the earliest unfinished task. -/
  | otaskCommit
  /-- R319: A conflicting ordered task is unwound, cleared and re-queued. -/
  | taskAbort
  /-- R332: The contour unit crosses a slot to its level, reschedules it and queues fanout tasks. -/
  | contourCrossing
  /-- R341: An armed survey writes every defined slot's value at T and disarms. -/
  | surveyFire
  /-- R410: The array arbiter grants the lease to the next core by weighted choice. -/
  | leaseGrant
  /-- R56: A lease ends 50 µs after its grant. -/
  | leaseTimeout
  /-- R179: An array command completes and its status becomes done. -/
  | matrixJobComplete
  /-- R196: An mwalk completes with its tile records written. -/
  | indexWalkComplete
  /-- R180: A completion or barrier word is pushed into DONE when it has a free place. -/
  | doneWordPush
  /-- R242: The copy completion user trap is taken between bundles. -/
  | copyInterrupt
  /-- R419: A walker completes a translation miss or raises a translation fault. -/
  | translationWalk
  /-- R136: A pin ends when its window count reaches zero. -/
  | pinExpire
  /-- R58: The spill engine moves a context to the nearest core that lists the extension. -/
  | contextMigrate
  /-- R288: The partition's region timeout passes without rcommit completing. -/
  | regionTimeout
  /-- R288: A region failure unwinds, restores registers and sequences, and writes k.RFAIL. -/
  | regionFailure
  /-- R440: At k.SWAPT the core flips banks as swapgo does. -/
  | swapTimeDue
  /-- R442: The ridge saves its tiles and B store to RSOUT and loads them from RSIN. -/
  | ridgeFlip
  /-- R389: A background stage finishes and the slot becomes valid. -/
  | stageComplete
  /-- R389: A background spill finishes writing the record or image. -/
  | spillComplete
  /-- R454: k.LEASE reaches zero and the ridge returns to base clock with trap(6, 16). -/
  | sprintLeaseExpire
  /-- R426: A system fault parks its context and writes its registry record. -/
  | systemFault
  /-- R428: A fault record is posted to the fault ring once it has room. -/
  | faultRecordPost
  /-- R433: The heartbeat period passes without a beat and the service is declared crashed. -/
  | watchdogExpire
  /-- R462: A package that loses pod-time lock posts trap(7, 11). -/
  | timeLockLost
  /-- R204: The home slice performs a translated store or atomic after invalidating every copy and closing pending fills, bumps its write generation and acknowledges the store. -/
  | storeAcknowledgement
  /-- R453: Each ms a leased ridge charges 10 mJ to uenergy of the extender's region and its ancestors, setting spent when a budget is reached. -/
  | sprintEnergyCharge
  /-- R450: The 1 s hold after an uncorrectable error ends, and margining resumes from trim 0. -/
  | biasHoldExpire
  /-- R462: A package that lost pod-time lock regains it and again takes armed swaps. -/
  | timeLockRegained
  /-- R435: The service cores restart warm after a crash or for a new Brukezin image, and then read the fault ring and adopt frozen contexts. -/
  | serviceWarmRestart
  /-- R469: A ridge starts draining for retirement, so no new placement reaches it. -/
  | ridgeDrain
  deriving DecidableEq, Repr

end Sys2Proof
end

