-- ==== Sys2Proof/Machine/State.lean ====
section
/-! DEFINITION. The state of one SK3 package: everything the spec gives the machine, as plain data, and State.reset.
Tables are sparse; what an unlisted entry is, is the reset value of that entry. -/

namespace Sys2Proof.Machine

/-! ### Contexts -/

/-- What a context is doing (R31, R32, R33, R261, R426). -/
inductive Run where
  | dormant | running | waiting | parked | exited
  deriving DecidableEq, Repr

/-- What a stalled context waits for: a read of g56, which an arriving message may serve (R16), the array's lease
(R410), its speculative task's turn as the earliest (R306, R321, R337), or anything else. -/
inductive Wait where
  | none | message | lease | earliest | other
  deriving DecidableEq, Repr

/-- A cause on its way to being taken: its class and detail (R422), the words that a fault record or k.UINFO receives
(R425, R427), and whether the bundle had no effect. -/
structure Trap where
  cls : Nat
  detail : Nat
  addr : Word := 0
  word : Word := 0
  info : Word := 0
  precise : Bool := true
  deriving DecidableEq, Repr

/-- A live pin (R136): its page, the leaf entry it keeps and its level, its kind and its window count. -/
structure Pin where
  page : Nat
  size : Nat
  level : Nat
  pte : Word
  kind : Nat
  count : Nat
  deriving DecidableEq, Repr

/-- Where a pending long-latency result goes (R61, R159, R297): a general register or port, a vector register, the scale bytes of a
vector register (the second of a q4 pair, which keeps its upper bits, R22), or a general register that a packet will answer. -/
inductive Target where
  | g (d : GReg)
  | v (d : VReg)
  | scales (d : VReg)
  | remote (d : GReg) (packet : Nat)
  deriving DecidableEq, Repr

/-- Where the state of a bank stands: in a bank of a core, or in an image at an address (R385). -/
inductive Home where
  | bank (b : Nat)
  | image (a : Nat)
  deriving DecidableEq, Repr

/-- A place of a port's queue: a word, or reserved for the result that holds its number (R17). -/
inductive PortPlace where
  | word (w : Word)
  | held (n : Nat)
  deriving DecidableEq, Repr

/-- The place that a pending result has reserved (R17): in its context's assembly buffer, or in a link queue of a bank state. -/
inductive Reserved where
  | buffer (n : Nat)
  | link (h : Home) (n : Nat)
  deriving DecidableEq, Repr

/-- A pending long-latency result with the bundles left in its window (R61), and the port place that it has reserved (R17). A remote
atomic's value is not known before its result returns. -/
structure Pending where
  target : Target
  gval : Word
  vval : VWord
  left : Nat
  pc : Word
  place : Option Reserved
  deriving DecidableEq, Repr

/-- An ordered task as a packet with its timestamp (R313): its domain, the 96-bit H, the rank that orders equal H (R334),
its parent (R314), and the EVT words of a crossing task (R335). -/
structure Task where
  id : Nat
  team : Nat
  h : Nat
  rank : Nat
  packet : List Byte
  crossing : Bool
  time : Word
  parent : Option Nat
  deriving DecidableEq, Repr

/-- The ordered task a context runs (R316 to R320): speculative until it is the earliest, whether its body has ended,
whether an abort has struck it, and whether the abort discards it with its parent (R314). -/
structure TaskRun where
  task : Task
  speculative : Bool
  ended : Bool
  aborted : Bool
  discarded : Bool
  deriving DecidableEq, Repr

/-- The event a handler context serves: its source, the successor handles to decrement at its end (R45), and the tag
of the request record that started it (R286). -/
structure Event where
  src : Nat
  succ : List Word
  tag : Option (Nat × Nat)
  deriving DecidableEq, Repr

/-- Stream sender state of one (stream, destination) of a context (R282, R284). -/
structure Sender where
  sid : Nat
  dest : Dest
  next : Nat
  broken : Bool
  deriving DecidableEq, Repr

/-- What a region has recorded of one (stream, destination): its number at rbegin and what it issued since (R287, R290). -/
structure RegionUse where
  sid : Nat
  dest : Dest
  start : Nat
  issued : Nat
  atomics : Nat
  deriving DecidableEq, Repr

/-- An open fabric region (R287 to R290): its record in the trail, the bundle after rbegin, what it used, the failures
taken, the first failure of the attempt under way, and when its timeout started. -/
structure Region where
  record : Nat
  resume : Word
  uses : List RegionUse
  tries : Nat
  failed : Option Word
  started : Nat
  deriving DecidableEq, Repr

/-- A context's place in a rope (R52 to R55): the rope's die and id, its position (0 leads), whether it is attached, whether it has
executed a forwarded bundle, and whether it waits at an rrejoin. -/
structure RopePlace where
  die : Nat
  id : Nat
  pos : Nat
  attached : Bool
  joined : Bool
  waits : Bool
  deriving DecidableEq, Repr

/-- Whether the context's survey is armed or has fired (R340, R343). -/
inductive SurveyMark where
  | none | armed | fired
  deriving DecidableEq, Repr

/-- Where the context's carve stands (R265): not arrived, waiting for the other members, refused, or done. -/
inductive CarveMark where
  | none | waiting | refused | done
  deriving DecidableEq, Repr

/-- A barrier that a context waits at (R260): its id, the phase it waits for, the bundle that waits, and whether that is one of a user
trap's handler (1) or not (0); 2 while uret returns from the handler to it. -/
structure BarrierWait where
  id : Nat
  phase : Nat
  pc : Word
  level : Nat
  deriving DecidableEq, Repr

/-- Everything a context holds. The source is the identity that
its packets carry wherever the context stands (R278, R282); out marks a slot whose context a spill has written to its record (R389); strict says that the bundle under way stores to an SC page,
and owes and owed hold the acknowledgements and the packets that the next bundle waits for (R133). What fetch may still see of overwritten code (R80) is in four
lists of old bytes: stale, its own stores before a fence; fenced, fenced and observed ones before a jr; unseen, its own stores with the
widest scope of a fence after them, for the contexts that no fence has covered; offered, other contexts' fenced ones before an acquire. -/
structure Ctx where
  g : Vector Word 64
  v : Vector VWord 32
  pc : Word
  npc : Word
  ir : List IWord
  run : Run
  wait : Wait
  yielded : Bool
  migrating : Bool
  utvec : Word
  uepc : Word
  ucause : Word
  uinfo : Word
  handling : Bool
  cp : Vector Word 7
  xfer : Word
  rng : Word
  trailTop : Word
  choice : Word
  trailBase : Word
  trailLim : Word
  unack : Word
  rfail : Word
  strc : Vector Word 64
  status : Word
  sepc : Word
  scause : Word
  part : Nat
  yreq : Word
  rcba : Word
  incarn : Word
  msg : List Word
  asm : List PortPlace
  evt : List Word
  mres : List Word
  mresHeld : Nat
  done : List Word
  doneHeld : List Word
  pins : List Pin
  pend : List Pending
  task : Option TaskRun
  event : Option Event
  region : Option Region
  streams : List Sender
  source : Nat
  out : Bool
  intr : List Trap
  faulted : Option Trap
  cause : Option Trap
  action : Option Nat
  rope : Option RopePlace
  miss : Option Word
  barrier : List BarrierWait
  carve : CarveMark
  survey : SurveyMark
  stale : List (Nat × Byte)
  fenced : List (Nat × Byte)
  unseen : List (Nat × Byte × Nat)
  offered : List (Nat × Byte)
  strict : Bool
  owes : List (Nat × BitVec 32)
  owed : List Nat
  record : Nat
  team : Option Nat
  deriving DecidableEq, Repr

/-- The KiB of a bank in single mode with the reset cache carve (R27): its scratch is 1,216 KiB. -/
def resetScratch : Nat := 0x130000

/-- A context at reset: its trail registers stand as R302 states for its number; every other register holds zero, and
k.YREQ all ones (log 1); its stream identity is its place (log 39). -/
def Ctx.reset (id : Nat) : Ctx where
  g := Vector.replicate 64 0
  v := Vector.replicate 32 0
  pc := 0
  npc := 0
  ir := []
  run := .dormant
  wait := .none
  yielded := false
  migrating := false
  utvec := 0
  uepc := 0
  ucause := 0
  uinfo := 0
  handling := false
  cp := Vector.replicate 7 0
  xfer := 0
  rng := 0
  trailTop := BitVec.ofNat 64 (resetScratch + id % 8 * 0x2000)
  choice := 0
  trailBase := BitVec.ofNat 64 (resetScratch + id % 8 * 0x2000)
  trailLim := BitVec.ofNat 64 (resetScratch + id % 8 * 0x2000 + 0x2000)
  unack := 0
  rfail := 0
  strc := Vector.replicate 64 0
  status := 0
  sepc := 0
  scause := 0
  part := 0
  yreq := BitVec.allOnes 64
  rcba := 0
  incarn := 0
  msg := []
  asm := []
  evt := []
  mres := []
  mresHeld := 0
  done := []
  doneHeld := []
  pins := []
  pend := []
  task := none
  event := none
  region := none
  streams := []
  source := id + 1
  out := false
  intr := []
  faulted := none
  cause := none
  action := none
  rope := none
  miss := none
  barrier := []
  carve := .none
  survey := .none
  stale := []
  fenced := []
  unseen := []
  offered := []
  strict := false
  owes := []
  owed := []
  record := 0
  team := none

/-! ### Banks -/

/-- An entry of source S4 (R335, R339): a crossing task, or an avalanche event with its handler id and EVT words. -/
inductive S4Entry where
  | task (t : Task)
  | avalanche (hid : Nat) (words : List Word)
  deriving DecidableEq, Repr

/-- An entry of S5 or S7: a handler id with EVT words, its cause, or a wake-up of context 0 (R264, R301, R446). -/
structure PlainEvent where
  hid : Option Nat
  cause : Nat
  words : List Word
  deriving DecidableEq, Repr

/-- What a thief holds (R46, R310): a task packet, or an alternative with its snapshot, table word, owner and index. -/
inductive Stolen where
  | packet (p : List Byte)
  | alternative (snapshot : List Word) (code owner index : Word)
  deriving DecidableEq, Repr

/-- The state of a contour slot (R326). -/
inductive SlotState where
  | undefined | stopped | running | parked
  deriving DecidableEq, Repr

/-- A contour slot: the fields of its state and control records (R327, R328), and the tasks that have marked it (R337). -/
structure Slot where
  state : SlotState
  q : BitVec 32
  x : BitVec 32
  slope : BitVec 32
  delta : BitVec 32
  t : Word
  tn : Word
  fcount : Nat
  fanout : Nat
  limit : Nat
  gcount : Nat
  ghid : Nat
  window : Nat
  wstart : Word
  marks : List Nat
  deriving DecidableEq, Repr

/-- An undefined slot. -/
def Slot.none : Slot where
  state := .undefined
  q := 0
  x := 0
  slope := 0
  delta := 0
  t := 0
  tn := BitVec.allOnes 64
  fcount := 0
  fanout := 0
  limit := 0
  gcount := 0
  ghid := 0
  window := 0
  wstart := 0
  marks := []

/-- A survey (R340): its time, where its block lies, its team, the context that called it with its identity, and the k.GEN under which its
block was translated (R421). -/
structure Survey where
  time : Word
  dest : Nat
  team : Nat
  ctx : CtxId
  source : Nat
  gen : BitVec 32
  deriving DecidableEq, Repr

/-- Everything a bank holds beside its contexts and the bytes of its scratch and trail: whether a served wake-up waits for the next evwait
of context 0 (R261), the image that a spill wrote it to, until it is staged or flipped in again (else zero), and, while it is an image, how many
bytes its scratch has (R28, R130). -/
structure Bank where
  team : Option Nat
  inbox : List (List Word)
  outbox : List Message
  links : Vector (List PortPlace) 4
  deque : List (List Byte)
  spillHead : Nat
  spillCount : Nat
  closed : Bool
  ready : List Word
  readyHeld : List Word
  s3 : List Task
  s4 : List S4Entry
  s5 : List PlainEvent
  s6 : List (List Word)
  s7 : List PlainEvent
  stolen : Option Stolen
  lastSrc : Nat
  handlers : Table Word
  hsets : List (Nat × Word)
  slots : Table Slot
  exited : Bool
  wake : Bool
  image : Nat
  size : Nat
  deriving DecidableEq, Repr

/-- A bank at reset: no team, empty queues, and S7 as the last-served source (log 1). -/
def Bank.reset (_ : Nat) : Bank where
  team := none
  inbox := []
  outbox := []
  links := Vector.replicate 4 []
  deque := []
  spillHead := 0
  spillCount := 0
  closed := false
  ready := []
  readyHeld := []
  s3 := []
  s4 := []
  s5 := []
  s6 := []
  s7 := []
  stolen := none
  lastSrc := 7
  handlers := []
  hsets := []
  slots := []
  exited := false
  wake := false
  image := 0
  size := 0

/-! ### Cores -/

/-- The status of a job or transfer (R179, R197, R240). -/
structure JobStatus where
  id : Nat
  done : Bool
  fault : Bool
  ovf : Bool
  deriving DecidableEq, Repr

/-- A request tag (R286): busy or free, its epoch, its reply counter, the requester's identity and partition, whether an open region took it,
and when it was taken. -/
structure Tag where
  busy : Bool
  epoch : Nat
  rcnt : Word
  source : Nat
  part : Nat
  region : Bool
  taken : Nat
  deriving DecidableEq, Repr

/-- An armed timer (R264): its time, the team it was armed for, and its handler id or a wake-up of context 0. -/
structure Timer where
  time : Nat
  team : Nat
  hid : Option Nat
  deriving DecidableEq, Repr

/-- A translation-cache entry (R419): partition, generation, page, size, and the leaf entry it holds. -/
structure TlbEntry where
  part : Nat
  gen : Nat
  page : Nat
  size : Nat
  level : Nat
  pte : Word
  deriving DecidableEq, Repr

/-- What a steal request of a team has come to (R35, R46, R310): sent to a victim, or answered. -/
inductive Steal where
  | sent (victim : CoreId) (team : Nat)
  | answered (team : Nat) (reply : Option Stolen)
  deriving DecidableEq, Repr

/-- A background stage or spill (R389). -/
inductive SlotOp where
  | stage (slot src : Nat)
  | spill (slot dst : Nat)
  deriving DecidableEq, Repr

/-- The counters of R430 for one partition. -/
structure Counts where
  icount : Word
  sent : Word
  recv : Word
  deriving DecidableEq, Repr

/-- Everything a core holds: among it, for each team, the horizon that the last reduction gave the core and when (R317), and, beside its armed
survey, those that wait for it in order (R353). -/
structure Core where
  active : Nat
  staged : Bool
  cc : Nat
  tc : Nat
  svec : Word
  fvec : Word
  ssel : Word
  valid : BitVec 9
  busy : BitVec 9
  gens : Table (BitVec 32)
  swapt : Word
  jobNewest : BitVec 16
  jobs : List JobStatus
  xferNewest : BitVec 16
  xfers : List JobStatus
  ta : QType
  tb : QType
  ovf : Bool
  tags : Table Tag
  timers : Table (Option Timer)
  stealGen : BitVec 32
  stealFails : Nat
  stealDue : Nat
  steal : Option Steal
  counts : Table Counts
  tlb : List TlbEntry
  homeGens : Table (BitVec 32)
  horizons : Table Nat
  waves : Table Nat
  last : Nat
  ops : List SlotOp
  acks : List (Nat × BitVec 32)
  egress : List (BitVec 32)
  lastImage : Table Nat
  survey : Option Survey
  waitingSurveys : List Survey
  stopped : List Nat
  removed : Bool
  deriving DecidableEq, Repr

/-- Whether a compute core's ridge is broad (R9). -/
def broadCore (c : CoreId) : Bool := decide (24 ≤ c / 8 % 32) && decide (c < 1024)

/-- A core at reset: single mode with the 640 KiB cache carve and the 64 KiB trail (R27), both newest ids 0xFFFF (R179, R240), the format context of R176, no armed swap, and
every other register zero (log 1). -/
def Core.reset (c : Nat) : Core where
  active := 0
  staged := false
  cc := 0
  tc := 3
  svec := 0
  fvec := 0
  ssel := 0
  valid := 0
  busy := 0
  gens := []
  swapt := BitVec.allOnes 64
  jobNewest := 0xFFFF
  jobs := []
  xferNewest := 0xFFFF
  xfers := []
  ta := if broadCore c then 1 else 7
  tb := if broadCore c then 1 else 7
  ovf := false
  tags := []
  timers := []
  stealGen := 0
  stealFails := 0
  stealDue := 0
  steal := none
  counts := []
  tlb := []
  homeGens := []
  horizons := []
  waves := []
  last := 7
  ops := []
  acks := []
  egress := []
  lastImage := []
  survey := none
  waitingSurveys := []
  stopped := []
  removed := false

/-! ### Ridges -/

/-- The lease of a ridge's array (R56): its holder, commands left, and the time of the grant. -/
structure Lease where
  ctx : CtxId
  left : Nat
  since : Nat
  deriving DecidableEq, Repr

/-- What an accepted array or index-engine command does (R192 to R196), with its operands as captured at acceptance:
the locations of its rows and lists are translated then (R178). -/
inductive Cmd where
  | load (rows : List (List Nat)) (scales : List (List Nat)) (t : QType) (col0 k0 : Nat)
  | multiply (rows : List (List Nat)) (scales : List (List Nat)) (ta tb : QType) (tile row0 col0 n k k0 : Nat) (fresh clear : Bool)
  | zero (tile : Nat)
  | drain (tile : Nat) (elems : List (Nat × Nat)) (dests : List Nat) (s32 : Bool) (dt : QType) (sr : Bool) (port clear : Bool) (rng : Word)
  | walk (coords : List Nat) (bad : Bool) (dests : List Nat)
  deriving DecidableEq, Repr

/-- An accepted command (R178): the context, with its identity, and the job it belongs to, whether it notifies, what it does, and the
lines it has claimed. -/
structure Job where
  ctx : CtxId
  source : Nat
  id : Nat
  notify : Bool
  cmd : Cmd
  claims : List Nat
  deriving DecidableEq, Repr

/-- An accepted copy (R241): the source and destination locations of its rows in translated memory byte by byte, all its
source and all its destination locations, and its claims, with the identity of its context. Rows that go to the aperture are packets. -/
structure Copy where
  ctx : CtxId
  source : Nat
  id : Nat
  moves : List (Nat × Nat)
  sources : List Nat
  dests : List Nat
  notify : Bool
  intr : Bool
  claims : List Nat
  deriving DecidableEq, Repr

/-- Everything a ridge number holds (which physical ridge of the die bears it, R10), beside its tiles and B store, which are bytes of the memory; a sprint lease's taker is an identity (R266). -/
structure Ridge where
  lease : Option Lease
  credit : Table Int
  contenders : List Nat
  lastGrant : Nat
  jobs : List Job
  walks : List Job
  copies : List Copy
  leaseLeft : Nat
  taker : Option Nat
  extender : Option CtxId
  rsout : Word
  rsin : Word
  trim : Nat
  hold : Option Nat
  temp : Word
  flips : List CoreId
  draining : Bool
  retired : Bool
  physical : Nat
  deriving DecidableEq, Repr

/-- A ridge at reset: idle, its bias at the safe point (R456), its number borne by the physical ridge of that number (log 62). -/
def Ridge.reset (r : Nat) : Ridge where
  lease := none
  credit := []
  contenders := []
  lastGrant := 7
  jobs := []
  walks := []
  copies := []
  leaseLeft := 0
  taker := none
  extender := none
  rsout := 0
  rsin := 0
  trim := 0
  hold := none
  temp := 0
  flips := []
  draining := false
  retired := false
  physical := r % 32

/-! ### Dies -/

/-- A launch record that the dispenser has taken (R399), with its descriptor's words as they stood then, the same for every team. -/
structure Grid where
  id : Nat
  part : Nat
  desc : Word
  rcb : Nat
  nteams : Nat
  dies : Nat
  team0 : Nat
  status : Nat
  cores : Nat
  ext : Nat
  prio : Nat
  slots : Nat
  next : Nat
  ended : Nat
  faulted : Nat
  chargedCores : Nat
  chargedRidges : Nat
  words : List Word
  deriving DecidableEq, Repr

/-- A send-list entry of the routing engine, with the identity of its context (R291, R292). -/
structure SendEntry where
  podId : Nat
  source : Nat
  src : Word
  dst : Word
  tag : Nat
  len : Nat
  sid : Nat
  cls : Nat
  deriving DecidableEq, Repr

/-- A bundle as a leader forwards it: its address and its words (R78). -/
structure Bundle where
  addr : Word
  words : List IWord
  deriving DecidableEq, Repr

/-- A rope (R52 to R54, R268): its leader's core at rlead, its member mask, the cores of which the leader or a follower has joined it, its
members (the leader too) with their positions, each position's forwarded bundles, and the address that follows the leader's latest one. -/
structure Rope where
  id : Nat
  core : CoreId
  mask : Nat
  joined : List CoreId
  members : List (CtxId × Nat)
  buffers : Table (List Bundle)
  next : Word
  deriving DecidableEq, Repr

/-- Everything a die holds: its dispenser's queues and grids, its send lists, its ropes, and its spare physical ridges (R9). -/
structure Die where
  queue : List Grid
  grids : List Grid
  credit : Table Int
  contenders : List Nat
  lastQueue : Nat
  sends : List SendEntry
  ropes : List Rope
  ropeNext : Nat
  spares : List Nat
  deriving DecidableEq, Repr

/-- A die at reset. -/
def Die.reset (_ : Nat) : Die where
  queue := []
  grids := []
  credit := []
  contenders := []
  lastQueue := 0
  sends := []
  ropes := []
  ropeNext := 1
  spares := [32, 33]

/-! ### Teams and partitions -/

/-- One barrier of a team (R259): its phase, the members that have arrived in it, and how many departed during it. -/
structure Barrier where
  phase : Nat
  here : List CoreId
  departed : Nat
  deriving DecidableEq, Repr

/-- Where a team stands in its grid (R34, R407). -/
inductive TeamState where
  | none | resident | leaving | out | ended
  deriving DecidableEq, Repr

/-- A team (R7, R363): its members in placement order, what its descriptor gives, its members that departed, whether any was killed or
faulted (R399), its barriers and handler table, its commit order, whether its quantum's expiry is deferred (R406), and the cores that
it has left, with the member that each held (R66). -/
structure Team where
  state : TeamState
  part : Nat
  id : Nat
  die : Nat
  grid : Nat
  index : Nat
  desc : Word
  entry : Word
  members : List CoreId
  started : List CoreId
  departed : List CoreId
  killed : Bool
  ext : Nat
  carve : Nat
  spill : Nat
  spillSize : Nat
  utvec : Word
  rng : Word
  selfbase : Nat
  args : List Word
  streams : Table Word
  rcb : Nat
  incarn : Nat
  handlers : Table Word
  barriers : Table Barrier
  carves : List (CoreId × Word)
  newest : Nat
  oaborted : List Task
  quantum : Nat
  deferred : Bool
  startAt : Nat
  past : List (CoreId × Nat)
  sentMsgs : Nat
  recvMsgs : Nat
  handles : List Nat
  saved : List (CoreId × Nat)
  deriving DecidableEq, Repr

/-- A team slot that no team has taken. -/
def Team.none (_ : Nat) : Team where
  state := .none
  part := 0
  id := 0
  die := 0
  grid := 0
  index := 0
  desc := 0
  entry := 0
  members := []
  started := []
  departed := []
  killed := false
  ext := 0
  carve := 3
  spill := 0
  spillSize := 0
  utvec := 0
  rng := 0
  selfbase := 0
  args := []
  streams := []
  rcb := 0
  incarn := 0
  handlers := []
  barriers := []
  carves := []
  newest := 0
  oaborted := []
  quantum := 0
  deferred := false
  startAt := 0
  past := []
  sentMsgs := 0
  recvMsgs := 0
  handles := []
  saved := []

/-- The barrier no member has reached. -/
def Barrier.idle (_ : Nat) : Barrier := ⟨0, [], 0⟩

/-- A residency handle (R270). -/
structure Handle where
  base : Nat
  length : Nat
  prio : Nat
  team : Nat
  deriving DecidableEq, Repr

/-- A destination's record of one source (package, place and context, stream): how many numbers have committed in
order, and the replay cache of atomic results (R278, R290). -/
structure Receiver where
  package : Nat
  place : Nat
  ctx : Nat
  sid : Nat
  dest : Nat
  next : Nat
  cache : List (Nat × Word)
  deriving DecidableEq, Repr

/-- A partition with its loaded descriptor (R379), its stop (R394), and what its image holds for its teams: the stream records
by team descriptor, stream and counter offset (R364), and the contents of .scratch (R355). -/
structure Part where
  valid : Bool
  spatial : Bool
  hbase : Nat
  hsize : Nat
  ptroot : Nat
  ssaddr : Nat
  slices : List Nat
  fepoch : Nat
  ridges : Nat
  rqto : Nat
  rgto : Nat
  rootrcb : Nat
  stoparea : Nat
  stopped : Bool
  stopper : Option CtxId
  stopAt : Nat
  out : Bool
  clock : Nat
  quanta : Nat
  handles : Table (Option Handle)
  receivers : List Receiver
  streams : List (Nat × Nat × Nat)
  scratch : List Byte
  deriving DecidableEq, Repr

/-- A partition with no descriptor loaded. -/
def Part.empty (_ : Nat) : Part where
  valid := false
  spatial := false
  hbase := 0
  hsize := 0
  ptroot := 0
  ssaddr := 0
  slices := []
  fepoch := 0
  ridges := 0
  rqto := 0
  rgto := 0
  rootrcb := 0
  stoparea := 0
  stopped := false
  stopper := none
  stopAt := 0
  out := false
  clock := 0
  quanta := 0
  handles := []
  receivers := []
  streams := []
  scratch := []

/-! ### The package -/

/-- A line's ordered-task marks (R224, R316): the tasks that have read it and that have written it. -/
structure Marks where
  readers : List Nat
  writers : List Nat
  deriving DecidableEq, Repr

/-- A line that an L1 holds (R201): its address and partition in the access that brought it, and whether it is exclusive. -/
structure L1Line where
  line : Nat
  va : Nat
  part : Nat
  excl : Bool
  deriving DecidableEq, Repr

/-- A line that a slice holds (R203, R209): its address, partition and residency class in the access that brought it, and whether it is
a proxy's copy of a line homed on another die. -/
structure L2Line where
  line : Nat
  va : Nat
  part : Nat
  cls : Nat
  proxy : Bool
  deriving DecidableEq, Repr

/-- A line's directory entry at its home (R201, R203): the cores whose L1 holds it, the one that holds it exclusive, and its proxies. -/
structure Dir where
  cores : List CoreId
  owner : Option CoreId
  proxies : List Nat
  deriving DecidableEq, Repr

/-- The entry of a line that no cache holds. -/
def Dir.empty : Dir := ⟨[], none, []⟩

/-- A strong access that its home has not acknowledged (R219): the context's identity, the bytes, the acknowledgement that ends it, and the
contexts that are ordered after it by an acquire. -/
structure Strong where
  source : Nat
  loc : Nat
  size : Nat
  home : Nat
  gen : BitVec 32
  seen : List Nat
  deriving DecidableEq, Repr

/-- A fault record waiting to be posted (R427, R428): its ring number once the tail has been advanced, and its words. -/
structure FaultRecord where
  slot : Option Nat
  words : List Word
  deriving DecidableEq, Repr

/-- When a region's hot bit last changed, and whether a change waits for the dwell (R451). -/
structure Heat where
  changed : Nat
  due : Option Bool
  deriving DecidableEq, Repr

/-- A move of the agenda: a step of the hardware or the outside party at a core and context, a turn of a core, something that another
package sends in, or what the operator puts in: a Brukezin image for the next warm restart (R468), or a ridge-map record for the end of a drain
(R469; log 4). -/
inductive Move where
  | hw (i : Instr) (core : CoreId) (ctx : CtxId)
  | core (c : CoreId)
  | message (m : Message)
  | request (r : Request)
  | packet (p : Packet)
  | image (bytes : List Byte)
  | ridgeMap (r : FlashRecord)
  deriving DecidableEq, Repr

/-- What the package has sent outside: replies of the service and of the links (R293, R463, R466). -/
inductive Reply where
  | job (words : List Word)
  | attestation (bytes : List Byte)
  | unsupported (gid : Nat)
  deriving DecidableEq, Repr

/-- The state of one package; newImage and newMap are what the operator has put in and no step has used (R468, R469). -/
structure State where
  mem : Memory
  ctxs : Table Ctx
  banks : Table Bank
  cores : Table Core
  ridges : Table Ridge
  dies : Table Die
  teams : Table Team
  parts : Table Part
  saved : Table Ctx
  images : Table Bank
  packets : List Packet
  packetNext : Nat
  taskNext : Nat
  messages : List Message
  requests : List Request
  poison : List Nat
  marks : Table Marks
  homeGens : Table (BitVec 32)
  l1s : Table (List L1Line)
  l2s : Table (List L2Line)
  dirs : Table Dir
  rws : Table Nat
  strong : Table (List Strong)
  faults : List FaultRecord
  heats : Table Heat
  time : Nat
  cyc : Nat
  melt : Nat
  refreeze : Bool
  pwr : Nat
  regbase : Word
  regsize : Word
  ptab : Word
  pload : Word
  heart : Word
  heartAt : Nat
  crashed : Bool
  incarnNext : Nat
  pod : Nat
  accel : Nat
  planes : Nat
  podMap : List (Nat × List Byte)
  timeMaster : Bool
  stations : BitVec 32
  ports : BitVec 4
  nextStation : Nat
  nextPort : Nat
  timeLock : Bool
  bringUp : Nat
  attestOnly : Bool
  bootImage : List Byte
  identity : List Byte
  flash : List FlashRecord
  newImage : Option (List Byte)
  newMap : Option FlashRecord
  replies : List Reply
  agenda : List Move
  focus : CoreId
  cur : CtxId
  stalled : List CtxId
  issued : Bool
  free : Nat
  deriving DecidableEq, Repr

/-- Why a step stops with a fault. -/
inductive Fault where
  /-- Raised by an access to a location that no storage of the package backs: safe, the machine stops where the
  hardware's map ends. -/
  | noStorage
  deriving DecidableEq, Repr

/-- Why a step refuses. -/
inductive Refusal where
  /-- Raised by an arm of exec that has no meaning yet: safe. -/
  | notModelled (mnemonic : String)
  deriving DecidableEq, Repr

/-- The phase tables of the dies' dispensers at reset, entry r at 4 x r (R398), where k.REGBASE then places them. -/
def resetPhases : Memory :=
  (List.range 4).flatMap (fun d => (List.range 31).map (fun r => (0x40000042 + d * 0x200000 + 2 * r, BitVec.ofNat 8 (4 * r + 4))))

/-- The package at power-good: memory lists only the phase tables, nothing runs, and the values that the spec states for reset stand
(R456: the icefield account full and the refreeze running); every register with no stated value holds zero (log 1). -/
def State.reset : State where
  mem := resetPhases
  ctxs := []
  banks := []
  cores := []
  ridges := []
  dies := []
  teams := []
  parts := []
  saved := []
  images := []
  packets := []
  packetNext := 0
  taskNext := 0
  messages := []
  requests := []
  poison := []
  marks := []
  homeGens := []
  l1s := []
  l2s := []
  dirs := []
  rws := []
  strong := []
  faults := []
  heats := []
  time := 0
  cyc := 0
  melt := 65536 * 2 ^ 32
  refreeze := true
  pwr := 0
  regbase := 0
  regsize := 0
  ptab := 0
  pload := 0
  heart := 0
  heartAt := 0
  crashed := false
  incarnNext := 0
  pod := 0
  accel := 0
  planes := 1
  podMap := []
  timeMaster := false
  stations := 0
  ports := 0
  nextStation := 0
  nextPort := 0
  timeLock := false
  bringUp := 0
  attestOnly := false
  bootImage := []
  identity := []
  flash := []
  newImage := none
  newMap := none
  replies := []
  agenda := []
  focus := 0
  cur := 0
  stalled := []
  issued := false
  free := 0

/-! ### Accessors -/

/-- A context. -/
def State.ctx (s : State) (c : CtxId) : Ctx := s.ctxs.get Ctx.reset c
/-- The state with a context replaced. -/
def State.setCtx (s : State) (c : CtxId) (x : Ctx) : State := { s with ctxs := s.ctxs.put c x }
/-- A bank: core × 2 + physical bank. -/
def State.bank (s : State) (b : Nat) : Bank := s.banks.get Bank.reset b
/-- The state with a bank replaced. -/
def State.setBank (s : State) (b : Nat) (x : Bank) : State := { s with banks := s.banks.put b x }
/-- A core. -/
def State.core (s : State) (c : CoreId) : Core := s.cores.get Core.reset c
/-- The state with a core replaced. -/
def State.setCore (s : State) (c : CoreId) (x : Core) : State := { s with cores := s.cores.put c x }
/-- A ridge: die × 32 + ridge number. -/
def State.ridge (s : State) (r : Nat) : Ridge := s.ridges.get Ridge.reset r
/-- The state with a ridge replaced. -/
def State.setRidge (s : State) (r : Nat) (x : Ridge) : State := { s with ridges := s.ridges.put r x }
/-- A die. -/
def State.die (s : State) (d : Nat) : Die := s.dies.get Die.reset d
/-- The state with a die replaced. -/
def State.setDie (s : State) (d : Nat) (x : Die) : State := { s with dies := s.dies.put d x }
/-- A team, by partition × 2^32 + incarnation. -/
def State.team (s : State) (t : Nat) : Team := s.teams.get Team.none t
/-- The state with a team replaced. -/
def State.setTeam (s : State) (t : Nat) (x : Team) : State := { s with teams := s.teams.put t x }
/-- A partition. -/
def State.part (s : State) (p : Nat) : Part := s.parts.get Part.empty p
/-- The state with a partition replaced. -/
def State.setPart (s : State) (p : Nat) (x : Part) : State := { s with parts := s.parts.put p x }
/-- The context whose bundle or event is under way. -/
def State.me (s : State) : Ctx := s.ctx s.cur
/-- The state with the current context replaced. -/
def State.setMe (s : State) (x : Ctx) : State := s.setCtx s.cur x

end Sys2Proof.Machine
end

