-- ==== Sys2Proof/Machine/Ops.lean ====
section
/-! DEFINITION. The named operations over registers, memory, the trail and the streams that every meaning is made of, and
taking a trap (R425, R426) and returning from one. -/

namespace Sys2Proof.Machine

/-! ### Steps that can stop -/

/-- Why a bundle or step does not complete: a cause (R422), a stall before issue (R17, R18), ordered tasks that must
abort before an access performs (R224), a fault or a refusal. -/
inductive Stop where
  | trap (t : Trap)
  | wait (w : Wait)
  | abort (victims : List Nat)
  | fault (f : Fault)
  | refuse (r : Refusal)
  deriving DecidableEq, Repr

/-- A step over the state that may stop. -/
abbrev M := StateT State (Except Stop)

/-- Raises a cause. -/
def raise {α : Type} (t : Trap) : M α := throw (.trap t)
/-- trap(class, detail) with zero words (R5). -/
def trap {α : Type} (cls detail : Nat) : M α := raise { cls, detail }
/-- Stalls before issue, interruptibly (R18, R64). -/
def stall {α : Type} (w : Wait := .other) : M α := throw (.wait w)
/-- trap(class, detail) unless a condition holds. -/
def require (ok : Bool) (cls detail : Nat) : M Unit := if ok then pure () else trap cls detail
/-- Stalls unless a condition holds. -/
def await (ok : Bool) (w : Wait := .other) : M Unit := if ok then pure () else stall w
/-- The current context. -/
def getMe : M Ctx := fun s => .ok (s.me, s)
/-- Changes the current context. -/
def modifyMe (f : Ctx → Ctx) : M Unit := fun s => .ok ((), s.setMe (f s.me))
/-- The next free bit (log 4). -/
def takeBit : M Bool := fun s => .ok (Config.freeBit s.free, { s with free := s.free + 1 })
/-- The next free byte (log 4). -/
def takeByte : M Byte := fun s => .ok (Config.freeByte s.free, { s with free := s.free + 1 })

/-! ### Places -/

/-- The core of a context. -/
def coreOf (c : CtxId) : CoreId := c / 16
/-- The bank of a context: core × 2 + physical bank. -/
def bankOf (c : CtxId) : Nat := c / 8
/-- The context's number, 0 to 7 (R13). -/
def ctxNum (c : CtxId) : Nat := c % 8
/-- A context of a bank. -/
def ctxIn (b n : Nat) : CtxId := b * 8 + n
/-- The bank that is active on a core (R13). -/
def State.activeBank (s : State) (c : CoreId) : Nat := c * 2 + (s.core c).active
/-- The other bank of a core. -/
def State.shadowBank (s : State) (c : CoreId) : Nat := c * 2 + (1 - (s.core c).active)
/-- The ridge of a core: die × 32 + ridge. -/
def ridgeOf (c : CoreId) : Nat := c / 8
/-- The die of a core. -/
def dieOf (c : CoreId) : Nat := c / 256
/-- The service cores follow the compute cores. -/
def isService (c : CoreId) : Bool := decide (1024 ≤ c)
/-- The bank of the current context. -/
def State.myBank (s : State) : Bank := s.bank (bankOf s.cur)
/-- The core of the current context. -/
def State.myCore (s : State) : Core := s.core (coreOf s.cur)
/-- Changes the current core. -/
def modifyCore (f : Core → Core) : M Unit := fun s => .ok ((), s.setCore (coreOf s.cur) (f s.myCore))
/-- Changes the current bank. -/
def modifyBank (f : Bank → Bank) : M Unit := fun s => .ok ((), s.setBank (bankOf s.cur) (f s.myBank))

/-- The 21-bit global id of the package (R459). -/
def State.gid (s : State) : Nat := s.pod * 1024 + s.accel

/-- The ten-bit place of a core (R12); service cores take the places 0 to 7 (log 19). -/
def placeOf (c : CoreId) : Nat := if isService c then c - 1024 else c

/-- The place word of a core: package and place (R12, R251). -/
def State.placeWord (s : State) (c : CoreId) : Nat := s.gid * 2 ^ 16 + placeOf c

/-- A package of the job: one that the pod map names (R461, log 18). -/
def State.inJob (s : State) (gid : Nat) : Bool := s.podMap.any (fun e => e.1 == gid)

/-- k.EXT of a core (R29, R30, R374). -/
def extOf (c : CoreId) : Nat :=
  if isService c then 0x4073 else if broadCore c then 0x1E43FF else 0x143FF

/-- A context runs in supervisor mode (R373, R374). -/
def State.supervisor (s : State) (c : CtxId) : Bool := isService (coreOf c) || (s.ctx c).status.getLsbD 0

/-- The ridges of a partition below one ridge. -/
def ridgesBelow (set n : Nat) : Nat := ((List.range n).filter (fun r => set.testBit r)).length

/-- The partition-relative number of a core: its rank among the cores of the partition's ridges (log 14). -/
def State.relCore (s : State) (part : Nat) (c : CoreId) : Nat :=
  8 * ridgesBelow (s.part part).ridges (ridgeOf c) + c % 8

/-- The core with a partition-relative number. -/
def State.absCore (s : State) (part n : Nat) : Option CoreId :=
  match (List.range 128).find? (fun r =>
      (s.part part).ridges.testBit r && decide (ridgesBelow (s.part part).ridges r = n / 8)) with
  | some r => some (r * 8 + n % 8)
  | none => none

/-- Whether a core lies in a partition. -/
def State.inPart (s : State) (part : Nat) (c : CoreId) : Bool :=
  decide (c < 1024) && (s.part part).ridges.testBit (ridgeOf c)

/-- The team that a bank holds, as a key of the team table. -/
def State.bankTeam (s : State) (b : Nat) : Option Nat := (s.bank b).team

/-- The team of the current context. -/
def State.myTeam (s : State) : Nat := (s.myBank.team).getD 0

/-- A context word of R386: bank (0 active, 1 shadow), context and partition-relative core. -/
def State.contextWord (s : State) (c : CtxId) : Word :=
  let shadow := if bankOf c = s.activeBank (coreOf c) then 0 else 1
  BitVec.ofNat 64 (shadow * 2 ^ 13 + ctxNum c * 2 ^ 10 + s.relCore (s.ctx c).part (coreOf c))

/-! ### Carves and storage (R25 to R28, R198, R199) -/

/-- Bytes of the cache carve (R25). -/
def cacheBytes (cc : Nat) : Nat := (640 + 128 * cc) * 1024
/-- Bytes of a bank (R26, R27). -/
def bankBytes (cc : Nat) (staged : Bool) : Nat := (2048 * 1024 - cacheBytes cc) / (if staged then 2 else 1)
/-- Bytes of the trail (R27). -/
def trailBytes (tc : Nat) : Nat := (tc + 1) * 16384
/-- Bytes of scratch (R27). -/
def scratchBytes (cc tc : Nat) (staged : Bool) : Nat := bankBytes cc staged - 131072 - trailBytes tc
/-- The scratch size of a bank of a core: the carve is of core scope, and a core's banks are equal (R24, R26). -/
def State.scratchSize (s : State) (b : Nat) : Nat :=
  let k := s.core (b / 2)
  scratchBytes k.cc k.tc k.staged

/-- Where a bank's bytes lie in the memory: each bank has 2 MiB above the physical addresses. -/
def bankLoc (b off : Nat) : Nat := 2 ^ 47 + b * 2 ^ 21 + off
/-- Where a ridge's tiles and B store lie, in the order of a ridge-state area (R437). -/
def ridgeLoc (r off : Nat) : Nat := 2 ^ 49 + r * 2 ^ 25 + off
/-- The first location past HBM4 (R199). -/
def hbmTop : Nat := 2 ^ 39

/-- The number held by n bytes at a location, little-endian (R2). -/
def State.load (s : State) (loc n : Nat) : Nat := leNat (s.mem.bytes loc n)
/-- A 64-bit word at a location. -/
def State.word (s : State) (loc : Nat) : Word := BitVec.ofNat 64 (s.load loc 8)
/-- The state with n bytes of a number stored at a location. -/
def State.store (s : State) (loc n x : Nat) : State := { s with mem := s.mem.writes loc (leBytes n x) }
/-- The state with bytes stored one by one at listed locations. -/
def State.storeAt (s : State) (locs : List Nat) (data : List Byte) : State :=
  { s with mem := (locs.zip data).foldl (fun m p => m.write p.1 p.2) s.mem }
/-- The bytes at listed locations. -/
def State.loadAt (s : State) (locs : List Nat) : List Byte := locs.map s.mem.read
/-- The state with n bytes from one location on replaced by those from another (both ranges as they stood). -/
def State.copyRange (s : State) (src dst n : Nat) : State :=
  let moved := (s.mem.filter (fun c => decide (src ≤ c.1) && decide (c.1 < src + n))).map (fun c => (dst + (c.1 - src), c.2))
  let kept := s.mem.filter (fun c => decide (c.1 < dst) || decide (dst + n ≤ c.1))
  { s with mem := moved.foldl (fun m c => m.write c.1 c.2) kept }
/-- The state with n bytes from a location on zero. -/
def State.zeroRange (s : State) (dst n : Nat) : State :=
  { s with mem := s.mem.filter (fun c => decide (c.1 < dst) || decide (dst + n ≤ c.1)) }

/-- The 128-byte line of a location (R25). -/
def lineOf (loc : Nat) : Nat := loc / 128

/-! ### General registers and ports (R14 to R19, R61, R62) -/

/-- Whether a register is a queue port (R15). -/
def isPort (r : GReg) : Bool := decide (56 ≤ r.val)

/-- A general register of a context; g0 reads as zero (R14). -/
def Ctx.rd (x : Ctx) (r : GReg) : Word := if r = 0 then 0 else x.g[r.val]
/-- A context with a general register written; a write to g0 has no effect (R14). -/
def Ctx.wr (x : Ctx) (r : GReg) (w : Word) : Ctx := if r = 0 then x else { x with g := x.g.set r.val w }
/-- A context with a vector register written. -/
def Ctx.wrV (x : Ctx) (r : VReg) (w : VWord) : Ctx := { x with v := x.v.set r.val w }

/-- Whether a pending result will write a general register. -/
def Pending.writesG (p : Pending) (r : GReg) : Bool :=
  match p.target with
  | .g d => d == r
  | .remote d _ => d == r
  | _ => false
/-- Whether a pending result will write a vector register. -/
def Pending.writesV (p : Pending) (r : VReg) : Bool :=
  match p.target with
  | .v d | .scales d => d == r
  | _ => false

/-- The core within the ridge that a link's offset reaches (R15). -/
def linkTarget (c : CoreId) (i : Nat) : CoreId :=
  let off := match i with | 0 => 1 | 1 => 7 | 2 => 2 | _ => 4
  c / 8 * 8 + (c + off) % 8
/-- The core whose pushes a link pops (R15). -/
def linkSource (c : CoreId) (i : Nat) : CoreId :=
  let off := match i with | 0 => 7 | 1 => 1 | 2 => 6 | _ => 4
  c / 8 * 8 + (c + off) % 8
/-- A core holds a member of the current team in its active bank (R36). -/
def State.holdsMyTeam (s : State) (c : CoreId) : Bool :=
  s.myBank.team.isSome && (s.bankTeam (s.activeBank c) == s.myBank.team)

/-- Where the context with an identity stands: in the bank slot where it was last known, spilled under its registry record, or in another
slot (R443). -/
def State.seat (s : State) (c : CtxId) (source : Nat) : Option (Nat ⊕ CtxId) :=
  if (s.ctx c).source = source then some (.inr c)
  else
    match s.saved.find? (fun e => e.2.source == source) with
    | some e => some (.inl e.1)
    | none => (s.ctxs.find? (fun e => e.2.source == source)).map (fun e => .inr e.1)

/-- The context at a seat. -/
def State.atSeat (s : State) (p : Option (Nat ⊕ CtxId)) : Option Ctx :=
  match p with
  | none => none
  | some (.inr c) => some (s.ctx c)
  | some (.inl r) => some (s.saved.get Ctx.reset r)

/-- A context is in the active bank of its core. -/
def State.isActive (s : State) (c : CtxId) : Bool := bankOf c == s.activeBank (coreOf c)

/-- A stop of its partition, or a freeze, holds a context (R432, R434): all but the one that stops it, and those of service cores, which are
no cores of a partition (R394). -/
def State.halted (s : State) (c : CtxId) : Bool :=
  let x := s.ctx c
  x.status.getLsbD 4 || (!isService (coreOf c) && ((s.part x.part).stopped || (s.core (coreOf c)).stopped.contains x.part) &&
    (s.part x.part).stopper != some c)

/-- An imprecise fault that a context takes at its bundle boundary: it parks also under a stop, and before a freeze (R424, R432, R436). -/
def State.parksFirst (s : State) (c : CtxId) : Bool :=
  let x := s.ctx c
  x.faulted.isSome && !isService (coreOf c) && s.isActive c && (x.run == .running || x.run == .waiting) && !x.status.getLsbD 4

/-- The partition of the context with an identity, wherever it stands. -/
def State.partOf (s : State) (c : CtxId) (source : Nat) : Option Nat := (s.atSeat (s.seat c source)).map Ctx.part

/-- Engine work of a partition's contexts is under way; work whose context is gone may be any partition's. -/
def State.engaged (s : State) (p : Nat) : Bool :=
  let mine (c : CtxId) (source : Nat) : Bool := match s.partOf c source with | some q => q == p | none => true
  s.ridges.any (fun r => (r.2.jobs ++ r.2.walks).any (fun j => mine j.ctx j.source) || r.2.copies.any (fun k => mine k.ctx k.source))

/-- Engine work that a context has under way. -/
def State.hasWork (s : State) (c : CtxId) : Bool :=
  let mine (source : Nat) : Bool := source == (s.ctx c).source
  s.ridges.any (fun r => (r.2.jobs ++ r.2.walks).any (fun j => mine j.source) || r.2.copies.any (fun k => mine k.source))

/-- Changes the context at a seat. -/
def State.onSeat (s : State) (p : Option (Nat ⊕ CtxId)) (f : Ctx → Ctx) : State :=
  match p with
  | none => s
  | some (.inr c) => s.setCtx c (f (s.ctx c))
  | some (.inl r) => { s with saved := s.saved.put r (f (s.saved.get Ctx.reset r)) }

/-- Bytes of translated memory that are about to be overwritten may still be fetched as instructions: the storing context notes them,
wherever it stands (R80). -/
def State.noteOld (s : State) (p : Option (Nat ⊕ CtxId)) (locs : List Nat) : State :=
  let old := (locs.filter (fun l => decide (l < hbmTop))).map (fun l => (l, s.mem.read l))
  s.onSeat p (fun x => { x with stale := x.stale ++ old, unseen := x.unseen ++ old.map (fun e => (e.1, e.2, 0)) })

/-- A vector's bits of the low 256 (the scale bytes of a q4 pair, R22) replaced. -/
def withScales (old new : VWord) : VWord :=
  BitVec.ofNat 4096 (old.toNat / 2 ^ 256 * 2 ^ 256 + new.toNat % 2 ^ 256)

/-- The queues of a bank state, wherever it stands. -/
def State.homeBank (s : State) (h : Home) : Bank :=
  match h with
  | .bank b => s.bank b
  | .image a => s.images.get Bank.reset a
/-- The state with those queues replaced. -/
def State.setHomeBank (s : State) (h : Home) (x : Bank) : State :=
  match h with
  | .bank b => s.setBank b x
  | .image a => { s with images := s.images.put a x }

/-- The bank state that a push into a context's link reaches (R15): the active bank of the core it leads to. -/
def State.linkHome (s : State) (c : CtxId) (r : GReg) : Home := .bank (s.activeBank (linkTarget (coreOf c) (r.val - 60)))

/-- The words that a queue offers: those before its first place that is only reserved (R17). -/
def present : List PortPlace → List Word
  | .word w :: q => w :: present q
  | _ => []
/-- A queue without the word that it offers next. -/
def dropWord : List PortPlace → List PortPlace
  | .word _ :: q => q
  | q => q
/-- A number that no reserved place of a queue has. -/
def freshPlace (q : List PortPlace) : Nat := q.foldl (fun m p => match p with | .held n => max m (n + 1) | .word _ => m) 0
/-- A result fills its reserved place (R17). -/
def fillPlace (n : Nat) (w : Word) (q : List PortPlace) : List PortPlace := q.map (fun p => if p = .held n then .word w else p)
/-- A reserved place that no result will fill is gone. -/
def dropPlace (n : Nat) (q : List PortPlace) : List PortPlace := q.filter (· != .held n)

/-- A link queue of a bank state. -/
def Bank.link (x : Bank) (i : Nat) : List PortPlace := (x.links[i]?).getD []
/-- Changes a link queue of a bank state. -/
def Bank.onLink (x : Bank) (i : Nat) (f : List PortPlace → List PortPlace) : Bank := { x with links := x.links.set! i (f (x.link i)) }

/-- Pushes a word into a port of a context (R15): the assembly buffer of g56 or the link queue of the core it reaches.
A place was reserved at issue, so the push never waits (R17). -/
def State.pushPort (s : State) (c : CtxId) (r : GReg) (w : Word) : State :=
  if r.val = 56 then s.setCtx c { s.ctx c with asm := (s.ctx c).asm ++ [.word w] }
  else
    let h := s.linkHome c r
    s.setHomeBank h ((s.homeBank h).onLink (r.val - 60) (· ++ [.word w]))

/-- Changes the queue in which a result's place for port d is reserved, wherever it stands now (R17). -/
def State.onPlace (s : State) (c : CtxId) (d : GReg) (p : Reserved) (f : Nat → List PortPlace → List PortPlace) : State :=
  match p with
  | .buffer n => s.setCtx c { s.ctx c with asm := f n (s.ctx c).asm }
  | .link h n => s.setHomeBank h ((s.homeBank h).onLink (d.val - 60) (f n))

/-- Reserves a place at the end of a port's queue (R17): a link's, or else the assembly buffer's. -/
def State.reservePlace (s : State) (c : CtxId) (d : GReg) : State × Reserved :=
  let p := if d.val < 60 then Reserved.buffer (freshPlace (s.ctx c).asm)
    else let h := s.linkHome c d; .link h (freshPlace ((s.homeBank h).link (d.val - 60)))
  (s.onPlace c d p (fun n q => q ++ [.held n]), p)

/-- Completes a pending result into its destination (R159), a port's into the place that it has reserved (R17, log 74). -/
def State.deliver (s : State) (c : CtxId) (p : Pending) : State :=
  match p.target with
  | .g d | .remote d _ =>
    match p.place with
    | some r => s.onPlace c d r (fillPlace · p.gval)
    | none => s.setCtx c ((s.ctx c).wr d p.gval)
  | .v d => s.setCtx c ((s.ctx c).wrV d p.vval)
  | .scales d => s.setCtx c ((s.ctx c).wrV d (withScales (s.ctx c).v[d.val] p.vval))

/-- Free places of a port's destination, counting reserved ones as taken (R15, R17). -/
def State.portRoom (s : State) (c : CtxId) (r : GReg) : Nat :=
  if r.val = 56 then 7 - (s.ctx c).asm.length
  else 8 - ((s.homeBank (s.linkHome c r)).link (r.val - 60)).length

/-- The words waiting in a port (R15). -/
def State.portWords (s : State) (c : CtxId) (r : GReg) : List Word :=
  match r.val with
  | 56 => (s.ctx c).msg
  | 57 => (s.ctx c).evt
  | 58 => (s.ctx c).mres
  | 59 => (s.ctx c).done
  | n => present ((s.bank (bankOf c)).link (n - 60))

/-- Removes the next word of a port. -/
def State.dropPort (s : State) (c : CtxId) (r : GReg) : State :=
  let x := s.ctx c
  match r.val with
  | 56 => s.setCtx c { x with msg := x.msg.drop 1 }
  | 57 => s.setCtx c { x with evt := x.evt.drop 1 }
  | 58 => s.setCtx c { x with mres := x.mres.drop 1 }
  | 59 => s.setCtx c { x with done := x.done.drop 1 }
  | n => s.setBank (bankOf c) ((s.bank (bankOf c)).onLink (n - 60) dropWord)

/-- How often a register occurs in a list. -/
def countReg (r : GReg) (rs : List GReg) : Nat := (rs.filter (· == r)).length

/-- The registers a bundle names, checked before it issues: the debug attribute's check of R62, the members that its
links join (R36), and the words and places its ports need (R17). -/
def issue (reads writes : List GReg) (vreads vwrites : List VReg) : M Unit := do
  let s ← get
  let x := s.me
  let hit (p : Pending) : Bool :=
    reads.any p.writesG || writes.any p.writesG || vreads.any p.writesV || vwrites.any p.writesV
  if x.status.getLsbD 2 then
    match x.pend.find? hit with
    | some p => raise { cls := 0, detail := 16, info := p.pc }
    | none => pure ()
  if (reads.any (fun r => decide (60 ≤ r.val) && !s.holdsMyTeam (linkSource (coreOf s.cur) (r.val - 60)))) ||
      (writes.any (fun r => decide (60 ≤ r.val) && !s.holdsMyTeam (linkTarget (coreOf s.cur) (r.val - 60)))) then
    trap 4 24
  if reads.any (fun r => isPort r && decide ((s.portWords s.cur r).length < countReg r reads)) then
    stall (if reads.any (fun r => r == 56) then .message else .other)
  if writes.any (fun r => r == 56 && decide (7 ≤ x.asm.length)) then trap 0 20
  if writes.any (fun r => isPort r && decide (s.portRoom s.cur r = 0)) then stall

/-- Takes those of a context's pending results that write a register: inside its window a reader gets the old or the new value, a free
choice (R62). -/
def settle (hit : Pending → Bool) : M Unit := do
  ((← get).me.pend.filter hit).forM (fun p => do
    match p.target with
    | .remote _ _ => pure ()
    | _ =>
      if ← takeBit then
        modify (fun s => (s.setMe { s.me with pend := s.me.pend.erase p }).deliver s.cur p))

/-- A later bundle of the window writes the register of pending results: which value stays is a free choice (R62). -/
def overwrite (hit : Pending → Bool) : M Unit := do
  ((← get).me.pend.filter hit).forM (fun p => do
    match p.target with
    | .remote _ n =>
      if ← takeBit then modifyMe (fun x => { x with pend := x.pend.map (fun q => if q = p then { q with target := .remote 0 n } else q) })
    | _ => if ← takeBit then modifyMe (fun x => { x with pend := x.pend.erase p }))

/-- Reads a register operand: a port pops (R15, R17), g0 reads zero, a pending destination follows R62. -/
def readG (r : GReg) : M Word := do
  if isPort r then
    let s ← get
    match s.portWords s.cur r with
    | w :: _ => do set (s.dropPort s.cur r); pure w
    | [] => stall
  else
    settle (·.writesG r)
    return (← getMe).rd r

/-- Writes a result: a port takes a push, a write to g0 is discarded (R14, R117). -/
def writeG (r : GReg) (w : Word) : M Unit := do
  if isPort r then modify (fun s => s.pushPort s.cur r w)
  else do
    overwrite (·.writesG r)
    modifyMe (fun x => x.wr r w)

/-- Reads a vector operand (R62). -/
def readV (r : VReg) : M VWord := do
  settle (·.writesV r)
  return (← getMe).v[r.val]

/-- Writes a vector result. -/
def writeV (r : VReg) (w : VWord) : M Unit := do
  overwrite (·.writesV r)
  modifyMe (fun x => x.wrV r w)

/-- A result whose window opens: it joins the pending ones; one that goes to a port reserves its place, one that goes to another
register leaves an earlier pending result of it to R62. -/
def openWindow (p : Pending) (d : GReg) : M Unit := do
  if isPort d then do
    let s ← get
    let (s, r) := s.reservePlace s.cur d
    set (s.setMe { s.me with pend := s.me.pend ++ [{ p with place := some r }] })
  else do
    overwrite (·.writesG d)
    modifyMe (fun x => { x with pend := x.pend ++ [p] })

/-- Opens a window for a long-latency result (R61); la = 0 completes it before the next bundle. The bundle's own
retirement lowers the count once. -/
def late (la : La) (target : Target) (gval : Word) (vval : VWord) : M Unit := do
  let s ← get
  let p : Pending := { target, gval, vval, left := la.val + 1, pc := s.me.pc, place := none }
  match target with
  | .g d =>
    if d.val = 0 then pure ()
    else if la = 0 then writeG d gval
    else openWindow p d
  | .v d | .scales d =>
    overwrite (·.writesV d)
    if la = 0 then modify (fun s => s.deliver s.cur p)
    else modifyMe (fun x => { x with pend := x.pend ++ [p] })
  | .remote d _ => openWindow p d

/-! ### Retiring a bundle -/

/-- A pending result's window after one more bundle. -/
def Pending.tick (p : Pending) : Pending := { p with left := p.left - 1 }
/-- The pins after one more bundle: each count falls by one; a pin at zero no longer covers anything (R136). -/
def tickPins (ps : List Pin) : List Pin := ps.map (fun p => { p with count := p.count - 1 })
/-- The live pins of a context (R137). -/
def Ctx.livePins (x : Ctx) : List Pin := x.pins.filter (fun p => p.count != 0)

/-- The counters of R430 that belong to a partition. -/
def Core.count (x : Core) (part : Nat) : Counts := x.counts.get (fun _ => ⟨0, 0, 0⟩) part

/-- The horizon that the last reduction gave a core for a domain; all ones where none has (R317). -/
def Core.horizonFor (k : Core) (t : Nat) : Nat := k.horizons.get (fun _ => 2 ^ 96 - 1) t

/-- A core's next survey is armed once none is (R353). -/
def Core.promote (k : Core) : Core :=
  match k.survey, k.waitingSurveys with
  | none, v :: rest => { k with survey := some v, waitingSurveys := rest }
  | _, _ => k

/-- The surveys that a core holds, armed and waiting (R353). -/
def Core.surveys (k : Core) : List Survey := k.survey.toList ++ k.waitingSurveys

/-- What a context waits at once a bundle has retired (R260): nothing that an earlier bundle at the same level noted; after a uret what the
interrupted bundle noted. -/
def stillWaits (level : Nat) (bs : List BarrierWait) : List BarrierWait :=
  (bs.filter (fun b => b.level != level)).map (fun b => if b.level = 2 then { b with level := 0 } else b)

/-- A context after a bundle that executed (R61, R136): at the next bundle, windows and pins one bundle on. -/
def Ctx.retired (x : Ctx) : Ctx :=
  { x with pc := x.npc, wait := .none, pend := x.pend.map Pending.tick, pins := tickPins x.pins, strict := false
           barrier := stillWaits x.handling.toNat x.barrier }

/-! ### Ropes (R52 to R55) -/

/-- The rope that a context has a place in, while it stands. -/
def State.ropeOf (s : State) (p : RopePlace) : Option Rope := (s.die p.die).ropes.find? (fun r => r.id == p.id)
/-- Changes the rope of a place. -/
def State.changeRope (s : State) (p : RopePlace) (f : Rope → Rope) : State :=
  s.setDie p.die { s.die p.die with ropes := (s.die p.die).ropes.map (fun r => if r.id = p.id then f r else r) }

/-- A member of a rope is attached: the context at its place holds that position and follows. -/
def State.follows (s : State) (die : Nat) (r : Rope) (m : CtxId × Nat) : Bool :=
  match (s.ctx m.1).rope with
  | some p => p.die == die && p.id == r.id && p.pos == m.2 && p.pos != 0 && p.attached
  | none => false

/-- A rope with a bundle forwarded to every attached follower (R52, R78), and the address of the leader's next one. -/
def State.forwardTo (s : State) (die : Nat) (b : Bundle) (next : Word) (r : Rope) : Rope :=
  { r with
    next
    buffers := (r.members.filter (s.follows die r)).foldl (fun t m => t.put m.2 (t.get (fun _ => []) m.2 ++ [b])) r.buffers }

/-- The address of the bundle that a rope's leader has executed after those that a position has executed. -/
def Rope.after (r : Rope) (pos : Nat) : Word :=
  match r.buffers.get (fun _ => []) pos with | b :: _ => b.addr | [] => r.next

/-- A follower whose next bundle is not the leader's detaches: it has resolved a branch differently (R54). -/
def State.stray (s : State) (c : CtxId) (p : RopePlace) : State :=
  match s.ropeOf p with
  | none => s
  | some r => if r.after p.pos = (s.ctx c).pc then s else s.setCtx c { s.ctx c with rope := some { p with attached := false } }

/-- What a retiring bundle of a context, as it stood before, does in its rope: a leader's is forwarded whole to every attached follower, and
a follower's leaves its buffer (R52, R53, R54). -/
def State.ropeStep (s : State) (c : CtxId) (x : Ctx) : State :=
  match x.rope with
  | none => s
  | some p =>
    if p.pos = 0 then s.changeRope p (s.forwardTo p.die ⟨x.pc, x.ir⟩ x.npc)
    else if p.attached then
      (s.changeRope p (fun r => { r with buffers := r.buffers.put p.pos ((r.buffers.get (fun _ => []) p.pos).drop 1) })).stray c p
    else s

/-- A bundle of a context retires: the context moves on, its core counts it for the partition (R430), and its rope sees it. -/
def State.retireCtx (s : State) (c : CtxId) : State :=
  let x := (s.ctx c).retired
  let k := s.core (coreOf c)
  let n := k.count x.part
  ((s.setCtx c x).setCore (coreOf c) { k with counts := k.counts.put x.part { n with icount := n.icount + 1 } }).ropeStep c (s.ctx c)

/-- The current context is the last that its core has issued (R411). -/
def State.noteIssue (s : State) : State := s.setCore (coreOf s.cur) { s.myCore with last := ctxNum s.cur }

/-- The current context's bundle retires. -/
def State.retire (s : State) : State := (s.retireCtx s.cur).noteIssue

/-! ### The context registry (R384) and fault records (R427) -/

/-- Writes a list of 64-bit words from a location on. -/
def State.storeWords (s : State) (loc : Nat) (ws : List Word) : State :=
  { s with mem := s.mem.writes loc (ws.flatMap (fun w => leBytes 8 w.toNat)) }

/-- The value of each user control register that the registry's k image holds, by number (R384): context scope only. -/
def Ctx.kImage (x : Ctx) (n : Nat) : Word :=
  match n with
  | 8 => x.utvec | 9 => x.uepc | 10 => x.ucause | 11 => x.uinfo
  | 16 | 17 | 18 | 19 | 20 | 21 | 22 => (x.cp[n - 16]?).getD 0
  | 24 => x.xfer | 25 => x.rng | 32 => x.trailTop | 33 => x.choice | 34 => x.trailBase | 35 => x.trailLim
  | 48 => x.unack | 49 => x.rfail
  | 512 => x.status | 513 => x.sepc | 514 => x.scause | 515 => BitVec.ofNat 64 x.part
  | 522 => x.yreq | 523 => x.rcba | 530 => x.incarn
  | n => if 64 ≤ n ∧ n < 128 then (x.strc[n - 64]?).getD 0 else 0

/-- Words padded with zeros to a length. -/
def padTo (n : Nat) (ws : List Word) : List Word := ws.take n ++ List.replicate (n - ws.length) 0

/-- A pin as the four words of its record slot: page, size and level with kind and count, leaf entry (R384). -/
def Pin.words (p : Pin) : List Word :=
  [BitVec.ofNat 64 p.page, BitVec.ofNat 64 (p.size * 2 ^ 16 + p.level * 2 ^ 8 + p.kind), BitVec.ofNat 64 p.count, p.pte]

/-- A stream sender entry as two words of a record (R282, log 6): whether it is one and broken, its destination, stream and next number,
and the identity of its context. -/
def Sender.words (source : Nat) (e : Sender) : List Word :=
  let d := match e.dest with | .core c => c | .package g => 2 ^ 21 + g
  [BitVec.ofNat 64 (2 ^ 63 + e.broken.toNat * 2 ^ 62 + source / 2 ^ 40 % 2 ^ 32 * 2 ^ 30 + d * 2 ^ 8 + e.sid),
   BitVec.ofNat 64 (source % 2 ^ 40 * 2 ^ 24 + e.next)]

/-- The sender entry of two words of a record, with its context's identity. -/
def senderOf (w0 w1 : Word) : Option (Nat × Sender) :=
  if w0.getLsbD 63 then
    let d := field w0 29 8
    some (field w0 61 30 * 2 ^ 40 + field w1 63 24,
      ⟨field w0 7 0, if d < 2 ^ 21 then .core d else .package (d - 2 ^ 21), field w1 23 0, w0.getLsbD 62⟩)
  else none

/-- The stream entries that a record holds (R282): the first 2,816; any others stay with the context where its record does not show them
(DESIGN CHOICE, log 6). -/
def Ctx.streamWords (x : Ctx) : List Word := (x.streams.take 2816).flatMap (Sender.words x.source)

/-- The areas of a context's record, from byte 256 on (R384): its live pins, and as many stream entries as the record holds. -/
def Ctx.areas (x : Ctx) : List (Nat × List Word) :=
  [ (256, 0 :: (x.g.toList.drop 1)),
    (768, (List.range 128).map x.kImage),
    (1792, (List.range 32).map (fun n => x.kImage (512 + n))),
    (2048, padTo 8 x.msg ++ padTo 4 x.evt ++ padTo 64 x.mres ++ padTo 16 x.done),
    (3072, padTo 64 (x.livePins.flatMap Pin.words)),
    (20480, x.streamWords) ]

/-- The eight-byte words of a vector register. -/
def vecWords (v : VWord) : List Word := (List.range 64).map (fun i => v.extractLsb' (64 * i) 64)

/-- Writes a context's pc and areas into a record, and zeros where it has nothing (R384). -/
def State.writeAreas (s : State) (r : Nat) (x : Ctx) : State :=
  let s := (s.zeroRange (r + 256) 65280).store (r + 24) 8 x.pc.toNat
  let s := x.areas.foldl (fun s a => s.storeWords (r + a.1) a.2) s
  s.storeWords (r + 4096) (x.v.toList.flatMap vecWords)

/-- Writes a context's pc, areas and state into its record (R384). -/
def State.writeRecord (s : State) (c : CtxId) (state : Nat) : State :=
  let x := s.ctx c
  let r := x.record
  if r = 0 then s else (s.store (r + 6) 1 (s.load (r + 6) 1 / 16 * 16 + state)).writeAreas r x

/-- A spilled context's record shows its stream entries as they stand (R284, R384). -/
def State.showStreams (s : State) (p : Option (Nat ⊕ CtxId)) : State :=
  match p with
  | some (.inl r) => s.storeWords (r + 20480) (s.saved.get Ctx.reset r).streamWords
  | _ => s

/-- Sets the state field of a record. -/
def State.recordState (s : State) (r state : Nat) : State :=
  if r = 0 then s else s.store (r + 6) 1 (s.load (r + 6) 1 / 16 * 16 + state)

/-- Where the fault ring lies (R428). -/
def State.ring (s : State) : Nat := s.regbase.toNat + 0x41000000

/-- Takes the next ring number by an aadd on the ring's tail (R428). -/
def State.ringNumber (s : State) : Nat × State :=
  let n := s.load s.ring 4
  (n, s.store s.ring 4 ((n + 1) % 2 ^ 32))

/-- The ring slot of a number (R428). -/
def State.ringSlot (s : State) (n : Nat) : Nat := s.ring + 4096 + 64 * (n % 4096)

/-- The words of a fault record (R427). Word 1 is written last, with posted set. -/
def faultWords (context incarn : Word) (noctx precise mode : Bool) (part : Nat) (t : Trap) (pc time rec : Word) :
    List Word :=
  [ context,
    BitVec.ofNat 64 (incarn.toNat % 2 ^ 32 * 2 ^ 32 + 2 ^ 31 + noctx.toNat * 2 ^ 30 + precise.toNat * 2 ^ 29 +
      mode.toNat * 2 ^ 28 + part % 8 * 2 ^ 16 + t.cls * 64 + t.detail),
    pc, 0, t.addr, t.word, time, rec ]

/-- Queues a record without a context for posting (R427, R428). -/
def State.postNoctx (s : State) (part : Nat) (t : Trap) : State :=
  let r := s.ringNumber
  { r.2 with faults := r.2.faults ++
      [{ slot := some r.1, words := faultWords 0 0 true false false part t 0 (BitVec.ofNat 64 s.time) 0 }] }

/-! ### Taking a trap -/

/-- The causes that are user traps (R422). -/
def Trap.isUser (t : Trap) : Bool :=
  (t.cls == 0 && (t.detail == 16 || t.detail == 18)) || (t.cls == 4 && t.detail == 6) ||
  (t.cls == 5 && (t.detail == 0 || t.detail == 1 || t.detail == 2 || t.detail == 7)) || (t.cls == 6 && t.detail == 16)

/-- k.UCAUSE of a cause (R422). -/
def Trap.code (t : Trap) : Word := BitVec.ofNat 64 (t.cls * 64 + t.detail)

/-- The umask bit set or cleared in a status word (R376). -/
def setUmask (status : Word) (on : Bool) : Word := if on then status ||| 8 else status &&& ~~~(8 : Word)

/-- A user trap enters the context's own vector as one step (R425). -/
def Ctx.userTrap (x : Ctx) (t : Trap) (info : Word) : Ctx :=
  { x with uepc := x.pc, ucause := t.code, uinfo := info, status := setUmask x.status true, handling := true,
           run := .running, pc := x.utvec &&& ~~~(1 : Word), wait := .none }

/-- Ends the lease that a context holds (R56, R57). -/
def State.endLease (s : State) (c : CtxId) : State :=
  let r := s.ridge (ridgeOf (coreOf c))
  match r.lease with
  | some l => if l.ctx = c then s.setRidge (ridgeOf (coreOf c)) { r with lease := none } else s
  | none => s

/-- Detaches a follower from its rope (R54). -/
def Ctx.detached (x : Ctx) : Ctx :=
  match x.rope with
  | some p => if p.pos = 0 then x else { x with rope := some { p with attached := false } }
  | none => x

/-- Detaches a rope's followers, or the follower itself, when a context leaves its stream (R54, R55). -/
def State.detach (s : State) (c : CtxId) : State :=
  match (s.ctx c).rope with
  | none => s
  | some p =>
    if p.pos ≠ 0 then s.setCtx c (s.ctx c).detached
    else
      match s.ropeOf p with
      | none => s
      | some r => (r.members.filter (s.follows p.die r)).foldl (fun s m => s.setCtx m.1 (s.ctx m.1).detached) s

/-- A context that ends leaves its rope: a leader's rope ends with it, a follower's position is free (R54, R269). -/
def State.quitRope (s : State) (c : CtxId) : State :=
  match (s.ctx c).rope with
  | none => s
  | some p =>
    let s := if p.pos = 0 then s.setDie p.die { s.die p.die with ropes := (s.die p.die).ropes.filter (fun r => r.id != p.id) }
      else s.changeRope p (fun r => { r with members := r.members.filter (fun m => m.2 != p.pos) })
    s.setCtx c { s.ctx c with rope := none }

/-- A context that has moved to a place is found there by its rope (R55). -/
def State.reseat (s : State) (c : CtxId) : State :=
  match (s.ctx c).rope with
  | none => s
  | some p => s.changeRope p (fun r => { r with members := r.members.map (fun m => if m.2 = p.pos then (c, p.pos) else m) })

/-- Ends the sprint lease of a ridge whose last extender leaves the active bank (R454). -/
def State.leaveSprint (s : State) (c : CtxId) : State :=
  let r := s.ridge (ridgeOf (coreOf c))
  if r.extender = some c then
    s.setRidge (ridgeOf (coreOf c)) { r with leaseLeft := 0, taker := none, extender := none }
  else s

/-- The pending results of a context that its own core will complete: all but remote atomics (R159, R297). -/
def Pending.isLocal (p : Pending) : Bool :=
  match p.target with
  | .remote _ _ => false
  | _ => true

/-- Completes a context's pending long-latency results (R426 step 1). -/
def State.finishPending (s : State) (c : CtxId) : State :=
  let ps := (s.ctx c).pend
  let s := s.setCtx c { s.ctx c with pend := ps.filter (fun p => !p.isLocal) }
  (ps.filter Pending.isLocal).foldl (fun s p => s.deliver c p) s

/-- A system fault parks its context (R426): results complete, the lease and rope end, the registry record is written
with state 4 and its fault word, its team has had a faulted member (R399), and a record is queued for posting. -/
def State.park (s : State) (c : CtxId) (t : Trap) : State :=
  let s := s.finishPending c
  let s := s.endLease c
  let s := s.setCtx c (s.ctx c).detached
  let s := s.leaveSprint c
  let x := s.ctx c
  let s := s.setCtx c { x with run := .parked, wait := .none, faulted := none, cause := some t }
  let s := s.writeRecord c 4
  let n := s.ringNumber
  let s := n.2
  let s := if x.record = 0 then s else s.store (x.record + 40) 8 (s.ringSlot n.1)
  let s := match x.team with | some t => s.setTeam t { s.team t with killed := true } | none => s
  { s with faults := s.faults ++ [⟨some n.1, faultWords (s.contextWord c) x.incarn false t.precise (x.status.getLsbD 0) x.part t x.pc
        (BitVec.ofNat 64 s.time) (BitVec.ofNat 64 x.record)⟩] }

/-- A cause on a service core enters its fault vector: SEPC as for scall, SCAUSE with bit 63 set (R374, R375). -/
def State.serviceTrap (s : State) (c : CtxId) (t : Trap) : State :=
  let x := s.ctx c
  s.setCtx c { x with sepc := x.npc, scause := t.code ||| 0x8000000000000000, pc := (s.core (coreOf c)).fvec, run := .running, wait := .none }

/-- Takes a cause in a context (R425, R426, R374): a user trap enters k.UTVEC unless user traps are masked, the vector
is zero or the context is in supervisor mode; every other cause parks, or enters k.FVEC on a service core. -/
def State.takeTrap (s : State) (c : CtxId) (t : Trap) : State :=
  let x := s.ctx c
  if isService (coreOf c) then s.serviceTrap c t
  else if t.isUser && !x.status.getLsbD 0 && !x.status.getLsbD 3 && (x.utvec != 0) then s.setCtx c (x.detached.userTrap t t.info)
  else s.park c t

/-- The detail word of R88 for the latched bundle: its base word, the prefix words decoded, and the prefix word at
fault, where one is. -/
def bundleWord (ir : List IWord) (at_ : Option Nat) : Word :=
  let pre := match at_ with | some p => (ir.getD p 0).toNat | none => 0
  BitVec.ofNat 64 (at_.getD 0 * 2 ^ 35 + (ir.length - 1) * 2 ^ 32 + pre * 2 ^ 16 + (ir.getLastD 0).toNat)

/-- The prefix word at fault of a cause that an instruction raises itself (R88): XS of detail 4 (R131), and of detail 9 where its class is 3
(R277). -/
def offendingPrefix (ir : List IWord) (detail : Nat) : Option Nat :=
  let isXS (w : IWord) : Bool := decide (w.toNat / 2 ^ 11 = 31)
  if detail = 4 then ir.findIdx? isXS
  else if detail = 9 then ir.findIdx? (fun w => isXS w && decide (w.toNat / 8 % 4 = 3))
  else none

/-- A class 0 cause that an instruction raises itself carries the detail word of R88. -/
def Ctx.withDetail (x : Ctx) (t : Trap) : Trap :=
  if t.cls = 0 ∧ t.word = 0 then
    { t with word := bundleWord x.ir (offendingPrefix x.ir t.detail) }
  else t

/-- uret: back to k.UEPC with user traps unmasked (R263). An odd k.UEPC makes an odd pc, at which words are fetched: the spec does not say
what such a pc does (DESIGN CHOICE, log 72). -/
def Ctx.userReturn (x : Ctx) : Ctx :=
  { x with npc := x.uepc, status := setUmask x.status false, handling := false
           barrier := x.barrier.map (fun b => if b.level = 0 then { b with level := 2 } else { b with level := 0 }) }

/-- A context's task marked for its abort, if it is one of those named; nothing aborts a non-speculative one (R319). -/
def Ctx.markAbort (victims : List Nat) (discard : Bool) (x : Ctx) : Ctx :=
  { x with task := x.task.map (fun t =>
      if victims.contains t.task.id && t.speculative then { t with aborted := true, discarded := t.discarded || discard } else t) }

/-- Marks ordered tasks for their abort (R224), those of spilled contexts too (R322). -/
def State.markAborts (s : State) (victims : List Nat) : State :=
  { s with ctxs := s.ctxs.map (fun e => (e.1, e.2.markAbort victims false))
           saved := s.saved.map (fun e => (e.1, e.2.markAbort victims false)) }

/-- A context notes that it stalls, and is passed over until the state has moved. -/
def State.noteStall (s : State) (w : Wait) : State :=
  let t := s.setMe { s.me with wait := w }
  { t with stalled := s.cur :: s.stalled }

/-- Runs a bundle of the current context as one indivisible step (R78): it retires, takes its cause, or stalls with no
effect. -/
def runBundle (m : M Unit) (s : State) : Host.Outcome State Fault Refusal :=
  match m s with
  | .ok ((), s') => .next { s'.retire with stalled := [] }
  | .error (.trap t) => .next { (s.takeTrap s.cur (s.me.withDetail t)).noteIssue with stalled := [] }
  | .error (.wait w) => .next (s.noteStall w)
  | .error (.abort vs) => .next { ((s.markAborts vs).noteStall .other) with stalled := [s.cur] }
  | .error (.fault f) => .fault f
  | .error (.refuse r) => .refused r

/-- Runs a step of the hardware: where its condition does not hold, nothing happens. -/
def runStep (m : M Unit) (s : State) : Host.Outcome State Fault Refusal :=
  match m s with
  | .ok ((), s') => .next { s' with stalled := [] }
  | .error (.trap t) => .next { (s.takeTrap s.cur t) with stalled := [] }
  | .error (.wait _) => .next s
  | .error (.abort vs) => .next (s.markAborts vs)
  | .error (.fault f) => .fault f
  | .error (.refuse r) => .refused r

end Sys2Proof.Machine
end

