-- ==== Sys2Proof/Machine/Caches.lean ====
section
/-! DEFINITION. The caches between contexts and HBM4 (R25, R199 to R205, R209, R210): which lines each L1 and L2 slice holds, and the
homes' directory. The bytes of every line stand once, in the package's memory, so a recall or write-back moves none (log 83). -/

namespace Sys2Proof.Machine

/-! ### Lines, stacks and homes (R199, R202, R203) -/

/-- The HBM4 stack that holds a line (R199). -/
def hbmStack (line : Nat) : Nat := (line % 8) ^^^ (line / 2 ^ 10 % 8) ^^^ (line / 2 ^ 20 % 8)

/-- The slice of a line in a list of slices (R202). -/
def sliceIn (set : List Nat) (line : Nat) : Nat :=
  let h := (line % 1024) ^^^ (line / 2 ^ 10 % 1024) ^^^ (line / 2 ^ 20 % 1024) ^^^ (line / 2 ^ 30 % 1024)
  set.getD (h * set.length / 1024) 0

/-- The home slice of a location in its partition's set (R202). -/
def State.homeSlice (s : State) (part loc : Nat) : Nat := sliceIn (s.part part).slices (loc / 128)

/-- The die of a physical slice: 192 slices lie on each (R380). -/
def sliceDie (slice : Nat) : Nat := slice / 192

/-- A slice's remote-way count RW, at most 8 (R203). -/
def State.remoteWays (s : State) (slice : Nat) : Nat := min 8 (s.rws.get (fun _ => 0) slice)

/-- The proxy slice of a core for a line that is homed on another die (R203). -/
def State.proxySlice (s : State) (part line : Nat) (c : CoreId) : Option Nat :=
  let list := (s.part part).slices.filter (fun n => sliceDie n == dieOf c)
  let p := sliceIn list line
  if sliceDie (s.homeSlice part (line * 128)) = dieOf c ∨ list = [] ∨ s.remoteWays p = 0 then none else some p

/-- The partition whose range of HBM4 holds a location (R199). -/
def State.partAt (s : State) (loc : Nat) : Nat :=
  ((List.range 8).find? (fun p =>
    let q := s.part p
    q.valid && decide (q.hbase ≤ loc) && decide (loc < q.hbase + q.hsize))).getD 0

/-! ### The directory (R201, R202, R204) -/

/-- A line's directory entry, and the state with it replaced. -/
def State.dir (s : State) (line : Nat) : Dir := s.dirs.get (fun _ => Dir.empty) line
/-- The state with a line's directory entry replaced; an empty entry is not listed. -/
def State.setDir (s : State) (line : Nat) (d : Dir) : State :=
  { s with dirs := if d = Dir.empty then s.dirs.drop line else s.dirs.put line d }

/-- The lines of a core's L1, most recently used first. -/
def State.l1 (s : State) (c : CoreId) : List L1Line := s.l1s.get (fun _ => []) c
/-- The state with a core's L1 replaced. -/
def State.setL1 (s : State) (c : CoreId) (ls : List L1Line) : State := { s with l1s := s.l1s.put c ls }

/-- The bank of a slice that serves a line (R202), as a key of the table of slice banks. -/
def sliceBank (slice line : Nat) : Nat := slice * 4 + line % 4
/-- The lines of a slice's bank, most recently used first. -/
def State.l2 (s : State) (bank : Nat) : List L2Line := s.l2s.get (fun _ => []) bank
/-- The state with a slice bank's lines replaced. -/
def State.setL2 (s : State) (bank : Nat) (ls : List L2Line) : State := { s with l2s := s.l2s.put bank ls }

/-- A line leaves a core's L1. -/
def State.dropL1 (s : State) (line : Nat) (c : CoreId) : State :=
  let s := s.setL1 c ((s.l1 c).filter (fun e => e.line != line))
  let d := s.dir line
  s.setDir line { d with cores := d.cores.filter (· != c), owner := if d.owner = some c then none else d.owner }

/-- A proxy's copy of a line is invalidated. -/
def State.dropProxy (s : State) (line slice : Nat) : State :=
  let b := sliceBank slice line
  let s := s.setL2 b ((s.l2 b).filter (fun e => !(e.proxy && e.line == line)))
  let d := s.dir line
  s.setDir line { d with proxies := d.proxies.filter (· != slice) }

/-- Every copy of a line is recalled or invalidated, but for one core's (R201, R204). -/
def State.dropCopies (s : State) (line : Nat) (keep : Option CoreId) : State :=
  let d := s.dir line
  let s := (d.cores.filter (fun c => keep != some c)).foldl (fun s c => s.dropL1 line c) s
  d.proxies.foldl (fun s p => s.dropProxy line p) s

/-- The exclusive copy of a line, if another agent than one core's reads it, becomes a shared one (R201). -/
def State.share (s : State) (line : Nat) (c : Option CoreId) : State :=
  let d := s.dir line
  match d.owner with
  | none => s
  | some o =>
    if c = some o then s
    else (s.setL1 o ((s.l1 o).map (fun e => if e.line = line then { e with excl := false } else e))).setDir line { d with owner := none }

/-! ### What L1 and L2 hold (R25, R203, R209) -/

/-- The residency priority of a line that a slice holds: the highest of the live handles that cover it, else its page's class (R209,
R270). -/
def State.priority (s : State) (e : L2Line) : Nat :=
  match ((s.part e.part).handles.filterMap Prod.snd).filter (fun h => decide (h.base ≤ e.va) && decide (e.va < h.base + h.length)) with
  | [] => e.cls
  | h :: hs => hs.foldl (fun p k => max p k.prio) h.prio

/-- Whether two lines of a slice's bank compete for the same ways: the same set of the bank's 128, and the same kind of way (R203). -/
def L2Line.rivals (e f : L2Line) : Bool := (e.line / 4 % 128 == f.line / 4 % 128) && e.proxy == f.proxy

/-- A slice is to hold a line as the most recently used: a victim is the least recently used of the set's lowest priority, and a line is
never held over lines of higher priority only (R203, R209). The eviction of a busy victim waits, and the line is not held meanwhile
(R210, R221). -/
def State.hold (s : State) (busy : Nat → Bool) (slice : Nat) (e : L2Line) : State :=
  let b := sliceBank slice e.line
  let others := (s.l2 b).filter (fun f => !(f.line == e.line && f.proxy == e.proxy))
  let rivals := others.filter e.rivals
  let ways := if e.proxy then s.remoteWays slice else 16 - s.remoteWays slice
  let listed (s : State) : State :=
    if e.proxy then s.setDir e.line { s.dir e.line with proxies := (slice :: (s.dir e.line).proxies).dedup } else s
  if rivals.length < ways then listed (s.setL2 b (e :: others))
  else
    match (rivals.map s.priority).min? with
    | none => s
    | some low =>
      if s.priority e < low then s
      else
        match rivals.reverse.find? (fun f => s.priority f == low) with
        | none => s
        | some f =>
          if busy f.line then s else
          let s := if f.proxy then s.dropProxy f.line slice else s
          listed (s.setL2 b (e :: others.erase f))

/-- The ways of an L1 with a cache carve (R25). -/
def l1Ways (cc : Nat) : Nat := 5 + cc

/-- The lines of an L1 that a number of ways for each of its 1,024 sets has no room for, least recently used ones (R25). -/
def l1Excess (ways : Nat) : List L1Line → List L1Line
  | [] => []
  | e :: rest => (((e :: rest).filter (fun f => f.line % 1024 == e.line % 1024)).drop ways) ++ l1Excess ways rest

/-- A core's L1 keeps what its carve has room for. -/
def State.fitL1 (s : State) (c : CoreId) : State :=
  ((l1Excess (l1Ways (s.core c).cc) (s.l1 c)).map L1Line.line).dedup.foldl (fun s l => s.dropL1 l c) s

/-- A core's L1 holds a line as the most recently used, shared or exclusive, and the line's directory says so; the least recently used
line of its set leaves where the set has no room (R25, R201), unless it is busy: then its eviction waits, and the line is not held
meanwhile (R210). -/
def State.fillL1 (s : State) (busy : Nat → Bool) (c : CoreId) (e : L1Line) : State :=
  let lines := e :: (s.l1 c).filter (fun f => f.line != e.line)
  let victims := (lines.filter (fun f => f.line % 1024 == e.line % 1024)).drop (l1Ways (s.core c).cc)
  if victims.any (fun f => busy f.line) then s
  else
    let s := s.setL1 c lines
    let d := s.dir e.line
    let s := s.setDir e.line { d with cores := (c :: d.cores).dedup, owner := if e.excl then some c else d.owner }
    victims.foldl (fun s f => s.dropL1 f.line c) s

/-! ### Accesses and what homes perform -/

/-- How an access reaches a line: a load or a store through L1, a read at the home, or an access at the home that needs the line
exclusive there (R201, log 83). -/
inductive Reach where
  | load | store | read | write
  deriving DecidableEq, Repr

/-- An access of a core reaches a line under the attributes of its page: class and cacheable (R201, R203, R204, R415); busy lines are
not evicted for it (R210). -/
def State.reach (s : State) (busy : Nat → Bool) (k : Reach) (c : CoreId) (e : L2Line) (cacheable : Bool) : State :=
  let line := e.line
  let home := s.homeSlice e.part (line * 128)
  let held (s : State) : State := s.hold busy home { e with proxy := false }
  let fill (excl : Bool) (s : State) : State := s.fillL1 busy c ⟨line, e.va, e.part, excl⟩
  match k with
  | .load =>
    if !cacheable then held (s.share line none)
    else
      match (s.l1 c).find? (fun f => f.line == line) with
      | some f => s.setL1 c (f :: (s.l1 c).erase f)
      | none =>
        let s := held (s.share line (some c))
        let s := match s.proxySlice e.part line c with
          | some p => s.hold busy p { e with proxy := true }
          | none => s
        fill false s
  | .store =>
    if cacheable then fill true (held (s.dropCopies line (some c))) else held (s.dropCopies line none)
  | .read => held (s.share line none)
  | .write => held (s.dropCopies line none)

/-- A home slice performs a write to a line: its write generation advances (R205). -/
def State.generation (s : State) (part line : Nat) : State :=
  let h := s.homeSlice part (line * 128)
  { s with homeGens := s.homeGens.put h (s.homeGens.get (fun _ => 0) h + 1) }

/-- Homes perform writes of no core at listed locations: every copy is gone first, and the generations advance (R201, R204, R205). -/
def State.stampHomes (s : State) (part : Nat) (locs : List Nat) : State :=
  (((locs.filter (fun l => decide (l < hbmTop))).map lineOf).dedup).foldl (fun s l => (s.dropCopies l none).generation part l) s

/-- Engines' writes at listed locations, each in the partition that owns it (R199, R205). -/
def State.stampEngine (s : State) (locs : List Nat) : State := s.stampHomes (s.partAt (locs.headD 0)) locs

/-! ### Evictions (R210, R470) -/

/-- Every cached line that a test picks is written back and invalidated, in every slice and every L1. -/
def State.evict (s : State) (picks : (va part : Nat) → Bool) : State :=
  let s := s.l1s.foldl (fun s e => ((e.2.filter (fun l => picks l.va l.part)).foldl (fun s l => s.dropL1 l.line e.1)) s) s
  s.l2s.foldl (fun s b => (b.2.filter (fun l => picks l.va l.part)).foldl (fun s l =>
    if l.proxy then s.dropProxy l.line (b.1 / 4) else s.setL2 b.1 ((s.l2 b.1).erase l)) s) s

/-- A tensor's lines leave every slice and every L1 (R210). -/
def State.evictTensor (s : State) (part : Nat) (h : Handle) : State :=
  s.evict (fun va p => p == part && decide (h.base ≤ va) && decide (va < h.base + h.length))

/-- A partition's lines leave every slice and every L1 (R470). -/
def State.evictPart (s : State) (part : Nat) : State := s.evict (fun _ p => p == part)

end Sys2Proof.Machine
end

