-- ==== Sys2Proof/Machine/Flags.lean ====
section
/-! DEFINITION. The results of the scalar operations and the words that stand for flags: the .w and .n forms (R118),
condition words (R119), division (R146), bit operations (R147, R148) and scalar floating point (R149 to R151). -/

namespace Sys2Proof.Machine

/-- A 32-bit result, sign-extended (R118). -/
def sext32 (x : BitVec 32) : Word := x.signExtend 64
/-- Bits [31:0] of an operand (R118). -/
def low32 (x : Word) : BitVec 32 := x.setWidth 32
/-- A condition word: 1 for true, 0 for false (R119). -/
def cond (b : Bool) : Word := if b then 1 else 0

/-- The operation at 64 bits, or at 32 bits with its result sign-extended under .w (R118). -/
def dotW (w : Bool) (wide : Word → Word → Word) (narrow : BitVec 32 → BitVec 32 → BitVec 32) (a b : Word) : Word :=
  if w then sext32 (narrow (low32 a) (low32 b)) else wide a b

/-- add (R123). -/
def aluAdd (w : Bool) (a b : Word) : Word := dotW w (· + ·) (· + ·) a b
/-- sub (R123). -/
def aluSub (w : Bool) (a b : Word) : Word := dotW w (· - ·) (· - ·) a b
/-- and (R123). -/
def aluAnd (w : Bool) (a b : Word) : Word := dotW w (· &&& ·) (· &&& ·) a b
/-- or (R123). -/
def aluOr (w : Bool) (a b : Word) : Word := dotW w (· ||| ·) (· ||| ·) a b
/-- xor (R123). -/
def aluXor (w : Bool) (a b : Word) : Word := dotW w (· ^^^ ·) (· ^^^ ·) a b
/-- shl, by g[b][5:0], or g[b][4:0] under .w (R118, R123). -/
def aluShl (w : Bool) (a b : Word) : Word :=
  dotW w (fun a b => a <<< (b.toNat % 64)) (fun a b => a <<< (b.toNat % 32)) a b
/-- shr (R123). -/
def aluShr (w : Bool) (a b : Word) : Word :=
  dotW w (fun a b => a >>> (b.toNat % 64)) (fun a b => a >>> (b.toNat % 32)) a b
/-- sra (R123). -/
def aluSra (w : Bool) (a b : Word) : Word :=
  dotW w (fun a b => a.sshiftRight (b.toNat % 64)) (fun a b => a.sshiftRight (b.toNat % 32)) a b
/-- mul (R123). -/
def aluMul (w : Bool) (a b : Word) : Word := dotW w (· * ·) (· * ·) a b
/-- mulh: bits [127:64] of the signed or natural product (R123). -/
def aluMulh (n : Bool) (a b : Word) : Word :=
  if n then BitVec.ofNat 64 (a.toNat * b.toNat / 2 ^ 64) else BitVec.ofInt 64 (a.toInt * b.toInt / 2 ^ 64)
/-- min (R123). -/
def aluMin (n : Bool) (a b : Word) : Word :=
  if n then (if a.toNat ≤ b.toNat then a else b) else (if a.toInt ≤ b.toInt then a else b)
/-- max (R123). -/
def aluMax (n : Bool) (a b : Word) : Word :=
  if n then (if a.toNat ≤ b.toNat then b else a) else (if a.toInt ≤ b.toInt then b else a)
/-- seq (R123). -/
def aluSeq (w : Bool) (a b : Word) : Word := if w then cond (low32 a == low32 b) else cond (a == b)
/-- slt (R123). -/
def aluSlt (n : Bool) (a b : Word) : Word := if n then cond (decide (a.toNat < b.toNat)) else cond (decide (a.toInt < b.toInt))

/-- lih: bits [63:40] replaced (R125). -/
def setHigh24 (x : Word) (imm : Nat) : Word := BitVec.ofNat 64 (imm % 2 ^ 24 * 2 ^ 40 + x.toNat % 2 ^ 40)

/-- The quotient of R146: all ones for a zero divisor, truncated toward zero otherwise. -/
def quotient (width : Nat) (signed : Bool) (a b : BitVec width) : BitVec width :=
  if b = 0 then BitVec.allOnes width
  else if signed then BitVec.ofInt width (Int.tdiv a.toInt b.toInt) else BitVec.ofNat width (a.toNat / b.toNat)
/-- The remainder of R146: the dividend for a zero divisor. -/
def remainder (width : Nat) (signed : Bool) (a b : BitVec width) : BitVec width :=
  if b = 0 then a
  else if signed then BitVec.ofInt width (Int.tmod a.toInt b.toInt) else BitVec.ofNat width (a.toNat % b.toNat)
/-- div and divn (R145, R146). -/
def aluDiv (signed w : Bool) (a b : Word) : Word := dotW w (quotient 64 signed) (quotient 32 signed) a b
/-- rem and remn (R145, R146). -/
def aluRem (signed w : Bool) (a b : Word) : Word := dotW w (remainder 64 signed) (remainder 32 signed) a b

/-- Set bits of a number of a width. -/
def popCount (width x : Nat) : Nat := ((List.range width).filter (fun i => x.testBit i)).length
/-- Zero bits above the highest set bit (R147). -/
def leadingZeros (width x : Nat) : Nat :=
  match (List.range width).find? (fun i => x.testBit (width - 1 - i)) with
  | some n => n
  | none => width
/-- Zero bits below the lowest set bit (R147). -/
def trailingZeros (width x : Nat) : Nat :=
  match (List.range width).find? (fun i => x.testBit i) with
  | some n => n
  | none => width
/-- The operand of popc, clz and ctz: 64 bits, or bits [31:0] under .w (R147). -/
def counted (w : Bool) (f : Nat → Nat → Nat) (a : Word) : Word :=
  if w then BitVec.ofNat 64 (f 32 (low32 a).toNat) else BitVec.ofNat 64 (f 64 a.toNat)
/-- rot (R147). -/
def aluRot (w : Bool) (a b : Word) : Word :=
  dotW w (fun a b => a.rotateRight (b.toNat % 64)) (fun a b => a.rotateRight (b.toNat % 32)) a b
/-- The bytes of a number in reverse order. -/
def reverseBytes : Nat → Nat → Nat
  | 0, _ => 0
  | n + 1, x => x % 256 * 256 ^ n + reverseBytes n (x / 256)
/-- bswap (R147). -/
def aluBswap (w : Bool) (a : Word) : Word :=
  if w then sext32 (BitVec.ofNat 32 (reverseBytes 4 (low32 a).toNat)) else BitVec.ofNat 64 (reverseBytes 8 a.toNat)

/-- A field spec of bext and bins (R148): sign bit, width and position; none when a zero field is set or the field
passes bit 63. -/
def fieldSpec (spec : Word) : Option (Bool × Nat × Nat) :=
  let w := field spec 13 8 + 1
  let pos := field spec 5 0
  if 64 < pos + w ∨ field spec 63 17 ≠ 0 ∨ field spec 15 14 ≠ 0 ∨ field spec 7 6 ≠ 0 then none
  else some (spec.getLsbD 16, w, pos)
/-- bext (R148). -/
def extractField (sx : Bool) (w pos : Nat) (a : Word) : Word :=
  let x := a.toNat / 2 ^ pos % 2 ^ w
  if sx then BitVec.ofInt 64 (toSigned w x) else BitVec.ofNat 64 x
/-- bins (R148). -/
def insertField (w pos : Nat) (d a : Word) : Word :=
  let mask : Word := BitVec.ofNat 64 ((2 ^ w - 1) * 2 ^ pos)
  (d &&& ~~~mask) ||| (BitVec.ofNat 64 (a.toNat % 2 ^ w * 2 ^ pos))

/-- The scalar format that f selects (R149). -/
def scalarFmt (f64 : Bool) : Fmt := if f64 then .f64 else .f32
/-- The value of a scalar operand (R149). -/
def scalarVal (f64 : Bool) (x : Word) : Val := (scalarFmt f64).decode (x.toNat % 2 ^ (scalarFmt f64).width)
/-- A scalar result: an f32 leaves bits [63:32] zero (R149). -/
def scalarRes (f64 : Bool) (v : Val) : Word := BitVec.ofNat 64 ((scalarFmt f64).encode .rne v)
/-- A two-operand result (R149). -/
def scalarOp (f64 : Bool) (op : Val → Val → Val) (a b : Word) : Word :=
  scalarRes f64 (op (scalarVal f64 a) (scalarVal f64 b))
/-- fsub's exact value. -/
def Val.sub (a b : Val) : Val := a.add b.neg
/-- fma: one rounding (R149). -/
def scalarFma (f64 : Bool) (a b d : Word) : Word :=
  scalarRes f64 (((scalarVal f64 a).mul (scalarVal f64 b)).add (scalarVal f64 d))
/-- A comparison's condition word; false when either operand is a NaN (R149). -/
def scalarCmp (f64 : Bool) (ok : Ordering → Bool) (a b : Word) : Word :=
  match (scalarVal f64 a).cmp (scalarVal f64 b) with
  | some o => cond (ok o)
  | none => 0

/-- fcvt by its code (R151). -/
def convertScalar (code : Fin 8) (a : Word) : Word :=
  let s64 (v : Val) : Word := BitVec.ofInt 64 (v.toInt .rne (-(2 ^ 63 : Int)) (2 ^ 63 - 1))
  match code.val with
  | 0 => scalarRes true (scalarVal false a)
  | 1 => scalarRes false (scalarVal true a)
  | 2 => scalarRes true (Val.ofInt a.toInt)
  | 3 => s64 (scalarVal true a)
  | 4 => scalarRes false (Val.ofInt a.toInt)
  | 5 => s64 (scalarVal false a)
  | 6 => scalarRes true (Val.ofInt a.toNat)
  | _ => BitVec.ofInt 64 ((scalarVal true a).toInt .rne 0 (2 ^ 64 - 1))

end Sys2Proof.Machine
end

