-- ==== Sys2Proof/Machine/Operands.lean ====
section
/-! DEFINITION. Operand forms in memory: address classes (R198), the scratch aperture (R129, R130), translation (R414 to
R421), the trail's logging of stores (R132, R305), line claims and marks (R187, R224), and stream packets (R276 to
R282). -/

namespace Sys2Proof.Machine

/-! ### The scratch aperture -/

/-- An aperture address (R198). -/
def isAperture (ea : Word) : Bool := decide (field ea 56 48 = 0x1FF)

/-- Where a core serves the aperture for a partition (R130): the location of bank offset 0, the scratch size, the bank, and
the image's address where it is a bank image (else zero). -/
structure Served where
  base : Nat
  size : Nat
  bank : Nat
  image : Nat
  deriving DecidableEq, Repr

/-- The bank that serves a partition on a core (R130): the active bank, else the shadow bank in staged mode, else the
image of the partition's team that last occupied the core, which keeps the scratch size that it left with (R28). -/
def State.served (s : State) (part : Nat) (c : CoreId) : Option Served :=
  let holds (b : Nat) : Bool := match s.bankTeam b with | some t => (s.team t).part == part | none => false
  let act := s.activeBank c
  let sha := s.shadowBank c
  if holds act then some ⟨bankLoc act 0, s.scratchSize act, act, 0⟩
  else if (s.core c).staged && holds sha && (s.bank sha).image == 0 then some ⟨bankLoc sha 0, s.scratchSize sha, sha, 0⟩
  else
    match (s.core c).lastImage.get (fun _ => 0) part with
    | 0 => none
    | a =>
      some ⟨a + 131072, (s.images.get Bank.reset a).size, act, a⟩

/-- The queues of the bank or bank image that serves an access. -/
def State.servedBank (s : State) (v : Served) : Bank :=
  if v.image = 0 then s.bank v.bank else s.images.get Bank.reset v.image
/-- The state with those queues replaced. -/
def State.setServedBank (s : State) (v : Served) (x : Bank) : State :=
  if v.image = 0 then s.setBank v.bank x else { s with images := s.images.put v.image x }

/-- Checks 1 of R129: the aperture address is well formed and names a core of the partition. -/
def State.apertureCore (s : State) (part : Nat) (ea : Word) : Option CoreId :=
  if field ea 63 57 ≠ 0 ∨ field ea 37 21 ≠ 0 then none else s.absCore part (field ea 47 38)

/-- A stage or spill of a shadow bank or an image is under way: what it serves waits behind it (R130, R390). -/
def State.moving (s : State) (c : CoreId) (v : Served) : Bool :=
  (v.image != 0 && s.cores.any (fun e => e.2.ops.contains (.stage 8 v.image))) ||
  (v.image == 0 && v.bank == s.shadowBank c && (s.core c).ops.any (fun o => match o with | .spill n _ | .stage n _ => n == 8))

/-- The checks of R129 and R130 on an access of n bytes: the core, and where it is served. -/
def aperture (ea : Word) (n : Nat) : M (CoreId × Served) := do
  let s ← get
  match s.apertureCore s.me.part ea with
  | none => raise { cls := 2, detail := 5, addr := ea }
  | some c =>
    match s.served s.me.part c with
    | none => raise { cls := 2, detail := 9, addr := ea }
    | some v =>
      if v.size < field ea 20 0 + n then raise { cls := 2, detail := 4, addr := ea }
      else do
        await (!s.moving c v)
        pure (c, v)

/-! ### Translation -/

/-- The accesses that translation tells apart (R418, R135). -/
inductive Acc where
  | fetch | load | gather | store | atomic | copyRead | copyWrite | engineRead | engineWrite
  deriving DecidableEq, Repr

/-- The access kind's code (R418). -/
def Acc.code : Acc → Nat
  | .fetch => 0 | .load => 1 | .gather => 1 | .store => 2 | .atomic => 2 | _ => 3

/-- The leaf permissions that an access needs: x, r, w and eng are bits 4, 2, 3 and 5 (R415, R418). -/
def Acc.needs : Acc → List Nat
  | .fetch => [4] | .load => [2] | .gather => [2] | .store => [2, 3] | .atomic => [2, 3]
  | .copyRead => [5, 2] | .engineRead => [5, 2] | .copyWrite => [5, 3] | .engineWrite => [5, 3]

/-- Whether a pin of a kind covers an access (R135). An instruction's reads of its descriptor, list or packet and the read of waitge are
loads here too, as R418 translates them (DESIGN CHOICE, log 89). -/
def Acc.covers (kind : Nat) : Acc → Bool
  | .load => kind == 0 || kind == 2
  | .gather => kind == 0 || kind == 2
  | .store => kind == 1 || kind == 2
  | .atomic => kind == 2
  | .copyRead => kind == 3
  | .copyWrite => kind == 4
  | _ => false

/-- How an access reaches its lines: through L1, or at their homes (R186, R201, R206, R208). -/
def Acc.reach : Acc → Reach
  | .load => .load
  | .store => .store
  | .gather | .atomic | .copyWrite | .engineWrite => .write
  | .fetch | .copyRead | .engineRead => .read

/-- A translation: the page's base address and size, its level, and its leaf entry. -/
structure Leaf where
  page : Nat
  size : Nat
  level : Nat
  pte : Word
  deriving DecidableEq, Repr

/-- A remote leaf (R416). -/
def Leaf.isRemote (l : Leaf) : Bool := l.pte.getLsbD 11
/-- A page with the SC attribute (R133). -/
def Leaf.isSC (l : Leaf) : Bool := l.pte.getLsbD 6
/-- The physical address of an address in a local page. -/
def Leaf.pa (l : Leaf) (va : Nat) : Nat := field l.pte 46 12 * 4096 + va % l.size
/-- The destination package of a remote page (R416). -/
def Leaf.gid (l : Leaf) : Nat := field l.pte 63 53 * 1024 + field l.pte 52 43
/-- The destination address of an address in a remote page (R416). -/
def Leaf.dest (l : Leaf) (va : Nat) : Word :=
  if l.pte.getLsbD 12 then BitVec.ofNat 64 (0x01FF000000000000 + field l.pte 22 13 * 2 ^ 38 + va % 2 ^ 21)
  else BitVec.ofNat 64 (field l.pte 38 13 * 2 ^ 21 + va % l.size)

/-- Page bytes of a leaf by level (R414). -/
def pageBytes (level : Nat) (big : Bool) : Nat :=
  match level with
  | 2 => 2 ^ 30 | 1 => 2 ^ 21 | _ => if big then 2 ^ 16 else 2 ^ 12

/-- A class 1 cause (R423) with the address and the entry where the walk stopped (R427). -/
def walkFault (acc : Acc) (level reason : Nat) (va : Nat) (pte : Word) : Trap :=
  { cls := 1, detail := acc.code * 16 + level * 4 + reason, addr := BitVec.ofNat 64 va, word := pte }

/-- A table entry's attribute conflict (R475): reserved bits, or no leaf at level 0. -/
def tableConflict (level : Nat) (pte : Word) : Bool :=
  decide (level = 0) || decide (field pte 55 47 ≠ 0) || decide (field pte 11 2 ≠ 0)

/-- A remote leaf's attribute conflict (R416, R417). -/
def remoteConflict (acc : Acc) (level : Nat) (pte : Word) : Bool :=
  decide (acc = .fetch) || decide (level = 0) || decide (level = 3) || (pte.getLsbD 12 && decide (level = 2)) ||
  decide (field pte 42 39 ≠ 0) || decide (field pte 10 4 ≠ 0) || pte.getLsbD 2 ||
  (pte.getLsbD 12 && decide (field pte 38 23 ≠ 0)) || (!pte.getLsbD 12 && decide (level = 2) && decide (field pte 21 13 ≠ 0))

/-- Whether two ranges of bytes overlap. -/
def overlap (a n b m : Nat) : Bool := decide (a < b + m) && decide (b < a + n)

/-- The protected region (R381). -/
def State.protects (s : State) (a n : Nat) : Bool := overlap a n s.regbase.toNat s.regsize.toNat

/-- A local leaf's attribute conflict (R417, R475, R381). -/
def State.localConflict (s : State) (part level : Nat) (pte : Word) : Bool :=
  let big := pte.getLsbD 47
  let size := pageBytes level big
  let base := field pte 46 12 * 4096
  let p := s.part part
  decide (field pte 55 48 ≠ 0) || decide (level = 3) || (big && decide (level ≠ 0)) || decide (base % size ≠ 0) ||
  decide (base < p.hbase) || decide (p.hbase + p.hsize < base + size) || s.protects base size

/-- The tests of R417 on a leaf: attribute conflict, then permission. A plain access to a remote page is left to R274. -/
def State.checkLeaf (s : State) (part : Nat) (acc : Acc) (level va : Nat) (pte : Word) : Except Trap Leaf :=
  if pte.getLsbD 11 then
    if remoteConflict acc level pte then .error (walkFault acc level 2 va pte)
    else if acc.needs.contains 3 && !pte.getLsbD 3 then .error (walkFault acc level 1 va pte)
    else .ok ⟨va / pageBytes level false * pageBytes level false, pageBytes level false, level, pte⟩
  else if s.localConflict part level pte then .error (walkFault acc level 2 va pte)
  else if acc.needs.all (fun b => pte.getLsbD b) then
    let size := pageBytes level (pte.getLsbD 47)
    .ok ⟨va / size * size, size, level, pte⟩
  else .error (walkFault acc level 1 va pte)

/-- A walk from a level downward (R414, R417); each entry is read physically, and poison in one is trap(2, 3) (R424). -/
def State.walkFrom (s : State) (part : Nat) (acc : Acc) (va : Nat) : Nat → Nat → Except Trap Leaf
  | level, table =>
    let e := table + va / 2 ^ (12 + 9 * level) % 512 * 8
    let pte := s.word e
    if s.poison.contains (lineOf e) then .error { cls := 2, detail := 3, addr := BitVec.ofNat 64 (lineOf e * 128) }
    else if pte.getLsbD 0 = false then .error (walkFault acc level 0 va pte)
    else if pte.getLsbD 1 then s.checkLeaf part acc level va pte
    else if tableConflict level pte then .error (walkFault acc level 2 va pte)
    else
      match level with
      | 0 => .error (walkFault acc 0 2 va pte)
      | l + 1 => s.walkFrom part acc va l (field pte 46 12 * 4096)

/-- The translation of an address in a partition (R414). -/
def State.walk (s : State) (part : Nat) (acc : Acc) (va : Nat) : Except Trap Leaf :=
  if 2 ^ 48 ≤ va then .error (walkFault acc 3 0 va 0)
  else s.walkFrom part acc va 3 (s.part part).ptroot

/-- The physical address that a page table gives an address of local memory, whatever the leaf permits (R414). -/
def State.mappedFrom (s : State) (va : Nat) : Nat → Nat → Option Nat
  | level, table =>
    let pte := s.word (table + va / 2 ^ (12 + 9 * level) % 512 * 8)
    if pte.getLsbD 0 = false then none
    else if pte.getLsbD 1 then
      if pte.getLsbD 11 then none else some (field pte 46 12 * 4096 + va % pageBytes level (pte.getLsbD 47))
    else
      match level with
      | 0 => none
      | l + 1 => s.mappedFrom va l (field pte 46 12 * 4096)

/-- The physical address of an address in a partition's local memory. -/
def State.mapped (s : State) (part va : Nat) : Option Nat :=
  if 2 ^ 48 ≤ va then none else s.mappedFrom va 3 (s.part part).ptroot

/-- The locations of the entries that a walk reads (R414). -/
def State.walkEntries (s : State) (va : Nat) : Nat → Nat → List Nat
  | level, table =>
    let e := table + va / 2 ^ (12 + 9 * level) % 512 * 8
    let pte := s.word e
    if pte.getLsbD 0 = false ∨ pte.getLsbD 1 = true ∨ tableConflict level pte = true then [e]
    else
      match level with
      | 0 => [e]
      | l + 1 => e :: s.walkEntries va l (field pte 46 12 * 4096)

/-- The cached translation of an address (R419). -/
def Core.cached (k : Core) (part va : Nat) : Option TlbEntry :=
  k.tlb.find? (fun e => e.part == part && decide (e.page ≤ va) && decide (va < e.page + e.size))

/-- The cache with an entry most recently used; 256 entries, the least recently used falls out (R419). -/
def Core.touch (k : Core) (e : TlbEntry) : Core := { k with tlb := (e :: k.tlb.erase e).take 256 }

/-- Whether a destination in this package lies in a scope of a core (R213, R218). -/
def inScope (c : CoreId) (q : Nat) (d : Dest) : Bool :=
  match q, d with
  | 0, _ => false
  | 1, .core e => e == c
  | 2, .core e => ridgeOf e == ridgeOf c
  | 3, .core e => dieOf e == dieOf c
  | 4, .core _ => true
  | 5, _ => true
  | _, .package _ => false
  | _, .core _ => false

/-- The address that a packet's body names. -/
def bodyAddr : PacketBody → Option Word
  | .store a _ | .copied _ _ a _ | .routed a _ | .atomAdd a _ | .atomFadd a _ | .atomXchg a _ | .atomCas a _ _ => some a
  | .setCounter _ | .close _ _ | .message _ => none

/-- The destination that scopes look at: a remote page may name this package's own cores or its memory (R213, R416). -/
def State.scopeDest (s : State) (p : Packet) (addr : Option Word) : Dest :=
  match p.dest, addr with
  | .package g, some a => if g = s.gid ∧ isAperture a then (match s.apertureCore p.part a with | some c => .core c | none => p.dest) else p.dest
  | d, _ => d

/-- Old bytes of code that a fence of a scope makes visible (R80): the fencing context's own wait for its jr; each covered context is
offered those that no earlier fence has. -/
def State.fenceCode (s : State) (q : Nat) : State :=
  let x := s.me
  let home := coreOf s.cur
  let offer (c : CtxId) (y : Ctx) : Ctx :=
    let new := x.unseen.filter (fun u => inScope home q (.core (coreOf c)) && !inScope home u.2.2 (.core (coreOf c)))
    if c = s.cur then y else { y with offered := y.offered ++ new.map (fun u => (u.1, u.2.1)) }
  let s : State := { s with ctxs := s.ctxs.map (fun e => (e.1, offer e.1 e.2)) }
  let wider := if 4 ≤ q then [] else x.unseen.map (fun u => (u.1, u.2.1, max u.2.2 q))
  s.setMe { x with stale := [], fenced := x.stale ++ x.fenced, unseen := wider }

/-- An acquire observes the fences of other contexts that came before it (R80, log 82). -/
def Ctx.acquire (x : Ctx) : Ctx := { x with fenced := x.offered ++ x.fenced, offered := [] }

/-! ### Claims, marks and poison -/

/-- The consecutive locations from one on. -/
def run (loc n : Nat) : List Nat := (List.range n).map (loc + ·)

/-- Whether a packet's destination lies in this package. -/
def State.isHere (s : State) (p : Packet) : Bool :=
  match p.dest with
  | .core _ => true
  | .package g => g == s.gid

/-- The locations of a packet's bytes at its destination, in the partition with the sender's number (R273, R279, R416); none where the
destination refuses them (R284). -/
def State.destLocs (s : State) (p : Packet) (addr : Word) (n : Nat) : Option (List Nat) :=
  if isAperture addr then
    match s.apertureCore p.part addr with
    | none => none
    | some c =>
      match s.served p.part c with
      | none => none
      | some v => if v.size < field addr 20 0 + n ∨ (p.dest ≠ .core c ∧ p.dest ≠ .package s.gid) then none
                  else some (run (v.base + field addr 20 0) n)
  else
    match p.dest with
    | .core _ => none
    | .package _ =>
      let a := addr.toNat
      let q := s.part p.part
      if q.valid ∧ q.hbase ≤ a ∧ a + n ≤ q.hbase + q.hsize ∧ s.protects a n = false then some (run a n) else none

/-- The locations of this package that a packet's body names, where its destination takes them. -/
def State.bodyLocs (s : State) (p : Packet) : List Nat :=
  let at_ (a : Word) (n : Nat) : List Nat := if s.isHere p then (s.destLocs p a n).getD [] else []
  match p.body with
  | .store a d | .routed a d => at_ a d.length
  | .copied _ _ a srcs => at_ a srcs.length
  | .atomAdd a _ | .atomXchg a _ | .atomCas a _ _ => at_ a 8
  | .atomFadd a _ => at_ a 4
  | .setCounter _ | .close _ _ | .message _ => []

/-- The locations of this package that a packet in flight is to change. -/
def State.landing (s : State) (p : Packet) : List Nat := if p.state == .sent then s.bodyLocs p else []

/-- The lines of this package that a packet in flight keeps to itself: a routed one claims them (R221), and one whose store is logged
holds them, since its entry and its write are one step (R305). -/
def State.routedLines (s : State) (p : Packet) : List Nat :=
  let lines (a : Word) (n : Nat) : List Nat := if s.isHere p && p.state == .sent then (((s.destLocs p a n).getD []).map lineOf).dedup else []
  match p.body with
  | .routed a d => lines a d.length
  | .store a d => if p.logged then lines a d.length else []
  | _ => []

/-- The lines that engines, spills and surveys have claimed (R187, R221, R342, R390). -/
def State.claims (s : State) : List Nat :=
  s.ridges.flatMap (fun r => (r.2.jobs ++ r.2.walks).flatMap Job.claims ++ r.2.copies.flatMap Copy.claims) ++
  s.cores.flatMap (fun k => k.2.surveys.flatMap (fun v => (List.range 32).map (fun i => lineOf v.dest + i))) ++
  s.cores.flatMap (fun k => k.2.ops.flatMap (fun o => match o with
    | .spill n d =>
      (List.range (if n < 8 then 512 else bankBytes k.2.cc k.2.staged / 128)).map (fun i => lineOf d + i)
    | .stage _ _ => [])) ++
  s.packets.flatMap s.routedLines

/-- The order of ordered tasks: H, then the rank at equal H, then the order of issue (R313, R334). -/
def Task.key (t : Task) : Nat := (t.h * 2 ^ 64 + t.rank) * 2 ^ 64 + t.id

/-- The ordered tasks that contexts run, those of spilled contexts too. -/
def State.runs (s : State) : List TaskRun := (s.ctxs ++ s.saved).filterMap (fun e => e.2.task)

/-- The running task with an id. -/
def State.runOf (s : State) (id : Nat) : Option Task := (s.runs.find? (fun r => r.task.id == id)).map TaskRun.task
/-- The key of a running task. -/
def State.keyOf (s : State) (id : Nat) : Nat := ((s.runOf id).map Task.key).getD 0

/-- A context runs a speculative ordered task (R305, R319). -/
def Ctx.speculates (x : Ctx) : Bool :=
  match x.task with
  | some r => r.speculative
  | none => false

/-- The lines of a list of locations. -/
def linesOf (locs : List Nat) : List Nat := (locs.map lineOf).dedup

/-- A line's ordered-task marks. -/
def State.marksOf (s : State) (line : Nat) : Marks := s.marks.get (fun _ => ⟨[], []⟩) line

/-- No speculative writer outside a context's domain has a line (R224). -/
def State.readableBy (s : State) (x : Option Ctx) (line : Nat) : Bool :=
  (s.marksOf line).writers.all (fun i => match x.bind Ctx.task with
    | some r => (s.runOf i).map Task.team == some r.task.team
    | none => false)
/-- No speculative writer outside the current context's domain has a line (R224). -/
def State.readable (s : State) (line : Nat) : Bool := s.readableBy (some s.me) line

/-- No engine has claimed the lines of some locations, and no speculative task outside a context's domain has written them: a reader need
not wait (R187, R224). Units that read for no context give none. -/
def State.openTo (s : State) (x : Option Ctx) (locs : List Nat) : Bool :=
  (linesOf locs).all (fun l => !s.claims.contains l && s.readableBy x l)

/-- The entries that a walk for a context reads need no wait (R414). -/
def State.walkFreeBy (s : State) (x : Option Ctx) (part va : Nat) : Bool :=
  decide (2 ^ 48 ≤ va) || s.openTo x (s.walkEntries va 3 (s.part part).ptroot)
/-- The entries that a walk of the current context reads need no wait (R414). -/
def State.walkFree (s : State) (part va : Nat) : Bool := s.walkFreeBy (some s.me) part va

/-- The oldest live pin of a context that covers an access to an address (R136). -/
def Ctx.coveringPin (x : Ctx) (acc : Acc) (va : Nat) : Option Pin :=
  x.livePins.find? (fun p => acc.covers p.kind && decide (p.page ≤ va) && decide (va < p.page + p.size))

/-- Translates an address for an access of the current context: a covering pin first, which the access ends (R136);
then the translation cache; then a walk, whose leaf the cache keeps (R419) and whose reads wait as loads do (R414). -/
def translate (acc : Acc) (va : Nat) : M Leaf := do
  let s ← get
  let x := s.me
  match x.coveringPin acc va with
  | some p => do
    modifyMe (fun x => { x with pins := x.pins.erase p })
    pure ⟨p.page, p.size, p.level, p.pte⟩
  | none =>
    match s.myCore.cached x.part va with
    | some e =>
      match s.checkLeaf x.part acc e.level va e.pte with
      | .error t => raise t
      | .ok l => do modifyCore (fun k => k.touch e); pure l
    | none => do
      await (s.walkFree x.part va)
      match s.walk x.part acc va with
      | .error t => raise t
      | .ok l => do
        modifyCore (fun k => k.touch ⟨x.part, (k.gens.get (fun _ => 0) x.part).toNat, l.page, l.size, l.level, l.pte⟩)
        pure l

/-! ### Locations of an access -/

/-- Runs parts of one access, each of which finds the pins that stood when the access began; the pins that any part used end
with the access (R136). -/
def underPins {α β : Type} (f : α → M β) (xs : List α) : M (List β) := do
  let p0 := (← getMe).pins
  let rs ← xs.mapM (fun x => do
    modifyMe (fun c => { c with pins := p0 })
    let r ← f x
    pure (r, p0.diff (← getMe).pins))
  let used := (rs.flatMap Prod.snd).dedup
  modifyMe (fun c => { c with pins := p0.diff used })
  pure (rs.map Prod.fst)

/-- Runs an action that ends no pin. -/
def keepPins {α : Type} (m : M α) : M α := do
  let p0 := (← getMe).pins
  let r ← m
  modifyMe (fun c => { c with pins := p0 })
  pure r

/-- A run of addresses cut at page boundaries, modulo 2^64. -/
def pieces : Nat → Nat → Nat → List (Nat × Nat)
  | 0, _, _ => []
  | k + 1, va, n =>
    if n = 0 then []
    else
      let len := min n (4096 - va % 4096)
      (va, len) :: pieces k ((va + len) % 2 ^ 64) (n - len)

/-- A physical access of a service core (R381): HBM4 only. -/
def physical (ea : Word) (n : Nat) : M (List Nat) :=
  if ea.toNat + n ≤ hbmTop then pure (run ea.toNat n) else throw (.fault .noStorage)

/-- Every earlier access of a context has completed (R133): its packets are acknowledged, and so are its core's stores and atomics. -/
def State.quietOf (s : State) (c : CtxId) : Bool := ((s.ctx c).unack == 0) && (s.core (coreOf c)).acks.isEmpty
/-- Every earlier access of the current context has completed. -/
def State.quiet (s : State) : Bool := s.quietOf s.cur

/-- A line that an engine has claimed or an ordered task has marked: it is not evicted (R210). -/
def State.busyLine (s : State) (line : Nat) : Bool :=
  s.claims.contains line || !((s.marksOf line).readers.isEmpty && (s.marksOf line).writers.isEmpty)

/-- An access reaches the lines of one page's part, under the attributes of the translation that it used (R415). -/
def State.reachLines (s : State) (acc : Acc) (l : Leaf) (va len : Nat) : State :=
  let pa := l.pa va
  (List.range (lineOf (pa + len - 1) + 1 - lineOf pa)).foldl (fun s i =>
    s.reach s.busyLine acc.reach (coreOf s.cur) ⟨lineOf pa + i, va / 128 * 128 + 128 * i, s.me.part, field l.pte 10 8, false⟩ (l.pte.getLsbD 7)) s

/-- The locations of one page's part of a plain access; a remote page refuses it (R274), and an SC page waits until
every earlier access has completed (R133). -/
def locatePiece (acc : Acc) (va len : Nat) : M (List Nat) := do
  let l ← translate acc va
  if l.isRemote then raise { cls := 3, detail := 0, addr := BitVec.ofNat 64 va }
  if l.isSC then
    await (← get).quiet
    if acc = .store ∨ acc = .atomic then modifyMe (fun x => { x with strict := true, owes := [], owed := [] })
  modify (fun s => s.reachLines acc l va len)
  pure (run (l.pa va) len)

/-- The locations, byte by byte, of a plain access of n bytes: every part is translated and checked before any part
performs (R127 to R129, R161). -/
def locate (acc : Acc) (ea : Word) (n : Nat) : M (List Nat) := do
  if isAperture ea then
    let (_, v) ← aperture ea n
    pure (run (v.base + field ea 20 0) n)
  else if isService (coreOf (← get).cur) then physical ea n
  else
    let parts ← underPins (fun p => locatePiece acc p.1 p.2) (pieces (n / 4096 + 2) ea.toNat n)
    pure parts.flatten

/-- The locations of the parts of one access, each at its own address: all are checked before any performs (R161, R241). -/
def locateAll (acc : Acc) (parts : List (Word × Nat)) : M (List (List Nat)) :=
  underPins (fun p => locate acc p.1 p.2) parts

/-- Ordered-task marks that an access to a line meets (R224, R316). -/
def meetLine (write : Bool) (line : Nat) : M Unit := do
  let s ← get
  let m := s.marksOf line
  match s.me.task with
  | none => await (m.writers.isEmpty)
  | some r =>
    let t := r.task
    let others (l : List Nat) : List Nat := l.filter (fun i => i != t.id)
    let sameDomain (i : Nat) : Bool := (s.runOf i).map Task.team == some t.team
    await ((others m.writers).all sameDomain)
    let later (i : Nat) : Bool := decide (t.key < s.keyOf i)
    let victims := (others (if write then m.readers ++ m.writers else m.writers)).filter later
    if victims ≠ [] then throw (.abort victims)
    if r.speculative then
      let marked := (m.readers ++ m.writers).dedup
      if 8 ≤ marked.length ∧ t.id ∉ marked then
        if marked.all later then
          match marked.argmax s.keyOf with
          | some i => throw (.abort [i])
          | none => stall
        else stall
      let m' : Marks :=
        if write then { m with writers := (t.id :: m.writers).dedup } else { m with readers := (t.id :: m.readers).dedup }
      set { s with marks := s.marks.put line m' }

/-- An engine's read of its sources meets the marks of ordered tasks (R224): a later task of its context's domain aborts, and any other
speculative writer is waited for. -/
def meetEngine (x : Option Ctx) (locs : List Nat) : M Unit := do
  let s ← get
  let writers := ((linesOf locs).flatMap (fun l => (s.marksOf l).writers)).dedup
  match x.bind Ctx.task with
  | none => await writers.isEmpty
  | some r => do
    await (writers.all (fun i => (s.runOf i).map Task.team == some r.task.team))
    let victims := writers.filter (fun i => i != r.task.id && decide (r.task.key < s.keyOf i))
    if victims ≠ [] then throw (.abort victims)

/-- Whether a packet is one of a stream, and not a message (R276). -/
def ofStream (p : Packet) : Bool := match p.body with | .message _ => false | _ => true

/-- A stream packet that the current context issued and that is not yet acknowledged (R276, R443). -/
def State.isMine (s : State) (p : Packet) : Bool := p.src.isSome && p.owner == s.me.source && ofStream p

/-- The current context has packets in flight to any of the locations of this package. -/
def State.inFlight (s : State) (locs : List Nat) : Bool := s.packets.any (fun p => s.isMine p && (s.landing p).any locs.contains)

/-- An access waits for the current context's own packets to the same bytes (R62, R186, R214). -/
def awaitOwn (locs : List Nat) : M Unit := do await (!(← get).inFlight locs)

/-- Consumed poison: the value still arrives, and the context takes trap(2, 0) at the next boundary (R424). -/
def consume (locs : List Nat) : M Unit := do
  let s ← get
  match (linesOf locs).find? s.poison.contains with
  | none => pure ()
  | some l => modifyMe (fun x => { x with
      faulted := some (x.faulted.getD { cls := 2, detail := 0, addr := BitVec.ofNat 64 (l * 128), precise := false }) })

/-- Waits and marks of an access to listed locations, before it performs. -/
def meet (write : Bool) (locs : List Nat) : M Unit := do
  let s ← get
  await (!(linesOf locs).any s.claims.contains)
  (linesOf locs).forM (meetLine write)

/-- Reads the bytes at listed locations as an access of the current context. -/
def readBytes (locs : List Nat) : M (List Byte) := do
  meet false locs
  consume locs
  return (← get).loadAt locs

/-- A plain load of n bytes at an address (R127): translated, checked and read. -/
def loadBytes (acc : Acc) (ea : Word) (n : Nat) : M (List Byte) := do
  let locs ← locate acc ea n
  awaitOwn locs
  readBytes locs

/-- A load of a number of n bytes, zero-extended. -/
def loadNat (acc : Acc) (ea : Word) (n : Nat) : M Nat := return leNat (← loadBytes acc ea n)

/-- A load of a 64-bit word. -/
def loadWord (acc : Acc) (ea : Word) : M Word := return BitVec.ofNat 64 (← loadNat acc ea 8)

/-! ### The trail -/

/-- The location of an offset of the current context's bank. -/
def State.myLoc (s : State) (off : Nat) : Nat := bankLoc (bankOf s.cur) off

/-- A context is logging (R305). -/
def Ctx.logging (x : Ctx) : Bool := (x.choice != 0) || x.speculates || x.region.isSome

/-- Pushes an item onto the trail (R303): past the limit a speculative task waits, and any other context takes
trap(5, 2) with the given k.UINFO (R306). -/
def pushTrail (info : Word) (item : List Word) : M Unit := do
  let s ← get
  let x := s.me
  let top := x.trailTop.toNat
  let n := 8 * item.length
  if x.trailLim.toNat < top + n then
    if x.speculates then stall .earliest else raise { cls := 5, detail := 2, info }
  set (s.storeWords (s.myLoc top) item)
  modifyMe (fun x => { x with trailTop := x.trailTop + BitVec.ofNat 64 n })

/-- The choice point records from one on, newest first, by the prev links (R304). -/
def State.choices (s : State) : Nat → Nat → List Nat
  | 0, _ => []
  | k + 1, c => if c = 0 then [] else c :: s.choices k (s.word (s.myLoc (c + 32))).toNat

/-- Bytes of an item by the kind in its first word (R303). -/
def itemBytes (w : Word) : Nat := if w.toNat % 8 = 3 ∨ w.toNat % 8 = 5 then 512 else 16

/-- The items between two offsets of a bank's storage, oldest first: offset and first word. -/
def State.itemsFrom (s : State) (base : Nat) : Nat → Nat → Nat → List (Nat × Word)
  | 0, _, _ => []
  | k + 1, off, top =>
    if top ≤ off then []
    else
      let w := s.word (base + off)
      (off, w) :: s.itemsFrom base k (off + itemBytes w) top

/-- The items of a context's trail, oldest first; the storage of its bank starts at a location. -/
def State.items (s : State) (base : Nat) (x : Ctx) : List (Nat × Word) :=
  s.itemsFrom base 16384 x.trailBase.toNat x.trailTop.toNat

/-- The items of the current context's trail. -/
def State.myItems (s : State) : List (Nat × Word) := s.items (s.myLoc 0) s.me

/-- Clears the steal bit of every choice point record below a logged memory entry, dead ones too (R307). -/
def clearSteals : M Unit := fun s =>
  .ok ((), (s.myItems.filter (fun i => decide (i.2.toNat % 8 = 3))).foldl (fun s i =>
    s.store (s.myLoc (i.1 + 40)) 1 (s.load (s.myLoc (i.1 + 40)) 1 / 2 * 2)) s)

/-- Logs the memory entry of one aligned word before it changes (R132, R303, R305). -/
def logWord (ea : Word) (addr : Nat) (loc : Nat) : M Unit := do
  let s ← get
  pushTrail ea [BitVec.ofNat 64 (addr / 8 * 8 + 2), s.word loc]
  clearSteals

/-- The aligned words that a store changes: each word's address and location. -/
def storedWords (ea : Word) (locs : List Nat) : List (Nat × Nat) :=
  let first := ea.toNat / 8
  let last := (ea.toNat + locs.length - 1) / 8
  (List.range (last + 1 - first)).map (fun i =>
    let addr := (first + i) * 8
    (addr % 2 ^ 64, if ea.toNat ≤ addr then locs.getD (addr - ea.toNat) 0 else locs.headD 0 - (ea.toNat - addr)))

/-- Logs one memory entry for each aligned word that a store changes (R132, R236). -/
def logStore (ea : Word) (locs : List Nat) : M Unit := do
  if (← getMe).logging then (storedWords ea locs).forM (fun w => logWord ea w.1 w.2)

/-- An irrevocable mark's words (R303): the field for the op holds its low four bits (log 16). -/
def irrevocable (page op : Nat) (pc : Word) : List Word := [BitVec.ofNat 64 (page * 256 + op % 16 * 16 + 6), pc]

/-- Logs an irrevocable mark when a choice point or ordered task is open: a speculative task waits first (R321), and
inside a fabric region nothing is pushed (R236, R323, R295). -/
def logMark (page op : Nat) : M Unit := do
  let x ← getMe
  await (!x.speculates) .earliest
  if x.region.isNone && x.choice != 0 then pushTrail 0 (irrevocable page op x.pc)

/-- A page 6 instruction in a speculative task waits until the task is the earliest (R321). -/
def awaitEarliest : M Unit := do await (!(← getMe).speculates) .earliest

/-! ### Stream packets -/

/-- The next sequence number of a (stream, destination) of a context (R275, R282). -/
def Ctx.sender (x : Ctx) (sid : Nat) (dest : Dest) : Sender :=
  (x.streams.find? (fun e => e.sid == sid && e.dest == dest)).getD ⟨sid, dest, 0, false⟩
/-- A context with a sender entry replaced. -/
def Ctx.setSender (x : Ctx) (e : Sender) : Ctx :=
  { x with streams := e :: x.streams.filter (fun y => !(y.sid == e.sid && y.dest == e.dest)) }

/-- A class of 3 raises trap(0, 9) before the address is looked at (R277). -/
def classed (cls : Nat) : M Unit := require (cls != 3) 0 9

/-- A stream's identity at issue (R277, R286): a class 2 store takes its stream and epoch from the request record that
started its handler. -/
def streamOf (sid cls : Nat) : M (Nat × Nat) := do
  let s ← get
  if cls = 2 then
    match s.me.event with
    | some { tag := some (tag, epoch), .. } => if sid = 0 then pure (tag, epoch) else trap 3 2
    | _ => trap 3 2
  else pure (sid, (s.part s.me.part).fepoch)

/-- The counter that a stream's packets name: zero, or an aligned aperture address (R281). -/
def counterOf (sid : Nat) : M Word := do
  let x ← getMe
  let c := (x.strc[sid]?).getD 0
  if c = 0 then pure 0
  else if isAperture c && decide (c.toNat % 8 = 0) && decide (field c 63 57 = 0) && decide (field c 37 21 = 0) then pure c
  else trap 3 11

/-- A region's record of what it issues, within the limits of R290. -/
def Region.use (r : Region) (sid : Nat) (dest : Dest) (next : Nat) (atomic : Bool) : Option Region :=
  let u := (r.uses.find? (fun u => u.sid == sid && u.dest == dest)).getD ⟨sid, dest, next, 0, 0⟩
  let u' := { u with issued := u.issued + 1, atomics := u.atomics + atomic.toNat }
  if 256 < u'.issued ∨ 64 < u'.atomics then none
  else some { r with uses := u' :: r.uses.filter (fun v => !(v.sid == sid && v.dest == dest)) }

/-- Whether a packet body is a remote atomic. -/
def isAtomicBody : PacketBody → Bool
  | .atomAdd _ _ | .atomFadd _ _ | .atomXchg _ _ | .atomCas _ _ _ => true
  | _ => false

/-- Counts an item that a core has sent for a partition (R430). -/
def State.countSentAt (s : State) (c : CoreId) (p : Nat) : State :=
  let k := s.core c
  let n := k.count p
  s.setCore c { k with counts := k.counts.put p { n with sent := n.sent + 1 } }

/-- Counts an item that a context's core has sent for its partition (R430). -/
def State.countSent (s : State) (c : CtxId) : State := s.countSentAt (coreOf c) (s.ctx c).part

/-- Counts an item that has arrived at a core for a partition (R430). -/
def State.countRecv (s : State) (c : CoreId) (p : Nat) : State :=
  let k := s.core c
  let n := k.count p
  s.setCore c { k with counts := k.counts.put p { n with recv := n.recv + 1 } }

/-- The next link that is up, after one taken last. -/
def nextUp (up : Nat → Bool) (count last : Nat) : Nat :=
  (((List.range count).map (fun i => (last + 1 + i) % count)).find? up).getD last

/-- The link of a packet to a destination: the next station of the pod whose link is up, with its plane, or the next such Ethernet port, with
the endpoint that the pod map gives (R460, R461). -/
def State.linkFor (s : State) (dest : Dest) : Link :=
  match dest with
  | .core _ => .inside
  | .package g =>
    if g = s.gid then .inside
    else if g / 1024 = s.pod then
      let n := nextUp s.stations.getLsbD 32 s.nextStation
      .station n (n % s.planes)
    else .port (nextUp s.ports.getLsbD 4 s.nextPort) (((s.podMap.find? (fun e => e.1 == g)).map Prod.snd).getD [])

/-- A packet takes its link, and the next one to the same side takes the next (R460, R461). -/
def State.spray (s : State) (dest : Dest) : State :=
  match s.linkFor dest with
  | .inside => s
  | .station n _ => { s with nextStation := n }
  | .port n _ => { s with nextPort := n }

/-- A link to a destination is up; with none, packets to it fail (R460, R461). -/
def State.reaches (s : State) (dest : Dest) : Bool :=
  match s.linkFor dest with
  | .inside => true
  | .station _ _ => s.stations != 0
  | .port _ _ => s.ports != 0

/-- A contour message counts as sent in the sums of its domain; one of another package does so there (R341). -/
def State.contourSent (s : State) (m : Message) : State :=
  if m.crossing.isSome then s.setTeam m.team { s.team m.team with sentMsgs := (s.team m.team).sentMsgs + 1 } else s

/-- A contour message no longer travels: it counts as received in its team's sums (R341). -/
def State.contourReceived (s : State) (m : Message) : State :=
  if m.crossing.isSome then s.setTeam m.team { s.team m.team with recvMsgs := (s.team m.team).recvMsgs + 1 } else s

/-- A message leaves a core for another package: it is in flight until that package has queued it (R42, R334). -/
def State.departMessage (s : State) (c : CoreId) (m : Message) : State :=
  let p : Packet :=
    { id := s.packetNext, src := m.src, owner := m.owner, srcPackage := s.gid, srcPlace := placeOf c, srcCtx := (m.src.map ctxNum).getD 0,
      part := m.part, team := m.team, dest := m.dest, sid := 0, cls := 0, seq := 0, epoch := 0, region := false, counter := 0,
      body := .message m, state := .sent, result := 0, link := s.linkFor m.dest }
  { s.spray m.dest with packets := s.packets ++ [p], packetNext := s.packetNext + 1 }

/-- Sends one packet: it takes the next sequence number of its (context, stream, destination) and counts in k.UNACK
until it is acknowledged (R276, R280). A broken stream raises trap(3, 9), a region's limits trap(3, 3). -/
def sendPacket (sid cls : Nat) (dest : Dest) (body : PacketBody) : M Nat := do
  let (st, epoch) ← streamOf sid cls
  let counter ← (if cls = 2 then pure 0 else counterOf st)
  let s ← get
  let x := s.me
  let e := x.sender st dest
  if e.broken then trap 3 9
  let region ← (match x.region with
    | none => pure none
    | some r =>
      match r.use st dest e.next (isAtomicBody body) with
      | none => trap 3 3
      | some r' => pure (some r') : M (Option Region))
  let p : Packet :=
    { id := s.packetNext, src := some s.cur, owner := x.source, srcPackage := s.gid, srcPlace := placeOf (coreOf s.cur), srcCtx := ctxNum s.cur,
      part := x.part, team := s.myTeam, dest, sid := st, cls, seq := e.next, epoch, region := x.region.isSome,
      counter, body, state := .sent, result := 0, sentAt := (s.part x.part).clock,
      task := x.task.map (fun r => r.task.id), gen := s.myCore.gens.get (fun _ => 0) x.part, strong := isAtomicBody body, link := s.linkFor dest }
  let x' := { x.setSender { e with next := (e.next + 1) % 2 ^ 24 } with region, unack := x.unack + 1 }
  set { ((s.setMe x').countSent s.cur).spray dest with packets := s.packets ++ [p], packetNext := s.packetNext + 1 }
  pure s.packetNext

/-! ### Stores -/

/-- Poison goes from every line of which all bytes are written (R211). -/
def State.cleanseWhere (s : State) (written : Nat → Bool) : State :=
  { s with poison := s.poison.filter (fun l => !(List.range 128).all (fun i => written (l * 128 + i))) }

/-- Poison that a store of a whole line clears (R211). -/
def State.cleanse (s : State) (locs : List Nat) : State :=
  { s with poison := s.poison.filter (fun l => !(decide (128 ≤ locs.length) && (List.range 128).all (fun i => locs.contains (l * 128 + i)))) }

/-- A core receives the oldest acknowledgement that a home owes it: it records the write generation, its egress entry is free, and the strong
access that the acknowledgement ends is no longer pending (R204, R205, R219, R420). -/
def State.receiveAck (s : State) (c : CoreId) : State :=
  let k := s.core c
  match k.acks with
  | [] => s
  | (h, g) :: rest =>
    let left := (s.strong.get (fun _ => []) c).filter (fun p => !(p.home == h && p.gen == g))
    { s.setCore c { k with acks := rest, egress := k.egress.tail, homeGens := k.homeGens.put h g } with strong := s.strong.put c left }

/-- A home slice performs a store to a line: every copy but an exclusive one of the issuing core is gone first, its write generation
advances, and the issuing core awaits the acknowledgement that carries it, with an egress entry that keeps the access's k.GEN until then; with
all 64 entries in use, the oldest is acknowledged first (R201, R204, R205, R420). -/
def State.stamp (s : State) (part line : Nat) : State :=
  let c := coreOf s.cur
  let s := if 64 ≤ (s.core c).egress.length then s.receiveAck c else s
  let s := s.dropCopies line (if (s.dir line).owner = some c then some c else none)
  let h := s.homeSlice part (line * 128)
  let s := s.generation part line
  let k := s.core c
  s.setCore c { k with acks := k.acks ++ [(h, s.homeGens.get (fun _ => 0) h)], egress := k.egress ++ [k.gens.get (fun _ => 0) s.me.part] }
/-- The stamps of the lines of a store to translated memory; a service core's address is physical (R381). -/
def State.stampAll (s : State) (locs : List Nat) : State :=
  let part := if isService (coreOf s.cur) then s.partAt (locs.headD 0) else s.me.part
  (linesOf (locs.filter (fun l => decide (l < hbmTop)))).foldl (fun s l => s.stamp part l) s

/-- Performs a store at listed locations of translated memory at its home (R204): the old bytes may still be fetched as
instructions (R80), and the home's acknowledgement is outstanding; on an SC page the next bundle waits for it (R133). -/
def perform (locs : List Nat) (data : List Byte) : M Unit := fun s =>
  let x := s.me
  let old := locs.map (fun l => (l, s.mem.read l))
  let s := s.setMe { x with stale := x.stale ++ old, unseen := x.unseen ++ old.map (fun e => (e.1, e.2, 0)) }
  let s := s.stampAll locs
  let s := if x.strict then s.setMe { s.me with owes := s.myCore.acks } else s
  .ok ((), (s.storeAt locs data).cleanse locs)

/-- A store to translated memory: located, logged and performed (R127, R132). -/
def storePlain (acc : Acc) (ea : Word) (data : List Byte) : M Unit := do
  let locs ← locate acc ea data.length
  awaitOwn locs
  meet true locs
  logStore ea locs
  perform locs data

/-! ### Strong accesses (R219) -/

/-- The strong accesses that are pending: those that their homes have not acknowledged, and the committed stl and atomics of streams whose
issuer has no acknowledgement (R219, log 5). -/
def State.pendingStrong (s : State) : List Strong :=
  s.strong.flatMap Prod.snd ++
  s.packets.filterMap (fun p =>
    if p.strong && p.state == .committed then
      match s.bodyLocs p with | [] => none | l :: ls => some ⟨p.owner, l, ls.length + 1, 0, 0, p.seen⟩
    else none)

/-- The bytes of a strong access that a pending strong access of another context and size overlaps, where no acquire orders the two
(R219, log 5). -/
def State.mixedFor (s : State) (source : Nat) (locs : List Nat) : List Nat :=
  let n := locs.length
  let others := s.pendingStrong.filter (fun p =>
    p.source != source && p.size != n && !p.seen.contains source && overlap p.loc p.size (locs.headD 0) n)
  locs.filter (fun l => others.any (fun p => decide (p.loc ≤ l) && decide (l < p.loc + p.size)))

/-- The bytes of the current context's strong access that a pending one of another size overlaps. -/
def State.mixedBytes (s : State) (locs : List Nat) : List Nat := s.mixedFor s.me.source locs

/-- An acquire that reads bytes of a pending strong store comes after it: its context's later accesses are ordered (R217, R219). -/
def observe (locs : List Nat) : M Unit := modify (fun s =>
  let read (loc size : Nat) : Bool := overlap loc size (locs.headD 0) locs.length
  { s with
    strong := s.strong.map (fun e => (e.1, e.2.map (fun p => if read p.loc p.size then { p with seen := s.me.source :: p.seen } else p)))
    packets := s.packets.map (fun p =>
      if p.strong && p.state == .committed && (s.bodyLocs p).any locs.contains then { p with seen := s.me.source :: p.seen } else p) })

/-- A strong access with the debug attribute is refused where it would mix sizes (R219). -/
def refuseMixed (ea : Word) (locs : List Nat) : M Unit := do
  let s ← get
  if s.mixedBytes locs ≠ [] ∧ s.me.status.getLsbD 2 = true then raise { cls := 2, detail := 7, addr := ea }

/-- The overlapped bytes of a mixed-size overlap hold free values (R219). -/
def scramble (locs : List Nat) : M Unit :=
  locs.forM (fun l => do
    let b ← takeByte
    modify (fun s => s.storeAt [l] [b]))

/-- A strong store or atomic performs at its home, and is pending there until its core has the acknowledgement (R204, R219). -/
def performStrong (ea : Word) (locs : List Nat) (data : List Byte) : M Unit := do
  refuseMixed ea locs
  let mixed := (← get).mixedBytes locs
  perform locs data
  scramble mixed
  modify (fun s =>
    let c := coreOf s.cur
    match s.myCore.acks.getLast? with
    | none => s
    | some a => { s with strong := s.strong.put c (⟨s.me.source, locs.headD 0, locs.length, a.1, a.2, []⟩ :: s.strong.get (fun _ => []) c) })

/-- A release store to translated memory (R140, R219). -/
def storeStrong (ea : Word) (data : List Byte) : M Unit := do
  let locs ← locate .store ea data.length
  meet true locs
  refuseMixed ea locs
  logStore ea locs
  performStrong ea locs data

/-- No packet in flight is to change any of the locations of this package. -/
def State.stillHere (s : State) (locs : List Nat) : Bool := !s.packets.any (fun p => (s.landing p).any locs.contains)

/-- What a store to the context's own scratch does before it is sent: in an ordered task it meets the lines' marks (R224, R316), and
where it is logged the bytes have settled, and its entries hold them (R132, R305). -/
def ownStore (ea : Word) (locs : List Nat) : M Unit := do
  let x ← getMe
  if x.task.isSome || x.logging then meet true locs
  if x.logging then
    await ((← get).stillHere locs)
    logStore ea locs

/-- A packet is a strong access (R219). -/
def markStrong (id : Nat) : M Unit :=
  modify (fun s => { s with packets := s.packets.map (fun p => if p.id = id then { p with strong := true } else p) })

/-- A packet's bytes are held by the trail. -/
def markLogged (id : Nat) : M Unit :=
  modify (fun s => { s with packets := s.packets.map (fun p => if p.id = id then { p with logged := true } else p) })

/-- A store through the aperture: checked under R129, logged under R132, and sent as a packet of its stream (R131). -/
def storeAperture (page op : Nat) (ea : Word) (data : List Byte) (sid cls : Nat) : M Unit := do
  classed cls
  let (c, v) ← aperture ea data.length
  let s ← get
  let x := s.me
  let locs := run (v.base + field ea 20 0) data.length
  let own := decide (c = coreOf s.cur)
  if own then ownStore ea locs
  else if x.logging then
    await (!x.speculates) .earliest
    pushTrail 0 (irrevocable page op x.pc)
  let id ← sendPacket sid cls (.core c) (.store ea data)
  if own && x.logging then markLogged id

/-- A page 0 store or stl (R127, R131): XS on an address outside the aperture is trap(0, 4) before any other check. -/
def storeData (op : Nat) (ea : Word) (data : List Byte) (xs : Option XS) : M Unit := do
  if isAperture ea then
    storeAperture 0 op ea data ((xs.map (fun x => x.sid.val)).getD 0) ((xs.map (fun x => x.cls.val)).getD 0)
  else storePlain .store ea data

/-- The leaf entry under which an access of the current context reaches an address: a covering pin's, else the translation cache's, else
a walk's (R136, R419). -/
def State.leafEntry (s : State) (acc : Acc) (va : Nat) : Option Word :=
  match s.me.coveringPin acc va with
  | some p => some p.pte
  | none =>
    match s.myCore.cached s.me.part va with
    | some e => some e.pte
    | none => match s.walk s.me.part acc va with | .ok l => some l.pte | .error _ => none

/-- Whether an access touches a page with the SC attribute (R133): a non-zero la then acts as la = 0. -/
def State.touchesSC (s : State) (acc : Acc) (ea : Word) (n : Nat) : Bool :=
  !isAperture ea && !isService (coreOf s.cur) && (pieces (n / 4096 + 2) ea.toNat n).any (fun p =>
    match s.leafEntry acc p.1 with
    | some w => w.getLsbD 6 && !w.getLsbD 11
    | none => false)

/-- The lines of those parts of an engine's source that lie on SC pages: the command's place in their order is its acceptance, so it claims
them (R220). -/
def State.heldSources (s : State) (acc : Acc) (parts : List (Word × Nat)) (locs : List (List Nat)) : List Nat :=
  (parts.zip locs).flatMap (fun p => if s.touchesSC acc p.1.1 p.1.2 then linesOf p.2 else [])

/-- The lookahead that a load takes: none on an SC page (R133). -/
def windowOf (acc : Acc) (ea : Word) (n : Nat) (la : La) : M La := do
  if (← get).touchesSC acc ea n then pure 0 else pure la

/-- The lookahead that a strong access takes: none on an SC page (R133) or under the debug attribute (R219). -/
def strongWindow (acc : Acc) (ea : Word) (n : Nat) (la : La) : M La := do
  if (← getMe).status.getLsbD 2 then pure 0 else windowOf acc ea n la

/-- Natural alignment of a strong access (R141). -/
def aligned (ea : Word) (n : Nat) : M Unit :=
  if ea.toNat % n = 0 then pure () else raise { cls := 2, detail := 6, addr := ea }

/-- The address of a base and a scaled offset (R83, R127). -/
def offsetAddr (base : Word) (imm : Int) (scale : Nat) : Word := base + BitVec.ofInt 64 (imm * scale)

end Sys2Proof.Machine
end

