-- ==== Sys2Proof/Machine/Scalar.lean ====
section
/-! DEFINITION. Page 0 (R122 to R144): integer operations, immediates, loads and stores, touch, branches and jumps. -/

namespace Sys2Proof.Machine

/-- What a step of the machine answers. -/
abbrev Result := Host.Outcome State Fault Refusal

/-! ### Integer register operations (R122 to R124) -/

/-- A two-operand register operation: ports pop a, then b; the result goes to d (R17, R117). -/
def binary (f : Word → Word → Word) (d a b : GReg) : M Unit := do
  issue [a, b] [d] [] []
  let x ← readG a
  let y ← readG b
  writeG d (f x y)

/-- A one-operand register operation. -/
def unary (f : Word → Word) (d a : GReg) : M Unit := do
  issue [a] [d] [] []
  let x ← readG a
  writeG d (f x)

/-- An operation that reads d as data after a and b, and then writes it (R17, R124). -/
def ternary (f : Word → Word → Word → Word) (d a b : GReg) : M Unit := do
  issue [a, b, d] [d] [] []
  let x ← readG a
  let y ← readG b
  let z ← readG d
  writeG d (f x y z)

/-- add (R123). -/
def execAdd (d a b : GReg) (f : Bool) (s : State) : Result := runBundle (binary (aluAdd f) d a b) s
/-- sub (R123). -/
def execSub (d a b : GReg) (f : Bool) (s : State) : Result := runBundle (binary (aluSub f) d a b) s
/-- and (R123). -/
def execAnd (d a b : GReg) (f : Bool) (s : State) : Result := runBundle (binary (aluAnd f) d a b) s
/-- or (R123). -/
def execOr (d a b : GReg) (f : Bool) (s : State) : Result := runBundle (binary (aluOr f) d a b) s
/-- xor (R123). -/
def execXor (d a b : GReg) (f : Bool) (s : State) : Result := runBundle (binary (aluXor f) d a b) s
/-- shl (R123). -/
def execShl (d a b : GReg) (f : Bool) (s : State) : Result := runBundle (binary (aluShl f) d a b) s
/-- shr (R123). -/
def execShr (d a b : GReg) (f : Bool) (s : State) : Result := runBundle (binary (aluShr f) d a b) s
/-- sra (R123). -/
def execSra (d a b : GReg) (f : Bool) (s : State) : Result := runBundle (binary (aluSra f) d a b) s
/-- mul (R123). -/
def execMul (d a b : GReg) (f : Bool) (s : State) : Result := runBundle (binary (aluMul f) d a b) s
/-- mulh (R123). -/
def execMulh (d a b : GReg) (f : Bool) (s : State) : Result := runBundle (binary (aluMulh f) d a b) s
/-- min (R123). -/
def execMin (d a b : GReg) (f : Bool) (s : State) : Result := runBundle (binary (aluMin f) d a b) s
/-- max (R123). -/
def execMax (d a b : GReg) (f : Bool) (s : State) : Result := runBundle (binary (aluMax f) d a b) s
/-- seq (R123). -/
def execSeq (d a b : GReg) (f : Bool) (s : State) : Result := runBundle (binary (aluSeq f) d a b) s
/-- slt (R123). -/
def execSlt (d a b : GReg) (f : Bool) (s : State) : Result := runBundle (binary (aluSlt f) d a b) s

/-- sel: g[a] where the condition in d is non-zero, else g[b] (R119, R124). -/
def execSel (d a b : GReg) (s : State) : Result :=
  runBundle (ternary (fun x y c => if c ≠ 0 then x else y) d a b) s

/-! ### Immediates and constants (R125) -/

/-- addi (R125). -/
def execAddi (d a : GReg) (imm : Int) (s : State) : Result := runBundle (unary (· + BitVec.ofInt 64 imm) d a) s
/-- andi (R125). -/
def execAndi (d a : GReg) (imm : Nat) (s : State) : Result := runBundle (unary (· &&& BitVec.ofNat 64 imm) d a) s
/-- ori (R125). -/
def execOri (d a : GReg) (imm : Nat) (s : State) : Result := runBundle (unary (· ||| BitVec.ofNat 64 imm) d a) s
/-- xori (R125). -/
def execXori (d a : GReg) (imm : Nat) (s : State) : Result := runBundle (unary (· ^^^ BitVec.ofNat 64 imm) d a) s
/-- shli (R125). -/
def execShli (d a : GReg) (imm : Nat) (s : State) : Result := runBundle (unary (· <<< imm) d a) s
/-- shri (R125). -/
def execShri (d a : GReg) (imm : Nat) (s : State) : Result := runBundle (unary (· >>> imm) d a) s
/-- srai (R125). -/
def execSrai (d a : GReg) (imm : Nat) (s : State) : Result := runBundle (unary (fun x => x.sshiftRight imm) d a) s
/-- slti (R125). -/
def execSlti (d a : GReg) (imm : Int) (s : State) : Result :=
  runBundle (unary (fun x => cond (decide (x.toInt < imm))) d a) s

/-- Writes a value made from the bundle address. -/
def constant (f : Word → Word) (d : GReg) : M Unit := do
  issue [] [d] [] []
  writeG d (f (← getMe).pc)

/-- li (R125). -/
def execLi (d : GReg) (imm : Int) (s : State) : Result := runBundle (constant (fun _ => BitVec.ofInt 64 imm) d) s
/-- lih: bits [63:40] of d (R125). -/
def execLih (d : GReg) (imm : Nat) (s : State) : Result :=
  runBundle (do
    issue [d] [d] [] []
    let x ← readG d
    writeG d (setHigh24 x imm)) s
/-- pcrel: the bundle address plus a byte offset (R83, R125). -/
def execPcrel (d : GReg) (imm : Int) (s : State) : Result := runBundle (constant (· + BitVec.ofInt 64 imm) d) s

/-! ### Loads and stores (R126 to R134) -/

/-- A loaded number extended to a register (R127). -/
def extend (signed : Bool) (size x : Nat) : Word :=
  if signed then BitVec.ofInt 64 (toSigned (8 * size) x) else BitVec.ofNat 64 x

/-- A load (R127): its checks come first, then its window opens (R61). -/
def loadStep (size : Nat) (signed : Bool) (d a : GReg) (imm : Int) (la : La) : M Unit := do
  issue [a] [d] [] []
  let base ← readG a
  let ea := offsetAddr base imm size
  let la' ← windowOf .load ea size la
  let x ← loadNat .load ea size
  late la' (.g d) (extend signed size x) 0

/-- ldb (R126, R127). -/
def execLdb (d a : GReg) (imm : Int) (la : La) (s : State) : Result := runBundle (loadStep 1 true d a imm la) s
/-- ldbn (R126, R127). -/
def execLdbn (d a : GReg) (imm : Int) (la : La) (s : State) : Result := runBundle (loadStep 1 false d a imm la) s
/-- ldh (R126, R127). -/
def execLdh (d a : GReg) (imm : Int) (la : La) (s : State) : Result := runBundle (loadStep 2 true d a imm la) s
/-- ldhn (R126, R127). -/
def execLdhn (d a : GReg) (imm : Int) (la : La) (s : State) : Result := runBundle (loadStep 2 false d a imm la) s
/-- ldw (R126, R127). -/
def execLdw (d a : GReg) (imm : Int) (la : La) (s : State) : Result := runBundle (loadStep 4 true d a imm la) s
/-- ldwn (R126, R127). -/
def execLdwn (d a : GReg) (imm : Int) (la : La) (s : State) : Result := runBundle (loadStep 4 false d a imm la) s
/-- ldd (R126, R127). -/
def execLdd (d a : GReg) (imm : Int) (la : La) (s : State) : Result := runBundle (loadStep 8 false d a imm la) s

/-- A store (R127): XS outside the aperture is trap(0, 4) before any other check of the address (R131). -/
def storeStep (op size : Nat) (d a : GReg) (imm : Int) (xs : Option XS) : M Unit := do
  issue [a, d] [] [] []
  let base ← readG a
  let x ← readG d
  let ea := offsetAddr base imm size
  require (xs.isNone || isAperture ea) 0 4
  storeData op ea (leBytes size x.toNat) xs

/-- stb (R126, R127). -/
def execStb (d a : GReg) (imm : Int) (xs : Option XS) (s : State) : Result := runBundle (storeStep 33 1 d a imm xs) s
/-- sth (R126, R127). -/
def execSth (d a : GReg) (imm : Int) (xs : Option XS) (s : State) : Result := runBundle (storeStep 34 2 d a imm xs) s
/-- stw (R126, R127). -/
def execStw (d a : GReg) (imm : Int) (xs : Option XS) (s : State) : Result := runBundle (storeStep 35 4 d a imm xs) s
/-- std (R126, R127). -/
def execStd (d a : GReg) (imm : Int) (xs : Option XS) (s : State) : Result := runBundle (storeStep 36 8 d a imm xs) s

/-! ### Touch (R135 to R138) -/

/-- The access that a kind of tch stands for (R135, R418). -/
def touchAcc (kind : Fin 8) : Acc :=
  match kind.val with
  | 0 => .load | 1 => .store | 2 => .atomic | 3 => .copyRead | _ => .copyWrite

/-- A translation that no pin serves: by the cache, else by a walk. -/
def translateFresh (acc : Acc) (va : Nat) : M Leaf := do
  let x ← getMe
  modifyMe (fun x => { x with pins := [] })
  let l ← translate acc va
  modifyMe (fun y => { y with pins := x.pins })
  pure l

/-- Records a pin: its window starts at 64 after this bundle has retired (R136). -/
def pin (kind : Fin 8) (l : Leaf) : M Unit :=
  modifyMe (fun x => { x with pins := x.pins ++ [⟨l.page, l.size, l.level, l.pte, kind.val, 65⟩] })

/-- tch (R135 to R138). Of an aperture address it makes every check of R129, as R136 says, of 8 bytes, since tch names no size (DESIGN
CHOICE, log 87). A service core's accesses are not translated, so there it pins nothing. -/
def execTch (kind : Fin 8) (a : GReg) (imm : Int) (_la : La) (s : State) : Result :=
  runBundle (do
    issue [a] [] [] []
    let base ← readG a
    let ea := offsetAddr base imm 8
    if isAperture ea then let _ ← aperture ea 8
    else if isService (coreOf (← get).cur) then pure ()
    else
      let acc := touchAcc kind
      let x ← getMe
      if 16 ≤ x.livePins.length then raise (walkFault acc 0 3 ea.toNat 0)
      let l ← translateFresh acc ea.toNat
      if l.isRemote && kind != 1 then raise { cls := 3, detail := 0, addr := ea }
      pin kind l) s

/-! ### Acquire loads and release stores (R139 to R141) -/

/-- Access bytes of a size code (R90). -/
def sizeOf (q : QType) : Nat := 2 ^ (3 - q.val)

/-- lda: an aligned load that every later access follows (R140, R141). -/
def execLda (d a : GReg) (imm : Int) (q : QType) (la : La) (s : State) : Result :=
  runBundle (do
    issue [a] [d] [] []
    let base ← readG a
    let n := sizeOf q
    let ea := offsetAddr base imm n
    aligned ea n
    let la' ← strongWindow .load ea n la
    let locs ← locate .load ea n
    awaitOwn locs
    meet false locs
    refuseMixed ea locs
    scramble ((← get).mixedBytes locs)
    let bytes ← readBytes locs
    observe locs
    modifyMe Ctx.acquire
    late la' (.g d) (BitVec.ofNat 64 (leNat bytes)) 0) s

/-- stl: an aligned store that becomes visible after every earlier access, aperture stores of every stream included
(R140, R141, R217). -/
def execStl (d a : GReg) (imm : Int) (q : QType) (xs : Option XS) (s : State) : Result :=
  runBundle (do
    issue [a, d] [] [] []
    let base ← readG a
    let x ← readG d
    let n := sizeOf q
    let ea := offsetAddr base imm n
    require (xs.isNone || isAperture ea) 0 4
    aligned ea n
    await (← get).quiet
    if isAperture ea then do
      let id := (← get).packetNext
      storeData 39 ea (leBytes n x.toNat) xs
      markStrong id
    else storeStrong ea (leBytes n x.toNat)) s

/-! ### Branches, jumps and misc (R142 to R144) -/

/-- The target of a branch or jump: the bundle address plus a word offset (R83). -/
def Ctx.target (x : Ctx) (imm : Int) : Word := x.pc + BitVec.ofInt 64 (2 * imm)

/-- A branch on two registers (R142). -/
def branch (taken : Word → Word → Bool) (a b : GReg) (imm : Int) : M Unit := do
  issue [a, b] [] [] []
  let x ← readG a
  let y ← readG b
  if taken x y then modifyMe (fun c => { c with npc := c.target imm })

/-- beq (R142). -/
def execBeq (a b : GReg) (imm : Int) (s : State) : Result := runBundle (branch (· == ·) a b imm) s
/-- bne (R142). -/
def execBne (a b : GReg) (imm : Int) (s : State) : Result := runBundle (branch (· != ·) a b imm) s
/-- blt (R142). -/
def execBlt (a b : GReg) (imm : Int) (s : State) : Result :=
  runBundle (branch (fun x y => decide (x.toInt < y.toInt)) a b imm) s
/-- bge (R142). -/
def execBge (a b : GReg) (imm : Int) (s : State) : Result :=
  runBundle (branch (fun x y => decide (y.toInt ≤ x.toInt)) a b imm) s
/-- bltn (R142). -/
def execBltn (a b : GReg) (imm : Int) (s : State) : Result :=
  runBundle (branch (fun x y => decide (x.toNat < y.toNat)) a b imm) s
/-- bgen (R142). -/
def execBgen (a b : GReg) (imm : Int) (s : State) : Result :=
  runBundle (branch (fun x y => decide (y.toNat ≤ x.toNat)) a b imm) s

/-- jmp (R143). -/
def execJmp (imm : Int) (s : State) : Result :=
  runBundle (modifyMe (fun c => { c with npc := c.target imm })) s
/-- jal: the link goes to g55 (R143). -/
def execJal (imm : Int) (s : State) : Result :=
  runBundle (do
    issue [] [55] [] []
    let x ← getMe
    writeG 55 x.npc
    modifyMe (fun c => { c with npc := c.target imm })) s
/-- jr: the target is read before the link is written, an odd one raises trap(0, 10); code fenced before it is fetched
as stored from here on (R80, R143). -/
def execJr (d a : GReg) (s : State) : Result :=
  runBundle (do
    issue [a] [d] [] []
    let t ← readG a
    require (!t.getLsbD 0) 0 10
    writeG d (← getMe).npc
    modifyMe (fun c => { c with npc := t, fenced := [] })) s

/-- nop (R144). -/
def execNop (s : State) : Result := runBundle (pure ()) s
/-- brk: trap(0, 11) (R144). -/
def execBrk (s : State) : Result := runBundle (trap 0 11) s

end Sys2Proof.Machine
end

