-- ==== Sys2Proof/Machine/Arith.lean ====
section
/-! DEFINITION. Page 1 without the control registers (R145 to R151, R154): division, bit operations, scalar floating
point and random numbers. -/

namespace Sys2Proof.Machine

/-- A two-operand long-latency operation (R60, R61). -/
def binaryLate (f : Word → Word → Word) (d a b : GReg) (la : La) : M Unit := do
  issue [a, b] [d] [] []
  let x ← readG a
  let y ← readG b
  late la (.g d) (f x y) 0

/-- div (R145, R146). -/
def execDiv (d a b : GReg) (f : Bool) (la : La) (s : State) : Result := runBundle (binaryLate (aluDiv true f) d a b la) s
/-- divn (R145, R146). -/
def execDivn (d a b : GReg) (f : Bool) (la : La) (s : State) : Result := runBundle (binaryLate (aluDiv false f) d a b la) s
/-- rem (R145, R146). -/
def execRem (d a b : GReg) (f : Bool) (la : La) (s : State) : Result := runBundle (binaryLate (aluRem true f) d a b la) s
/-- remn (R145, R146). -/
def execRemn (d a b : GReg) (f : Bool) (la : La) (s : State) : Result := runBundle (binaryLate (aluRem false f) d a b la) s

/-- popc (R147). -/
def execPopc (d a : GReg) (f : Bool) (s : State) : Result := runBundle (unary (counted f popCount) d a) s
/-- clz (R147). -/
def execClz (d a : GReg) (f : Bool) (s : State) : Result := runBundle (unary (counted f leadingZeros) d a) s
/-- ctz (R147). -/
def execCtz (d a : GReg) (f : Bool) (s : State) : Result := runBundle (unary (counted f trailingZeros) d a) s
/-- rot (R147). -/
def execRot (d a b : GReg) (f : Bool) (s : State) : Result := runBundle (binary (aluRot f) d a b) s
/-- bswap (R147). -/
def execBswap (d a : GReg) (f : Bool) (s : State) : Result := runBundle (unary (aluBswap f) d a) s
/-- bext: a field of g[a] named by g[b]; a bad spec raises trap(0, 9) (R148). -/
def execBext (d a b : GReg) (s : State) : Result :=
  runBundle (do
    issue [a, b] [d] [] []
    let x ← readG a
    let spec ← readG b
    match fieldSpec spec with
    | none => trap 0 9
    | some (sx, w, pos) => writeG d (extractField sx w pos x)) s
/-- bins: a field of g[d] replaced (R148). -/
def execBins (d a b : GReg) (s : State) : Result :=
  runBundle (do
    issue [a, b, d] [d] [] []
    let x ← readG a
    let spec ← readG b
    let y ← readG d
    match fieldSpec spec with
    | none => trap 0 9
    | some (_, w, pos) => writeG d (insertField w pos y x)) s

/-- fadd (R149). -/
def execFadd (d a b : GReg) (f : Bool) (s : State) : Result := runBundle (binary (scalarOp f Val.add) d a b) s
/-- fsub (R149). -/
def execFsub (d a b : GReg) (f : Bool) (s : State) : Result := runBundle (binary (scalarOp f Val.sub) d a b) s
/-- fmul (R149). -/
def execFmul (d a b : GReg) (f : Bool) (s : State) : Result := runBundle (binary (scalarOp f Val.mul) d a b) s
/-- fdiv (R149). -/
def execFdiv (d a b : GReg) (f : Bool) (s : State) : Result := runBundle (binary (scalarOp f Val.div) d a b) s
/-- fmin (R149). -/
def execFmin (d a b : GReg) (f : Bool) (s : State) : Result := runBundle (binary (scalarOp f Val.min) d a b) s
/-- fmax (R149). -/
def execFmax (d a b : GReg) (f : Bool) (s : State) : Result := runBundle (binary (scalarOp f Val.max) d a b) s
/-- fma: one rounding; d is read, then written (R149). -/
def execFma (d a b : GReg) (f : Bool) (s : State) : Result := runBundle (ternary (scalarFma f) d a b) s
/-- fsqrt (R149). -/
def execFsqrt (d a : GReg) (f : Bool) (s : State) : Result :=
  runBundle (unary (fun x => scalarRes f (scalarVal f x).sqrt) d a) s
/-- feq (R149). -/
def execFeq (d a b : GReg) (f : Bool) (s : State) : Result := runBundle (binary (scalarCmp f (· == .eq)) d a b) s
/-- flt (R149). -/
def execFlt (d a b : GReg) (f : Bool) (s : State) : Result := runBundle (binary (scalarCmp f (· == .lt)) d a b) s
/-- fle (R149). -/
def execFle (d a b : GReg) (f : Bool) (s : State) : Result := runBundle (binary (scalarCmp f (· != .gt)) d a b) s
/-- fcvt (R151). -/
def execFcvt (d a : GReg) (code : Fin 8) (s : State) : Result := runBundle (unary (convertScalar code) d a) s
/-- fcls (R150). -/
def execFcls (d a : GReg) (f : Bool) (s : State) : Result :=
  runBundle (unary (fun x => BitVec.ofNat 64 ((scalarFmt f).classMask (x.toNat % 2 ^ (scalarFmt f).width))) d a) s
/-- rand: advances k.RNG and writes the new state (R105, R154). -/
def execRand (d : GReg) (s : State) : Result :=
  runBundle (do
    issue [] [d] [] []
    let r := rngNext (← getMe).rng
    modifyMe (fun x => { x with rng := r })
    writeG d r) s

end Sys2Proof.Machine
end

