-- ==== Sys2Proof/Machine/Events.lean ====
section
/-! DEFINITION. What instructions and hardware steps do to other parties: regions (R382, R383), events that enter a core's
sources (R37, R66), codelet and join records (R48 to R51), engine identifiers and DONE words (R179, R180, R240), and a
member's end (R33, R65). -/

namespace Sys2Proof.Machine

/-! ### Region control blocks (R382, R383) -/

/-- A 32-bit half of a word of a block. -/
def State.rcbHalf (s : State) (rcb off : Nat) : Nat := s.load (rcb + off) 4

/-- The fields of a block that a child may inherit, by inherit bit: priority, cores, ridges, hbm, energy, domain, quantum,
thot (R382). -/
def State.rcbOwn (s : State) (rcb : Nat) (bit : Nat) : Nat :=
  match bit with
  | 0 => s.rcbHalf rcb 8 % 16
  | 1 => s.rcbHalf rcb 16
  | 2 => s.rcbHalf rcb 20
  | 3 => s.load (rcb + 24) 8
  | 4 => s.load (rcb + 32) 8
  | 5 => s.rcbHalf rcb 12
  | 6 => s.rcbHalf rcb 44
  | _ => s.load (rcb + 40) 1

/-- A block and its ancestors, the root last (R383). -/
def State.rcbPath (s : State) : Nat → Nat → List Nat
  | 0, _ => []
  | k + 1, rcb =>
    let parent := s.load rcb 8
    if parent = 0 then [rcb] else rcb :: s.rcbPath k parent

/-- The path of a block to its root, however long: every block but the root has a parent word, and so at least one byte of memory. -/
def State.region (s : State) (rcb : Nat) : List Nat := s.rcbPath (s.mem.length + 1) rcb

/-- The effective value of a field along a path (R383). -/
def State.effOn (s : State) (bit : Nat) : List Nat → Nat
  | [] => 0
  | [r] => s.rcbOwn r bit
  | r :: rs => if (s.load (r + 10) 1).testBit bit then s.effOn bit rs else s.rcbOwn r bit

/-- The effective value of a region's field. -/
def State.eff (s : State) (bit rcb : Nat) : Nat := s.effOn bit (s.region rcb)

/-- Use words of a block: cores, ridges, hbm and energy, by the inherit bit of their budget. -/
def State.rcbUse (s : State) (rcb bit : Nat) : Nat :=
  match bit with
  | 1 => s.rcbHalf rcb 48
  | 2 => s.rcbHalf rcb 52
  | 3 => s.load (rcb + 56) 8
  | _ => s.load (rcb + 64) 8

/-- hot and spent of a block (R382). -/
def State.rcbHot (s : State) (rcb : Nat) : Bool := (s.load (rcb + 72) 1).testBit 0
/-- spent of a block. -/
def State.rcbSpent (s : State) (rcb : Nat) : Bool := (s.load (rcb + 72) 1).testBit 1
/-- Sets or clears a flag of word 72. -/
def State.rcbFlag (s : State) (rcb bit : Nat) (on : Bool) : State :=
  let x := s.load (rcb + 72) 1
  s.store (rcb + 72) 1 (if on then x ||| 2 ^ bit else x &&& (255 - 2 ^ bit))

/-- A region is held (R406). -/
def State.held (s : State) (rcb : Nat) : Bool :=
  (s.region rcb).any (fun r => s.rcbHot r || s.rcbSpent r ||
    [1, 2, 3, 4].any (fun b => decide (s.eff b r < s.rcbUse r b)))

/-- What is left of a budget over a region and its ancestors (R383). -/
def State.room (s : State) (bit rcb : Nat) : Nat :=
  ((s.region rcb).map (fun r => s.eff bit r - s.rcbUse r bit)).foldl min (2 ^ 64)

/-- Adds to the cores and ridges in use of a region and its ancestors, or takes the charge away (R383). -/
def State.charge (s : State) (rcb : Nat) (f : Nat → Nat → Nat) (cores ridges : Nat) : State :=
  (s.region rcb).foldl (fun s r =>
    (s.store (r + 48) 4 (f (s.rcbUse r 1) cores % 2 ^ 32)).store (r + 52) 4 (f (s.rcbUse r 2) ridges % 2 ^ 32)) s

/-- Counts undeliverable events of a region (R40, R66). -/
def State.countUndeliverable (s : State) (rcb n : Nat) : State :=
  s.store (rcb + 76) 4 ((s.rcbHalf rcb 76 + n) % 2 ^ 32)

/-! ### Events entering a core (R37, R66, R261) -/

/-- The key of a team in the team table: its partition and its incarnation, since two grids may name one team id (R399, R375). -/
def teamKey (part incarn : Nat) : Nat := part * 2 ^ 32 + incarn

/-- An item for a team that no member accepts is discarded and counted in its region; a team that never was has none (R66). -/
def State.undeliverable (s : State) (team : Nat) (n : Nat) : State :=
  if (s.team team).state = .none then s else s.countUndeliverable (s.team team).rcb n

/-- A wait in evwait of a bank's context 0 ends (R261). -/
def State.wake0 (s : State) (b : Nat) : State :=
  let c := ctxIn b 0
  if (s.ctx c).run = .waiting then (s.setCtx c { s.ctx c with run := .running }).retireCtx c else s

/-- A bank holds a member that accepts events (R33). -/
def Bank.open (x : Bank) : Bool := x.team.isSome && !x.exited

/-- An event enters a source of a bank. -/
def State.enter (s : State) (b : Nat) (f : Bank → Bank) : State := (s.setBank b (f (s.bank b))).wake0 b

/-- A spilled context 0 of a team at a core, by its record's header (R384), whose wait in evwait ends (R34, R261). -/
def State.wakeRecord (s : State) (team : Nat) (c : CoreId) : State :=
  let header := s.relCore (s.team team).part c
  match s.saved.find? (fun e => e.2.team == some team && e.2.run == .waiting && decide (s.load (e.1 + 8) 2 % 2 ^ 13 = header)) with
  | none => s
  | some (r, x) =>
    let x := { x.retired with run := .running }
    ({ s with saved := s.saved.put r x } : State).store (r + 24) 8 x.pc.toNat

/-- An event enters a source of the bank or image that serves a partition. -/
def State.enterServed (s : State) (v : Served) (f : Bank → Bank) : State :=
  let s := s.setServedBank v (f (s.servedBank v))
  if v.image = 0 then s.wake0 v.bank else s.wakeRecord ((s.servedBank v).team.getD 0) (v.bank / 2)

/-- Pushes a record's address onto a ready ring; past 256 entries it is held (R49). -/
def Bank.pushReady (x : Bank) (addr : Word) : Bank :=
  if x.readyHeld.isEmpty && decide (x.ready.length < 256) then { x with ready := x.ready ++ [addr] }
  else { x with readyHeld := x.readyHeld ++ [addr] }

/-- A zero-reaching decrement pushes its record at its owner (R49), or is discarded there (R66). -/
def State.readyAt (s : State) (v : Served) (addr : Word) : State :=
  let x := s.servedBank v
  if x.open then s.enterServed v (·.pushReady addr) else s.undeliverable (x.team.getD 0) 1

/-! ### Codelet and join records (R48 to R51, R254) -/

/-- A handle's record: its owner, the place, and its location; none where the handle is malformed (R254). -/
def State.recordOf (s : State) (part : Nat) (h : Word) : Option (CoreId × Served × Nat) :=
  let a := h &&& ~~~(1 : Word)
  if isAperture a && decide (a.toNat % 32 = 0) then
    match s.apertureCore part a with
    | none => none
    | some c =>
      match s.served part c with
      | none => none
      | some v =>
        let off := field a 20 0
        if v.size < off + 32 then none else some (c, v, v.base + off)
  else none

/-- How a child ended (R51): normally, by its fault, or killed. -/
inductive Ending where
  | normal | faulted | killed
  deriving DecidableEq, Repr

/-- The status halves of word 8 of a join after a child's end (R51). -/
def endingStatus (e : Ending) (w : Nat) : Nat :=
  let f := w % 2 ^ 16
  let k := w / 2 ^ 16 % 2 ^ 16
  match e with
  | .normal => w
  | .faulted => k * 2 ^ 16 + min (f + 1) 65535
  | .killed => min (k + 1) 65535 * 2 ^ 16 + f

/-- One decrement of a record as an indivisible step at its owner (R49, R51, R254). -/
def State.decrementAt (s : State) (h : Word) (v : Served) (loc : Nat) (n : Nat) (e : Ending) : State :=
  let join := h.getLsbD 0
  let at_ := if join then loc else loc + 8
  let count := s.load at_ 4
  let s := if join then s.store (loc + 8) 4 (endingStatus e (s.load (loc + 8) 4)) else s
  if n = 0 ∨ count = 0 then s
  else
    let s := s.store at_ 4 (count - n)
    let s := if count < n then s.store (loc + 24) 1 (s.load (loc + 24) 1 ||| 1) else s
    if count ≤ n ∧ join = false then s.readyAt v (h &&& ~~~(1 : Word)) else s

/-- A successor handle's decrement at a task's end: a malformed one is skipped and reported (R45). -/
def State.succeed (s : State) (part : Nat) (e : Ending) (h : Word) : State :=
  match s.recordOf part h with
  | some (_, v, loc) => s.decrementAt h v loc 1 e
  | none => s.postNoctx part { cls := 4, detail := 8, addr := h }

/-- No engine has claimed the records that handles name (R187). -/
def State.successorsFree (s : State) (part : Nat) (hs : List Word) : Bool :=
  hs.all (fun h => match s.recordOf part h with | some (_, _, loc) => !s.claims.contains (lineOf loc) | none => true)

/-- A task's successor handles are decremented (R45). -/
def State.succeedAll (s : State) (part : Nat) (e : Ending) (hs : List Word) : State := hs.foldl (fun s h => s.succeed part e h) s

/-- The successor handles of a task packet (R43). -/
def packetSuccessors (p : List Byte) : List Word :=
  let h := leNat (p.take 8)
  (List.range (h / 2 ^ 16 % 8)).map (fun i => BitVec.ofNat 64 (leNat ((p.drop (8 + 8 * i)).take 8)))

/-! ### Engine identifiers and DONE words (R179, R180, R238, R240) -/

/-- An id not yet issued (R179). -/
def notIssued (newest : BitVec 16) (j : Nat) : Bool := decide (32768 ≤ (newest.toNat + 65536 - j % 65536) % 65536)
/-- The kept status of an id; an older id reads as complete with status zero (R179). -/
def jobStatus (kept : List JobStatus) (j : Nat) : JobStatus := (kept.find? (fun e => e.id == j)).getD ⟨j, true, false, false⟩
/-- The newest 256 statuses with a new job's (R179). -/
def newJob (kept : List JobStatus) (j : Nat) : List JobStatus :=
  (⟨j, false, false, false⟩ :: kept.filter (fun e => e.id != j)).take 256
/-- A job's status done. -/
def finishJob (kept : List JobStatus) (j : Nat) (fault ovf : Bool) : List JobStatus :=
  kept.map (fun e => if e.id = j then { e with done := true, fault, ovf } else e)

/-- A context with a completion word pushed into DONE, or held until a place is free (R180). -/
def Ctx.pushDone (x : Ctx) (w : Word) : Ctx :=
  if x.doneHeld.isEmpty && decide (x.done.length < 16) then { x with done := x.done ++ [w] }
  else { x with doneHeld := x.doneHeld ++ [w] }

/-! ### The trail at an end -/

/-- The trail is discarded (R323). -/
def Ctx.dropTrail (x : Ctx) : Ctx := { x with choice := 0, trailTop := x.trailBase, region := none }

/-- A line's marks without those of a task. -/
def Marks.without (m : Marks) (id : Nat) : Marks := ⟨m.readers.filter (· != id), m.writers.filter (· != id)⟩

/-- An ordered task's marks on lines and contour slots go (R225, R337). -/
def State.clearMarks (s : State) (id : Nat) : State :=
  let unmark (x : Bank) : Bank := { x with slots := x.slots.map (fun e => (e.1, { e.2 with marks := e.2.marks.filter (· != id) })) }
  { s with
    marks := (s.marks.map (fun e => (e.1, e.2.without id))).filter (fun e => !(e.2.readers.isEmpty && e.2.writers.isEmpty))
    banks := s.banks.map (fun e => (e.1, unmark e.2))
    images := s.images.map (fun e => (e.1, unmark e.2)) }

/-! ### Members and teams (R33, R65, R259) -/

/-- A barrier's phase is complete (R259): every member has arrived or departed. -/
def Team.complete (t : Team) (b : Barrier) : Bool := t.members.all (fun m => b.here.contains m || t.departed.contains m)

/-- A member departs: every barrier counts it as departed (R65, R259). -/
def Team.depart (t : Team) (c : CoreId) (killed : Bool) : Team :=
  if t.departed.contains c then t
  else
    { t with
      departed := t.departed ++ [c]
      killed := t.killed || killed
      barriers := (List.range 16).foldl (fun bs i =>
        let b := bs.get Barrier.idle i
        bs.put i { b with departed := b.departed + 1 }) t.barriers }

/-- How many events a bank's sources hold (R33). -/
def Bank.queued (x : Bank) : Nat :=
  x.inbox.length + x.ready.length + x.readyHeld.length + x.deque.length + x.spillCount + x.s3.length + x.s4.length +
  x.s5.length + x.s6.length + x.s7.length + x.stolen.toList.length

/-- A bank's sources emptied. -/
def Bank.emptied (x : Bank) : Bank :=
  { x with inbox := [], ready := [], readyHeld := [], deque := [], spillHead := 0, spillCount := 0, s3 := [], s4 := [],
           s5 := [], s6 := [], s7 := [], stolen := none }

/-- The member of a bank ends (R33, R65): its queued events are discarded and counted, and it departs. -/
def State.endMember (s : State) (b : Nat) (killed : Bool) : State :=
  let x := s.bank b
  match x.team with
  | none => s
  | some t =>
    let s := s.undeliverable t x.queued
    let s := s.setBank b { x.emptied with exited := true }
    s.setTeam t ((s.team t).depart (b / 2) killed)

end Sys2Proof.Machine
end

