-- ==== Sys2Proof/Machine/Copy.lean ====
section
/-! DEFINITION. The copy unit (R238 to R246): its descriptors, acceptance, completion and interrupt, and the pushes into DONE
(R180). -/

namespace Sys2Proof.Machine

/-- The bits that a copy shadow register k16 to k23 keeps (R239). -/
def copyMask (n : Nat) (w : Word) : Word :=
  match n with
  | 18 => w &&& 0x1FFFF
  | 19 => w &&& 0x1FFFFFF
  | 22 => w &&& 0xFF03
  | 23 => 0
  | _ => w

/-- A copy descriptor's fields (R239). -/
structure CopyDesc where
  src : Word
  dst : Word
  rows : Nat
  rlen : Nat
  sstr : Word
  dstr : Word
  sid : Nat
  cls : Nat
  intr : Bool
  notify : Bool
  deriving DecidableEq, Repr

/-- The descriptor that seven words give. -/
def copyDesc (ws : List Word) : CopyDesc where
  src := ws.getD 0 0
  dst := ws.getD 1 0
  rows := (copyMask 18 (ws.getD 2 0)).toNat
  rlen := (copyMask 19 (ws.getD 3 0)).toNat
  sstr := ws.getD 4 0
  dstr := ws.getD 5 0
  sid := field (ws.getD 6 0) 15 10
  cls := field (ws.getD 6 0) 9 8
  intr := (ws.getD 6 0).getLsbD 1
  notify := (ws.getD 6 0).getLsbD 0

/-- Counts in range, at most a number of rows (R241, R245). -/
def CopyDesc.ok (d : CopyDesc) (maxRows : Nat) : Bool :=
  decide (1 ≤ d.rows) && decide (d.rows ≤ maxRows) && decide (1 ≤ d.rlen) && decide (d.rlen ≤ 2 ^ 24)

/-- A destination row cut into packets of at most 256 bytes (R276). -/
def copyPackets : Nat → Word → List Nat → List (Word × List Nat)
  | 0, _, _ => []
  | k + 1, a, srcs => if srcs.isEmpty then [] else (a, srcs.take 256) :: copyPackets k (a + 256) (srcs.drop 256)

/-- Sends a destination row that lies in the aperture as stream packets (R131, R241). -/
def sendRow (d : CopyDesc) (core id : Nat) (dst : Word) (srcs : List Nat) : M Unit := do
  let s ← get
  match s.apertureCore s.me.part dst with
  | none => pure ()
  | some c =>
    (copyPackets (srcs.length / 256 + 1) dst srcs).forM (fun p => do
      let _ ← sendPacket d.sid d.cls (.core c) (.copied core id p.1 p.2))

/-- Accepts a copy of rows in one step (R241): every row is translated, checked and claimed, the transfer id is assigned, and
rows for the aperture are sent, whose class 3 raises trap(0, 9) as a stream store's does (R277). -/
def acceptCopy (page op : Nat) (d : CopyDesc) (rows : List (Word × Word)) : M Word := do
  if rows.any (fun r => isAperture r.2) then classed d.cls
  let from_ := rows.map (fun r => (r.1, d.rlen))
  let before ← get
  let srcs ← locateAll .copyRead from_
  let dsts ← locateAll .copyWrite (rows.map (fun r => (r.2, d.rlen)))
  awaitOwn (srcs.flatten ++ ((rows.zip dsts).filter (fun r => !isAperture r.1.2)).flatMap Prod.snd)
  meet false srcs.flatten
  meet true dsts.flatten
  logMark page op
  let s ← get
  let core := coreOf s.cur
  let id := s.myCore.xferNewest + 1
  (rows.zip srcs).forM (fun r => if isAperture r.1.2 then sendRow d core id.toNat r.1.2 r.2 else pure ())
  let plain := (rows.zip (srcs.zip dsts)).filter (fun r => !isAperture r.1.2)
  let s ← get
  let copy : Copy :=
    { ctx := s.cur, source := s.me.source, id := id.toNat, moves := plain.flatMap (fun r => r.2.1.zip r.2.2), sources := srcs.flatten,
      dests := dsts.flatten, notify := d.notify, intr := d.intr, claims := linesOf dsts.flatten ++ before.heldSources .copyRead from_ srcs }
  let g := s.ridge (ridgeOf core)
  let s := s.setRidge (ridgeOf core) { g with copies := g.copies ++ [copy] }
  let k := s.core core
  set (s.setCore core { k with xferNewest := id, xfers := newJob k.xfers id.toNat })
  pure (id.setWidth 64)

/-- The rows of a strided copy (R241). -/
def CopyDesc.strided (d : CopyDesc) : List (Word × Word) :=
  (List.range d.rows).map (fun r => (d.src + BitVec.ofNat 64 r * d.sstr, d.dst + BitVec.ofNat 64 r * d.dstr))

/-- Launches the copy that the shadow registers describe (R244). -/
def launchCopy (page op : Nat) (d : GReg) : M Unit := do
  issue [] [d] [] []
  let desc := copyDesc (← getMe).cp.toList
  require (desc.ok 65536) 4 5
  let id ← acceptCopy page op desc desc.strided
  writeG d id

/-- Reads a 64-byte block aligned to 64 bytes (R243, R245). -/
def loadBlock (ea : Word) : M (List Word) := do
  aligned ea 64
  let bs ← loadBytes .load ea 64
  pure ((List.range 8).map (fun i => BitVec.ofNat 64 (leNat ((bs.drop (8 * i)).take 8))))

/-- cpput: loads the shadow registers (R243). -/
def execCpput (a : GReg) (s : State) : Result :=
  runBundle (do
    issue [a] [] [] []
    let ws ← loadBlock (← readG a)
    let cp := (List.range 7).map (fun i => copyMask (16 + i) (ws.getD i 0))
    modifyMe (fun x => { x with cp := (List.range 7).foldl (fun v i => v.set! i (cp.getD i 0)) x.cp })) s

/-- cplaunch (R244). -/
def execCplaunch (d : GReg) (s : State) : Result := runBundle (launchCopy 4 1 d) s

/-- A kget of CP_LAUNCH launches as cplaunch does (R244). -/
def execCpLaunchRead (d : GReg) (s : State) : Result := runBundle (launchCopy 1 24 d) s

/-- Lane r of a vector as a signed 32-bit number. -/
def lane32 (v : VWord) (r : Nat) : Int := (v.extractLsb' (32 * r) 32).toInt

/-- A copy whose rows index lanes name: cpgath on the source side, cpscat on the destination side (R245). -/
def indexedCopy (op : Nat) (gather : Bool) (d a : GReg) (b : VReg) : M Unit := do
  issue [a] [d] [b] []
  let ws ← loadBlock (← readG a)
  let idx ← readV b
  let desc := copyDesc ws
  let reserved := (ws.getD 2 0) != copyMask 18 (ws.getD 2 0) || (ws.getD 3 0) != copyMask 19 (ws.getD 3 0) ||
    (ws.getD 6 0) != copyMask 22 (ws.getD 6 0)
  require (desc.ok 32 && !reserved) 4 5
  let scaled (r : Nat) (stride : Word) : Word := BitVec.ofInt 64 (lane32 idx r) * stride
  let rows := (List.range desc.rows).map (fun r =>
    if gather then (desc.src + scaled r desc.sstr, desc.dst + BitVec.ofNat 64 r * desc.dstr)
    else (desc.src + BitVec.ofNat 64 r * desc.sstr, desc.dst + scaled r desc.dstr))
  let id ← acceptCopy 4 op desc rows
  writeG d id

/-- cpgath (R245). -/
def execCpgath (d a : GReg) (b : VReg) (s : State) : Result := runBundle (indexedCopy 2 true d a b) s
/-- cpscat (R245). -/
def execCpscat (d a : GReg) (b : VReg) (s : State) : Result := runBundle (indexedCopy 3 false d a b) s

/-- cpwait: it then orders later accesses as lda does (R246). -/
def execCpwait (a : GReg) (s : State) : Result :=
  runBundle (do
    issue [a] [] [] []
    let x ← readG a
    require (decide (x.toNat < 65536)) 4 5
    let k := (← get).myCore
    require (!notIssued k.xferNewest x.toNat) 4 7
    await (jobStatus k.xfers x.toNat).done
    modifyMe Ctx.acquire) s

/-! ### Completion (R242) -/

/-- A byte of a copy: unpredictable where the destination is also a source, or the source also a destination (R241, log 17). -/
def movedByte (c : Copy) (src dst : Nat) : M Byte := do
  if c.sources.contains dst || c.dests.contains src then takeByte else return (← get).mem.read src

/-- Poison that a copy carries to its destination lines (R211, R241). -/
def State.carryPoison (s : State) (moves : List (Nat × Nat)) : State :=
  let bad := (moves.filter (fun m => s.poison.contains (lineOf m.1))).map (fun m => lineOf m.2)
  { s with poison := (bad ++ s.poison).dedup }

/-- Moves a copy's bytes: later rows last (R241). -/
def moveBytes (c : Copy) (moves : List (Nat × Nat)) : M Bool := do
  let s ← get
  let bad := moves.any (fun m => s.poison.contains (lineOf m.1))
  let data ← moves.mapM (fun m => movedByte c m.1 m.2)
  let s' ← get
  let dests := moves.map Prod.snd
  let s' := s'.noteOld (s'.seat c.ctx c.source) dests
  set ((((s'.storeAt dests data).stampEngine dests).cleanse dests).carryPoison (moves.filter (fun m => s.poison.contains (lineOf m.1))))
  pure bad

/-- Whether a packet carries a part of a copy. -/
def carries (core id : Nat) (p : Packet) : Bool :=
  match p.body with
  | .copied c j _ _ => c == core && j == id && p.state == .sent
  | _ => false

/-- COPY_COMPLETE: transfer n of the focus core completes once its packets have committed: k.XFER, a DONE word if asked,
and the interrupt if asked, in that order (R242). -/
def execCopyComplete (n : Nat) (s : State) : Result :=
  runStep (do
    let s ← get
    let r := s.ridge (ridgeOf s.focus)
    match r.copies.find? (fun c => coreOf c.ctx == s.focus && c.id == n) with
    | none => stall
    | some c => do
      await (!s.packets.any (carries s.focus n))
      meetEngine (s.atSeat (s.seat c.ctx c.source)) (c.moves.map Prod.fst)
      set (s.setRidge (ridgeOf s.focus) { r with copies := r.copies.erase c })
      let bad ← moveBytes c c.moves
      let s ← get
      let k := s.core s.focus
      let fault := bad || (jobStatus k.xfers n).fault
      let s := s.setCore s.focus { k with xfers := finishJob k.xfers n fault false }
      let word : Word := BitVec.ofNat 64 (n + fault.toNat * 2 ^ 16 + 2 ^ 17)
      let trap : Trap := { cls := 4, detail := 6, info := word, precise := false }
      set (s.onSeat (s.seat c.ctx c.source) (fun x =>
        let x := { x with xfer := word }
        let x := if c.notify then x.pushDone (BitVec.ofNat 64 (n + 2 ^ 17)) else x
        if c.intr then { x with intr := x.intr ++ [trap] } else x))) s

/-- COPY_INTERRUPT: a pending interrupt of the context is taken between bundles, while the context is in an active bank and runs or waits,
and neither a stop nor a freeze holds it (R242, R263, R432, R434). -/
def execCopyInterrupt (s : State) : Result :=
  runStep (do
    let s ← get
    let x := s.me
    await (!x.status.getLsbD 3 && !x.handling && s.isActive s.cur && (x.run == .running || x.run == .waiting) && !x.yielded && !s.halted s.cur)
    match x.intr with
    | [] => stall
    | t :: rest => do
      modifyMe (fun x => { x with intr := rest })
      modify (fun s => s.takeTrap s.cur t)) s

/-- DONE_WORD_PUSH: a held word enters DONE once it has a free place (R180). -/
def execDoneWordPush (s : State) : Result :=
  runStep (do
    let x ← getMe
    match x.doneHeld with
    | [] => stall
    | w :: rest => do
      await (decide (x.done.length < 16))
      modifyMe (fun x => { x with done := x.done ++ [w], doneHeld := rest })) s

end Sys2Proof.Machine
end

