-- ==== Sys2Proof/Machine/Tasks.lean ====
section
/-! DEFINITION. Messages, handler tables, tasks, codelets and joins (R41 to R51, R251 to R255). -/

namespace Sys2Proof.Machine

/-! ### Messages (R41, R42, R251) -/

/-- Reserved bits of a destination word (R251, R275). -/
def destReserved (w : Word) : Bool := decide (field w 63 37 ≠ 0) || decide (field w 15 10 ≠ 0)
/-- The package of a destination word. -/
def destPackage (w : Word) : Nat := field w 36 16
/-- The place of a destination word. -/
def destPlace (w : Word) : Nat := field w 9 0

/-- A message's header (R41). -/
def messageHeader (epoch len gid place hid : Nat) : Word :=
  BitVec.ofNat 64 (epoch * 2 ^ 56 + len * 2 ^ 48 + gid * 2 ^ 26 + place * 2 ^ 16 + hid)

/-- The eight words of a message from the pushed words (R251). -/
def messageWords (header : Word) (pushed : List Word) : List Word := header :: padTo 6 pushed ++ [pushed.getD 6 0]

/-- msend (R251). It waits until every place that an earlier result reserved in the assembly buffer is filled (R17, log 74). -/
def execMsend (a b : GReg) (s : State) : Result :=
  runBundle (do
    issue [a, b] [] [] []
    let dst ← readG a
    let h ← readG b
    let s ← get
    let x := s.me
    let own := destPackage dst == s.gid
    let fits := if own then s.inPart x.part (destPlace dst) else s.inJob (destPackage dst)
    require (!destReserved dst && decide (h.toNat < 65536) && fits) 4 9
    let ws := present x.asm
    await (decide (s.myBank.outbox.length < 4) && decide (ws.length = x.asm.length))
    logMark 4 14
    let header := messageHeader (field h 15 8) (min ws.length 6) s.gid (placeOf (coreOf s.cur)) (field h 7 0)
    let m : Message :=
      { dest := if own then .core (destPlace dst) else .package (destPackage dst), place := destPlace dst, part := x.part,
        team := s.myTeam, words := messageWords header ws, crossing := none, src := some s.cur, owner := x.source }
    modifyMe (fun x => { x with asm := [] })
    modifyBank (fun k => { k with outbox := k.outbox ++ [m] })
    modify (fun s => s.countSent s.cur)) s

/-! ### Handler tables (R40, R252) -/

/-- The banks that hold members of a team. -/
def State.banksOf (s : State) (t : Nat) : List Nat :=
  ((s.team t).members.flatMap (fun c => [c * 2, c * 2 + 1])).filter (fun b => s.bankTeam b == some t)

/-- hset: the write waits at every member for its next moment between events (R40, R252). -/
def execHset (a : GReg) (imm : Nat) (s : State) : Result :=
  runBundle (do
    issue [a] [] [] []
    let x ← readG a
    require (decide (imm < 256)) 0 9
    let code := x &&& ~~~(1 : Word)
    let s ← get
    match s.myBank.team with
    | none => modifyBank (fun k => { k with hsets := k.hsets ++ [(imm, code)] })
    | some t => do
      let s := s.setTeam t { s.team t with handlers := (s.team t).handlers.put imm code }
      let note (b : Bank) : Bank := { b with hsets := b.hsets ++ [(imm, code)] }
      let s := (s.banksOf t).foldl (fun s b => s.setBank b (note (s.bank b))) s
      set ((s.team t).saved.foldl (fun (s : State) e => { s with images := s.images.put e.2 (note (s.images.get Bank.reset e.2)) }) s)) s

/-! ### The deque (R43, R44, R47, R253) -/

/-- Entries that the spill area of a bank's team holds (R44). -/
def State.spillCap (s : State) (b : Nat) : Nat := (s.team ((s.bank b).team.getD 0)).spillSize / 256
/-- Where a spilled entry of a bank lies: the area is used as a ring (log 7). -/
def State.spillLoc (s : State) (b i : Nat) : Nat :=
  bankLoc b ((s.team ((s.bank b).team.getD 0)).spill + 256 * (i % max 1 (s.spillCap b)))
/-- A deque with spilled entries whose area no longer lies in scratch is orphaned (R47, log 18). -/
def State.orphaned (s : State) (b : Nat) : Bool :=
  let t := s.team ((s.bank b).team.getD 0)
  decide ((s.bank b).spillCount ≠ 0) && decide (s.scratchSize b < t.spill + t.spillSize)

/-- Pushes a packet at the head of a deque; past 64 entries the oldest in hardware spills (R44). -/
def State.pushTask (s : State) (b : Nat) (p : List Byte) : State :=
  let x := s.bank b
  let full := decide (64 ≤ x.deque.length)
  let s := if full then
      let old := x.deque.getLastD []
      { s with mem := s.mem.writes (s.spillLoc b (x.spillHead + x.spillCount)) (old ++ List.replicate (256 - old.length) 0) }
    else s
  s.enter b (fun x =>
    if full then { x with deque := p :: x.deque.dropLast, spillCount := x.spillCount + 1 } else { x with deque := p :: x.deque })

/-- Bytes of a packet by its header (R43). -/
def packetLength (header : Nat) : Nat := (header % 16 + 1) * 16
/-- A malformed header (R43). -/
def packetBad (header : Nat) : Bool :=
  let n := header / 2 ^ 16 % 8
  decide (header % 16 = 0) || decide (4 < n) || decide (packetLength header < 8 + 8 * n)

/-- Reads and checks a task packet (R43, R253, R315). -/
def loadPacket (ea : Word) : M (List Byte) := do
  aligned ea 16
  let header := (← keepPins (loadWord .load ea)).toNat
  require (!packetBad header) 4 22
  loadBytes .load ea (packetLength header)

/-- spawn (R253). -/
def execSpawn (a : GReg) (s : State) : Result :=
  runBundle (do
    issue [a] [] [] []
    let p ← loadPacket (← readG a)
    let s ← get
    let b := bankOf s.cur
    let x := s.myBank
    require (!x.closed && !s.orphaned b) 4 21
    await (decide (x.deque.length < 64) || (decide (x.spillCount < s.spillCap b) && s.openTo none (run (s.spillLoc b (x.spillHead + x.spillCount)) 256)))
    logMark 4 16
    modify (fun s => if x.exited then s.undeliverable s.myTeam 1 else s.pushTask b p)) s

/-! ### Codelets and joins (R48 to R51, R254, R255) -/

/-- A handle's record for the current context; a malformed handle raises trap(4, 8), a claimed line is waited for. -/
def recordFor (h : Word) : M (CoreId × Served × Nat) := do
  let s ← get
  match s.recordOf s.me.part h with
  | none => raise { cls := 4, detail := 8, addr := h }
  | some r => do
    await (!s.claims.contains (lineOf r.2.2))
    pure r

/-- What cdarm and cddec wait for and log: every earlier access is performed at package scope, and a record on another core
logs an irrevocable mark (R236, R254). -/
def publish (op : Nat) (owner : CoreId) : M Unit := do
  await (← get).quiet
  if owner ≠ coreOf (← get).cur then logMark 4 op

/-- cdarm (R254). -/
def execCdarm (a b : GReg) (s : State) : Result :=
  runBundle (do
    issue [a, b] [] [] []
    let h ← readG a
    let n ← readG b
    require (decide (n.toNat < 2 ^ 32)) 0 9
    let (c, v, loc) ← recordFor h
    publish 17 c
    modify (fun s =>
      if h.getLsbD 0 then
        ((s.store loc 4 n.toNat).store (loc + 8) 8 0).store (loc + 16) 8 (s.contextWord s.cur).toNat
      else
        let s := (s.store (loc + 8) 4 n.toNat).store (loc + 24) 8 0
        if n = 0 then s.readyAt v (h &&& ~~~(1 : Word)) else s)) s

/-- cddec (R254). -/
def execCddec (a b : GReg) (s : State) : Result :=
  runBundle (do
    issue [a, b] [] [] []
    let h ← readG a
    let n ← readG b
    require (decide (n.toNat < 2 ^ 32)) 0 9
    let (c, v, loc) ← recordFor h
    publish 18 c
    modify (fun s => s.decrementAt h v loc n.toNat .normal)) s

/-- jwait: it waits until the record counts no child, and then orders later accesses as lda does (R255). -/
def execJwait (d a : GReg) (s : State) : Result :=
  runBundle (do
    issue [a] [d] [] []
    let h ← readG a
    if !h.getLsbD 0 then raise { cls := 4, detail := 8, addr := h }
    let (_, _, loc) ← recordFor h
    awaitOwn (run loc 16)
    let s ← get
    await (decide (s.load loc 4 = 0))
    consume (run loc 16)
    modifyMe Ctx.acquire
    writeG d (s.word (loc + 8))) s

end Sys2Proof.Machine
end

