-- ==== Sys2Proof/Machine/Trail.lean ====
section
/-! DEFINITION. Page 7 (R302 to R324): the trail's items and its unwinding, choice points, ordered tasks, and the horizon of
a domain. -/

namespace Sys2Proof.Machine

/-! ### Items of the trail (R303) -/

/-- An open region record (R303). -/
def isOpenRegion (w : Word) : Bool := decide (w.toNat % 8 = 5) && !w.getLsbD 3

/-- A logged control register written back (R305). -/
def Ctx.setLogged (x : Ctx) (n : Nat) (w : Word) : Ctx :=
  match n with
  | 8 => { x with utvec := w }
  | 9 => { x with uepc := w }
  | 10 => { x with ucause := w }
  | 11 => { x with uinfo := w }
  | 25 => { x with rng := w }
  | 49 => { x with rfail := w }
  | n =>
    if 16 ≤ n ∧ n ≤ 22 then { x with cp := x.cp.set! (n - 16) w }
    else if 64 ≤ n ∧ n < 128 then { x with strc := x.strc.set! (n - 64) w }
    else x

/-- The general registers that snapshots hold. -/
def snapshotRegs : List GReg := (List.range 55).map (fun i => ⟨(i + 1) % 64, Nat.mod_lt _ (by decide)⟩)

/-- A context with g1 to g55 from a snapshot (R303). -/
def Ctx.restore (x : Ctx) (ws : List Word) : Ctx := (snapshotRegs.zip ws).foldl (fun x p => x.wr p.1 p.2) x

/-- The snapshot words of a record (R303). -/
def State.snapshot (s : State) (loc : Nat) : List Word := (List.range 55).map (fun i => s.word (loc + 64 + 8 * i))

/-- A record's 64 words (R303, R304). -/
def recordWords (head snap : List Word) : List Word := padTo 8 head ++ padTo 56 snap

/-! ### Unwinding (R308, R319) -/

/-- The location of an aligned word that a memory entry names, in a partition: scratch in the bank whose storage starts at base,
or translated memory. -/
def State.entryLoc (s : State) (part base : Nat) (addr : Word) : Option Nat :=
  if isAperture addr then some (base + field addr 20 0)
  else match s.walk part .store addr.toNat with | .ok l => some (l.pa addr.toNat) | .error _ => none

/-- The walks of the memory entries that undoing a context's items restores need no wait (R187, R224, R414). -/
def State.entriesFree (s : State) (base : Nat) (x : Ctx) (from_ : Nat) : Bool :=
  ((s.items base x).filter (fun i => decide (from_ ≤ i.1) && decide (i.2.toNat % 8 = 2))).all (fun i =>
    let addr := i.2 &&& ~~~(7 : Word)
    isAperture addr || s.walkFreeBy (some x) x.part addr.toNat)

/-- The locations that undoing a context's items restores, newest first: memory entries from one offset on. -/
def State.restores (s : State) (base : Nat) (x : Ctx) (from_ : Nat) : List (Nat × Word) :=
  ((s.items base x).filter (fun i => decide (from_ ≤ i.1) && decide (i.2.toNat % 8 = 2))).reverse.filterMap (fun i =>
    (s.entryLoc x.part base (i.2 &&& ~~~(7 : Word))).map (fun l => (l, s.word (base + i.1 + 8))))

/-- Undoes the items of a context's trail from an offset on, newest first: memory and register entries are restored, records
are dropped (R308, R319). -/
def State.unwind (s : State) (base : Nat) (x : Ctx) (from_ : Nat) : State × Ctx :=
  let undone := ((s.items base x).filter (fun i => decide (from_ ≤ i.1))).reverse
  let s' := (s.restores base x from_).foldl (fun s r => (s.store r.1 8 r.2.toNat).stampHomes x.part [r.1]) s
  let x' := undone.foldl (fun x i => if i.2.toNat % 8 = 1 then x.setLogged (i.2.toNat / 8 % 1024) (s.word (base + i.1 + 8)) else x) x
  (s', { x' with trailTop := BitVec.ofNat 64 from_ })

/-! ### try, trys, fail, cut, mark (R307 to R311) -/

/-- Pushes a choice point record (R304, R307). -/
def tryStep (stealable : Bool) (a b : GReg) : M Unit := do
  issue ([a, b] ++ snapshotRegs) [] [] []
  let table ← readG a
  let total ← readG b
  require (decide (table.toNat % 8 = 0) && decide (1 ≤ total.toNat) && decide (total.toNat ≤ 65535)) 5 4
  let regs ← snapshotRegs.mapM readG
  let s ← get
  let x := s.me
  let top := x.trailTop
  let steal := stealable && x.task.isNone && x.region.isNone
  let flags := x.region.isSome.toNat * 8 + x.task.isSome.toNat * 4 + steal.toNat
  pushTrail 0 (recordWords
    [table ||| 3, BitVec.ofNat 64 (total.toNat * 2 ^ 32 + total.toNat), top + 64, top, x.choice, BitVec.ofNat 64 flags,
     BitVec.ofNat 64 (ctxNum s.cur * 1024 + placeOf (coreOf s.cur))] regs)
  modifyMe (fun x => { x with choice := top })

/-- try (R307). -/
def execTryChoice (a b : GReg) (s : State) : Result := runBundle (tryStep false a b) s
/-- trys (R307). -/
def execTrySteal (a b : GReg) (s : State) : Result := runBundle (tryStep true a b) s

/-- The newest choice point with an alternative left, from one on (R308). -/
def State.liveChoice (s : State) (c : Nat) : Option Nat :=
  (s.choices 64 c).find? (fun c => decide (s.load (s.myLoc (c + 8)) 4 ≠ 0))

/-- The part of fail that undoes entries: every restoring write is a store, newest item first (R308). -/
def undoItem (i : Nat × Word) : M Unit := do
  let s ← get
  let old := s.word (s.myLoc (i.1 + 8))
  if i.2.toNat % 8 = 2 then
    let ea := i.2 &&& ~~~(7 : Word)
    let locs ← locate .store ea 8
    meet true locs
    perform locs (leBytes 8 old.toNat)
  else if i.2.toNat % 8 = 1 then modifyMe (fun x => x.setLogged (i.2.toNat / 8 % 1024) old)
  modifyMe (fun x => { x with trailTop := BitVec.ofNat 64 i.1 })

/-- The stores to its own scratch that the trail of a context holds have all been committed (R305). -/
def State.settled (s : State) (x : Ctx) : Bool := !s.packets.any (fun p => p.src.isSome && p.owner == x.source && p.state == .sent && p.logged)

/-- What fail finds before it unwinds: the record whose alternative is next, and the items above it, newest first (R308). -/
def failStart : M (Nat × List (Nat × Word)) := do
  let s ← get
  await (s.me.pend.isEmpty && s.settled s.me)
  match s.liveChoice s.me.choice.toNat with
  | none => trap 5 0
  | some c => do
    let above := s.myItems.filter (fun i => decide (c + 512 ≤ i.1))
    match (above.filter (fun i => decide (i.2.toNat % 8 = 6))).getLast? with
    | some i => raise { cls := 5, detail := 1, info := s.word (s.myLoc (i.1 + 8)) }
    | none => pure ()
    match (above.filter (fun i => isOpenRegion i.2)).getLast? with
    | some i => raise { cls := 5, detail := 7, info := BitVec.ofNat 64 i.1 }
    | none => pure ()
    pure (c, above.reverse)

/-- Undoes items newest first. What stops one leaves those before it undone and k.TRAILTOP where it stands (R308). -/
def undoAll : List (Nat × Word) → State → Except (Stop × State) State
  | [], s => .ok s
  | i :: is, s =>
    match undoItem i s with
    | .ok (_, s') => undoAll is s'
    | .error e => .error (e, s)

/-- fail after its unwinding: every restoring write has been performed, the table word is read, the registers are restored and the next
alternative is entered (R308). -/
def failEnter (c : Nat) : M Unit := do
  await (← get).myCore.acks.isEmpty
  let s ← get
  let at_ := s.myLoc c
  let i := s.load (at_ + 12) 4 - s.load (at_ + 8) 4
  let table := s.word at_ &&& ~~~(7 : Word)
  let code ← loadWord .load (table + BitVec.ofNat 64 (8 * i))
  let snap := (← get).snapshot at_
  modify (fun s => s.store (at_ + 8) 4 (s.load (at_ + 8) 4 - 1))
  modifyMe (fun x => { x.restore snap with npc := code &&& ~~~(1 : Word) })

/-- fail: a fault on the table word is precise with the unwinding done, and one that comes in the unwinding leaves what has been undone
(R308). -/
def execFail (s : State) : Result :=
  match failStart s with
  | .error e => runBundle (throw e) s
  | .ok ((c, above), s') =>
    match undoAll above s' with
    | .error (e, u) => runBundle (throw e) u
    | .ok u => runBundle (failEnter c) (u.setMe { u.me with choice := BitVec.ofNat 64 c })

/-- A valid mark for cut (R309). -/
def State.markValid (s : State) (m : Nat) : Bool :=
  let x := s.me
  let items := s.myItems
  decide (m % 16 = 0) && decide (x.trailBase.toNat ≤ m) && decide (m ≤ x.trailTop.toNat) &&
  (items.any (fun i => i.1 == m) || decide (m = x.trailTop.toNat)) &&
  items.all (fun i => if decide (i.2.toNat % 8 = 4) || isOpenRegion i.2 then decide (i.1 + itemBytes i.2 ≤ m) else true)

/-- Discards the choice points from a mark on (R309). -/
def State.cutTo (s : State) (m : Nat) : State :=
  let gone := (s.choices 64 s.me.choice.toNat).takeWhile (fun c => decide (m ≤ c))
  let s' : State := gone.foldl (fun s c => s.store (s.myLoc (c + 40)) 1 (s.load (s.myLoc (c + 40)) 1 ||| 16)) s
  let left : Word := match gone.getLast? with | some c => s.word (s.myLoc (c + 32)) | none => s.me.choice
  let x : Ctx := { s'.me with choice := left }
  s'.setMe (if left = 0 ∧ x.task.isNone ∧ x.region.isNone then { x with trailTop := x.trailBase } else x)

/-- cut (R309). -/
def execCut (a : GReg) (s : State) : Result :=
  runBundle (do
    issue [a] [] [] []
    let m ← readG a
    require ((← get).markValid m.toNat) 5 3
    modify (fun s => s.cutTo m.toNat)) s

/-- mark (R311). -/
def execMark (d : GReg) (s : State) : Result :=
  runBundle (do
    issue [] [d] [] []
    writeG d (← getMe).trailTop) s

/-! ### Ordered tasks (R313 to R320) -/

/-- The queued ordered tasks of a bank. -/
def Bank.queuedTasks (x : Bank) : List Task :=
  x.s3 ++ x.s4.filterMap (fun e => match e with | .task t => some t | .avalanche _ _ => none)

/-- The banks and bank images of a team. -/
def State.teamBanks (s : State) (t : Nat) : List Bank :=
  ((s.banks ++ s.images).map Prod.snd).filter (fun b => b.team == some t)

/-- The unfinished ordered tasks of a domain: queued, running, waiting to commit, parked, swapped out or without effect
(R317, R320). -/
def State.unfinished (s : State) (t : Nat) : List Task :=
  (s.teamBanks t).flatMap Bank.queuedTasks ++ (s.runs.map TaskRun.task).filter (fun k => k.team == t) ++ (s.team t).oaborted

/-- The slot word part of a global index: the place of the slot's core and the slot (R329). -/
def State.globalIndex (s : State) (c : CoreId) (slot : Nat) : Nat := s.accel * 2 ^ 20 + placeOf c * 2 ^ 10 + slot

/-- The timestamps of crossings that hold the horizon of a bank on a core: those of running and parked slots (R329, R334). -/
def State.bankCrossings (s : State) (c : CoreId) (b : Bank) : List Nat :=
  (b.slots.filter (fun e => e.2.state == .running || e.2.state == .parked)).map (fun e =>
    e.2.tn.toNat * 2 ^ 32 + s.globalIndex c e.1)

/-- The crossings and the crossing tasks in flight that hold a domain's horizon (R334). -/
def State.slotHorizons (s : State) (t : Nat) : List Nat :=
  let banks := (s.banks.filter (fun e => e.2.team == some t)).flatMap (fun e => s.bankCrossings (e.1 / 2) e.2)
  let images := (s.team t).saved.flatMap (fun e => s.bankCrossings e.1 (s.images.get Bank.reset e.2))
  let sent := s.packets.filterMap (fun p => match p.body with | .message m => some m | _ => none)
  let flying := ((sent ++ s.messages).filter (fun m => m.team == t)).filterMap (fun m => m.crossing.map Prod.fst)
  banks ++ images ++ flying

/-- A domain's horizon: the least H of its unfinished items, all ones when there is none (R317, R334). -/
def State.horizonOf (s : State) (t : Nat) : Nat :=
  ((s.unfinished t).map Task.h ++ s.slotHorizons t).foldl min (2 ^ 96 - 1)

/-- The horizon that a core holds for a domain: what the last reduction gave it, never above the true least H (R317). -/
def State.heldHorizon (s : State) (c : CoreId) (t : Nat) : Nat := min ((s.core c).horizonFor t) (s.horizonOf t)

/-- A task is the earliest unfinished item of its domain (R318, R319, R334). -/
def State.earliest (s : State) (k : Task) : Bool :=
  (s.unfinished k.team).all (fun u => decide (k.key ≤ u.key)) && (s.slotHorizons k.team).all (fun h => decide (k.h < h))

/-- otask (R314, R315). -/
def execOtask (d a : GReg) (s : State) : Result :=
  runBundle (do
    issue [a, d, d + 1] [] [] []
    let ea ← readG a
    let time ← readG d
    let tie ← readG (d + 1)
    let p ← loadPacket ea
    let s ← get
    let x := s.me
    let team := s.myTeam
    let h := time.toNat * 2 ^ 32 + tie.toNat
    let own := match x.task with | some r => decide (h < r.task.h) | none => false
    require (decide (tie.toNat < 2 ^ 32) && !own && decide ((s.team team).newest ≤ h)) 5 5
    await (decide (s.myBank.s3.length < 64))
    if x.choice != 0 && x.region.isNone then
      await (!x.speculates) .earliest
      pushTrail 0 (irrevocable 7 5 x.pc)
    let s ← get
    let t : Task :=
      { id := s.taskNext, team, h, rank := 2 ^ 48 + s.relCore x.part (coreOf s.cur) * 8 + ctxNum s.cur, packet := p,
        crossing := false, time, parent := match x.task with | some r => if r.speculative then some r.task.id else none | none => none }
    let s := { s with taskNext := s.taskNext + 1 }
    set (if s.myBank.exited then s.undeliverable team 1 else s.enter (bankOf s.cur) (fun b => { b with s3 := b.s3 ++ [t] }))) s

/-- The current ordered task's body ends: the context waits, occupied, for its commit (R318). -/
def endTask (s : State) : Result :=
  let x := s.me
  match x.task with
  | none => runBundle (trap 5 6) s
  | some r => .next { (s.setMe { x with task := some { r with ended := true }, run := .waiting, wait := .other }).noteIssue with stalled := [] }

/-- oend (R318). -/
def execOend (s : State) : Result := endTask s

/-- A handler context returns to dormant (R32, R323): its trail is discarded, and it resumes at its next bundle's place. -/
def Ctx.dormant (x : Ctx) : Ctx := { x.dropTrail with run := .dormant, wait := .none, task := none, event := none, barrier := [] }

/-- The tasks that descend from a task are discarded: queued ones and those that oabort has ended go, and started ones are marked
(R314). -/
def State.discardChildren (s : State) (id : Nat) : State :=
  let child (t : Task) : Bool := t.parent == some id
  let prune (b : Bank) : Bank :=
    { b with s3 := b.s3.filter (fun t => !child t)
             s4 := b.s4.filter (fun e => match e with | .task t => !child t | .avalanche _ _ => true) }
  let kids := (s.runs.filter (fun r => child r.task)).map (fun r => r.task.id)
  { s with
    banks := s.banks.map (fun e => (e.1, prune e.2))
    images := s.images.map (fun e => (e.1, prune e.2))
    teams := s.teams.map (fun e => (e.1, { e.2 with oaborted := e.2.oaborted.filter (fun t => !child t) }))
    ctxs := s.ctxs.map (fun e => (e.1, e.2.markAbort kids true))
    saved := s.saved.map (fun e => (e.1, e.2.markAbort kids true)) }

/-- The lines that undoing a context's whole trail restores. -/
def State.undoneLines (s : State) (base : Nat) (x : Ctx) : List Nat :=
  ((s.restores base x x.trailBase.toNat).map (fun r => lineOf r.1)).dedup

/-- Running tasks later than one that have written a line that an unwinding restores: they must unwind first, or what they wrote would
be lost (R224, R225). -/
def State.laterWriters (s : State) (t : Task) (lines : List Nat) : List Nat :=
  (lines.flatMap (fun l => (s.marksOf l).writers)).dedup.filter (fun i => i != t.id && decide (t.key < s.keyOf i))

/-- Running tasks later than one that have read a line that an unwinding restores (R224). -/
def State.laterReaders (s : State) (t : Task) (lines : List Nat) : List Nat :=
  (lines.flatMap (fun l => (s.marksOf l).readers)).dedup.filter (fun i => i != t.id && decide (t.key < s.keyOf i))

/-- Steps 1 to 3 of an abort for a context that runs a task: its trail is unwound to the mark, later readers abort too, its
marks go and its descendants are discarded (R224, R319). -/
def State.undoTask (s : State) (base : Nat) (x : Ctx) (t : Task) : State × Ctx :=
  let lines := s.undoneLines base x
  let u := s.unwind base x x.trailBase.toNat
  let s := (u.1.markAborts (s.laterReaders t lines)).clearMarks t.id
  (s.discardChildren t.id, u.2.dropTrail)

/-- The tail of the queue that an aborted task returns to (R319). -/
def Bank.requeue (b : Bank) (t : Task) : Bank :=
  if t.crossing then { b with s4 := b.s4 ++ [.task t] } else { b with s3 := b.s3 ++ [t] }

/-- ohoriz (R324). -/
def execOhoriz (d : GReg) (s : State) : Result :=
  runBundle (do
    issue [] [d, d + 1] [] []
    let h := (← get).heldHorizon (coreOf s.cur) s.myTeam
    writeG d (BitVec.ofNat 64 (h / 2 ^ 32))
    writeG (d + 1) (BitVec.ofNat 64 (h % 2 ^ 32))) s

end Sys2Proof.Machine
end

