-- ==== Sys2Proof/Machine/Teams.lean ====
section
/-! DEFINITION. The ends of events, members, teams and grids (R33, R45, R65, R271, R343, R399), events for a team (R34, R66), and the ends
of ordered tasks (R317 to R320, R322). -/

namespace Sys2Proof.Machine

/-! ### A team's end -/

/-- Every handler context of a bank rests (R33). -/
def State.resting (s : State) (b : Nat) : Bool :=
  (List.range 7).all (fun n => let r := (s.ctx (ctxIn b (n + 1))).run; r == .dormant || r == .exited)

/-- A team has ended: every member has exited or was killed, no handler finishes its event (R33), and no task that oabort ended is
unfinished (R320). -/
def State.teamOver (s : State) (t : Nat) : Bool :=
  let k := s.team t
  (k.state == .resident || k.state == .leaving) && k.members.all k.departed.contains && (s.banksOf t).all s.resting && k.oaborted.isEmpty

/-- The grid's record of an ended team: the last one writes the status word and removes the grid's charge (R399, R402). -/
def State.countEnded (s : State) (k : Team) : State :=
  let d := s.die k.die
  match d.grids.find? (fun g => g.id == k.grid) with
  | none => s
  | some g =>
    let g := { g with ended := g.ended + 1, faulted := g.faulted + k.killed.toNat }
    if g.ended < g.nteams then s.setDie k.die { d with grids := d.grids.map (fun x => if x.id = g.id then g else x) }
    else
      let s := s.setDie k.die { d with grids := d.grids.filter (fun x => x.id != g.id) }
      let s := if g.status = 0 then s else s.store g.status 8 (g.faulted * 2 ^ 32 + g.nteams)
      s.charge g.rcb (fun a b => a - b) g.chargedCores g.chargedRidges

/-- A bank that its team has left: its contexts rest, its queues are empty, its slots are undefined (R343), its carve stays; messages of its
outbox are still on their way (R42, R66). -/
def State.vacate (s : State) (b : Nat) : State :=
  let s := (List.range 8).foldl (fun s n => ((s.endLease (ctxIn b n)).leaveSprint (ctxIn b n)).quitRope (ctxIn b n)) s
  let s := (List.range 8).foldl (fun s n => s.setCtx (ctxIn b n) { s.ctx (ctxIn b n) with run := .dormant, team := none, survey := .none }) s
  s.setBank b { Bank.reset b with outbox := (s.bank b).outbox }

/-- A team ends: its banks are free, its residency handles go (R271), its surveys are discarded (R343), and its grid counts it (R399). -/
def State.endTeam (s : State) (t : Nat) : State :=
  let k := s.team t
  let s := (s.banksOf t).foldl (fun s b => s.vacate b) s
  let p := s.part k.part
  let s := s.setPart k.part { p with handles := p.handles.map (fun h => (h.1, h.2.filter (fun x => x.team != t))) }
  let s := s.setTeam t { k with state := .ended }
  let forget (k : Core) : Core :=
    { k with survey := k.survey.filter (fun v => v.team != t), waitingSurveys := k.waitingSurveys.filter (fun v => v.team != t)
             horizons := k.horizons.drop t, waves := k.waves.drop t }
  let s := { s with cores := s.cores.map (fun (e : Nat × Core) => (e.1, (forget e.2).promote)) }
  s.countEnded k

/-- A team ends as soon as nothing of it runs. -/
def State.tryEndTeam (s : State) (t : Nat) : State := if s.teamOver t then s.endTeam t else s

/-- The team of a bank ends if nothing of it runs. -/
def State.settleTeam (s : State) (b : Nat) : State :=
  match (s.bank b).team with
  | some t => s.tryEndTeam t
  | none => s

/-! ### The ends of an event and of a member -/

/-- The successor handles of the event that a context serves (R45). -/
def Ctx.successors (x : Ctx) : List Word := match x.event with | some v => v.succ | none => []

/-- What the successor decrements of a context's event wait for, as a cddec does: its earlier accesses are performed, and no engine has
claimed the records (R45, R187, R254). -/
def awaitSuccessors (c : CtxId) : M Unit := do
  let s ← get
  let x := s.ctx c
  await (x.successors.isEmpty || (s.quietOf c && s.successorsFree x.part x.successors))

/-- A handler's event ends: its task's successor handles are decremented (R45), its trail is discarded (R323), its place in a rope ends,
and the context is dormant (R32). -/
def State.endEvent (s : State) (c : CtxId) (e : Ending) : State :=
  let x := s.ctx c
  let s := (s.succeedAll x.part e x.successors).quitRope c
  s.setCtx c (s.ctx c).dormant

/-- The context 0 of a bank is gone: its member departs (R33, R65), its trail is discarded (R323), its rope and a lease that it extended
end (R54, R454). -/
def State.exitMember (s : State) (c : CtxId) (killed : Bool) : State :=
  let s := (s.leaveSprint c).quitRope c
  let s := (s.setCtx c { (s.ctx c).dropTrail with run := .exited }).recordState (s.ctx c).record 6
  s.endMember (bankOf c) killed

/-! ### Events for a team (R34, R66) -/

/-- Where a core holds a team's member: in a bank, or in the bank image that the team was swapped out to. -/
def State.teamAt (s : State) (c : CoreId) (t : Nat) : Option Served :=
  let act := s.activeBank c
  let sha := s.shadowBank c
  if s.bankTeam act = some t then some ⟨bankLoc act 0, s.scratchSize act, act, 0⟩
  else if s.bankTeam sha = some t ∧ (s.bank sha).image = 0 then some ⟨bankLoc sha 0, s.scratchSize sha, sha, 0⟩
  else
    match (s.team t).saved.find? (fun e => e.1 == c) with
    | none => none
    | some e =>
      some ⟨e.2 + 131072, (s.images.get Bank.reset e.2).size, act, e.2⟩

/-- Where a team's member is that a core holds or held: there, or where the team has been swapped in since (R66, log 63). -/
def State.memberAt (s : State) (c : CoreId) (t : Nat) : Option (CoreId × Served) :=
  match s.teamAt c t with
  | some v => some (c, v)
  | none =>
    match (s.team t).past.find? (fun e => e.1 == c) with
    | none => none
    | some e => ((s.team t).members[e.2]?).bind (fun m => (s.teamAt m t).map (fun v => (m, v)))

/-- An event for a team enters its member's sources at a core, or is discarded and counted (R66). -/
def State.enterTeam (s : State) (c : CoreId) (t : Nat) (f : Bank → Bank) : State :=
  match s.memberAt c t with
  | some (_, v) => if (s.servedBank v).open then s.enterServed v f else s.undeliverable t 1
  | none => s.undeliverable t 1

/-! ### The ends of ordered tasks (R317 to R322) -/

/-- The stores of a task in this package have all been performed (R225, R318). -/
def State.landedTask (s : State) (t : Task) : Bool :=
  !s.packets.any (fun p => p.task == some t.id && p.state == .sent && s.isHere p)

/-- What an unwinding of a task waits for: its own stores in flight, the walks and engine claims of the lines that it restores (R187), and the
unwinding of later tasks that have written them (R224). -/
def awaitUndo (base : Nat) (x : Ctx) (t : Task) : M Unit := do
  let s ← get
  await (s.landedTask t && s.entriesFree base x x.trailBase.toNat)
  let lines := s.undoneLines base x
  await (!lines.any s.claims.contains)
  let later := s.laterWriters t lines
  if later ≠ [] then throw (.abort later)

/-- An aborted or ended task's context is dormant, out of its rope. -/
def State.retireTask (s : State) (c : CtxId) (x : Ctx) : State := (s.quitRope c).setCtx c { x.dormant with rope := none }

/-- oabort: the task ends without effect, and stays unfinished until every earlier task has committed (R320). -/
def execOabort (s : State) : Result :=
  let x := s.me
  match x.task with
  | none => runBundle (trap 5 6) s
  | some r =>
    match awaitUndo (s.myLoc 0) x r.task s with
    | .error e => runBundle (throw e) s
    | .ok _ =>
      let u := s.undoTask (s.myLoc 0) x r.task
      let t := u.1.team r.task.team
      let s := u.1.setTeam r.task.team { t with oaborted := t.oaborted ++ [r.task] }
      let s := s.retire
      let s := s.retireTask s.cur { u.2 with pc := x.npc, pend := x.retired.pend, pins := x.retired.pins }
      .next { s.settleTeam (bankOf s.cur) with stalled := [] }

/-- A task's successor handles are decremented and the domain's newest committed timestamp advances. -/
def State.finishTask (s : State) (part : Nat) (t : Task) (e : Ending) : State :=
  let s := s.succeedAll part e (packetSuccessors t.packet)
  let k := s.team t.team
  s.setTeam t.team { k with newest := max k.newest t.h }

/-- OTASK_COMMIT: an ended task that is the earliest unfinished one commits once its stores are performed (R318); a task that oabort
ended is finished with killed status (R320). Its team ends where nothing else of it runs (R33). -/
def execOtaskCommit (s : State) : Result :=
  runStep (do
    let s ← get
    let x := s.me
    match x.task with
    | some r => do
      await (r.ended && x.run == .waiting && !r.aborted && s.earliest r.task && s.landedTask r.task)
      await (s.successorsFree x.part (packetSuccessors r.task.packet))
      let s := (s.clearMarks r.task.id).finishTask x.part r.task .normal
      let s := s.retireCtx s.cur
      set ((s.retireTask s.cur { s.me with pc := x.npc }).settleTeam (bankOf s.cur))
    | none => do
      let team := s.myTeam
      let k := s.team team
      match k.oaborted.find? s.earliest with
      | none => stall
      | some t => do
        await (s.successorsFree k.part (packetSuccessors t.packet))
        let s := s.setTeam team { k with oaborted := k.oaborted.erase t }
        set ((s.succeedAll k.part .killed (packetSuccessors t.packet)).tryEndTeam team)) s

/-- The saved context whose task must abort (R322). -/
def State.savedVictim (s : State) : Option (Nat × Ctx × TaskRun) :=
  s.saved.findSome? (fun e => match e.2.task with
    | some r => if r.aborted && r.speculative then some (e.1, e.2, r) else none
    | none => none)

/-- The core that a saved context's record names, and where the bytes of its bank start: in a bank that still holds its team, or in its
team's image (R384, R385, R389). -/
def State.savedPlace (s : State) (rec : Nat) (x : Ctx) : CoreId × Nat :=
  let core := (s.absCore x.part (s.load (rec + 8) 2 % 1024)).getD 0
  (core, ((x.team.bind (s.teamAt core)).map Served.base).getD 0)

/-- An aborted task's packet goes back to the tail of its queue at its core, and wakes a waiting context 0 (R261, R319); at a member that
has exited it is discarded and counted (R33, R66). -/
def State.requeueAt (s : State) (c : CoreId) (t : Task) : State := s.enterTeam c t.team (fun b => b.requeue t)

/-- TASK_ABORT: a marked task is unwound, cleared and re-queued, and its context becomes dormant (R319). The spill engine does the
same from the saved image for a context that is out of its bank, and its record shows it (R322). -/
def execTaskAbort (s : State) : Result :=
  runStep (do
    let s ← get
    let x := s.me
    match x.task with
    | some r => do
      await (r.aborted && r.speculative)
      let base := s.myLoc 0
      awaitUndo base x r.task
      let u := s.undoTask base x r.task
      let s := u.1.retireTask s.cur { u.2 with pend := x.pend }
      let s := if r.discarded then s else s.requeueAt (coreOf s.cur) r.task
      set (s.settleTeam (bankOf s.cur))
    | none =>
      match s.savedVictim with
      | none => stall
      | some (rec, y, r) => do
        let (core, base) := s.savedPlace rec y
        awaitUndo base y r.task
        let u := s.undoTask base y r.task
        let z := u.2.dormant
        let s := ({ u.1 with saved := u.1.saved.put rec z } : State).writeAreas rec z
        set (if r.discarded then s else s.requeueAt core r.task)) s

end Sys2Proof.Machine
end

