-- ==== Sys2Proof/Machine/Fabric.lean ====
section
/-! DEFINITION. Page 6 (R273 to R301): stream stores, remote atomics, fabric regions, requests, the routing engine, counters. -/

namespace Sys2Proof.Machine

/-! ### Where a stream access goes (R273 to R275, R296) -/

/-- A part of a stream access: its destination, the address there, and its bytes' place in the access. -/
structure Span where
  dest : Dest
  addr : Word
  off : Nat
  len : Nat
  deriving DecidableEq, Repr

/-- The parts of an access by remote page: each page is translated and checked; its package must be one of the job (R296). It is translated
as a store, the routing engine's too, and a local page that the translation refuses takes that cause before trap(3, 1): neither the kind nor
the order is stated (DESIGN CHOICE, log 94). -/
def remoteSpans : Nat → Word → Nat → Nat → M (List Span)
  | 0, _, _, _ => pure []
  | k + 1, va, off, n => do
    if n = 0 then pure []
    else do
      let s ← get
      if isService (coreOf s.cur) then trap 3 1
      let l ← translate .store va.toNat
      require l.isRemote 3 1
      require (s.inJob l.gid) 3 8
      let len := min n (l.page + l.size - va.toNat)
      let rest ← remoteSpans k (va + BitVec.ofNat 64 len) (off + len) (n - len)
      pure (⟨.package l.gid, l.dest va.toNat, off, len⟩ :: rest)

/-- The checks of R129 on a stream access: the destination refuses one that reaches a core with no bank of the partition (R130). -/
def streamAperture (ea : Word) (n : Nat) : M CoreId := do
  let s ← get
  match s.apertureCore s.me.part ea with
  | none => raise { cls := 2, detail := 5, addr := ea }
  | some c =>
    match s.served s.me.part c with
    | some v => if v.size < field ea 20 0 + n then raise { cls := 2, detail := 4, addr := ea } else pure c
    | none => pure c

/-- The parts of a stream access of n bytes (R296): an aperture address names its core, a remote address its package. -/
def spans (ea : Word) (n : Nat) : M (List Span) := do
  if isAperture ea then
    let c ← streamAperture ea n
    pure [⟨.core c, ea, 0, n⟩]
  else remoteSpans (n / 2 ^ 21 + 2) ea 0 n

/-- The packets of a part: at most 256 bytes each, in address order. -/
def cutSpan : Nat → Span → List Span
  | 0, _ => []
  | k + 1, p =>
    if p.len = 0 then []
    else
      let n := min 256 p.len
      { p with len := n } :: cutSpan k { p with addr := p.addr + BitVec.ofNat 64 n, off := p.off + n, len := p.len - n }

/-- The packets of an access. -/
def packetsOf (ps : List Span) : List Span := ps.flatMap (fun p => cutSpan (p.len / 256 + 1) p)

/-- What every page 6 instruction but rbegin and rcommit does before it acts: it waits while its task is speculative (R321), and
logs an irrevocable mark (R295, R303). -/
def beforeStream (op : Nat) : M Unit := do
  awaitEarliest
  logMark 6 op

/-- The store packet that a store of plain or routed bytes sends. -/
def storeBody (routed : Bool) (addr : Word) (data : List Byte) : PacketBody := if routed then .routed addr data else .store addr data

/-- Sends the packets of a store, in address order (R296). -/
def sendStore (routed : Bool) (ps : List Span) (data : List Byte) (sid cls : Nat) : M Unit :=
  (packetsOf ps).forM (fun p => do
    let _ ← sendPacket sid cls p.dest (storeBody routed p.addr ((data.drop p.off).take p.len)))

/-- A stream store of bytes that the core holds (R296). -/
def streamStore (op : Nat) (ea : Word) (data : List Byte) (sid cls : Nat) : M Unit := do
  classed cls
  aligned ea 8
  let ps ← spans ea data.length
  beforeStream op
  sendStore false ps data sid cls

/-- rst (R296). -/
def execRst (d a : GReg) (imm : Int) (sid : Fin 64) (cls : Fin 4) (s : State) : Result :=
  runBundle (do
    issue [a, d] [] [] []
    let base ← readG a
    let x ← readG d
    streamStore 0 (offsetAddr base imm 8) (leBytes 8 x.toNat) sid.val cls.val) s

/-- rstv (R296). -/
def execRstv (d : VReg) (a : GReg) (imm : Int) (sid : Fin 64) (cls : Fin 4) (s : State) : Result :=
  runBundle (do
    issue [a] [] [d] []
    let base ← readG a
    let v ← readV d
    streamStore 1 (offsetAddr base imm 512) (leBytes 512 v.toNat) sid.val cls.val) s

/-- rstm: the descriptor at g[b] names the source and its length (R296). -/
def execRstm (a b : GReg) (sid : Fin 64) (cls : Fin 4) (s : State) : Result :=
  runBundle (do
    issue [a, b] [] [] []
    let ea ← readG a
    let desc ← readG b
    classed cls.val
    aligned ea 8
    let bytes ← loadBytes .load desc 16
    let src := BitVec.ofNat 64 (leNat (bytes.take 8))
    let n := leNat (bytes.drop 8)
    require (decide (8 ≤ n) && decide (n ≤ 65536) && decide (n % 8 = 0)) 4 5
    let ps ← spans ea n
    let data ← loadBytes .load src n
    beforeStream 2
    sendStore false ps data sid.val cls.val) s

/-! ### Remote atomics (R297) -/

/-- A remote atomic: its result comes back into g[d]; with the debug attribute it opens no window (R219). -/
def remoteAtomic (op size : Nat) (d : GReg) (la : La) (ea : Word) (body : Word → PacketBody) (sid cls : Nat) : M Unit := do
  classed cls
  aligned ea size
  let ps ← spans ea size
  beforeStream op
  match ps with
  | [p] => do
    let debug := (← getMe).status.getLsbD 2
    let id ← sendPacket sid cls p.dest (body p.addr)
    late (if debug then 0 else la) (.remote d id) 0 0
  | _ => pure ()

/-- A remote atomic with its operand in b. -/
def atomicB (op size : Nat) (d a b : GReg) (la : La) (body : Word → Word → PacketBody) (sid cls : Nat) : M Unit := do
  issue [a, b] [d] [] []
  let ea ← readG a
  let x ← readG b
  remoteAtomic op size d la ea (fun addr => body addr x) sid cls

/-- raadd (R297). -/
def execRaadd (d a b : GReg) (la : La) (sid : Fin 64) (cls : Fin 4) (s : State) : Result :=
  runBundle (atomicB 3 8 d a b la .atomAdd sid.val cls.val) s
/-- rafadd (R297). -/
def execRafadd (d a b : GReg) (la : La) (sid : Fin 64) (cls : Fin 4) (s : State) : Result :=
  runBundle (atomicB 4 4 d a b la .atomFadd sid.val cls.val) s
/-- raxchg (R297). -/
def execRaxchg (d a b : GReg) (la : La) (sid : Fin 64) (cls : Fin 4) (s : State) : Result :=
  runBundle (atomicB 6 8 d a b la .atomXchg sid.val cls.val) s
/-- racas: g[d] is the expected value, g[d + 1] the new one (R297). -/
def execRacas (d a : GReg) (la : La) (sid : Fin 64) (cls : Fin 4) (s : State) : Result :=
  runBundle (do
    issue [a, d, d + 1] [d] [] []
    let ea ← readG a
    let expected ← readG d
    let new ← readG (d + 1)
    remoteAtomic 5 8 d la ea (fun addr => .atomCas addr expected new) sid.val cls.val) s

/-! ### Fabric regions (R287 to R290, R298) -/

/-- The clock of a context's partition, in ns (R288, R432). -/
def State.clockOf (s : State) (c : CtxId) : Nat := (s.part (s.ctx c).part).clock

/-- rbegin (R287). -/
def execRbegin (s : State) : Result :=
  runBundle (do
    issue snapshotRegs [] [] []
    awaitEarliest
    require (← getMe).region.isNone 3 4
    let regs ← snapshotRegs.mapM readG
    let s ← get
    let x := s.me
    pushTrail 0 (recordWords [5, x.choice, x.trailTop] regs)
    let region : Region := { record := x.trailTop.toNat, resume := x.npc, uses := [], tries := 0, failed := none, started := s.clockOf s.cur }
    modifyMe (fun x => { x with region := some region, rfail := 0 })) s

/-- The packets and requests of the current context's region that have no acknowledgement or reply; the tags stand at the core where each
request was made (R286, R298). -/
def State.regionOwes (s : State) : Bool :=
  s.packets.any (fun p => s.isMine p && p.region) ||
  s.cores.any (fun k => k.2.tags.any (fun t => t.2.busy && t.2.region && t.2.source == s.me.source))

/-- The region's record is released (R323): with an older user or a choice point left open it becomes dead, else the trail empties. -/
def releaseRegion (r : Region) : M Unit := do
  let s ← get
  let x := s.me
  if x.task.isNone && x.choice == 0 then modifyMe (fun x => { x with trailTop := x.trailBase, region := none })
  else do
    set (s.store (s.myLoc r.record) 1 13)
    modifyMe (fun x => { x with region := none })
    if !r.uses.isEmpty then pushTrail 0 (irrevocable 6 8 x.pc)

/-- rcommit: stalls until every packet and request of the region is acknowledged, or the region fails (R298); in a speculative task it
waits as every page 6 instruction does (R321). -/
def execRcommit (s : State) : Result :=
  runBundle (do
    awaitEarliest
    let x ← getMe
    match x.region with
    | none => trap 3 5
    | some r => do
      await (r.failed.isNone && !(← get).regionOwes)
      releaseRegion r) s

/-! ### Requests (R285, R286, R299) -/

/-- A destination word checked (R251, R275): a core of this package's partition, or another package of the job, whose word must have
place 0 unless it may name a core. -/
def destOf (w : Word) (names : Bool) : M Dest := do
  let s ← get
  require (!destReserved w) 0 9
  if destPackage w = s.gid then do
    require (s.inPart s.me.part (destPlace w)) 3 8
    pure (.core (destPlace w))
  else do
    require (names || decide (destPlace w = 0)) 0 9
    require (s.inJob (destPackage w)) 3 8
    pure (.package (destPackage w))

/-- A tag of a core. -/
def Core.tag (k : Core) (n : Nat) : Tag := k.tags.get (fun _ => ⟨false, 0, 0, 0, 0, false, 0⟩) n
/-- The lowest free tag. -/
def Core.freeTag (k : Core) : Option Nat := (List.range 64).find? (fun n => !(k.tag n).busy)
/-- A core with a tag freed: its epoch advances (R286). -/
def Core.release (k : Core) (n : Nat) : Core :=
  { k with tags := k.tags.put n { k.tag n with busy := false, region := false, epoch := ((k.tag n).epoch + 1) % 256 } }

/-- Header word 1 of R292, the low half of a record's word 0 (R285): the source context. -/
def State.sourceWord (s : State) : Nat := ctxNum s.cur * 2 ^ 37 + s.placeWord (coreOf s.cur)

/-- rreq (R299). -/
def execRreq (d a b : GReg) (s : State) : Result :=
  runBundle (do
    issue [a, b] [d] [] []
    let w ← readG a
    let ea ← readG b
    let dest ← destOf w true
    awaitEarliest
    let ws ← loadBlock ea
    let w0 := ws.getD 0 0
    require (decide (w0 &&& ~~~(0xFF0000000000 : Word) = 0)) 3 7
    let s ← get
    match s.myCore.freeTag with
    | none => stall
    | some n => do
      logMark 6 9
      let s ← get
      let x := s.me
      let t := s.myCore.tag n
      let first := BitVec.ofNat 64 (t.epoch * 2 ^ 56 + n * 2 ^ 48 + s.sourceWord) ||| w0
      let r : Request := { dest, place := destPlace w, part := x.part, team := s.myTeam, src := some s.cur, words := first :: ws.drop 1, owner := x.source }
      let taken : Tag := ⟨true, t.epoch, ws.getD 2 0, x.source, x.part, x.region.isSome, s.clockOf s.cur⟩
      modifyCore (fun k => { k with tags := k.tags.put n taken })
      modify (fun s => { (s.countSent s.cur).spray dest with requests := s.requests ++ [r] })
      writeG d (BitVec.ofNat 64 (t.epoch * 256 + n))) s

/-! ### The routing engine (R291, R292, R300) -/

/-- A send-list entry's fields, or none where it is malformed (R291). -/
def sendEntry (podId source : Nat) (ws : List Word) : Option SendEntry :=
  let w2 := ws.getD 2 0
  let w3 := ws.getD 3 0
  let len := field w2 12 0
  if field w2 31 13 = 0 ∧ field w3 63 16 = 0 ∧ field w3 7 0 = 0 ∧ field w3 9 8 < 2 ∧ 8 ≤ len ∧ len ≤ 4096 ∧ len % 8 = 0 ∧
      (ws.getD 1 0).toNat % 8 = 0 then
    some ⟨podId, source, ws.getD 0 0, ws.getD 1 0, field w2 63 32, len, field w3 15 10, field w3 9 8⟩
  else none

/-- The parts of a send-list entry's destination: it is a remote address (R291), and one that is not makes the entry malformed,
trap(3, 7) (R295, R300). -/
def entrySpans (ea : Word) (n : Nat) : M (List Span) := fun s =>
  if isAperture ea then raise { cls := 3, detail := 7 } s
  else match remoteSpans (n / 2 ^ 21 + 2) ea 0 n s with
    | .error (.trap t) => if t.cls = 3 ∧ t.detail = 1 then raise { cls := 3, detail := 7 } s else .error (.trap t)
    | r => r

/-- rsl (R300): the entry's destination must lie in the package that the word names. -/
def execRsl (a b : GReg) (s : State) : Result :=
  runBundle (do
    issue [a, b] [] [] []
    let w ← readG a
    let ea ← readG b
    require (← getMe).region.isNone 3 6
    let dest ← destOf w false
    let s ← get
    require (decide (destPackage w / 1024 = s.pod)) 3 8
    aligned ea 32
    let bytes ← loadBytes .load ea 32
    let ws := (List.range 4).map (fun i => BitVec.ofNat 64 (leNat ((bytes.drop (8 * i)).take 8)))
    match sendEntry (destPackage w % 1024) s.me.source ws with
    | none => trap 3 7
    | some e => do
      let ps ← keepPins (entrySpans e.dst (16 + e.len))
      require (ps.all (fun p => p.dest == dest || (p.dest == .package s.gid && decide (destPackage w = s.gid)))) 3 7
      await (decide ((s.die (dieOf (coreOf s.cur))).sends.length < 8192))
      beforeStream 10
      modify (fun s => let d := dieOf (coreOf s.cur); s.setDie d { s.die d with sends := (s.die d).sends ++ [e] })) s

/-- The current context's entries, lists by ascending pod id, each with its index in its list (R292); one that it made on another die before
it moved is still its own. -/
def State.mySends (s : State) : List (SendEntry × Nat) :=
  let mine := [0, 1, 2, 3].flatMap (fun d => (s.die d).sends.filter (fun e => e.source == s.me.source))
  (List.range 1024).flatMap (fun p => (mine.filter (fun e => e.podId == p)).zipIdx)

/-- One entry's data, read and checked before any entry is sent: its parts, and its header with its payload (R292). -/
def entryData (e : SendEntry × Nat) : M (List Span × List Byte) := do
  let payload ← loadBytes .engineRead e.1.src e.1.len
  let ps ← spans e.1.dst (16 + e.1.len)
  let header := leBytes 8 (e.1.tag * 2 ^ 32 + e.1.len * 2 ^ 16 + e.2) ++ leBytes 8 (← get).sourceWord
  pure (ps, header ++ payload)

/-- The current context's entries are gone from every die's lists (R292). -/
def State.dropSends (s : State) : State :=
  { s with dies := s.dies.map (fun e => (e.1, { e.2 with sends := e.2.sends.filter (fun x => x.source != s.me.source) })) }

/-- rslgo (R300). -/
def execRslgo (s : State) : Result :=
  runBundle (do
    require (← getMe).region.isNone 3 6
    beforeStream 11
    let es := (← get).mySends
    let data ← es.mapM entryData
    (es.zip data).forM (fun e => sendStore true e.2.1 e.2.2 e.1.1.sid e.1.1.cls)
    modify State.dropSends) s

/-! ### rsetc and rclose (R301) -/

/-- Sends a packet to the counter of a stream: a zero counter register raises trap(3, 10); a class 2 packet goes to its tag. -/
def sendCounter (op : Nat) (w : Word) (body : PacketBody) (sid cls : Nat) : M Unit := do
  classed cls
  let dest ← destOf w false
  let x ← getMe
  require (decide (cls = 2) || (x.strc[sid]?).getD 0 != 0) 3 10
  beforeStream op
  let _ ← sendPacket sid cls dest body

/-- rsetc (R301). -/
def execRsetc (a b : GReg) (sid : Fin 64) (cls : Fin 4) (s : State) : Result :=
  runBundle (do
    issue [a, b] [] [] []
    let w ← readG a
    let x ← readG b
    sendCounter 12 w (.setCounter x) sid.val cls.val) s

/-- rclose (R301). -/
def execRclose (a b : GReg) (sid : Fin 64) (cls : Fin 4) (s : State) : Result :=
  runBundle (do
    issue [a, b] [] [] []
    let w ← readG a
    let x ← readG b
    require (decide (x.toNat < 512)) 0 9
    sendCounter 13 w (.close (x.getLsbD 8) (field x 7 0)) sid.val cls.val) s

end Sys2Proof.Machine
end

