-- ==== Sys2Proof/Machine/Slices.lean ====
section
/-! DEFINITION. Slice gathers and slice atomics (R206 to R208, R247 to R250). -/

namespace Sys2Proof.Machine

/-- Bytes of an element of a type other than q4 (R21). -/
def elemBytes (q : QType) : Nat := laneWidth q / 8

/-- The locations of an element of a gather: none for a skipped lane; an aperture address raises trap(2, 8) (R247). -/
def gatherLocs (base : Word) (size : Nat) (x : Int) : M (Option (List Nat)) := do
  if x = -(2 ^ 31 : Int) then pure none
  else
    let ea := offsetAddr base x size
    if isAperture ea then raise { cls := 2, detail := 8, addr := ea }
    else
      let locs ← locate .gather ea size
      pure (some locs)

/-- Reads one element of a gather; a skipped lane is zero. -/
def gatherElem (locs : Option (List Nat)) : M Nat := do
  match locs with
  | none => pure 0
  | some ls => do
    awaitOwn ls
    return leNat (← readBytes ls)

/-- sgath: every element is translated and checked before any is read (R247). -/
def execSgath (d : VReg) (a : GReg) (b : VReg) (q : QType) (la : La) (s : State) : Result :=
  runBundle (do
    require (decide (q.val < 7)) 0 19
    issue [a] [] [b] [d]
    let base ← readG a
    let idx ← readV b
    let size := elemBytes q
    let xs := (List.range 128).map (fun i => (idx.extractLsb' (32 * i) 32).toInt)
    let s ← get
    let sc := xs.any (fun x => x != -(2 ^ 31 : Int) && s.touchesSC .load (offsetAddr base x size) size)
    let locs ← underPins (gatherLocs base size) xs
    let es ← locs.mapM gatherElem
    late (if sc then 0 else la) (.v d) 0 (ofLanes (laneWidth q) (es.take (laneCount q)))) s

/-- One read-modify-write at the home slice (R206, R248): the new value from the old one and the operand, and the old value
extended for g[d]. -/
def atomicStep (size : Nat) (f : Nat → Word → Nat) (signed : Bool) (d : GReg) (x : Word) (la : La) (ea : Word) : M Unit := do
  aligned ea size
  if isAperture ea then raise { cls := 2, detail := 8, addr := ea }
  let la' ← strongWindow .atomic ea size la
  let locs ← locate .atomic ea size
  awaitOwn locs
  meet true locs
  refuseMixed ea locs
  consume locs
  logStore ea locs
  let old := leNat ((← get).loadAt locs)
  performStrong ea locs (leBytes size (f old x))
  late la' (.g d) (extend signed size old) 0

/-- A slice atomic with its operand in b; q names the size (R248). -/
def sliceAtomic (f : Nat → Nat → Word → Nat) (signed : Bool) (d a b : GReg) (q : QType) (la : La) : M Unit := do
  require (decide (q.val < 4)) 0 19
  issue [a, b] [d] [] []
  let ea ← readG a
  let x ← readG b
  atomicStep (sizeOf q) (f (8 * sizeOf q)) signed d x la ea

/-- The lesser of two numbers of a width, signed (R248). -/
def minSigned (w old : Nat) (x : Word) : Nat := if toSigned w old ≤ toSigned w x.toNat then old else x.toNat % 2 ^ w
/-- The greater of two numbers of a width, signed (R248). -/
def maxSigned (w old : Nat) (x : Word) : Nat := if toSigned w x.toNat ≤ toSigned w old then old else x.toNat % 2 ^ w

/-- aadd (R248). -/
def execAadd (d a b : GReg) (q : QType) (la : La) (s : State) : Result :=
  runBundle (sliceAtomic (fun w old x => (old + x.toNat) % 2 ^ w) false d a b q la) s
/-- aand (R248). -/
def execAand (d a b : GReg) (q : QType) (la : La) (s : State) : Result :=
  runBundle (sliceAtomic (fun w old x => old &&& x.toNat % 2 ^ w) false d a b q la) s
/-- aor (R248). -/
def execAor (d a b : GReg) (q : QType) (la : La) (s : State) : Result :=
  runBundle (sliceAtomic (fun w old x => old ||| x.toNat % 2 ^ w) false d a b q la) s
/-- amin (R248). -/
def execAmin (d a b : GReg) (q : QType) (la : La) (s : State) : Result := runBundle (sliceAtomic minSigned true d a b q la) s
/-- amax (R248). -/
def execAmax (d a b : GReg) (q : QType) (la : La) (s : State) : Result := runBundle (sliceAtomic maxSigned true d a b q la) s
/-- axchg (R248). -/
def execAxchg (d a b : GReg) (q : QType) (la : La) (s : State) : Result :=
  runBundle (sliceAtomic (fun w _ x => x.toNat % 2 ^ w) false d a b q la) s

/-- rne(a + b) on f32 bits (R248, R297). -/
def addF32Bits (old : Nat) (x : Word) : Nat :=
  Fmt.f32.encode .rne ((Fmt.f32.decode (old % 2 ^ 32)).add (Fmt.f32.decode (x.toNat % 2 ^ 32)))

/-- afadd (R248). -/
def execAfadd (d a b : GReg) (q : QType) (la : La) (s : State) : Result :=
  runBundle (do
    require (q == 0) 0 19
    issue [a, b] [d] [] []
    let ea ← readG a
    let x ← readG b
    atomicStep 4 addF32Bits false d x la ea) s

/-- acas: g[d] holds the expected and g[d + 1] the new value (R249). -/
def execAcas (d a : GReg) (q : QType) (la : La) (s : State) : Result :=
  runBundle (do
    require (decide (q.val < 4)) 0 19
    issue [a, d, d + 1] [d] [] []
    let ea ← readG a
    let expected ← readG d
    let new ← readG (d + 1)
    let w := 8 * sizeOf q
    atomicStep (sizeOf q) (fun old _ => if old = expected.toNat % 2 ^ w then new.toNat % 2 ^ w else old) false d 0 la ea) s

end Sys2Proof.Machine
end

