-- ==== Sys2Proof/Machine/Commit.lean ====
section
/-! DEFINITION. The fabric's own steps: commits, acknowledgements, results and failures of stream packets (R278 to R284), request
records (R285, R286), failures of regions (R288, R289), and links (R293, R460, R461). -/

namespace Sys2Proof.Machine

/-! ### Packets and their issuers -/

/-- The packet with an id. -/
def State.packet (s : State) (id : Nat) : Option Packet := s.packets.find? (fun p => p.id == id)
/-- The state with a packet replaced. -/
def State.setPacket (s : State) (p : Packet) : State := { s with packets := s.packets.map (fun q => if q.id = p.id then p else q) }
/-- The state without a packet. -/
def State.dropPacket (s : State) (id : Nat) : State := { s with packets := s.packets.filter (fun q => q.id != id) }

/-- Where the context that issued a packet is: where it issued it, spilled, under its registry record, or in another bank (R443). -/
def State.issuer (s : State) (p : Packet) : Option (Nat ⊕ CtxId) := p.src.bind (fun c => s.seat c p.owner)

/-- Changes the context that issued a packet. -/
def State.onIssuer (s : State) (p : Packet) (f : Ctx → Ctx) : State := s.onSeat (s.issuer p) f

/-- An acknowledgement leaves k.UNACK; a spilled context's count stands in its record (R279, R443). -/
def State.acknowledge (s : State) (p : Packet) : State :=
  let s := s.onIssuer p (fun x => { x with unack := x.unack - 1 })
  match s.issuer p with
  | some (.inl r) => s.store (r + 1152) 8 ((s.load (r + 1152) 8 + 2 ^ 64 - 1) % 2 ^ 64)
  | _ => s

/-- The pending result that a packet will bring. -/
def Ctx.awaiting (x : Ctx) (id : Nat) : Option Pending :=
  x.pend.find? (fun q => match q.target with | .remote _ n => n == id | _ => false)

/-- A context without the pending result of a packet. -/
def Ctx.forget (x : Ctx) (id : Nat) : Ctx :=
  { x with pend := x.pend.filter (fun q => match q.target with | .remote _ n => n != id | _ => true) }

/-- The issuing context of a packet, in its bank or saved. -/
def State.issuerCtx (s : State) (p : Packet) : Option Ctx := s.atSeat (s.issuer p)

/-- The register of a remote result. -/
def Pending.register (q : Pending) : GReg := match q.target with | .g d | .remote d _ => d | _ => 0

/-- A result that never comes: g[d] stays unwritten (R284), and a port place that it reserved is free again. -/
def State.dropResult (s : State) (p : Packet) : State :=
  match (s.issuerCtx p).bind (·.awaiting p.id) with
  | some q =>
    let s := s.onIssuer p (fun x => x.forget p.id)
    match q.place with
    | some (.buffer n) => s.onIssuer p (fun x => { x with asm := dropPlace n x.asm })
    | some (.link h n) => s.onPlace s.cur q.register (.link h n) dropPlace
    | none => s
  | none => s

/-- A result completes into a context saved in a record: into the reserved place of a link, the assembly buffer, or the register's word
of the record (R17, R297, R443). -/
def State.deliverSaved (s : State) (r : Nat) (q : Pending) : State :=
  let d := q.register
  let x := s.saved.get Ctx.reset r
  match q.place with
  | some (.link h n) => s.onPlace s.cur d (.link h n) (fillPlace · q.gval)
  | some (.buffer n) => { s with saved := s.saved.put r { x with asm := fillPlace n q.gval x.asm } }
  | none =>
    let s := { s with saved := s.saved.put r (x.wr d q.gval) }
    if d.val = 0 then s else s.store (r + 256 + 8 * d.val) 8 q.gval.toNat

/-! ### Commit (R278, R279, R281, R301) -/

/-- The core that holds the tag of a class 2 packet (R286): the destination core or the core of the address where its tag is busy with
the packet's epoch, else the lowest core of the partition with such a tag. -/
def State.tagCore (s : State) (p : Packet) : Option CoreId :=
  let near := match p.dest with | .core c => [c] | .package _ => []
  let named := match bodyAddr p.body with
    | some a => if isAperture a then (s.apertureCore p.part a).toList else []
    | none => []
  let all := ((s.cores.map Prod.fst).filter (s.inPart p.part))
  (near ++ named ++ all).find? (fun c => let t := (s.core c).tag p.sid; t.busy && decide (t.epoch = p.epoch))

/-- The counter that a packet's commit changes: none for an atomic; a class 2 packet's is its tag's (R281, R286). -/
def State.counterAddr (s : State) (p : Packet) : Word :=
  if isAtomicBody p.body then 0
  else if p.cls = 2 then match s.tagCore p with | some c => ((s.core c).tag p.sid).rcnt | none => 0
  else p.counter

/-- The location of a counter at its destination (R281). -/
def State.counterLoc (s : State) (part : Nat) (a : Word) : Option (CoreId × Nat) :=
  match s.apertureCore part a with
  | none => none
  | some c =>
    match s.served part c with
    | none => none
    | some v => if isAperture a = false ∨ v.size < field a 20 0 + 8 then none else some (c, v.base + field a 20 0)

/-- The identity of a packet's source in its destination's record: its package, and its context (R278). -/
def sourceKey (p : Packet) : Nat × Nat × Nat :=
  if p.owner = 0 then (p.srcPackage, p.srcPlace, p.srcCtx) else (p.srcPackage, p.owner, 8)

/-- A destination as a number: a core, or a package. -/
def destCode (d : Dest) : Nat := match d with | .core c => c | .package g => 2 ^ 20 + g

/-- Whether a record of a partition is the one of a packet's source, stream and destination. -/
def receives (p : Packet) (r : Receiver) : Bool :=
  (r.package, r.place, r.ctx) == sourceKey p && r.sid == p.sid && r.dest == destCode p.dest

/-- The record of a packet's source, stream and destination (R278). -/
def State.receiver (s : State) (p : Packet) : Receiver :=
  let k := sourceKey p
  ((s.part p.part).receivers.find? (receives p)).getD ⟨k.1, k.2.1, k.2.2, p.sid, destCode p.dest, 0, []⟩

/-- The next number is committed, with an atomic's result in the replay cache of 64 (R278, R290). -/
def State.advance (s : State) (p : Packet) (result : Option Word) : State :=
  let r := s.receiver p
  let cache := match result with | some w => ((p.seq, w) :: r.cache).take 64 | none => r.cache
  let q := s.part p.part
  s.setPart p.part { q with receivers := { r with next := (r.next + 1) % 2 ^ 24, cache } :: q.receivers.filter (fun x => !receives p x) }

/-- The core whose count of received items a packet enters (R430). -/
def State.arrivalCore (s : State) (p : Packet) : CoreId :=
  match p.dest with | .core c => c | .package _ => (s.absCore p.part 0).getD 0

/-- A commit reaches a bank or image that is being staged or spilled, and waits (R390). -/
def State.commitMoves (s : State) (p : Packet) : Bool :=
  (s.counterAddr p :: (bodyAddr p.body).toList).any (fun a => isAperture a &&
    (match s.apertureCore p.part a with
      | none => false
      | some c => match s.served p.part c with | some v => s.moving c v | none => false))

/-- A packet's fate at its destination, which counts it as received unless it refuses it: a refused one counts at its sender, with its
failure (R430). -/
def State.settlePacket (s : State) (p : Packet) (st : PacketState) (result : Word) : State :=
  let s := s.setPacket { p with state := st, result }
  if s.isHere p && st != .refused then s.countRecv (s.arrivalCore p) p.part else s

/-- Adds to a count of a partition's descriptor (R379): stale packets at 72, late replies at 80. -/
def State.countAt (s : State) (part off : Nat) : State :=
  let a := s.ptab.toNat + 128 * part + off
  s.store a 8 ((s.load a 8 + 1) % 2 ^ 64)

/-- A free word (log 4). -/
def takeWord : M Word := do
  let bs ← (List.range 8).mapM (fun _ => takeByte)
  pure (BitVec.ofNat 64 (leNat bs))

/-- The lines that hold back a commit: claims other than those of the copy that the packet belongs to, of the routing engine for its
own packets, or of the logged stores of the packet's own context (R187, R221). A logged store's entry and write are one step: routed packets
that come after it wait for it, and not it for them (R305). -/
def State.claimsFor (s : State) (p : Packet) : List Nat :=
  match p.body with
  | .copied core id _ _ =>
    let g := s.ridge (ridgeOf core)
    ({ s.setRidge (ridgeOf core) { g with copies := g.copies.filter (fun c => !(coreOf c.ctx == core && c.id == id)) } with packets := [] } : State).claims
  | .routed _ _ => ({ s with packets := s.packets.filter (fun q => q.logged && q.owner != p.owner) } : State).claims
  | _ => ({ s with packets := s.packets.filter (fun q =>
      q.id != p.id && !(q.logged && q.owner == p.owner) && !(p.logged && decide (p.id < q.id))) } : State).claims

/-- A commit waits for claims, and for the marks of ordered tasks: the store of a running task aborts later tasks of its domain that have
the line, and any other waits for a speculative writer (R187, R224). -/
def meetCommit (p : Packet) (locs : List Nat) : M Unit := do
  let s ← get
  let claims := s.claimsFor p
  await ((linesOf locs).all (fun l => !claims.contains l))
  match p.task.bind s.runOf with
  | none => await ((linesOf locs).all (fun l => (s.marksOf l).writers.isEmpty))
  | some t => do
    let inDomain (i : Nat) : Bool := (s.runOf i).map Task.team == some t.team
    await ((linesOf locs).all (fun l => (s.marksOf l).writers.all inDomain))
    let marked := ((linesOf locs).flatMap (fun l => (s.marksOf l).readers ++ (s.marksOf l).writers)).dedup
    let victims := marked.filter (fun i => inDomain i && decide (t.key < s.keyOf i))
    if victims ≠ [] then throw (.abort victims)

/-- A strong access that commits over pending ones of another size leaves free bytes (R219). -/
def commitMixed (p : Packet) (locs : List Nat) : M Unit := do
  if p.strong then scramble ((← get).mixedFor p.owner locs)

/-- The committed bytes of a store; its context notes the old ones, which may still be fetched (R80). -/
def commitBytes (p : Packet) (locs : List Nat) : M Unit := do
  match p.body with
  | .copied core id _ srcs => do
    let s ← get
    match (s.ridge (ridgeOf core)).copies.find? (fun c => coreOf c.ctx == core && c.id == id) with
    | none => pure ()
    | some c => do
      meetEngine (s.atSeat (s.seat c.ctx c.source)) srcs
      let bad ← moveBytes c (srcs.zip locs)
      if bad then
        let s ← get
        let k := s.core core
        set (s.setCore core { k with xfers := k.xfers.map (fun e => if e.id = id then { e with fault := true } else e) })
  | .store _ data | .routed _ data => modify (fun s => ((s.noteOld (s.issuer p) locs).storeAt locs data).cleanse locs)
  | _ => pure ()
  modify (fun s => s.stampHomes p.part locs)

/-- A counter changes at its core (R223, R301). -/
def bumpCounter (loc : Nat) (f : Nat → Nat) : M Nat := do
  let s ← get
  let new := f (s.load loc 8) % 2 ^ 64
  set (s.store loc 8 new)
  pure new

/-- Refuses a packet: neither its data nor its counter addition is performed (R281, R284). -/
def refusePacket (p : Packet) : M Unit := modify (fun s => s.settlePacket p .refused 0)

/-- A close marker's event enters S5 at the counter's core, for the team whose bank or bank image holds the counter there (R301). -/
def State.arrivalEvent (s : State) (c : CoreId) (p : Packet) (hid : Nat) (addr : Word) (new : Nat) : State :=
  let source := BitVec.ofNat 64 (p.srcCtx * 2 ^ 37 + p.srcPackage * 2 ^ 16 + p.srcPlace)
  let team := ((s.served p.part c).bind (fun v => (s.servedBank v).team)).getD p.team
  s.enterTeam c team (fun b => { b with s5 := b.s5 ++ [⟨some hid, 0, [addr, BitVec.ofNat 64 new, source]⟩] })

/-- Commits a packet with its counter's place known. -/
def commitCounted (p : Packet) (counter : Option (CoreId × Nat)) : M Unit := do
  match counter with
  | some c => meetCommit p (run c.2 8)
  | none => pure ()
  let bump (f : Nat → Nat) : M Nat := match counter with | some c => bumpCounter c.2 f | none => pure 0
  let stored (addr : Word) (n : Nat) : M Unit := do
    match (← get).destLocs p addr n with
    | none => refusePacket p
    | some locs => do
      meetCommit p locs
      commitBytes p locs
      commitMixed p locs
      let _ ← bump (· + n)
      modify (fun s => (s.advance p none).settlePacket p .committed 0)
  let atomic (addr : Word) (n : Nat) (f : Nat → Nat) : M Unit := do
    match (← get).destLocs p addr n with
    | none => refusePacket p
    | some locs => do
      meetCommit p locs
      let s ← get
      let old := leNat (s.loadAt locs)
      let bad := (linesOf locs).find? s.poison.contains
      let s := (((s.noteOld (s.issuer p) locs).storeAt locs (leBytes n (f old))).stampHomes p.part locs)
      let s := match bad with
        | some l => s.onIssuer p (fun x => { x with
            faulted := some (x.faulted.getD { cls := 2, detail := 0, addr := BitVec.ofNat 64 (l * 128), precise := false }) })
        | none => s
      let w := BitVec.ofNat 64 old
      set s
      commitMixed p locs
      modify (fun s => (s.advance p (some w)).settlePacket p .committed w)
  match p.body with
  | .store a d | .routed a d => stored a d.length
  | .copied _ _ a srcs => stored a srcs.length
  | .atomAdd a x => atomic a 8 (fun old => (old + x.toNat) % 2 ^ 64)
  | .atomFadd a x => atomic a 4 (fun old => addF32Bits old x)
  | .atomXchg a x => atomic a 8 (fun _ => x.toNat)
  | .atomCas a e n => atomic a 8 (fun old => if old = e.toNat then n.toNat else old)
  | .setCounter x => do
    let _ ← bump (fun _ => x.toNat)
    modify (fun s => (s.advance p none).settlePacket p .committed 0)
  | .message _ => pure ()
  | .close hen hid => do
    let new ← bump (· + 2 ^ 48)
    let s ← get
    let a := s.counterAddr p
    let s := match counter with
      | some c => if hen then s.arrivalEvent c.1 p hid a new else s
      | none => s
    let s := if p.cls = 2 then match s.tagCore p with | some c => s.setCore c ((s.core c).release p.sid) | none => s else s
    set ((s.advance p none).settlePacket p .committed 0)
/-- An earlier store of a packet's context is on its way to some of the same bytes in another stream: a context's accesses to the same bytes
keep program order (R62, R161, R214; log 78). -/
def State.behindOwn (s : State) (p : Packet) : Bool :=
  let locs := s.bodyLocs p
  p.src.isSome && s.packets.any (fun q =>
    decide (q.id < p.id) && q.src.isSome && q.owner == p.owner && !(q.sid == p.sid && q.dest == p.dest) && (s.landing q).any locs.contains)

/-- Commits a packet at its destination in this package: a stale epoch drops it, a duplicate is acknowledged without effect, and a
number above the next one waits (R278, R286, R290). A late reply, or a packet dropped as stale, does not advance the next number, so that
later numbers of its stream wait: the rules do not say (DESIGN CHOICE, log 92). -/
def commitHere (p : Packet) : M Unit := do
  let s ← get
  let q := s.part p.part
  let r := s.receiver p
  let d := (p.seq + 2 ^ 24 - r.next) % 2 ^ 24
  if !q.valid then refusePacket p
  else if p.cls ≠ 2 ∧ p.epoch ≠ q.fepoch then set ((s.settlePacket p .dropped 0).countAt p.part 72)
  else if 2 ^ 23 ≤ d then
    if isAtomicBody p.body then
      match r.cache.find? (fun e => e.1 == p.seq) with
      | some e => set (s.settlePacket p .committed e.2)
      | none => refusePacket p
    else set (s.settlePacket p .committed 0)
  else if p.cls = 2 ∧ (s.tagCore p).isNone then set ((s.settlePacket p .dropped 0).countAt p.part 80)
  else do
    await (decide (d = 0) && !s.commitMoves p && !s.behindOwn p)
    let a := s.counterAddr p
    if a = 0 then commitCounted p none
    else
      match s.counterLoc p.part a with
      | none => refusePacket p
      | some c => commitCounted p (some c)

/-- A packet that commits in another package, which a link must reach (R460, R461): what it does there is outside; a result is a free value
(log 4). -/
def commitAway (p : Packet) : M Unit := do
  let s ← get
  let r := s.receiver p
  let d := (p.seq + 2 ^ 24 - r.next) % 2 ^ 24
  if 2 ^ 23 ≤ d then
    match r.cache.find? (fun e => e.1 == p.seq), isAtomicBody p.body with
    | some e, true => set (s.settlePacket p .committed e.2)
    | none, true => refusePacket p
    | _, false => set (s.settlePacket p .committed 0)
  else do
    await (decide (d = 0) && s.reaches p.dest)
    if isAtomicBody p.body then do
      let w ← takeWord
      let w := match p.body with | .atomFadd _ _ => w &&& 0xFFFFFFFF | _ => w
      modify (fun s => (s.advance p (some w)).settlePacket p .committed w)
    else set ((s.advance p none).settlePacket p .committed 0)

/-- Another package takes a message: those of one context to one core arrive in the order in which they were sent (R42). -/
def messageTaken (p : Packet) (m : Message) : M Unit := do
  let s ← get
  let before (q : Packet) : Bool :=
    match q.body with
    | .message n => decide (q.id < p.id) && q.owner == p.owner && n.dest == m.dest && n.place == m.place
    | _ => false
  await (!s.packets.any before && s.reaches p.dest)
  set ((s.contourReceived m).dropPacket p.id)

/-- STREAM_COMMIT (R278); a message for another package is queued there (R42). -/
def execStreamCommit (packet : Nat) (s : State) : Result :=
  runStep (do
    let s ← get
    match s.packet packet with
    | none => stall
    | some p => do
      await (p.state == .sent)
      match p.body with
      | .message m => messageTaken p m
      | _ => if s.isHere p then commitHere p else commitAway p) s

/-! ### Acknowledgements, results, failures (R279, R280, R284, R297) -/

/-- STREAM_ACK: a committed packet, or one dropped at its destination, leaves k.UNACK (R279, R280). A remote atomic that is dropped has no
result to bring: it fails (R297). -/
def execStreamAck (packet : Nat) (s : State) : Result :=
  runStep (do
    let s ← get
    match s.packet packet with
    | none => stall
    | some p => do
      await ((p.state == .dropped || p.state == .committed) && !(isAtomicBody p.body && p.src.isSome))
      set (((s.dropResult p).acknowledge p).dropPacket packet)) s

/-- REMOTE_ATOMIC_RESULT: the old value completes into g[d] wherever the bank stands, and is the packet's acknowledgement (R280, R297,
R443). -/
def execRemoteAtomicResult (packet : Nat) (s : State) : Result :=
  runStep (do
    let s ← get
    match s.packet packet with
    | none => stall
    | some p => do
      await (p.state == .committed && isAtomicBody p.body && p.src.isSome)
      let s := match s.issuer p with
        | some (.inr c) =>
          match (s.ctx c).awaiting packet with
          | some q => (s.setCtx c ((s.ctx c).forget packet)).deliver c { q with gval := p.result }
          | none => s
        | some (.inl r) =>
          match (s.saved.get Ctx.reset r).awaiting packet with
          | some q => ({ s with saved := s.saved.put r ((s.saved.get Ctx.reset r).forget packet) } : State).deliverSaved r { q with gval := p.result }
          | none => s
        | none => s
      set ((s.acknowledge p).dropPacket packet)) s

/-- k.RFAIL of a region's first failed packet, before its tries are known (R289). -/
def failureWord (s : State) (p : Packet) : Word :=
  let gid := match p.dest with | .core _ => s.gid | .package g => g
  BitVec.ofNat 64 (p.sid * 2 ^ 52 + gid * 2 ^ 31 + (if p.state = .refused then 2 else 1))

/-- A context takes trap(3, 9) at its next bundle boundary (R284). -/
def Ctx.fabricFault (x : Ctx) : Ctx := { x with faulted := some (x.faulted.getD { cls := 3, detail := 9, precise := false }) }

/-- A failed packet's effect on its context outside a region: trap(3, 9), and a broken stream (R284). -/
def Ctx.fabricFailed (x : Ctx) (p : Packet) : Ctx := (x.setSender { x.sender p.sid p.dest with broken := true }).fabricFault

/-- A region notes its first failure (R288, R289). -/
def Ctx.regionFailed (x : Ctx) (w : Word) : Ctx := { x with region := x.region.map (fun r => { r with failed := some (r.failed.getD w) }) }

/-- The open region of a packet's issuer that its failure concerns (R288). -/
def State.inRegion (s : State) (p : Packet) : Bool := p.region && (match s.issuerCtx p with | some x => x.region.isSome | none => false)

/-- A failed item counts as received at its sender, unless its destination has counted it (R430). -/
def State.countFailed (s : State) (p : Packet) : State :=
  if p.state = .committed ∨ p.state = .failed ∨ p.state = .dropped ∧ s.isHere p then s
  else s.countRecv (match s.issuer p with | some (.inr c) => coreOf c | _ => p.srcPlace) p.part

/-- FABRIC_FAILURE: a packet that cannot be delivered, was refused, or whose acknowledgement cannot be had, fails (R284). In a region it
counts in k.UNACK until the region's failure is taken (R280, R288). A message that fails has no stream to break, and one that
carries a crossing task has no context to trap (log 75). -/
def execFabricFailure (packet : Nat) (s : State) : Result :=
  runStep (do
    let s ← get
    match s.packet packet with
    | none => stall
    | some p => do
      let t := s.countFailed p
      match p.body with
      | .message m => set (((t.onIssuer p Ctx.fabricFault).contourReceived m).dropPacket packet)
      | _ =>
        if s.inRegion p then do
          await (p.state != .failed)
          set ((t.onIssuer p (fun x => x.regionFailed (failureWord s p))).setPacket { p with state := .failed })
        else set ((((t.onIssuer p (fun x => x.fabricFailed p)).showStreams (t.issuer p)).dropResult p).acknowledge p |>.dropPacket packet)) s

/-- The number that a destination waits for is on its way. -/
def State.gapFilled (s : State) (p : Packet) : Bool :=
  let r := s.receiver p
  s.packets.any (fun q => q.state == .sent && receives q r && q.seq == r.next && q.part == p.part)

/-- STREAM_GAP_TIMEOUT: a packet above a gap that nothing fills is discarded and counted as stale once the partition's region timeout has
passed (R284). -/
def execStreamGapTimeout (packet : Nat) (s : State) : Result :=
  runStep (do
    let s ← get
    match s.packet packet with
    | none => stall
    | some p => do
      let d := (p.seq + 2 ^ 24 - (s.receiver p).next) % 2 ^ 24
      let q := s.part p.part
      await (p.state == .sent && ofStream p && s.isHere p && decide (0 < d) && decide (d < 2 ^ 23) && !s.gapFilled p &&
        decide (q.rgto * 1000 ≤ q.clock - p.sentAt))
      set ((s.settlePacket p .dropped 0).countAt p.part 72)) s

/-- BROKEN_STREAM_CLEAR: the service clears a broken mark (R284). The sender's next number stays, and the destination still waits for the
number that failed: the rule does not say at which number the stream goes on (DESIGN CHOICE, log 91). -/
def execBrokenStreamClear (sid : Nat) (dest : Dest) (s : State) : Result :=
  runStep (modifyMe (fun x => x.setSender { x.sender sid dest with broken := false })) s

/-! ### Requests (R285, R286) -/

/-- An earlier record of the same requester waits for the same core (R42, R285). -/
def State.behindRequest (s : State) (n : Nat) (r : Request) : Bool :=
  (s.requests.take n).any (fun q => q.owner == r.owner && q.dest == r.dest && q.place == r.place &&
    decide ((q.words.getD 0 0).toNat % 2 ^ 40 = (r.words.getD 0 0).toNat % 2 ^ 40))

/-- REQUEST_ARRIVE: a record enters queue S6 of its core, which holds 16 (R285). Records of one context for one core arrive in order, as its
messages do under R42; unlike msend, rreq does not stall while four wait: its bound is the core's 64 tags (DESIGN CHOICE, log 93). -/
def execRequestArrive (n : Nat) (s : State) : Result :=
  runStep (do
    let s ← get
    match s.requests[n]? with
    | none => stall
    | some r => do
      await (!s.behindRequest n r)
      let core := match r.dest with | .core c => some c | .package g => if g = s.gid then some r.place else none
      let left := { s with requests := s.requests.eraseIdx n }
      match core with
      | none => do
        await (s.reaches r.dest)
        set left
      | some c => do
        let room := match s.teamAt c r.team with
          | some v => !(s.servedBank v).open || decide ((s.servedBank v).s6.length < 16)
          | none => true
        await room
        set ((left.countRecv c r.part).enterTeam c r.team (fun b => { b with s6 := b.s6 ++ [r.words] }))) s

/-- How long a tag has been taken, by the clock of its requester's partition (R286, R443). -/
def State.tagAge (s : State) (t : Tag) : Nat := (s.part t.part).clock - t.taken

/-- REQUEST_TIMEOUT: a tag of the focus core is freed when the partition's request timeout has passed (R286). -/
def execRequestTimeout (tag : Nat) (s : State) : Result :=
  runStep (do
    let s ← get
    let k := s.core s.focus
    let t := k.tag tag
    await (t.busy && decide ((s.part t.part).rqto * 1000 ≤ s.tagAge t))
    set (s.setCore s.focus (k.release tag))) s

/-! ### Failures of regions (R288, R289) -/

/-- REGION_TIMEOUT: the region's time has passed without rcommit completing (R288). -/
def execRegionTimeout (s : State) : Result :=
  runStep (do
    let s ← get
    let x := s.me
    match x.region with
    | none => stall
    | some r => do
      await (r.failed.isNone && s.isActive s.cur && decide ((s.part x.part).rgto * 1000 ≤ s.clockOf s.cur - r.started))
      set (s.setMe { x with region := some { r with failed := some 3 } })) s

/-- A context's senders rolled back to their numbers at rbegin (R288). -/
def Ctx.rollBack (x : Ctx) (uses : List RegionUse) : Ctx :=
  uses.foldl (fun x u => x.setSender { x.sender u.sid u.dest with next := u.start }) x

/-- The attempt's packets and requests no longer count: their acknowledgements and replies are discarded (R288, R299). -/
def State.disown (s : State) : State :=
  let mine : List Packet := s.packets.filter (fun p => s.isMine p && p.region)
  let s : State := mine.foldl (fun s p => s.dropResult p) s
  let left : List Packet := s.packets.filter (fun p => !(p.state == .failed && mine.any (fun q => q.id == p.id)))
  let s : State := { s with packets := left.map (fun (p : Packet) => if mine.any (fun q => q.id == p.id) then { p with src := none } else p) }
  let s := s.setMe { s.me with unack := s.me.unack - BitVec.ofNat 64 mine.length }
  let free (k : Core) : Core := (List.range 64).foldl (fun k n =>
    let t := k.tag n
    if t.busy ∧ t.region ∧ t.source = s.me.source then k.release n else k) k
  { s with cores := s.cores.map (fun e => (e.1, free e.2)) }

/-- REGION_FAILURE: a region's failure is taken at a bundle boundary (R288): the attempt is undone, and the body may replay. -/
def execRegionFailure (s : State) : Result :=
  runStep (do
    let s ← get
    match s.me.region with
    | none => stall
    | some r => do
      match r.failed with
      | none => stall
      | some w => do
        await ((s.me.run == .running || s.me.run == .waiting) && s.isActive s.cur && !s.halted s.cur)
        await (s.entriesFree (s.myLoc 0) s.me (r.record + 512))
        await (!((s.restores (s.myLoc 0) s.me (r.record + 512)).any (fun l => s.claims.contains (lineOf l.1))))
        let s := (s.finishPending s.cur).disown
        let u := s.unwind (s.myLoc 0) s.me (r.record + 512)
        let s := u.1
        let record := s.myLoc r.record
        let tries := min 255 (r.tries + 1)
        let region : Region :=
          { r with uses := r.uses.map (fun u => { u with issued := 0, atomics := 0 }), tries, failed := none, started := s.clockOf s.cur }
        let x := (u.2.restore (s.snapshot record)).rollBack r.uses
        set (s.setMe { x with
          choice := s.word (record + 8)
          rfail := w ||| BitVec.ofNat 64 (tries * 256)
          region := some region
          run := .running
          wait := .none
          pc := r.resume })) s

/-! ### Links (R293, R460, R461) -/

/-- UALINK_READ_REQUEST: a received read or atomic request is answered as unsupported (R293). -/
def execUalinkReadRequest (gid : Nat) (s : State) : Result :=
  runStep (modify (fun s => { s with replies := s.replies ++ [.unsupported gid] })) s

/-- STATION_LINK_DOWN (R460). -/
def execStationLinkDown (station : Nat) (s : State) : Result :=
  runStep (modify (fun s => { s with stations := s.stations &&& ~~~(1#32 <<< station) })) s
/-- STATION_LINK_UP (R460). -/
def execStationLinkUp (station : Nat) (s : State) : Result :=
  runStep (modify (fun s => { s with stations := s.stations ||| (1#32 <<< station) })) s
/-- PORT_LINK_CHANGE (R461). -/
def execPortLinkChange (port : Nat) (up : Bool) (s : State) : Result :=
  runStep (modify (fun s => { s with ports := if up then s.ports ||| (1#4 <<< port) else s.ports &&& ~~~(1#4 <<< port) })) s

end Sys2Proof.Machine
end

