-- ==== Sys2Proof/Machine/Contour.lean ====
section
/-! DEFINITION. Page 8 and the contour unit (R326 to R353): slots, crossings, the avalanche guard, surveys, and the horizon's
reduction (R317, R334). -/

namespace Sys2Proof.Machine

/-! ### Advancing and scheduling (R330, R331) -/

/-- An f32 value. -/
def f32 (x : BitVec 32) : Val := Fmt.f32.decode x.toNat
/-- A value rounded to f32. -/
def toF32 (v : Val) : BitVec 32 := BitVec.ofNat 32 (Fmt.f32.encode .rne v)

/-- x at a time: the line from the slot's own time, each step rounded (R330). -/
def Slot.xAt (k : Slot) (now : Word) : BitVec 32 :=
  let d := toF32 ((Val.ofInt ((now.toNat : Int) - (k.t.toNat : Int))).scale (-32))
  toF32 ((f32 k.x).add (f32 (toF32 ((f32 k.slope).mul (f32 d)))))

/-- A slot advanced to a time. -/
def Slot.advance (k : Slot) (now : Word) : Slot := { k with x := k.xAt now, t := now }

/-- A slope above zero. -/
def Slot.rising (k : Slot) : Bool :=
  match (f32 k.slope).cmp (.fin false 0 0) with
  | some .gt => true
  | _ => false

/-- The level ahead (R331). -/
def Slot.level (k : Slot) : BitVec 32 :=
  if k.rising then toF32 ((f32 k.q).add (f32 k.delta)) else toF32 ((f32 k.q).add (f32 k.delta).neg)

/-- ⌈num ÷ den × 2^32⌉ of two magnitudes (R331). -/
def ceilScaled (m1 : Nat) (e1 : Int) (m2 : Nat) (e2 : Int) : Nat :=
  let k := e1 - e2 + 32
  let num := if 0 ≤ k then m1 * 2 ^ k.toNat else m1
  let den := if 0 ≤ k then m2 else m2 * 2 ^ (-k).toNat
  (num + den - 1) / den

/-- The time of the next crossing (R331): all ones where there is no finite one. -/
def Slot.nextTime (k : Slot) : Word :=
  let never := BitVec.allOnes 64
  let lv := f32 k.level
  if k.state ≠ .running then never
  else
    match f32 k.slope, f32 k.x, lv with
    | .nan, _, _ | _, .nan, _ | _, .inf _, _ | _, _, .inf _ | _, _, .nan => never
    | slope, x, lv =>
      let rem := if k.rising then lv.add x.neg else x.add lv.neg
      let u : Option Nat :=
        match slope, rem with
        | .inf _, _ => some 0
        | .fin _ 0 _, _ => .none
        | .fin _ m2 e2, .fin neg m1 e1 => some (if neg then 0 else ceilScaled m1 e1 m2 e2)
        | _, _ => .none
      match u with
      | .none => never
      | some u =>
        let tn := k.t.toNat + max u 1
        if 2 ^ 64 - 1 ≤ tn then never else BitVec.ofNat 64 tn

/-- A slot rescheduled. -/
def Slot.schedule (k : Slot) : Slot := { k with tn := k.nextTime }

/-! ### Slots of the current core -/

/-- A slot of a bank. -/
def Bank.slot (b : Bank) (n : Nat) : Slot := b.slots.get (fun _ => Slot.none) n
/-- Changes a slot of the current core. -/
def setSlot (n : Nat) (k : Slot) : M Unit := modifyBank (fun b => { b with slots := b.slots.put n k })

/-- A slot word without a field (R346). -/
def slotOf0 (w : Word) : M Nat := do
  require (decide (w.toNat < 1024)) 6 0
  pure w.toNat

/-- Bits [63:32] of an f32 operand are zero (R346). -/
def f32Operand (w : Word) : M (BitVec 32) := do
  require (decide (w.toNat < 2 ^ 32)) 6 0
  pure (w.setWidth 32)

/-- The time of the ordered task that issues an instruction; outside a task, the slot's own time (R337). -/
def Ctx.now (x : Ctx) (k : Slot) : Word := match x.task with | some r => r.task.time | none => k.t

/-- Tasks later than a contour write or crossing that have marked the slot abort (R337). -/
def State.disturb (s : State) (n b key : Nat) : State :=
  s.markAborts (((s.bank b).slot n).marks.filter (fun i => decide (key < s.keyOf i)))

/-- What every contour write waits for before its checks: its speculative task's turn (R321, R337), and a survey armed on the core for a
time before its task's (R340). -/
def contourWait : M Unit := do
  awaitEarliest
  let s ← get
  match s.me.task, s.myCore.survey with
  | some r, some v => await (decide (r.task.time.toNat ≤ v.time.toNat))
  | _, _ => pure ()

/-- What every contour write does before it acts: a choice point gets an irrevocable mark, and later readers of the slot abort (R337). -/
def contourWrite (op n : Nat) : M Unit := do
  logMark 8 op
  let s ← get
  set (s.disturb n (bankOf s.cur) (match s.me.task with | some r => r.task.key | none => 0))

/-- A defined slot, not running unless a task issues the write (R337). -/
def writableSlot (n : Nat) : M Slot := do
  let s ← get
  let k := s.myBank.slot n
  require (k.state != .undefined && (k.state != .running || s.me.task.isSome)) 6 1
  pure k

/-- A quantum is positive and finite (R327). -/
def quantumOk (d : BitVec 32) : Bool :=
  match f32 d with
  | .fin neg m _ => !neg && decide (m ≠ 0)
  | _ => false

/-! ### The instructions (R347 to R352) -/

/-- cvdef (R347). -/
def execCvdef (a b : GReg) (s : State) : Result :=
  runBundle (do
    issue [a, b] [] [] []
    contourWait
    let n ← slotOf0 (← readG a)
    let ea ← readG b
    let k := (← get).myBank.slot n
    require (k.state == .undefined || k.state == .stopped) 6 1
    aligned ea 32
    let bytes ← loadBytes .load ea 32
    let w (i : Nat) : Nat := leNat ((bytes.drop (8 * i)).take 8)
    require (decide (w 1 < 2 ^ 32) && decide (w 3 = 0)) 6 7
    let delta := BitVec.ofNat 32 (w 0 / 2 ^ 32)
    require (quantumOk delta) 6 2
    contourWrite 0 n
    let x := BitVec.ofNat 32 (w 0)
    let t := BitVec.ofNat 64 (w 2)
    setSlot n { k with state := .stopped, q := x, x, slope := BitVec.ofNat 32 (w 1), delta, t, tn := BitVec.allOnes 64,
                       fcount := 0, limit := 0, gcount := 0, window := 0, wstart := t }) s

/-- cvslope and cvquant (R348): advance in a task, install the field, reschedule a running slot. -/
def installField (op : Nat) (check : BitVec 32 → Bool) (put : Slot → BitVec 32 → Slot) (a b : GReg) : M Unit := do
  issue [a, b] [] [] []
  contourWait
  let n ← slotOf0 (← readG a)
  let v ← f32Operand (← readG b)
  let k ← writableSlot n
  require (check v) 6 2
  contourWrite op n
  let x ← getMe
  let k := if x.task.isSome then k.advance (x.now k) else k
  let k := put k v
  setSlot n (if k.state = .running then k.schedule else k)

/-- cvslope (R348). -/
def execCvslope (a b : GReg) (s : State) : Result :=
  runBundle (installField 1 (fun _ => true) (fun k v => { k with slope := v }) a b) s
/-- cvquant (R348). -/
def execCvquant (a b : GReg) (s : State) : Result := runBundle (installField 2 quantumOk (fun k v => { k with delta := v }) a b) s

/-- A fanout entry's fields (R333): accel, place, handler id and target slot; none where a reserved bit is set. -/
def fanoutFields (w : Nat) : Option (Nat × Nat × Nat × Nat) :=
  if w / 2 ^ 46 = 0 ∧ w / 2 ^ 10 % 2 ^ 8 = 0 then some (w / 2 ^ 36 % 1024, w / 2 ^ 26 % 1024, w / 2 ^ 18 % 256, w % 1024) else none

/-- Whether an entry is well formed for a team: its core is one of the team, or it names another package of the pod (R333, R349). -/
def State.fanoutOk (s : State) (team w : Nat) : Bool :=
  match fanoutFields w with
  | none => false
  | some (accel, place, _, _) =>
    if accel = s.accel then (s.team team).members.contains place else s.inJob (s.pod * 1024 + accel)

/-- The lines that a fanout list lies in are not claimed by an engine: its reader waits for them (R187, R333). -/
def State.fanoutFree (s : State) (b off count : Nat) : Bool :=
  s.openTo none (run (bankLoc b off) (8 * count))

/-- A fanout list as it stands in scratch. -/
def State.fanoutList (s : State) (b off count : Nat) : List Nat := (List.range count).map (fun i => s.load (bankLoc b (off + 8 * i)) 8)

/-- cvfan (R349). -/
def execCvfan (a b : GReg) (s : State) : Result :=
  runBundle (do
    issue [a, b] [] [] []
    contourWait
    let n ← slotOf0 (← readG a)
    let w ← readG b
    let off := field w 20 0
    let count := field w 39 32
    let k ← writableSlot n
    let s ← get
    let bank := bankOf s.cur
    require (decide (field w 63 40 = 0) && decide (field w 31 21 = 0) && decide (off % 8 = 0) &&
      decide (off + 8 * count ≤ s.scratchSize bank)) 6 4
    await (s.fanoutFree bank off count)
    let list := s.fanoutList bank off count
    require (list.all (s.fanoutOk s.myTeam)) 6 4
    contourWrite 3 n
    setSlot n { k with fcount := count, fanout := off }) s

/-- A running slot's H lies below the newest committed timestamp of the domain (R350). -/
def State.stale (s : State) (n : Nat) (k : Slot) : Bool :=
  decide (k.tn.toNat * 2 ^ 32 + s.globalIndex (coreOf s.cur) n < (s.team s.myTeam).newest)

/-- cvrun (R350). -/
def execCvrun (a : GReg) (s : State) : Result :=
  runBundle (do
    issue [a] [] [] []
    contourWait
    let n ← slotOf0 (← readG a)
    let k ← writableSlot n
    let x ← getMe
    let r :=
      match k.state with
      | .stopped =>
        let k := if x.task.isSome then k.advance (x.now k) else k
        ({ k with state := .running } : Slot).schedule
      | .parked =>
        let k' := ({ k with state := .running, gcount := 0, wstart := k.tn } : Slot).schedule
        { k' with tn := BitVec.ofNat 64 (max k'.tn.toNat k.tn.toNat) }
      | _ => k
    require (!(k.state != .running && (← get).stale n r)) 6 3
    contourWrite 4 n
    setSlot n r) s

/-- cvstop (R350). -/
def execCvstop (a : GReg) (s : State) : Result :=
  runBundle (do
    issue [a] [] [] []
    contourWait
    let n ← slotOf0 (← readG a)
    let k ← writableSlot n
    let x ← getMe
    let stop (k : Slot) : Slot := { k with slope := 0, tn := BitVec.allOnes 64, state := .stopped }
    contourWrite 5 n
    setSlot n (match k.state with
      | .running => stop (k.advance (x.now k))
      | .parked => stop k
      | _ => k)) s

/-- Control word 0 (R328). -/
def Slot.control (k : Slot) : Word :=
  let st := match k.state with | .undefined => 0 | .stopped => 1 | .running => 2 | .parked => 3
  BitVec.ofNat 64 (st * 2 ^ 62 + k.fcount * 2 ^ 32 + k.fanout)

/-- A field of a slot (R351). -/
def Slot.read (k : Slot) (f : Nat) (now : Word) : Word :=
  if k.state = .undefined then 0
  else
    match f with
    | 0 => k.q.setWidth 64
    | 1 => k.x.setWidth 64
    | 2 => k.slope.setWidth 64
    | 3 => k.delta.setWidth 64
    | 4 => k.t
    | 5 => k.tn
    | 6 => (k.xAt now).setWidth 64
    | _ => k.control

/-- cvread: a speculative task marks the slot (R337, R351). -/
def execCvread (d a : GReg) (s : State) : Result :=
  runBundle (do
    issue [a] [d] [] []
    let w ← readG a
    require (decide (field w 63 19 = 0) && decide (field w 15 10 = 0)) 6 0
    let n := field w 9 0
    let s ← get
    let x := s.me
    let k := s.myBank.slot n
    match x.task with
    | some r => if r.speculative then setSlot n { k with marks := (r.task.id :: k.marks).dedup }
    | none => pure ()
    writeG d (k.read (field w 18 16) (x.now k))) s

/-- cvguard (R352). -/
def execCvguard (a b : GReg) (s : State) : Result :=
  runBundle (do
    issue [a, b] [] [] []
    contourWait
    let n ← slotOf0 (← readG a)
    let w ← readG b
    let k ← writableSlot n
    require (decide (field w 63 48 = 0) && !(decide (field w 39 32 ≠ 0) && decide (field w 31 0 = 0))) 6 5
    contourWrite 7 n
    setSlot n { k with ghid := field w 47 40, limit := field w 39 32, window := field w 31 0, gcount := 0, wstart := k.t }) s

/-! ### Surveys (R340 to R342, R353) -/

/-- cvsurvey: its block is translated and claimed, and its survey is armed, or waits while another is armed on the core; it stalls until its
survey has fired, and then orders later accesses as lda does (R342, R353). The block is translated as a store: R418 names no kind for it
(DESIGN CHOICE, log 94). -/
def execCvsurvey (a b : GReg) (s : State) : Result :=
  match s.me.survey with
  | .armed => runBundle stall s
  | .fired => runBundle (modifyMe (fun x => { x.acquire with survey := .none })) s
  | .none =>
    let arm : M Unit := do
      issue [a, b] [] [] []
      let time ← readG a
      let ea ← readG b
      require (← getMe).task.isNone 6 8
      require (decide (ea.toNat % 4096 = 0)) 6 6
      let locs ← locate .store ea 4096
      meet true locs
      let s ← get
      let v : Survey := ⟨time, locs.headD 0, s.myTeam, s.cur, s.me.source, s.myCore.gens.get (fun _ => 0) s.me.part⟩
      modifyCore (fun k => ({ k with waitingSurveys := k.waitingSurveys ++ [v] } : Core).promote)
      modifyMe (fun x => { x with survey := .armed, wait := .other })
    match arm s with
    | .ok ((), s') => .next { s' with stalled := [] }
    | .error e => runBundle (throw e) s

/-- SURVEY_FIRE: the survey armed on the focus core fires when its domain's horizon has passed its time and the domain's contour messages
have all arrived, also while its team is out of the active bank; the set is its team's, wherever that stands (R326, R341, R343, log 77).
The core's next survey is then armed (R353). -/
def execSurveyFire (s : State) : Result :=
  runStep (do
    let s ← get
    match (s.core s.focus).survey with
    | none => stall
    | some v => do
      let k := s.team v.team
      await (decide (v.time.toNat < s.heldHorizon s.focus v.team / 2 ^ 32) && decide (k.sentMsgs = k.recvMsgs) &&
        !(s.part k.part).stopped && !(s.core s.focus).stopped.contains k.part)
      let slots := match s.memberAt s.focus v.team with | some (_, w) => (s.servedBank w).slots | none => []
      let defined := slots.filter (fun e => e.2.state != .undefined)
      let s := (defined.foldl (fun s e => s.store (v.dest + 4 * e.1) 4 (e.2.xAt v.time).toNat) s).stampEngine
        (defined.map (fun e => v.dest + 4 * e.1))
      let s := s.setCore s.focus ({ s.core s.focus with survey := none } : Core).promote
      set (s.onSeat (s.seat v.ctx v.source) (fun x => { x with survey := if x.survey = .armed then .fired else x.survey }))) s

/-! ### Crossings (R332 to R338) -/

/-- The slot of a bank with the earliest crossing: the lowest number at equal times. -/
def Bank.firstRunning (b : Bank) : Option (Nat × Slot) :=
  let running := b.slots.filter (fun e => e.2.state == .running)
  running.find? (fun e => running.all (fun f => decide (e.2.tn.toNat * 1024 + e.1 ≤ f.2.tn.toNat * 1024 + f.1)))

/-- The packet of a crossing task (R335). -/
def crossingPacket (index hid : Nat) (time : Word) (up : Bool) (q : BitVec 32) (tslot : Nat) : List Byte :=
  leBytes 8 (index * 2 ^ 32 + hid * 256 + 1) ++ leBytes 8 time.toNat ++ leBytes 8 (up.toNat * 2 ^ 32 + q.toNat) ++ leBytes 8 tslot

/-- A crossing's tasks for its well-formed fanout entries, each with its entry's position: the target package's pod id and core, and the
packet (R332, R335). -/
def State.crossingTasks (s : State) (team b : Nat) (n : Nat) (k : Slot) (up : Bool) : List (Nat × Nat × Nat × List Byte) :=
  let index := s.globalIndex (b / 2) n
  (s.fanoutList b k.fanout k.fcount).zipIdx.filterMap (fun e =>
    if s.fanoutOk team e.1 then
      match fanoutFields e.1 with
      | some (accel, place, hid, tslot) => some (e.2, accel, place, crossingPacket index hid k.t up k.q tslot)
      | none => none
    else none)

/-- Queues one task of a crossing: at S4 of a core of this package, or as a message to another (R335, R336). -/
def State.queueCrossing (s : State) (team b h : Nat) (time : Word) (e : Nat × Nat × Nat × List Byte) : State :=
  let (pos, accel, place, packet) := e
  if accel = s.accel then
    let t : Task := { id := s.taskNext, team, h, rank := 1 + pos, packet, crossing := true, time, parent := none }
    let s : State := { s with taskNext := s.taskNext + 1 }
    s.enterTeam place team (fun x => { x with s4 := x.s4 ++ [S4Entry.task t] })
  else
    let words := (List.range 4).map (fun i => BitVec.ofNat 64 (leNat ((packet.drop (8 * i)).take 8)))
    let m : Message := { dest := .package (s.pod * 1024 + accel), place, part := (s.team team).part, team, words, crossing := some (h, 1 + pos) }
    ((s.contourSent m).countSentAt (b / 2) m.part).departMessage (b / 2) m

/-- Every task of a crossing has a place in S4, which holds 64 entries (R336); one for another package is sent at once. -/
def State.crossingFits (s : State) (team : Nat) (ts : List (Nat × Nat × Nat × List Byte)) : Bool :=
  let here := ts.filter (fun e => e.2.1 == s.accel)
  here.all (fun e =>
    let n := (here.filter (fun f => f.2.2.1 == e.2.2.1)).length
    match s.teamAt e.2.2.1 team with
    | some v => !(s.servedBank v).open || decide ((s.servedBank v).s4.length + n ≤ 64)
    | none => true)

/-- The avalanche check's window (R338). -/
def Slot.rewindow (k : Slot) : Slot :=
  if k.limit ≠ 0 ∧ k.wstart.toNat + k.window ≤ k.tn.toNat then { k with wstart := k.tn, gcount := 0 } else k

/-- CONTOUR_CROSSING: the focus core's earliest slot crosses its level, reschedules, and queues its fanout's tasks; at its limit it parks
and queues an avalanche event (R332 to R338). -/
def execContourCrossing (s : State) : Result :=
  runStep (do
    let s ← get
    let b := s.activeBank s.focus
    let x := s.bank b
    match x.firstRunning, x.team with
    | some (n, k), some t => do
      let p := (s.team t).part
      let index := s.globalIndex s.focus n
      let h := k.tn.toNat * 2 ^ 32 + index
      await (k.tn != BitVec.allOnes 64 && decide (h ≤ s.heldHorizon s.focus t) && !(s.part p).stopped && !(s.core s.focus).stopped.contains p)
      match (s.core s.focus).survey with
      | some v => await (decide (k.tn.toNat ≤ v.time.toNat))
      | none => pure ()
      let g := k.rewindow
      if g.limit ≠ 0 ∧ g.gcount = g.limit then do
        await (decide (x.s4.length < 64))
        let s := s.setBank b { x with slots := x.slots.put n { g with state := .parked } }
        set (s.enter b (fun x => { x with s4 := x.s4 ++ [.avalanche g.ghid [BitVec.ofNat 64 n, g.tn, BitVec.ofNat 64 g.gcount]] }))
      else do
        let g := if g.limit ≠ 0 then { g with gcount := g.gcount + 1 } else g
        let lv := g.level
        let crossed := { g with x := lv, q := lv, t := g.tn }
        await (s.fanoutFree b k.fanout k.fcount)
        let ts := s.crossingTasks t b n crossed g.rising
        await (s.crossingFits t ts)
        let s := s.disturb n b (h * 2 ^ 128)
        let x := s.bank b
        let s := s.setBank b { x with slots := x.slots.put n crossed.schedule }
        let bad := (s.fanoutList b k.fanout k.fcount).filter (fun w => !s.fanoutOk t w)
        let s := bad.foldl (fun s _ => s.postNoctx p { cls := 6, detail := 4 }) s
        set (ts.foldl (fun s e => s.queueCrossing t b h crossed.t e) s)
    | _, _ => stall) s

/-! ### The horizon's reduction (R306, R317, R319, R321) -/

/-- A waiting task that is the earliest becomes non-speculative (R319). -/
def State.grounded (s : State) (team : Nat) (x : Ctx) : Ctx :=
  match x.task with
  | some r => if r.task.team = team ∧ x.wait = .earliest ∧ r.aborted = false ∧ s.earliest r.task then { x with task := some { r with speculative := false } } else x
  | none => x

/-- HORIZON_REDUCTION: the cores of a domain receive its horizon, and a waiting task that is the earliest becomes non-speculative
(R306, R317, R321). -/
def execHorizonReduction (team : Nat) (s : State) : Result :=
  runStep (do
    let s ← get
    let h := s.horizonOf team
    let s' : State := (s.team team).members.foldl (fun t c =>
      let k := t.core c
      if k.horizonFor team = h then t else t.setCore c { k with horizons := k.horizons.put team h, waves := k.waves.put team s.time }) s
    set { s' with ctxs := s'.ctxs.map (fun (e : Nat × Ctx) => (e.1, s.grounded team e.2)) }) s

end Sys2Proof.Machine
end

