-- ==== Sys2Proof/Machine/Sync.lean ====
section
/-! DEFINITION. Page 5 (R256 to R267): fences, waits, barriers, context flow, the services of scall, carve and sprint leases. -/

namespace Sys2Proof.Machine

/-! ### Fences (R213, R218, R256, R257) -/

/-- Whether a packet's destination lies in a scope of the current core (R213, R218): a package's own memory lies in its package. -/
def State.packetIn (s : State) (q : Nat) (p : Packet) : Bool :=
  inScope (coreOf s.cur) q (s.scopeDest p (bodyAddr p.body)) || (decide (q = 4) && s.isHere p)

/-- The current context has an unacknowledged packet whose destination lies in a scope. -/
def State.owes (s : State) (q : Nat) (which : Packet → Bool) : Bool :=
  s.packets.any (fun p => s.isMine p && s.packetIn q p && which p)

/-- A fence of a scope: earlier stores are performed there and the packets to it are acknowledged (R218). -/
def awaitScope (q : QType) : M Unit := do
  require (decide (q.val < 6)) 0 19
  let s ← get
  await (!s.owes q.val (fun _ => true))
  await (decide (q.val < 2) || s.myCore.acks.isEmpty)

/-- fence: its stores may be fetched as instructions after the next jr, and by the contexts of its scope after an acquire and a jr (R80,
R218). -/
def execFence (q : QType) (s : State) : Result :=
  runBundle (do
    awaitScope q
    modify (fun s => s.fenceCode q.val)) s
/-- fencea: earlier loads and atomics are performed (R218). -/
def execFencea (q : QType) (s : State) : Result :=
  runBundle (do
    require (decide (q.val < 6)) 0 19
    await (!(← get).owes q.val (fun p => isAtomicBody p.body))
    modifyMe Ctx.acquire) s
/-- fencer (R218). -/
def execFencer (q : QType) (s : State) : Result := runBundle (awaitScope q) s
/-- sfence: the packets of one stream are acknowledged (R257). -/
def execSfence (sid : Fin 64) (s : State) : Result :=
  runBundle (do
    let s ← get
    await (!s.packets.any (fun p => s.isMine p && p.sid == sid.val))) s

/-! ### waitge (R258) -/

/-- waitge: waits until the word at g[a] is at least g[b]; consumed poison ends the wait (R258, R424). -/
def execWaitge (a b : GReg) (s : State) : Result :=
  runBundle (do
    issue [a, b] [] [] []
    let ea ← readG a
    let v ← readG b
    aligned ea 8
    let locs ← locate .load ea 8
    awaitOwn locs
    let x := BitVec.ofNat 64 (leNat (← readBytes locs))
    match (← getMe).faulted with
    | some t => if x.toNat < v.toNat then raise t else pure ()
    | none => do
      await (decide (v.toNat ≤ x.toNat))
      observe locs
      modifyMe Ctx.acquire) s

/-! ### Barriers (R259, R260) -/

/-- A barrier of the current team. -/
def State.myBarrier (s : State) (i : Nat) : Barrier := (s.team s.myTeam).barriers.get Barrier.idle i

/-- The member of the current context arrives at a barrier's phase. -/
def State.arrive (s : State) (i : Nat) : State :=
  let t := s.team s.myTeam
  let b := s.myBarrier i
  s.setTeam s.myTeam { t with barriers := t.barriers.put i { b with here := b.here ++ [coreOf s.cur] } }

/-- The member has arrived at a barrier's phase that is not complete. -/
def State.arrived (s : State) (i : Nat) : Bool := (s.myBarrier i).here.contains (coreOf s.cur)

/-- The phase of a barrier that a context's bundle has noted and waits for. -/
def Ctx.waitsAt (x : Ctx) (i : Nat) : Option Nat :=
  (x.barrier.find? (fun e => e.id == i && e.pc == x.pc && e.level == x.handling.toNat)).map BarrierWait.phase

/-- An effect that an instruction makes before it stalls: it stands across an interruption, and the restarted bundle only
waits (R235). -/
def beforeStall (m : M Unit) (s : State) : Result :=
  match m s with
  | .ok ((), s') => .next { (s'.setMe { s'.me with wait := .other }) with stalled := [] }
  | .error e => runBundle (throw e) s

/-- Waits for the recorded phase of a barrier. -/
def awaitPhase (i phase : Nat) : M Unit := do
  await (decide (phase < ((← get).myBarrier i).phase))

/-- The current context waits for the barrier's phase under way. -/
def notePhase (i : Nat) : M Unit := do
  let s ← get
  modifyMe (fun x => { x with barrier := ⟨i, (s.myBarrier i).phase, x.pc, x.handling.toNat⟩ :: x.barrier })

/-- barr: arrives and continues (R260). -/
def execBarr (imm : Nat) (s : State) : Result :=
  runBundle (do
    require (decide (imm < 16)) 0 9
    await (!(← get).arrived imm)
    modify (fun s => s.arrive imm)) s

/-- barw: arrives, then stalls until the phase completes (R260). -/
def execBarw (imm : Nat) (s : State) : Result :=
  if 16 ≤ imm then runBundle (trap 0 9) s
  else
    match s.me.waitsAt imm with
    | some phase => runBundle (awaitPhase imm phase) s
    | none =>
      beforeStall (do
        await (!(← get).arrived imm)
        notePhase imm
        modify (fun s => s.arrive imm)) s

/-- barx: stalls until the phase of the member's latest arrival completes; completes at once when none is pending (R260). -/
def execBarx (imm : Nat) (s : State) : Result :=
  if 16 ≤ imm then runBundle (trap 0 9) s
  else
    match s.me.waitsAt imm with
    | some phase => runBundle (awaitPhase imm phase) s
    | none => if s.arrived imm then beforeStall (notePhase imm) s else runBundle (pure ()) s

/-- A waiter's barrier word (R238, R259). -/
def barrierWord (departed i : Nat) : Word := BitVec.ofNat 64 (departed % 2 ^ 16 * 2 ^ 48 + 2 ^ 18 + i)

/-- A waiter of a barrier's phase receives the barrier word. -/
def Ctx.release (team i phase departed : Nat) (x : Ctx) : Ctx :=
  if x.team = some team ∧ x.barrier.any (fun e => e.id == i && e.phase == phase) then x.pushDone (barrierWord departed i) else x

/-- BARRIER_PHASE_COMPLETE: the phase ends when every member has arrived or departed, and its waiters receive a word if any departed
(R259). -/
def execBarrierPhaseComplete (team id : Nat) (s : State) : Result :=
  runStep (do
    let s ← get
    let t := s.team team
    let b := t.barriers.get Barrier.idle id
    await (!b.here.isEmpty && t.complete b)
    let s := s.setTeam team { t with barriers := t.barriers.put id ⟨b.phase + 1, [], 0⟩ }
    set (if b.departed = 0 then s
      else
        { s with
          ctxs := s.ctxs.map (fun e => (e.1, e.2.release team id b.phase b.departed))
          saved := s.saved.map (fun e => (e.1, e.2.release team id b.phase b.departed)) })) s

/-! ### evwait, yield, uret (R261 to R263) -/

/-- evwait: ends a handler's event, or waits in context 0 for a wake-up or event (R45, R261), which a wake-up served before ends at once
(log 28); in an ordered task it acts as oend (R318). -/
def execEvwait (s : State) : Result :=
  if ctxNum s.cur = 0 then
    if s.myBank.wake then runBundle (modifyBank (fun b => { b with wake := false })) s
    else .next { (s.setMe { s.me with run := .waiting, wait := .other }).noteIssue with stalled := [] }
  else if s.me.task.isSome then endTask s
  else runBundle (do
    awaitSuccessors s.cur
    modify (fun s => (s.endEvent s.cur .normal).settleTeam (bankOf s.cur))) s

/-- yield: with a request pending the context is yielded at the next bundle (R262). -/
def execYield (s : State) : Result :=
  runBundle (modifyMe (fun x => { x with yielded := x.yreq != BitVec.allOnes 64 })) s

/-- uret (R263). -/
def execUret (s : State) : Result :=
  runBundle (do
    require (← getMe).handling 0 21
    modifyMe Ctx.userReturn) s

/-! ### scall (R33, R47, R264, R373) -/

/-- The status of a refused service (R264). -/
def refused : Word := BitVec.allOnes 64

/-- scall enters the supervisor stub: the next bundle's address and the service number are saved, the mode is supervisor, and the pc is
k.SVEC (R373). -/
def Ctx.enterStub (x : Ctx) (svec : Word) (n : Nat) : Ctx :=
  { x with sepc := x.npc, scause := BitVec.ofNat 64 n, status := x.status ||| 1, npc := svec &&& ~~~(1 : Word) }

/-- A stub returns by tret; a service core stays in supervisor mode (R373, R374). -/
def Ctx.leaveStub (x : Ctx) (service : Bool) : Ctx :=
  { x with npc := x.sepc, status := if service then x.status else x.status &&& ~~~(1 : Word) }

/-- A service call: the stub is entered, its bundles leave every register but g1 as it was, and its tret returns (R264, R373, log 24). -/
def serviceReturn (n : Nat) (status : Word) : M Unit := do
  let s ← get
  modifyMe (fun x => (x.enterStub s.myCore.svec n).leaveStub (isService (coreOf s.cur)))
  writeG 1 status

/-- scall 0: exits the member; refused in a handler context (R33). The call does not return. -/
def execScallExit (s : State) : Result :=
  runBundle (do
    issue [] [1] [] []
    if ctxNum (← get).cur ≠ 0 then serviceReturn 0 refused
    else do
      let svec := (← get).myCore.svec
      modifyMe (fun x => x.enterStub svec 0)
      modify (fun s => (s.exitMember s.cur false).settleTeam (bankOf s.cur))) s

/-- The lowest timer of a core that is not armed. -/
def Core.freeTimer (k : Core) : Option Nat := (List.range 8).find? (fun i => (k.timers.get (fun _ => none) i).isNone)

/-- What a timer delivers (R264): an S7 event for a handler, or a wake-up of context 0; any other argument is refused. -/
def timerTarget (h : Word) : Option (Option Nat) :=
  if h.toNat < 256 then some (some h.toNat) else if h = BitVec.allOnes 64 then some none else none

/-- scall 1: arms a one-shot timer (R264). -/
def execScallTimerArm (s : State) : Result :=
  runBundle (do
    issue [1, 2] [1] [] []
    let time ← readG 1
    let h ← readG 2
    let s ← get
    match timerTarget h, s.myCore.freeTimer with
    | some hid, some n => do
      modifyCore (fun k => { k with timers := k.timers.put n (some ⟨time.toNat, s.myTeam, hid⟩) })
      serviceReturn 1 (BitVec.ofNat 64 n)
    | _, _ => serviceReturn 1 refused) s

/-- scall 2: cancels a timer (R264). -/
def execScallTimerCancel (s : State) : Result :=
  runBundle (do
    issue [1] [1] [] []
    let n ← readG 1
    let s ← get
    if decide (n.toNat < 8) && (s.myCore.timers.get (fun _ => none) n.toNat).isSome then do
      modifyCore (fun k => { k with timers := k.timers.put n.toNat none })
      serviceReturn 2 0
    else serviceReturn 2 refused) s

/-- scall 3: the core's deque is closed to spawn; what it holds still runs (R47). -/
def execScallDestroyDeque (s : State) : Result :=
  runBundle (do
    issue [] [1] [] []
    modifyBank (fun b => { b with closed := true })
    serviceReturn 3 0) s

/-- scall of any other number is refused (R264). -/
def execScallRefused (imm : Nat) (s : State) : Result :=
  runBundle (do
    issue [] [1] [] []
    require (decide (imm < 1024)) 0 9
    serviceReturn imm refused) s

/-! ### carve (R265) -/

/-- The fields of a carve value: cc and tc; none where staged or a reserved bit is set (R27). -/
def carveFields (w : Word) : Option (Nat × Nat) :=
  if field w 63 10 = 0 ∧ field w 7 4 = 0 then some (field w 9 8, field w 3 0) else none

/-- What makes a member refuse a carve to a scratch size (R265). -/
def State.refusesCarve (s : State) (t : Team) (scratch b : Nat) : Bool :=
  let ids := (List.range 8).map (ctxIn b)
  (s.core (b / 2)).staged || ids.any (fun c =>
    let x := s.ctx c
    (decide (ctxNum c ≠ 0) && x.run != .dormant) || (x.choice != 0) || (x.trailTop != x.trailBase) || x.task.isSome ||
    x.region.isSome || s.hasWork c) ||
  (decide (t.spillSize ≠ 0) && decide (scratch - 2048 < t.spill + t.spillSize))

/-- A member is re-carved: scratch keeps its bytes below the lesser size, other new scratch bytes are free, and every context's trail
is empty at its new place (R265, R302, log 4). -/
def State.recarve (s : State) (cc tc b : Nat) : State :=
  let old := s.scratchSize b
  let s := (s.setCore (b / 2) { s.core (b / 2) with cc, tc }).fitL1 (b / 2)
  let new := s.scratchSize b
  let grown := new - old
  let data := (List.range grown).map (fun i => Config.freeByte (s.free + i))
  let s := { s.storeAt (run (bankLoc b old) grown) data with free := s.free + grown }
  let base (n : Nat) : Word := BitVec.ofNat 64 (new + n * (trailBytes tc / 8))
  (List.range 8).foldl (fun s n =>
    let c := ctxIn b n
    s.setCtx c { s.ctx c with trailBase := base n, trailTop := base n, trailLim := base (n + 1) }) s

/-- The carve of a team whose members have all arrived or departed: refused at every member, or done at every member. -/
def State.decideCarve (s : State) (team : Nat) (banks : List Nat) : State :=
  let t := s.team team
  let values := (t.carves.map Prod.snd).dedup
  let s := s.setTeam team { t with carves := [] }
  let finish (s : State) (m : CarveMark) : State :=
    banks.foldl (fun s b =>
      let x := s.ctx (ctxIn b 0)
      if x.carve = .waiting then s.setCtx (ctxIn b 0) { x with carve := m } else s) s
  match values with
  | [w] =>
    match carveFields w with
    | none => finish s .refused
    | some (cc, tc) =>
      if !(s.unfinished team).isEmpty || banks.any (fun b => s.refusesCarve t (scratchBytes cc tc false) b) then finish s .refused
      else
        let s := s.setTeam team { s.team team with carve := cc * 256 + tc }
        finish (banks.foldl (fun s b => s.recarve cc tc b) s) .done
  | _ => finish s .refused

/-- The banks of the current team, or the current bank where it holds none. -/
def State.myBanks (s : State) : List Nat := if s.myBank.team.isNone then [bankOf s.cur] else s.banksOf s.myTeam

/-- carve once its context has arrived: it waits for the other members, and takes the outcome (R265). -/
def carveWait : M Unit := do
  let s ← get
  let t := s.team s.myTeam
  if s.me.carve = .waiting then do
    await (t.members.all (fun m => (t.carves.map Prod.fst).contains m || t.departed.contains m))
    set (s.decideCarve s.myTeam s.myBanks)
  let x ← getMe
  modifyMe (fun x => { x with carve := .none })
  if x.carve = .refused then trap 4 11

/-- carve (R265): context 0 arrives with its value; a handler context that runs refuses it. -/
def execCarve (a : GReg) (s : State) : Result :=
  if ctxNum s.cur ≠ 0 then runBundle (trap 4 11) s
  else if s.me.carve = .none then
    beforeStall (do
      issue [a] [] [] []
      let w ← readG a
      let s ← get
      let t := s.team s.myTeam
      set (s.setTeam s.myTeam { t with carves := t.carves ++ [(coreOf s.cur, w)] })
      modifyMe (fun x => { x with carve := .waiting })) s
  else
    match carveWait s with
    | .error (.trap t) =>
      let s := if s.me.carve = .waiting then s.decideCarve s.myTeam s.myBanks else s
      runBundle (raise t) (s.setMe { s.me with carve := .none })
    | _ => runBundle carveWait s

/-! ### Sprint leases (R266, R267, R453, R454) -/

/-- A ridge's sprint lease ends; its last extender takes trap(6, 16) as an interrupt where the end gives one (R242, R266, R454). -/
def State.endSprint (s : State) (r : Nat) (trap : Bool) : State :=
  let g := s.ridge r
  let s := s.setRidge r { g with leaseLeft := 0, taker := none, extender := none }
  match g.extender with
  | some c =>
    if trap then s.setCtx c { s.ctx c with intr := (s.ctx c).intr ++ [{ cls := 6, detail := 16, precise := false }] } else s
  | none => s

/-- The grant of a sprint request (R453), in cycles. -/
def State.sprintGrant (s : State) (request : Nat) : Nat :=
  let g := s.ridge (ridgeOf (coreOf s.cur))
  let rcb := s.me.rcba.toNat
  if s.refreeze || s.held rcb then 0
  else if g.leaseLeft = 0 ∧ 4300000 < s.pwr + 10000 then 0
  else min request (min (2 ^ 31 - g.leaseLeft) (175000 * s.room 4 rcb))

/-- sprint (R266); a lease that has run out ends first, with its extender's trap. -/
def execSprint (d a : GReg) (s : State) : Result :=
  runBundle (do
    issue [a] [d] [] []
    let request ← readG a
    modify (fun s =>
      let r := ridgeOf (coreOf s.cur)
      if (s.ridge r).leaseLeft = 0 ∧ (s.ridge r).extender.isSome then s.endSprint r true else s)
    let s ← get
    let g := s.ridge (ridgeOf (coreOf s.cur))
    if request = 0 then do
      if g.taker = some s.me.source then
        set (s.setRidge (ridgeOf (coreOf s.cur)) { g with leaseLeft := 0, taker := none, extender := none })
      writeG d 0
    else do
      let n := s.sprintGrant request.toNat
      if n ≠ 0 then
        set (s.setRidge (ridgeOf (coreOf s.cur))
          { g with leaseLeft := g.leaseLeft + n, taker := if g.leaseLeft = 0 then some s.me.source else g.taker, extender := some s.cur })
      writeG d (BitVec.ofNat 64 n)) s

/-- The state field of sprintq: 3 for any held region (R453), then a refreeze, then a lease (R267). -/
def State.sprintState (s : State) : Nat :=
  if s.held s.me.rcba.toNat then 3 else if s.refreeze then 2 else if (s.ridge (ridgeOf (coreOf s.cur))).leaseLeft ≠ 0 then 1 else 0

/-- sprintq (R267). -/
def execSprintq (d : GReg) (s : State) : Result :=
  runBundle (do
    issue [] [d] [] []
    let s ← get
    let left := min (s.ridge (ridgeOf (coreOf s.cur))).leaseLeft (2 ^ 32 - 1)
    writeG d (BitVec.ofNat 64 (s.sprintState * 2 ^ 62 + s.melt / 2 ^ 32 * 2 ^ 32 + left))) s

end Sys2Proof.Machine
end

