-- ==== Sys2Proof/Machine/Control.lean ====
section
/-! DEFINITION. Control registers (R23, R375 to R380, R387, R437, R438): kget, kput, skget, skput, and the package writes that load
partition descriptors, beat the service's heart, change the staged mode and request a yield. -/

namespace Sys2Proof.Machine

/-! ### Reading -/

/-- k.STATUS as it reads: a service core is always in supervisor mode (R374, R376). -/
def State.statusOf (s : State) (c : CtxId) : Word :=
  if isService (coreOf c) then (s.ctx c).status ||| 1 else (s.ctx c).status

/-- k.CTX (R13). -/
def State.ctxWord (s : State) (c : CtxId) : Word :=
  let id := match (s.bank (bankOf c)).team with | some t => (s.team t).id | none => 0
  BitVec.ofNat 64 (id * 2 ^ 16 + (s.core (coreOf c)).active * 8 + ctxNum c)

/-- k.CARVE (R27). -/
def State.carveWord (s : State) (c : CtxId) : Word :=
  let k := s.core (coreOf c)
  BitVec.ofNat 64 (k.cc * 256 + k.staged.toNat * 128 + k.tc)

/-- The bias state of a ridge (R448). -/
def Ridge.biasState (r : Ridge) : Nat :=
  if r.hold.isSome then 3 else if r.leaseLeft ≠ 0 then 2 else if r.trim ≠ 0 then 1 else 0

/-- k.BANKST (R377). -/
def Core.bankst (k : Core) : Word := BitVec.ofNat 64 (k.staged.toNat * 2 ^ 31 + k.valid.toNat * 2 ^ 16 + k.busy.toNat)

/-- A register of core, ridge, partition or package scope, or k.CTX (R23, R375, R437); an unassigned one reads zero. -/
def State.sharedReg (s : State) (c : CtxId) (n : Nat) : Word :=
  let core := coreOf c
  let k := s.core core
  let r := s.ridge (ridgeOf core)
  match n with
  | 0 => BitVec.ofNat 64 s.time
  | 1 => BitVec.ofNat 64 s.cyc
  | 2 => BitVec.ofNat 64 (s.placeWord core)
  | 3 => s.ctxWord c
  | 4 => BitVec.ofNat 64 (extOf core)
  | 5 => s.carveWord c
  | 40 => BitVec.ofNat 64 (s.melt / 2 ^ 32)
  | 41 => BitVec.ofNat 64 r.leaseLeft
  | 50 => BitVec.ofNat 64 (s.heldHorizon core ((s.bank (bankOf c)).team.getD 0))
  | 516 => k.svec
  | 517 => k.fvec
  | 518 => k.ssel
  | 519 => k.bankst
  | 520 => (k.gens.get (fun _ => 0) (s.ctx c).part).setWidth 64
  | 521 => k.swapt
  | 524 => BitVec.ofNat 64 (s.part (s.ctx c).part).ptroot
  | 525 => s.regbase
  | 526 => s.regsize
  | 527 => s.ptab
  | 528 => s.pload
  | 529 => s.heart
  | 531 => BitVec.ofNat 64 k.staged.toNat
  | 532 => r.rsout
  | 533 => r.rsin
  | 534 => BitVec.ofNat 64 (r.trim * 256 + r.biasState)
  | 535 => r.temp
  | 536 => BitVec.ofNat 64 s.pwr
  | _ => 0

/-- Whether a number names a register of context scope (R23, R375). -/
def contextScope (n : Nat) : Bool :=
  n == 3 || (decide (8 ≤ n) && decide (n ≤ 11)) || (decide (16 ≤ n) && decide (n ≤ 25)) || (decide (32 ≤ n) && decide (n ≤ 35)) ||
  n == 48 || n == 49 || (decide (64 ≤ n) && decide (n ≤ 127)) || (decide (512 ≤ n) && decide (n ≤ 515)) || n == 522 || n == 523 || n == 530

/-- The value that a kget returns, other than the launch of k23 (R23, R378). -/
def State.control (s : State) (c : CtxId) (n : Nat) : Word :=
  if n = 512 then s.statusOf c
  else if contextScope n ∧ n ≠ 3 then (s.ctx c).kImage n
  else s.sharedReg c n

/-! ### Writing -/

/-- Whether a number names an assigned user register (R23). -/
def userAssigned (n : Nat) : Bool :=
  decide (n ≤ 5) || (decide (8 ≤ n) && decide (n ≤ 11)) || (decide (16 ≤ n) && decide (n ≤ 25)) || (decide (32 ≤ n) && decide (n ≤ 35)) ||
  n == 40 || n == 41 || n == 48 || n == 49 || n == 50 || (decide (64 ≤ n) && decide (n ≤ 127))

/-- Whether an assigned user register is read-only (R23). -/
def userReadOnly (n : Nat) : Bool :=
  decide (n ≤ 5) || n == 24 || (decide (32 ≤ n) && decide (n ≤ 35)) || n == 40 || n == 41 || n == 48 || n == 50

/-- The privileged registers that only read (R375, R437). -/
def systemReadOnly (n : Nat) : Bool := [515, 519, 520, 524, 530, 534, 535, 536].contains n

/-- A context-scope register written, read-only to users or not (R387); k3 and k23 keep nothing (R239), and SCAUSE only the bits that its kind
of cause has (R375). -/
def Ctx.setControl (x : Ctx) (n : Nat) (w : Word) : Ctx :=
  match n with
  | 24 => { x with xfer := w }
  | 32 => { x with trailTop := w }
  | 33 => { x with choice := w }
  | 34 => { x with trailBase := w }
  | 35 => { x with trailLim := w }
  | 48 => { x with unack := w }
  | 512 => { x with status := (x.status &&& ~~~(12 : Word)) ||| (w &&& 12) }
  | 513 => { x with sepc := w }
  | 514 => { x with scause := w &&& (if w.getLsbD 63 then 0x80000000000001FF else 0x3FF) }
  | 515 => { x with part := w.toNat % 8 }
  | 522 => { x with yreq := w }
  | 523 => { x with rcba := w }
  | 530 => { x with incarn := w }
  | n => x.setLogged n (copyMask n w)

/-- The notice of a yield request goes to S7 when the team's table names a handler 255 (R446). -/
def State.yieldNotice (s : State) (c : CtxId) (deadline : Word) : State :=
  let b := bankOf c
  let has := match (s.bank b).team with
    | some t => (s.team t).handlers.get (fun _ => 0) 255 != 0
    | none => (s.bank b).handlers.get (fun _ => 0) 255 != 0
  if has && (deadline != BitVec.allOnes 64) && !(s.bank b).exited then
    s.enter b (fun x => { x with s7 := x.s7 ++ [⟨some 255, 4, [deadline]⟩] })
  else s

/-- A context's yield request (R446). -/
def State.requestYield (s : State) (c : CtxId) (deadline : Word) : State :=
  (s.setCtx c { s.ctx c with yreq := deadline }).yieldNotice c deadline

/-- A write of k.HEART (R433, R435): one that changes the beat or gives a period restarts the watchdog, and a period ends the
suspension after a crash. -/
def State.beat (s : State) (w : Word) : State :=
  let restart := decide (field w 31 0 ≠ field s.heart 31 0) || decide (field w 63 32 ≠ 0)
  { s with
    heart := w
    heartAt := if restart then s.time else s.heartAt
    crashed := s.crashed && decide (field w 63 32 = 0) }

/-- A write of k.STAGECTL (R438). -/
def stagectlOp (w : Word) : M Unit := do
  let s ← get
  let k := s.myCore
  let c := coreOf s.cur
  require ((s.bank (c * 2)).team.isNone && (s.bank (c * 2 + 1)).team.isNone && (k.valid == 0) && (k.busy == 0)) 6 17
  modifyCore (fun k => { k with staged := w.getLsbD 0 })

/-! ### Partition descriptors (R379, R380) -/

/-- The partition that a descriptor describes, with the state that the partition keeps. -/
def State.descriptor (s : State) (n : Nat) : Part :=
  let d := s.ptab.toNat + 128 * n
  let w := s.load (d + 32) 8
  { s.part n with
    hbase := s.load d 8
    hsize := s.load (d + 8) 8
    ptroot := s.load (d + 16) 8
    ssaddr := s.load (d + 24) 8
    fepoch := w / 2 ^ 24 % 256
    spatial := w.testBit 17
    valid := w.testBit 16
    slices := (List.range (w % 1024)).map (fun i => s.load (s.load (d + 24) 8 + 2 * i) 2)
    ridges := s.load (d + 40) 16
    rqto := s.load (d + 60) 4
    rgto := s.load (d + 56) 4
    rootrcb := s.load (d + 64) 8
    stoparea := s.load (d + 88) 8 }

/-- Whether a descriptor has a non-zero reserved bit (R379). -/
def State.descriptorReserved (s : State) (n : Nat) : Bool :=
  let d := s.ptab.toNat + 128 * n
  let w := s.load (d + 32) 8
  decide (w / 2 ^ 32 ≠ 0) || decide (w / 2 ^ 18 % 64 ≠ 0) || decide (w / 2 ^ 10 % 64 ≠ 0) || decide (s.load (d + 96) 32 ≠ 0)

/-- A list names no element twice. -/
def noRepeat (l : List Nat) : Bool := decide (l.dedup.length = l.length)

/-- A partition has an uncommitted ordered task, running, queued or ended by oabort, or a live engine claim: its slice set stays (R470). -/
def State.unsettled (s : State) (n : Nat) : Bool :=
  (s.teams.filter (fun e => e.2.part == n)).any (fun e => !(s.unfinished e.1).isEmpty) || s.engaged n ||
  s.cores.any (fun k => k.2.surveys.any (fun v => (s.team v.team).part == n)) || s.claims.any (fun l => overlap (l * 128) 128 (s.part n).hbase (s.part n).hsize)

/-- Whether a descriptor is refused (R380). A slice set changes only in a stopped partition without uncommitted tasks and live claims; R470
names no cause for a refusal there, and the model takes R380's (DESIGN CHOICE, log 36). -/
def State.descriptorRefused (s : State) (n : Nat) (p : Part) : Bool :=
  let others := ((List.range 8).filter (· != n)).map s.part
  let rivals := others.filter Part.valid
  s.descriptorReserved n || decide (p.slices.length < 1) || decide (768 < p.slices.length) || !noRepeat p.slices ||
  p.slices.any (fun x => decide (767 < x)) || decide (2 ^ 39 < p.hbase + p.hsize) || s.protects p.hbase p.hsize ||
  rivals.any (fun q => overlap p.hbase p.hsize q.hbase q.hsize) ||
  rivals.any (fun q => (p.spatial || q.spatial) && decide (p.ridges &&& q.ridges ≠ 0)) ||
  ((s.part n).valid && p.valid && decide ((s.part n).slices ≠ p.slices) &&
    (!(s.part n).stopped || s.unsettled n))

/-- A partition ends with its descriptor (R468): its teams end, its records are free, and its launches and grids go, with their charges. -/
def State.endPartition (s : State) (n : Nat) : State :=
  let mine (t : Option Nat) : Bool := match t with | some k => (s.team k).part == n | none => false
  let records := ((s.ctxs ++ s.saved).filter (fun e => mine e.2.team)).map (fun e => e.2.record)
  let teams := (s.teams.filter (fun e => e.2.part == n && e.2.state != .none && e.2.state != .ended)).map Prod.fst
  let banks := (s.banks.filter (fun e => mine e.2.team)).map Prod.fst
  let s := records.foldl (fun s r => s.recordState r 0) s
  let s := banks.foldl (fun s b => s.vacate b) s
  let s := teams.foldl (fun (s : State) t => s.setTeam t { s.team t with state := .ended, saved := [] }) s
  let s := (s.dies.flatMap (fun e => e.2.grids.filter (fun g => g.part == n))).foldl (fun s g =>
    s.charge g.rcb (fun a b => a - b) g.chargedCores g.chargedRidges) s
  let forget (k : Core) : Core :=
    { k with survey := k.survey.filter (fun v => !teams.contains v.team), waitingSurveys := k.waitingSurveys.filter (fun v => !teams.contains v.team)
             lastImage := k.lastImage.drop n }
  { s with
    saved := s.saved.filter (fun e => !mine e.2.team)
    images := s.images.filter (fun e => !mine e.2.team)
    cores := s.cores.map (fun e => (e.1, (forget e.2).promote))
    dies := s.dies.map (fun e => (e.1, { e.2 with queue := e.2.queue.filter (fun g => g.part != n), grids := e.2.grids.filter (fun g => g.part != n) })) }

/-- A write of n to k.PLOAD (R380); with another slice set, every cached line of the partition is written back and invalidated first
(R470); a partition whose valid bit is cleared ends (R468). An n of 8 or more names no descriptor, and takes R380's trap(7, 4) (DESIGN CHOICE,
log 95). -/
def ploadOp (n : Word) : M Unit := do
  let s ← get
  let p := s.descriptor n.toNat
  require (decide (n.toNat < 8) && !s.descriptorRefused n.toNat p) 7 4
  let s := if p.slices = (s.part n.toNat).slices then s else s.evictPart n.toNat
  let s := if (s.part n.toNat).valid && !p.valid then s.endPartition n.toNat else s
  set { s.setPart n.toNat p with pload := n }

/-! ### kget and kput (R152, R153, R378) -/

/-- A privileged register written (R375 to R378, R437). -/
def systemWrite (n : Nat) (w : Word) : M Unit := do
  let s ← get
  let core := coreOf s.cur
  let service := isService core
  if systemReadOnly n then trap 7 1
  else if 525 ≤ n ∧ n ≤ 529 ∧ service = false then trap 7 1
  else
    match n with
    | 512 | 513 | 514 | 523 => modifyMe (fun x => x.setControl n w)
    | 516 => modifyCore (fun k => { k with svec := w })
    | 517 => if service then modifyCore (fun k => { k with fvec := w }) else pure ()
    | 518 => modifyCore (fun k => { k with ssel := w &&& 0x17 })
    | 521 => modifyCore (fun k => { k with swapt := w })
    | 522 => modify (fun s => s.requestYield s.cur w)
    | 525 => modify (fun s => { s with regbase := w })
    | 526 => modify (fun s => { s with regsize := w })
    | 527 => modify (fun s => { s with ptab := w })
    | 528 => ploadOp w
    | 529 => modify (fun s => s.beat w)
    | 531 => stagectlOp w
    | 532 => modify (fun s => let r := ridgeOf core; s.setRidge r { s.ridge r with rsout := w })
    | 533 => modify (fun s => let r := ridgeOf core; s.setRidge r { s.ridge r with rsin := w })
    | _ => trap 7 0

/-- The user registers whose kput logs a register entry (R305). -/
def loggedReg (n : Nat) : Bool := (decide (8 ≤ n) && decide (n ≤ 11)) || (decide (16 ≤ n) && decide (n ≤ 22)) || n == 25 || n == 49 || decide (64 ≤ n)

/-- kput's write of g[d] to a control register. -/
def writeControl (n : Nat) (w : Word) : M Unit := do
  if 512 ≤ n then
    require ((← get).supervisor (← get).cur) 0 6
    systemWrite n w
  else do
    require (userAssigned n) 0 14
    require (!userReadOnly n) 0 15
    let x ← getMe
    if x.logging && loggedReg n then pushTrail (BitVec.ofNat 64 n) [BitVec.ofNat 64 (n * 8 + 1), x.kImage n]
    modifyMe (fun x => x.setControl n w)

/-- kget's read of a control register (R23, R153, R378). -/
def readControl (d : GReg) (n : Nat) : M Unit := do
  if n = 23 then launchCopy 1 24 d
  else do
    issue [] [d] [] []
    let s ← get
    require (decide (n < 512) || s.supervisor s.cur) 0 6
    writeG d (s.control s.cur n)

/-- kget (R152). -/
def execKget (d : GReg) (imm : Nat) (s : State) : Result :=
  runBundle (do
    require (decide (imm < 1024)) 0 9
    readControl d imm) s

/-- kput (R152). -/
def execKput (d : GReg) (imm : Nat) (s : State) : Result :=
  runBundle (do
    require (decide (imm < 1024)) 0 9
    issue [d] [] [] []
    writeControl imm (← readG d)) s

/-! ### skget and skput (R387) -/

/-- Page 14 runs in supervisor mode only (R96, R386). -/
def supervisorOnly : M Unit := do require ((← get).supervisor (← get).cur) 0 6

/-- k.SSEL sends a context-scope register to the staged context of a shadow slot, and k.HORIZON, which R387 names with them (R387, log 35). -/
def State.redirects (s : State) (n : Nat) : Bool := s.myCore.ssel.getLsbD 4 && (contextScope n || n == 50)

/-- The staged context that k.SSEL names, once its slot is valid and no longer busy (R387). -/
def stagedCtx : M CtxId := do
  let s ← get
  let k := s.myCore
  let slot := field k.ssel 2 0
  require (k.staged && k.valid.getLsbD slot) 7 3
  await (!k.busy.getLsbD slot)
  pure (ctxIn (s.shadowBank (coreOf s.cur)) slot)

/-- The context of a slot: where a spill has written it out, its registry record's. -/
def State.slotCtx (s : State) (c : CtxId) : Ctx :=
  let r := (s.ctx c).record
  if (s.saved.map Prod.fst).contains r then s.saved.get Ctx.reset r else s.ctx c

/-- The state with the context of a slot replaced, and the k image of a spilled one's record written. -/
def State.setSlotCtx (s : State) (c : CtxId) (x : Ctx) : State :=
  let r := (s.ctx c).record
  if (s.saved.map Prod.fst).contains r then
    (x.areas.drop 1).take 2 |>.foldl (fun s a => s.storeWords (r + a.1) a.2) { s with saved := s.saved.put r x }
  else s.setCtx c x

/-- skget (R387). -/
def execSkget (d : GReg) (imm : Nat) (s : State) : Result :=
  runBundle (do
    supervisorOnly
    require (decide (imm < 1024)) 0 9
    if (← get).redirects imm then do
      issue [] [d] [] []
      let c ← stagedCtx
      let s ← get
      writeG d ((s.setCtx c (s.slotCtx c)).control c imm)
    else readControl d imm) s

/-- skput (R387). -/
def execSkput (d : GReg) (imm : Nat) (s : State) : Result :=
  runBundle (do
    supervisorOnly
    require (decide (imm < 1024)) 0 9
    issue [d] [] [] []
    if (← get).redirects imm then do
      let c ← stagedCtx
      require (imm != 48 && imm != 50) 7 1
      let w ← readG d
      modify (fun s =>
        let s := s.setSlotCtx c ((s.slotCtx c).setControl imm w)
        if imm = 522 then s.yieldNotice c w else s)
    else writeControl imm (← readG d)) s

/-! ### The package's writes as steps -/

/-- PLOAD_WRITE: a write of n to k.PLOAD (R380). -/
def execPloadWrite (n : Word) (s : State) : Result := runStep (ploadOp n) s
/-- HEART_WRITE (R433, R435). -/
def execHeartWrite (value : Word) (s : State) : Result := runStep (modify (fun s => s.beat value)) s
/-- STAGECTL_WRITE (R438). -/
def execStagectlWrite (value : Word) (s : State) : Result := runStep (stagectlOp value) s
/-- YIELD_REQUEST (R446). -/
def execYieldRequest (deadline : Word) (s : State) : Result := runStep (modify (fun s => s.requestYield s.cur deadline)) s

end Sys2Proof.Machine
end

