-- ==== Sys2Proof/WellFormed.lean ====
section
/-! DEFINITION. Which instructions are well formed: those that the encodings of spec/03_encoding.md can carry and
that no decode check of R87 refuses. A step without an encoding has nothing to check here. -/

namespace Sys2Proof

/-- A register number that needs the XR word (R73, R94). -/
def high (r : GReg) : Bool := decide (8 ≤ r.val)
/-- A vector register number that needs the XR word. -/
def highV (r : VReg) : Bool := decide (8 ≤ r.val)
/-- A destination that R19 does not refuse: not g57, g58 or g59. -/
def writable (d : GReg) : Bool := decide (d.val < 57) || decide (60 ≤ d.val)
/-- The first register of a pair (R20). -/
def isPair (d : GReg) : Bool := decide (d.val ≤ 54)
/-- The first register of a q4 pair is not v31 (R22). -/
def blockPair (q : QType) (v : VReg) : Bool := q != 7 || v != 31
/-- The lane width of a q value in bits (R21). -/
def lane (q : QType) : Nat :=
  if q = 0 ∨ q = 4 then 32 else if q = 1 ∨ q = 5 then 16 else if q = 7 then 4 else 8
/-- How many XI words a bundle has room for beside its XR, XP and XS words (R76). -/
def room (xr xp xs : Bool) : Nat := min 3 (4 - xr.toNat - xp.toNat - xs.toNat)
/-- A signed immediate that a width holds (R81). -/
def fitsSigned (w : Nat) (i : Int) : Bool := decide (-(2 ^ (w - 1) : Int) ≤ i) && decide (i < 2 ^ (w - 1))
/-- A natural immediate that a width holds (R81). -/
def fitsNatural (w : Nat) (i : Nat) : Bool := decide (i < 2 ^ w)

/-- Whether an instruction is one that its encoding carries and no decode check refuses (R73, R76, R81, R82, R87). -/
def Instr.wf : Instr → Bool
  | .add d _ _ _ => writable d
  | .sub d _ _ _ => writable d
  | .and d _ _ _ => writable d
  | .or d _ _ _ => writable d
  | .xor d _ _ _ => writable d
  | .shl d _ _ _ => writable d
  | .shr d _ _ _ => writable d
  | .sra d _ _ _ => writable d
  | .mul d _ _ _ => writable d
  | .mulh d _ _ _ => writable d
  | .min d _ _ _ => writable d
  | .max d _ _ _ => writable d
  | .seq d _ _ _ => writable d
  | .slt d _ _ _ => writable d
  | .sel d _ _ => writable d
  | .addi d a imm => writable d && fitsSigned (4 + 11 * room (high d || high a) (false) false) imm
  | .andi d a imm => writable d && fitsNatural (4 + 11 * room (high d || high a) (false) false) imm
  | .ori d a imm => writable d && fitsNatural (4 + 11 * room (high d || high a) (false) false) imm
  | .xori d a imm => writable d && fitsNatural (4 + 11 * room (high d || high a) (false) false) imm
  | .shli d a imm => writable d && fitsNatural (4 + 11 * room (high d || high a) (false) false) imm && decide (imm ≤ 63)
  | .shri d a imm => writable d && fitsNatural (4 + 11 * room (high d || high a) (false) false) imm && decide (imm ≤ 63)
  | .srai d a imm => writable d && fitsNatural (4 + 11 * room (high d || high a) (false) false) imm && decide (imm ≤ 63)
  | .slti d a imm => writable d && fitsSigned (4 + 11 * room (high d || high a) (false) false) imm
  | .li d imm => writable d && fitsSigned (7 + 11 * room (high d) (false) false) imm
  | .lih d imm => writable d && fitsNatural (7 + 11 * room (high d) (false) false) imm && decide (imm ≤ 16777215)
  | .pcrel d imm => writable d && fitsSigned (7 + 11 * room (high d) (false) false) imm
  | .ldb d a imm la => writable d && fitsSigned (4 + 11 * room (high d || high a) (la != 0) false) imm
  | .ldbn d a imm la => writable d && fitsSigned (4 + 11 * room (high d || high a) (la != 0) false) imm
  | .ldh d a imm la => writable d && fitsSigned (4 + 11 * room (high d || high a) (la != 0) false) imm
  | .ldhn d a imm la => writable d && fitsSigned (4 + 11 * room (high d || high a) (la != 0) false) imm
  | .ldw d a imm la => writable d && fitsSigned (4 + 11 * room (high d || high a) (la != 0) false) imm
  | .ldwn d a imm la => writable d && fitsSigned (4 + 11 * room (high d || high a) (la != 0) false) imm
  | .ldd d a imm la => writable d && fitsSigned (4 + 11 * room (high d || high a) (la != 0) false) imm
  | .stb d a imm xs => fitsSigned (4 + 11 * room (high d || high a) (false) xs.isSome) imm
  | .sth d a imm xs => fitsSigned (4 + 11 * room (high d || high a) (false) xs.isSome) imm
  | .stw d a imm xs => fitsSigned (4 + 11 * room (high d || high a) (false) xs.isSome) imm
  | .std d a imm xs => fitsSigned (4 + 11 * room (high d || high a) (false) xs.isSome) imm
  | .tch kind a imm la => decide (kind.val < 5) && fitsSigned (4 + 11 * room (high a) (la != 0) false) imm
  | .lda d a imm q la => writable d && decide (q.val < 4) && fitsSigned (4 + 11 * room (high d || high a) (la != 0 || q != 0) false) imm
  | .stl d a imm q xs => decide (q.val < 4) && fitsSigned (4 + 11 * room (high d || high a) (q != 0) xs.isSome) imm
  | .beq a b imm => fitsSigned (4 + 11 * room (high a || high b) (false) false) imm
  | .bne a b imm => fitsSigned (4 + 11 * room (high a || high b) (false) false) imm
  | .blt a b imm => fitsSigned (4 + 11 * room (high a || high b) (false) false) imm
  | .bge a b imm => fitsSigned (4 + 11 * room (high a || high b) (false) false) imm
  | .bltn a b imm => fitsSigned (4 + 11 * room (high a || high b) (false) false) imm
  | .bgen a b imm => fitsSigned (4 + 11 * room (high a || high b) (false) false) imm
  | .jmp imm => fitsSigned (10 + 11 * room (false) (false) false) imm
  | .jal imm => fitsSigned (10 + 11 * room (false) (false) false) imm
  | .jr d _ => writable d
  | .div d _ _ _ _ => writable d
  | .divn d _ _ _ _ => writable d
  | .rem d _ _ _ _ => writable d
  | .remn d _ _ _ _ => writable d
  | .popc d _ _ => writable d
  | .clz d _ _ => writable d
  | .ctz d _ _ => writable d
  | .rot d _ _ _ => writable d
  | .bswap d _ _ => writable d
  | .bext d _ _ => writable d
  | .bins d _ _ => writable d
  | .fadd d _ _ _ => writable d
  | .fsub d _ _ _ => writable d
  | .fmul d _ _ _ => writable d
  | .fma d _ _ _ => writable d
  | .fdiv d _ _ _ => writable d
  | .fsqrt d _ _ => writable d
  | .fmin d _ _ _ => writable d
  | .fmax d _ _ _ => writable d
  | .feq d _ _ _ => writable d
  | .flt d _ _ _ => writable d
  | .fle d _ _ _ => writable d
  | .fcvt d _ _ => writable d
  | .fcls d _ _ => writable d
  | .kget d imm => writable d && fitsNatural (7 + 11 * room (high d) (true) false) imm && decide (imm ≤ 1023) && imm != 23
  | .kput d imm => fitsNatural (7 + 11 * room (high d) (true) false) imm && decide (imm ≤ 1023)
  | .rand d => writable d
  | .vld d a imm _ _ => fitsSigned (4 + 11 * room (highV d || high a) (true) false) imm
  | .vst d a imm _ => fitsSigned (4 + 11 * room (highV d || high a) (true) false) imm
  | .vlds _ _ _ _ _ => true
  | .vsts _ _ _ _ => true
  | .vldx _ _ _ _ _ => true
  | .vstx _ _ _ _ => true
  | .vadd _ _ _ _ => true
  | .vsub _ _ _ _ => true
  | .vmul _ _ _ _ => true
  | .vfma _ _ _ _ => true
  | .vmin _ _ _ _ => true
  | .vmax _ _ _ _ => true
  | .vand _ _ _ _ => true
  | .vor _ _ _ _ => true
  | .vxor _ _ _ _ => true
  | .vshl _ _ _ _ => true
  | .vshr _ _ _ _ => true
  | .vcmpeq _ _ _ _ => true
  | .vcmplt _ _ _ _ => true
  | .vsel _ _ _ _ => true
  | .vcvt _ _ _ _ => true
  | .vpack4 d _ _ q _ => blockPair q d
  | .vunpk4 _ a q => blockPair q a
  | .vredsum d a q => writable d && blockPair q a
  | .vredmax d a q => writable d && blockPair q a
  | .vredmin d a q => writable d && blockPair q a
  | .vbcast _ _ _ => true
  | .vext d a imm q => writable d && fitsNatural (4 + 11 * room (high d || highV a) (true) false) imm && decide (imm < 4096 / lane q)
  | .vins d a imm q => fitsNatural (4 + 11 * room (highV d || high a) (true) false) imm && decide (imm < 4096 / lane q)
  | .vperm _ _ _ _ => true
  | .vrcp _ _ _ => true
  | .vrsq _ _ _ => true
  | .vexp _ _ _ => true
  | .vscal _ _ _ _ => true
  | .vmov d a q => blockPair q d && blockPair q a
  | .vmcnt d _ _ => writable d
  | .viota _ _ => true
  | .mlease d => writable d
  | .mfmt _ _ => true
  | .mbld d _ _ _ => writable d
  | .mbldg d _ _ _ => writable d
  | .mmul d _ _ _ => writable d
  | .mgath d _ _ _ => writable d
  | .mzero d imm => writable d && fitsNatural (7 + 11 * room (high d) (true) false) imm && decide (imm ≤ 15)
  | .mdrain d _ _ => writable d
  | .mwalk d _ _ => writable d
  | .mwait _ => true
  | .mpoll d _ => writable d
  | .cpput _ => true
  | .cplaunch d => writable d
  | .cpgath d _ _ => writable d
  | .cpscat d _ _ => writable d
  | .cpwait _ => true
  | .cpLaunchRead d => writable d
  | .sgath _ _ _ _ _ => true
  | .aadd d _ _ _ _ => writable d
  | .aand d _ _ _ _ => writable d
  | .aor d _ _ _ _ => writable d
  | .amin d _ _ _ _ => writable d
  | .amax d _ _ _ _ => writable d
  | .axchg d _ _ _ _ => writable d
  | .acas d _ _ _ => isPair d
  | .afadd d _ _ _ _ => writable d
  | .msend _ _ => true
  | .hset a imm => fitsNatural (4 + 11 * room (high a) (true) false) imm && decide (imm ≤ 255)
  | .spawn _ => true
  | .cdarm _ _ => true
  | .cddec _ _ => true
  | .jwait d _ => writable d
  | .fence _ => true
  | .fencea _ => true
  | .fencer _ => true
  | .sfence _ => true
  | .barr imm => fitsNatural (10 + 11 * room (false) (true) false) imm && decide (imm ≤ 15)
  | .barw imm => fitsNatural (10 + 11 * room (false) (true) false) imm && decide (imm ≤ 15)
  | .barx imm => fitsNatural (10 + 11 * room (false) (true) false) imm && decide (imm ≤ 15)
  | .waitge _ _ => true
  | .carve _ => true
  | .sprint d _ => writable d
  | .sprintq d => writable d
  | .scallRefused imm => fitsNatural (10 + 11 * room (false) (true) false) imm && decide (imm ≤ 1023) && decide (4 ≤ imm)
  | .rst d a imm sid cls => fitsSigned (4 + 11 * room (high d || high a) (true) (sid != 0 || cls != 0)) imm
  | .rstv d a imm sid cls => fitsSigned (4 + 11 * room (highV d || high a) (true) (sid != 0 || cls != 0)) imm
  | .rstm _ _ _ _ => true
  | .raadd d _ _ _ _ _ => writable d
  | .rafadd d _ _ _ _ _ => writable d
  | .racas d _ _ _ _ => isPair d
  | .raxchg d _ _ _ _ _ => writable d
  | .rreq d _ _ => writable d
  | .rsl _ _ => true
  | .rsetc _ _ _ _ => true
  | .rclose _ _ _ _ => true
  | .tryChoice _ _ => true
  | .trySteal _ _ => true
  | .cut _ => true
  | .mark d => writable d
  | .otask d _ => isPair d
  | .ohoriz d => isPair d
  | .cvdef _ _ => true
  | .cvslope _ _ => true
  | .cvquant _ _ => true
  | .cvfan _ _ => true
  | .cvrun _ => true
  | .cvstop _ => true
  | .cvread d _ => writable d
  | .cvguard _ _ => true
  | .cvsurvey _ _ => true
  | .rlead d _ => writable d
  | .rfollow _ _ => true
  | .thset d _ _ => writable d
  | .thprio _ _ => true
  | .thevict _ => true
  | .thdemote _ => true
  | .xprobe d _ => writable d
  | .skget d imm => writable d && fitsNatural (7 + 11 * room (high d) (true) false) imm && decide (imm ≤ 1023)
  | .skput d imm => fitsNatural (7 + 11 * room (high d) (true) false) imm && decide (imm ≤ 1023)
  | .stage _ _ => true
  | .spill _ _ => true
  | .tlbinv _ _ => true
  | .pinrel _ => true
  | .gstop _ => true
  | .gresume _ => true
  | .adopt d _ => writable d
  | .teamStart _ => true
  | .quantumExpire _ => true
  | .yieldRequest _ => true
  | .teamSwap _ => true
  | .messageArrive _ => true
  | .horizonReduction _ => true
  | .copyComplete _ => true
  | .barrierPhaseComplete _ _ => true
  | .timerFire _ => true
  | .longLatencyComplete _ => true
  | .streamCommit _ => true
  | .streamAck _ => true
  | .remoteAtomicResult _ => true
  | .fabricFailure _ => true
  | .requestArrive _ => true
  | .requestTimeout _ => true
  | .ualinkReadRequest _ => true
  | .stationLinkDown _ => true
  | .icefieldUpdate _ => true
  | .biasWindow _ => true
  | .temperatureSample _ _ => true
  | .hotDwellExpire _ => true
  | .uncorrectableError _ => true
  | .heartWrite _ => true
  | .ploadWrite _ => true
  | .stagectlWrite _ => true
  | .jobMessage _ => true
  | .attestationRequest _ => true
  | .powerGood _ => true
  | .unassignedOpcode _ => true
  | .streamGapTimeout _ => true
  | .brokenStreamClear _ _ => true
  | .stationLinkUp _ => true
  | .portLinkChange _ _ => true
  | .serviceCoreRemoval _ => true
  | .nop => true
  | .brk => true
  | .mfree => true
  | .evwait => true
  | .yield => true
  | .uret => true
  | .scallExit => true
  | .scallTimerArm => true
  | .scallTimerCancel => true
  | .scallDestroyDeque => true
  | .rbegin => true
  | .rcommit => true
  | .rslgo => true
  | .fail => true
  | .oend => true
  | .oabort => true
  | .rdetach => true
  | .rrejoin => true
  | .tret => true
  | .swapgo => true
  | .launchRecordTake => true
  | .dispenserDecision => true
  | .yieldDeadline => true
  | .handlerStart => true
  | .handlerTableApply => true
  | .stealRequest => true
  | .stealAnswer => true
  | .stealReplyReceive => true
  | .readyRingPush => true
  | .otaskCommit => true
  | .taskAbort => true
  | .contourCrossing => true
  | .surveyFire => true
  | .leaseGrant => true
  | .leaseTimeout => true
  | .matrixJobComplete => true
  | .indexWalkComplete => true
  | .doneWordPush => true
  | .copyInterrupt => true
  | .translationWalk => true
  | .pinExpire => true
  | .contextMigrate => true
  | .regionTimeout => true
  | .regionFailure => true
  | .swapTimeDue => true
  | .ridgeFlip => true
  | .stageComplete => true
  | .spillComplete => true
  | .sprintLeaseExpire => true
  | .systemFault => true
  | .faultRecordPost => true
  | .watchdogExpire => true
  | .timeLockLost => true
  | .storeAcknowledgement => true
  | .sprintEnergyCharge => true
  | .biasHoldExpire => true
  | .timeLockRegained => true
  | .serviceWarmRestart => true
  | .ridgeDrain => true

end Sys2Proof
end

