-- ==== Sys2Proof/Decode.lean ====
section
/-! DEFINITION. Decoding a bundle (spec/03_encoding.md, R70 to R96), total on any words, and the encoder. A bundle that is
not an instruction is answered with the first cause of R87 and the fields of its detail word (R88). -/

namespace Sys2Proof

/-! ### The opcode map -/

/-- The five formats of a base word (R71). -/
inductive Format where
  | rr | ri | di | br | sy
  deriving DecidableEq, Repr

/-- What a register field of a row holds (R95): nothing, a general register, a vector register, or a code (R117). -/
inductive Use where
  | none | g | v | code
  deriving DecidableEq, Repr

/-- What the immediate of a row is (R81, R82, R84): absent, signed, natural up to a limit, reserved as a whole, the
number of misc (R144), or a lane number (R170). -/
inductive ImmUse where
  | none | signed | natural (max : Nat) | zero | misc | lane
  deriving DecidableEq, Repr

/-- How a row takes the XS word (R75, R85): not at all, on a store that may go to the aperture, as the stream and class
of a stream instruction, or as a stream number alone (R257). -/
inductive XsUse where
  | none | store | plain | sid
  deriving DecidableEq, Repr

/-- One row of the opcode map (R95). -/
structure Row where
  fmt : Format
  d : Use
  a : Use
  b : Use
  imm : ImmUse
  dest : Bool := false
  pair : Bool := false
  f : Bool := false
  q : Bool := false
  la : Bool := false
  xs : XsUse := .none
  sizes : Bool := false
  pairD : Bool := false
  pairA : Bool := false
  deriving DecidableEq, Repr

/-- The fields of a bundle, with the immediate's value. -/
structure Fields where
  page : Nat
  op : Nat
  d : Fin 64 := 0
  a : Fin 64 := 0
  b : Fin 64 := 0
  f : Bool := false
  q : QType := 0
  la : La := 0
  imm : Int := 0
  xs : Option XS := none
  deriving DecidableEq, Repr

/-- The stream that a bundle names: 0 without XS (R75). -/
def Fields.sid (F : Fields) : Fin 64 := (F.xs.map XS.sid).getD 0
/-- The class that a bundle names: 0 without XS (R75). -/
def Fields.cls (F : Fields) : Fin 4 := (F.xs.map XS.cls).getD 0

/-- A vector register number (R73). -/
def vreg (x : Fin 64) : VReg := ⟨x.val % 32, Nat.mod_lt _ (by decide)⟩
/-- A three-bit code (R117). -/
def code (x : Fin 64) : Fin 8 := ⟨x.val % 8, Nat.mod_lt _ (by decide)⟩
/-- A vector register as a field. -/
def ofV (x : VReg) : Fin 64 := ⟨x.val, Nat.lt_of_lt_of_le x.isLt (by decide)⟩
/-- A code as a field. -/
def ofCode (x : Fin 8) : Fin 64 := ⟨x.val, Nat.lt_of_lt_of_le x.isLt (by decide)⟩
/-- The XS word that pka writes: none for stream 0 and class 0 (R75, R94). -/
def streamWord (sid : Fin 64) (cls : Fin 4) : Option XS :=
  if sid = 0 ∧ cls = 0 then none else some ⟨sid, cls⟩

/-- Page 0 of the opcode map (R95), by op. -/
def rows0 : List Row :=
  [ { fmt := .rr, d := .g, a := .g, b := .g, imm := .none, dest := true, f := true }
  , { fmt := .rr, d := .g, a := .g, b := .g, imm := .none, dest := true, f := true }
  , { fmt := .rr, d := .g, a := .g, b := .g, imm := .none, dest := true, f := true }
  , { fmt := .rr, d := .g, a := .g, b := .g, imm := .none, dest := true, f := true }
  , { fmt := .rr, d := .g, a := .g, b := .g, imm := .none, dest := true, f := true }
  , { fmt := .rr, d := .g, a := .g, b := .g, imm := .none, dest := true, f := true }
  , { fmt := .rr, d := .g, a := .g, b := .g, imm := .none, dest := true, f := true }
  , { fmt := .rr, d := .g, a := .g, b := .g, imm := .none, dest := true, f := true }
  , { fmt := .rr, d := .g, a := .g, b := .g, imm := .none, dest := true, f := true }
  , { fmt := .rr, d := .g, a := .g, b := .g, imm := .none, dest := true, f := true }
  , { fmt := .rr, d := .g, a := .g, b := .g, imm := .none, dest := true, f := true }
  , { fmt := .rr, d := .g, a := .g, b := .g, imm := .none, dest := true, f := true }
  , { fmt := .rr, d := .g, a := .g, b := .g, imm := .none, dest := true, f := true }
  , { fmt := .rr, d := .g, a := .g, b := .g, imm := .none, dest := true, f := true }
  , { fmt := .rr, d := .g, a := .g, b := .g, imm := .none, dest := true }
  , { fmt := .ri, d := .g, a := .g, b := .none, imm := .signed, dest := true }
  , { fmt := .ri, d := .g, a := .g, b := .none, imm := (.natural (2 ^ 43)), dest := true }
  , { fmt := .ri, d := .g, a := .g, b := .none, imm := (.natural (2 ^ 43)), dest := true }
  , { fmt := .ri, d := .g, a := .g, b := .none, imm := (.natural (2 ^ 43)), dest := true }
  , { fmt := .ri, d := .g, a := .g, b := .none, imm := (.natural 63), dest := true } ] ++
  [ { fmt := .ri, d := .g, a := .g, b := .none, imm := (.natural 63), dest := true }
  , { fmt := .ri, d := .g, a := .g, b := .none, imm := (.natural 63), dest := true }
  , { fmt := .ri, d := .g, a := .g, b := .none, imm := .signed, dest := true }
  , { fmt := .di, d := .g, a := .none, b := .none, imm := .signed, dest := true }
  , { fmt := .di, d := .g, a := .none, b := .none, imm := (.natural 16777215), dest := true }
  , { fmt := .di, d := .g, a := .none, b := .none, imm := .signed, dest := true }
  , { fmt := .ri, d := .g, a := .g, b := .none, imm := .signed, dest := true, la := true }
  , { fmt := .ri, d := .g, a := .g, b := .none, imm := .signed, dest := true, la := true }
  , { fmt := .ri, d := .g, a := .g, b := .none, imm := .signed, dest := true, la := true }
  , { fmt := .ri, d := .g, a := .g, b := .none, imm := .signed, dest := true, la := true }
  , { fmt := .ri, d := .g, a := .g, b := .none, imm := .signed, dest := true, la := true }
  , { fmt := .ri, d := .g, a := .g, b := .none, imm := .signed, dest := true, la := true }
  , { fmt := .ri, d := .g, a := .g, b := .none, imm := .signed, dest := true, la := true }
  , { fmt := .ri, d := .g, a := .g, b := .none, imm := .signed, xs := .store }
  , { fmt := .ri, d := .g, a := .g, b := .none, imm := .signed, xs := .store }
  , { fmt := .ri, d := .g, a := .g, b := .none, imm := .signed, xs := .store }
  , { fmt := .ri, d := .g, a := .g, b := .none, imm := .signed, xs := .store }
  , { fmt := .ri, d := .code, a := .g, b := .none, imm := .signed, la := true }
  , { fmt := .ri, d := .g, a := .g, b := .none, imm := .signed, dest := true, q := true, la := true, sizes := true }
  , { fmt := .ri, d := .g, a := .g, b := .none, imm := .signed, q := true, xs := .store, sizes := true } ] ++
  [ { fmt := .br, d := .none, a := .g, b := .g, imm := .signed }
  , { fmt := .br, d := .none, a := .g, b := .g, imm := .signed }
  , { fmt := .br, d := .none, a := .g, b := .g, imm := .signed }
  , { fmt := .br, d := .none, a := .g, b := .g, imm := .signed }
  , { fmt := .br, d := .none, a := .g, b := .g, imm := .signed }
  , { fmt := .br, d := .none, a := .g, b := .g, imm := .signed }
  , { fmt := .sy, d := .none, a := .none, b := .none, imm := .signed }
  , { fmt := .sy, d := .none, a := .none, b := .none, imm := .signed }
  , { fmt := .rr, d := .g, a := .g, b := .none, imm := .none, dest := true }
  , { fmt := .sy, d := .none, a := .none, b := .none, imm := .misc } ]

/-- Page 1 of the opcode map (R95), by op. -/
def rows1 : List Row :=
  [ { fmt := .rr, d := .g, a := .g, b := .g, imm := .none, dest := true, f := true, la := true }
  , { fmt := .rr, d := .g, a := .g, b := .g, imm := .none, dest := true, f := true, la := true }
  , { fmt := .rr, d := .g, a := .g, b := .g, imm := .none, dest := true, f := true, la := true }
  , { fmt := .rr, d := .g, a := .g, b := .g, imm := .none, dest := true, f := true, la := true }
  , { fmt := .rr, d := .g, a := .g, b := .none, imm := .none, dest := true, f := true }
  , { fmt := .rr, d := .g, a := .g, b := .none, imm := .none, dest := true, f := true }
  , { fmt := .rr, d := .g, a := .g, b := .none, imm := .none, dest := true, f := true }
  , { fmt := .rr, d := .g, a := .g, b := .g, imm := .none, dest := true, f := true }
  , { fmt := .rr, d := .g, a := .g, b := .none, imm := .none, dest := true, f := true }
  , { fmt := .rr, d := .g, a := .g, b := .g, imm := .none, dest := true }
  , { fmt := .rr, d := .g, a := .g, b := .g, imm := .none, dest := true }
  , { fmt := .rr, d := .g, a := .g, b := .g, imm := .none, dest := true, f := true }
  , { fmt := .rr, d := .g, a := .g, b := .g, imm := .none, dest := true, f := true }
  , { fmt := .rr, d := .g, a := .g, b := .g, imm := .none, dest := true, f := true }
  , { fmt := .rr, d := .g, a := .g, b := .g, imm := .none, dest := true, f := true }
  , { fmt := .rr, d := .g, a := .g, b := .g, imm := .none, dest := true, f := true }
  , { fmt := .rr, d := .g, a := .g, b := .none, imm := .none, dest := true, f := true }
  , { fmt := .rr, d := .g, a := .g, b := .g, imm := .none, dest := true, f := true }
  , { fmt := .rr, d := .g, a := .g, b := .g, imm := .none, dest := true, f := true }
  , { fmt := .rr, d := .g, a := .g, b := .g, imm := .none, dest := true, f := true } ] ++
  [ { fmt := .rr, d := .g, a := .g, b := .g, imm := .none, dest := true, f := true }
  , { fmt := .rr, d := .g, a := .g, b := .g, imm := .none, dest := true, f := true }
  , { fmt := .rr, d := .g, a := .g, b := .code, imm := .none, dest := true }
  , { fmt := .rr, d := .g, a := .g, b := .none, imm := .none, dest := true, f := true }
  , { fmt := .di, d := .g, a := .none, b := .none, imm := (.natural 1023), dest := true }
  , { fmt := .di, d := .g, a := .none, b := .none, imm := (.natural 1023) }
  , { fmt := .rr, d := .g, a := .none, b := .none, imm := .none, dest := true } ]

/-- Page 2 of the opcode map (R95), by op. -/
def rows2 : List Row :=
  [ { fmt := .ri, d := .v, a := .g, b := .none, imm := .signed, q := true, la := true }
  , { fmt := .ri, d := .v, a := .g, b := .none, imm := .signed, q := true }
  , { fmt := .rr, d := .v, a := .g, b := .g, imm := .none, q := true, la := true }
  , { fmt := .rr, d := .v, a := .g, b := .g, imm := .none, q := true }
  , { fmt := .rr, d := .v, a := .g, b := .v, imm := .none, q := true, la := true }
  , { fmt := .rr, d := .v, a := .g, b := .v, imm := .none, q := true }
  , { fmt := .rr, d := .v, a := .v, b := .v, imm := .none, q := true }
  , { fmt := .rr, d := .v, a := .v, b := .v, imm := .none, q := true }
  , { fmt := .rr, d := .v, a := .v, b := .v, imm := .none, q := true }
  , { fmt := .rr, d := .v, a := .v, b := .v, imm := .none, q := true }
  , { fmt := .rr, d := .v, a := .v, b := .v, imm := .none, q := true }
  , { fmt := .rr, d := .v, a := .v, b := .v, imm := .none, q := true }
  , { fmt := .rr, d := .v, a := .v, b := .v, imm := .none, q := true }
  , { fmt := .rr, d := .v, a := .v, b := .v, imm := .none, q := true }
  , { fmt := .rr, d := .v, a := .v, b := .v, imm := .none, q := true }
  , { fmt := .rr, d := .v, a := .v, b := .v, imm := .none, q := true }
  , { fmt := .rr, d := .v, a := .v, b := .v, imm := .none, q := true }
  , { fmt := .rr, d := .v, a := .v, b := .v, imm := .none, q := true }
  , { fmt := .rr, d := .v, a := .v, b := .v, imm := .none, q := true }
  , { fmt := .rr, d := .v, a := .v, b := .v, imm := .none, q := true } ] ++
  [ { fmt := .rr, d := .v, a := .v, b := .code, imm := .none, q := true }
  , { fmt := .rr, d := .v, a := .v, b := .code, imm := .none, q := true, la := true, pairD := true }
  , { fmt := .rr, d := .v, a := .v, b := .none, imm := .none, q := true, pairA := true }
  , { fmt := .rr, d := .g, a := .v, b := .none, imm := .none, dest := true, q := true, pairA := true }
  , { fmt := .rr, d := .g, a := .v, b := .none, imm := .none, dest := true, q := true, pairA := true }
  , { fmt := .rr, d := .g, a := .v, b := .none, imm := .none, dest := true, q := true, pairA := true }
  , { fmt := .rr, d := .v, a := .g, b := .none, imm := .none, q := true }
  , { fmt := .ri, d := .g, a := .v, b := .none, imm := .lane, dest := true, q := true }
  , { fmt := .ri, d := .v, a := .g, b := .none, imm := .lane, q := true }
  , { fmt := .rr, d := .v, a := .v, b := .v, imm := .none, q := true }
  , { fmt := .rr, d := .v, a := .v, b := .none, imm := .none, q := true }
  , { fmt := .rr, d := .v, a := .v, b := .none, imm := .none, q := true }
  , { fmt := .rr, d := .v, a := .v, b := .none, imm := .none, q := true }
  , { fmt := .rr, d := .v, a := .v, b := .g, imm := .none, q := true }
  , { fmt := .rr, d := .v, a := .v, b := .none, imm := .none, q := true, pairD := true, pairA := true }
  , { fmt := .rr, d := .g, a := .v, b := .none, imm := .none, dest := true, q := true }
  , { fmt := .rr, d := .v, a := .none, b := .none, imm := .none, q := true } ]

/-- Page 3 of the opcode map (R95), by op. -/
def rows3 : List Row :=
  [ { fmt := .rr, d := .g, a := .none, b := .none, imm := .none, dest := true }
  , { fmt := .sy, d := .none, a := .none, b := .none, imm := .zero }
  , { fmt := .rr, d := .none, a := .g, b := .none, imm := .none, q := true }
  , { fmt := .rr, d := .g, a := .g, b := .g, imm := .none, dest := true, q := true }
  , { fmt := .rr, d := .g, a := .g, b := .g, imm := .none, dest := true, q := true }
  , { fmt := .rr, d := .g, a := .g, b := .g, imm := .none, dest := true, q := true }
  , { fmt := .rr, d := .g, a := .g, b := .g, imm := .none, dest := true, q := true }
  , { fmt := .di, d := .g, a := .none, b := .none, imm := (.natural 15), dest := true }
  , { fmt := .rr, d := .g, a := .g, b := .g, imm := .none, dest := true }
  , { fmt := .rr, d := .g, a := .g, b := .g, imm := .none, dest := true }
  , { fmt := .rr, d := .none, a := .g, b := .none, imm := .none }
  , { fmt := .rr, d := .g, a := .g, b := .none, imm := .none, dest := true } ]

/-- Page 4 of the opcode map (R95), by op. -/
def rows4 : List Row :=
  [ { fmt := .rr, d := .none, a := .g, b := .none, imm := .none }
  , { fmt := .rr, d := .g, a := .none, b := .none, imm := .none, dest := true }
  , { fmt := .rr, d := .g, a := .g, b := .v, imm := .none, dest := true }
  , { fmt := .rr, d := .g, a := .g, b := .v, imm := .none, dest := true }
  , { fmt := .rr, d := .none, a := .g, b := .none, imm := .none }
  , { fmt := .rr, d := .v, a := .g, b := .v, imm := .none, q := true, la := true }
  , { fmt := .rr, d := .g, a := .g, b := .g, imm := .none, dest := true, q := true, la := true }
  , { fmt := .rr, d := .g, a := .g, b := .g, imm := .none, dest := true, q := true, la := true }
  , { fmt := .rr, d := .g, a := .g, b := .g, imm := .none, dest := true, q := true, la := true }
  , { fmt := .rr, d := .g, a := .g, b := .g, imm := .none, dest := true, q := true, la := true }
  , { fmt := .rr, d := .g, a := .g, b := .g, imm := .none, dest := true, q := true, la := true }
  , { fmt := .rr, d := .g, a := .g, b := .g, imm := .none, dest := true, q := true, la := true }
  , { fmt := .rr, d := .g, a := .g, b := .none, imm := .none, pair := true, q := true, la := true }
  , { fmt := .rr, d := .g, a := .g, b := .g, imm := .none, dest := true, q := true, la := true }
  , { fmt := .rr, d := .none, a := .g, b := .g, imm := .none }
  , { fmt := .ri, d := .none, a := .g, b := .none, imm := (.natural 255) }
  , { fmt := .rr, d := .none, a := .g, b := .none, imm := .none }
  , { fmt := .rr, d := .none, a := .g, b := .g, imm := .none }
  , { fmt := .rr, d := .none, a := .g, b := .g, imm := .none }
  , { fmt := .rr, d := .g, a := .g, b := .none, imm := .none, dest := true } ]

/-- Page 5 of the opcode map (R95), by op. -/
def rows5 : List Row :=
  [ { fmt := .sy, d := .none, a := .none, b := .none, imm := .zero, q := true }
  , { fmt := .sy, d := .none, a := .none, b := .none, imm := .zero, q := true }
  , { fmt := .sy, d := .none, a := .none, b := .none, imm := .zero, q := true }
  , { fmt := .sy, d := .none, a := .none, b := .none, imm := .zero, xs := .sid }
  , { fmt := .sy, d := .none, a := .none, b := .none, imm := (.natural 15) }
  , { fmt := .sy, d := .none, a := .none, b := .none, imm := (.natural 15) }
  , { fmt := .sy, d := .none, a := .none, b := .none, imm := (.natural 15) }
  , { fmt := .sy, d := .none, a := .none, b := .none, imm := .zero }
  , { fmt := .sy, d := .none, a := .none, b := .none, imm := .zero }
  , { fmt := .rr, d := .none, a := .g, b := .g, imm := .none }
  , { fmt := .rr, d := .none, a := .g, b := .none, imm := .none }
  , { fmt := .rr, d := .g, a := .g, b := .none, imm := .none, dest := true }
  , { fmt := .rr, d := .g, a := .none, b := .none, imm := .none, dest := true }
  , { fmt := .sy, d := .none, a := .none, b := .none, imm := .zero }
  , { fmt := .sy, d := .none, a := .none, b := .none, imm := (.natural 1023) } ]

/-- Page 6 of the opcode map (R95), by op. -/
def rows6 : List Row :=
  [ { fmt := .ri, d := .g, a := .g, b := .none, imm := .signed, xs := .plain }
  , { fmt := .ri, d := .v, a := .g, b := .none, imm := .signed, xs := .plain }
  , { fmt := .rr, d := .none, a := .g, b := .g, imm := .none, xs := .plain }
  , { fmt := .rr, d := .g, a := .g, b := .g, imm := .none, dest := true, la := true, xs := .plain }
  , { fmt := .rr, d := .g, a := .g, b := .g, imm := .none, dest := true, la := true, xs := .plain }
  , { fmt := .rr, d := .g, a := .g, b := .none, imm := .none, pair := true, la := true, xs := .plain }
  , { fmt := .rr, d := .g, a := .g, b := .g, imm := .none, dest := true, la := true, xs := .plain }
  , { fmt := .sy, d := .none, a := .none, b := .none, imm := .zero }
  , { fmt := .sy, d := .none, a := .none, b := .none, imm := .zero }
  , { fmt := .rr, d := .g, a := .g, b := .g, imm := .none, dest := true }
  , { fmt := .rr, d := .none, a := .g, b := .g, imm := .none }
  , { fmt := .sy, d := .none, a := .none, b := .none, imm := .zero }
  , { fmt := .rr, d := .none, a := .g, b := .g, imm := .none, xs := .plain }
  , { fmt := .rr, d := .none, a := .g, b := .g, imm := .none, xs := .plain } ]

/-- Page 7 of the opcode map (R95), by op. -/
def rows7 : List Row :=
  [ { fmt := .rr, d := .none, a := .g, b := .g, imm := .none }
  , { fmt := .rr, d := .none, a := .g, b := .g, imm := .none }
  , { fmt := .sy, d := .none, a := .none, b := .none, imm := .zero }
  , { fmt := .rr, d := .none, a := .g, b := .none, imm := .none }
  , { fmt := .rr, d := .g, a := .none, b := .none, imm := .none, dest := true }
  , { fmt := .rr, d := .g, a := .g, b := .none, imm := .none, pair := true }
  , { fmt := .sy, d := .none, a := .none, b := .none, imm := .zero }
  , { fmt := .sy, d := .none, a := .none, b := .none, imm := .zero }
  , { fmt := .rr, d := .g, a := .none, b := .none, imm := .none, pair := true } ]

/-- Page 8 of the opcode map (R95), by op. -/
def rows8 : List Row :=
  [ { fmt := .rr, d := .none, a := .g, b := .g, imm := .none }
  , { fmt := .rr, d := .none, a := .g, b := .g, imm := .none }
  , { fmt := .rr, d := .none, a := .g, b := .g, imm := .none }
  , { fmt := .rr, d := .none, a := .g, b := .g, imm := .none }
  , { fmt := .rr, d := .none, a := .g, b := .none, imm := .none }
  , { fmt := .rr, d := .none, a := .g, b := .none, imm := .none }
  , { fmt := .rr, d := .g, a := .g, b := .none, imm := .none, dest := true }
  , { fmt := .rr, d := .none, a := .g, b := .g, imm := .none }
  , { fmt := .rr, d := .none, a := .g, b := .g, imm := .none } ]

/-- Page 9 of the opcode map (R95), by op. -/
def rows9 : List Row :=
  [ { fmt := .rr, d := .g, a := .g, b := .none, imm := .none, dest := true }
  , { fmt := .rr, d := .none, a := .g, b := .g, imm := .none }
  , { fmt := .sy, d := .none, a := .none, b := .none, imm := .zero }
  , { fmt := .sy, d := .none, a := .none, b := .none, imm := .zero }
  , { fmt := .rr, d := .g, a := .g, b := .g, imm := .none, dest := true }
  , { fmt := .rr, d := .none, a := .g, b := .g, imm := .none }
  , { fmt := .rr, d := .none, a := .g, b := .none, imm := .none }
  , { fmt := .rr, d := .none, a := .g, b := .none, imm := .none }
  , { fmt := .rr, d := .g, a := .g, b := .none, imm := .none, dest := true } ]

/-- Page 14 of the opcode map (R95), by op. -/
def rows14 : List Row :=
  [ { fmt := .di, d := .g, a := .none, b := .none, imm := (.natural 1023), dest := true }
  , { fmt := .di, d := .g, a := .none, b := .none, imm := (.natural 1023) }
  , { fmt := .sy, d := .none, a := .none, b := .none, imm := .zero }
  , { fmt := .rr, d := .none, a := .g, b := .g, imm := .none }
  , { fmt := .sy, d := .none, a := .none, b := .none, imm := .zero }
  , { fmt := .rr, d := .none, a := .g, b := .g, imm := .none }
  , { fmt := .rr, d := .none, a := .g, b := .g, imm := .none }
  , { fmt := .rr, d := .none, a := .g, b := .none, imm := .none }
  , { fmt := .rr, d := .none, a := .g, b := .none, imm := .none }
  , { fmt := .rr, d := .none, a := .g, b := .none, imm := .none }
  , { fmt := .rr, d := .g, a := .g, b := .none, imm := .none, dest := true } ]

/-- The row of a page and op, where one is assigned (R96). -/
def rowOf (page op : Nat) : Option Row :=
  match page with
  | 0 => rows0[op]?
  | 1 => rows1[op]?
  | 2 => rows2[op]?
  | 3 => rows3[op]?
  | 4 => rows4[op]?
  | 5 => rows5[op]?
  | 6 => rows6[op]?
  | 7 => rows7[op]?
  | 8 => rows8[op]?
  | 9 => rows9[op]?
  | 14 => rows14[op]?
  | _ => none

/-- The instruction of page 0 that the fields of a bundle spell. -/
def build0 (op : Nat) (F : Fields) : Instr :=
  match op with
  | 0 => .add F.d F.a F.b F.f
  | 1 => .sub F.d F.a F.b F.f
  | 2 => .and F.d F.a F.b F.f
  | 3 => .or F.d F.a F.b F.f
  | 4 => .xor F.d F.a F.b F.f
  | 5 => .shl F.d F.a F.b F.f
  | 6 => .shr F.d F.a F.b F.f
  | 7 => .sra F.d F.a F.b F.f
  | 8 => .mul F.d F.a F.b F.f
  | 9 => .mulh F.d F.a F.b F.f
  | 10 => .min F.d F.a F.b F.f
  | 11 => .max F.d F.a F.b F.f
  | 12 => .seq F.d F.a F.b F.f
  | 13 => .slt F.d F.a F.b F.f
  | 14 => .sel F.d F.a F.b
  | 15 => .addi F.d F.a F.imm
  | 16 => .andi F.d F.a F.imm.toNat
  | 17 => .ori F.d F.a F.imm.toNat
  | 18 => .xori F.d F.a F.imm.toNat
  | 19 => .shli F.d F.a F.imm.toNat
  | 20 => .shri F.d F.a F.imm.toNat
  | 21 => .srai F.d F.a F.imm.toNat
  | 22 => .slti F.d F.a F.imm
  | 23 => .li F.d F.imm
  | 24 => .lih F.d F.imm.toNat
  | 25 => .pcrel F.d F.imm
  | 26 => .ldb F.d F.a F.imm F.la
  | 27 => .ldbn F.d F.a F.imm F.la
  | 28 => .ldh F.d F.a F.imm F.la
  | 29 => .ldhn F.d F.a F.imm F.la
  | 30 => .ldw F.d F.a F.imm F.la
  | 31 => .ldwn F.d F.a F.imm F.la
  | 32 => .ldd F.d F.a F.imm F.la
  | 33 => .stb F.d F.a F.imm F.xs
  | 34 => .sth F.d F.a F.imm F.xs
  | 35 => .stw F.d F.a F.imm F.xs
  | 36 => .std F.d F.a F.imm F.xs
  | 37 => .tch (code F.d) F.a F.imm F.la
  | 38 => .lda F.d F.a F.imm F.q F.la
  | 39 => .stl F.d F.a F.imm F.q F.xs
  | 40 => .beq F.a F.b F.imm
  | 41 => .bne F.a F.b F.imm
  | 42 => .blt F.a F.b F.imm
  | 43 => .bge F.a F.b F.imm
  | 44 => .bltn F.a F.b F.imm
  | 45 => .bgen F.a F.b F.imm
  | 46 => .jmp F.imm
  | 47 => .jal F.imm
  | 48 => .jr F.d F.a
  | _ => if F.imm = 0 then .nop else .brk

/-- The instruction of page 1 that the fields of a bundle spell. -/
def build1 (op : Nat) (F : Fields) : Instr :=
  match op with
  | 0 => .div F.d F.a F.b F.f F.la
  | 1 => .divn F.d F.a F.b F.f F.la
  | 2 => .rem F.d F.a F.b F.f F.la
  | 3 => .remn F.d F.a F.b F.f F.la
  | 4 => .popc F.d F.a F.f
  | 5 => .clz F.d F.a F.f
  | 6 => .ctz F.d F.a F.f
  | 7 => .rot F.d F.a F.b F.f
  | 8 => .bswap F.d F.a F.f
  | 9 => .bext F.d F.a F.b
  | 10 => .bins F.d F.a F.b
  | 11 => .fadd F.d F.a F.b F.f
  | 12 => .fsub F.d F.a F.b F.f
  | 13 => .fmul F.d F.a F.b F.f
  | 14 => .fma F.d F.a F.b F.f
  | 15 => .fdiv F.d F.a F.b F.f
  | 16 => .fsqrt F.d F.a F.f
  | 17 => .fmin F.d F.a F.b F.f
  | 18 => .fmax F.d F.a F.b F.f
  | 19 => .feq F.d F.a F.b F.f
  | 20 => .flt F.d F.a F.b F.f
  | 21 => .fle F.d F.a F.b F.f
  | 22 => .fcvt F.d F.a (code F.b)
  | 23 => .fcls F.d F.a F.f
  | 24 => if F.imm = 23 then .cpLaunchRead F.d else .kget F.d F.imm.toNat
  | 25 => .kput F.d F.imm.toNat
  | _ => .rand F.d

/-- The instruction of page 2 that the fields of a bundle spell. -/
def build2 (op : Nat) (F : Fields) : Instr :=
  match op with
  | 0 => .vld (vreg F.d) F.a F.imm F.q F.la
  | 1 => .vst (vreg F.d) F.a F.imm F.q
  | 2 => .vlds (vreg F.d) F.a F.b F.q F.la
  | 3 => .vsts (vreg F.d) F.a F.b F.q
  | 4 => .vldx (vreg F.d) F.a (vreg F.b) F.q F.la
  | 5 => .vstx (vreg F.d) F.a (vreg F.b) F.q
  | 6 => .vadd (vreg F.d) (vreg F.a) (vreg F.b) F.q
  | 7 => .vsub (vreg F.d) (vreg F.a) (vreg F.b) F.q
  | 8 => .vmul (vreg F.d) (vreg F.a) (vreg F.b) F.q
  | 9 => .vfma (vreg F.d) (vreg F.a) (vreg F.b) F.q
  | 10 => .vmin (vreg F.d) (vreg F.a) (vreg F.b) F.q
  | 11 => .vmax (vreg F.d) (vreg F.a) (vreg F.b) F.q
  | 12 => .vand (vreg F.d) (vreg F.a) (vreg F.b) F.q
  | 13 => .vor (vreg F.d) (vreg F.a) (vreg F.b) F.q
  | 14 => .vxor (vreg F.d) (vreg F.a) (vreg F.b) F.q
  | 15 => .vshl (vreg F.d) (vreg F.a) (vreg F.b) F.q
  | 16 => .vshr (vreg F.d) (vreg F.a) (vreg F.b) F.q
  | 17 => .vcmpeq (vreg F.d) (vreg F.a) (vreg F.b) F.q
  | 18 => .vcmplt (vreg F.d) (vreg F.a) (vreg F.b) F.q
  | 19 => .vsel (vreg F.d) (vreg F.a) (vreg F.b) F.q
  | 20 => .vcvt (vreg F.d) (vreg F.a) (code F.b) F.q
  | 21 => .vpack4 (vreg F.d) (vreg F.a) (code F.b) F.q F.la
  | 22 => .vunpk4 (vreg F.d) (vreg F.a) F.q
  | 23 => .vredsum F.d (vreg F.a) F.q
  | 24 => .vredmax F.d (vreg F.a) F.q
  | 25 => .vredmin F.d (vreg F.a) F.q
  | 26 => .vbcast (vreg F.d) F.a F.q
  | 27 => .vext F.d (vreg F.a) F.imm.toNat F.q
  | 28 => .vins (vreg F.d) F.a F.imm.toNat F.q
  | 29 => .vperm (vreg F.d) (vreg F.a) (vreg F.b) F.q
  | 30 => .vrcp (vreg F.d) (vreg F.a) F.q
  | 31 => .vrsq (vreg F.d) (vreg F.a) F.q
  | 32 => .vexp (vreg F.d) (vreg F.a) F.q
  | 33 => .vscal (vreg F.d) (vreg F.a) F.b F.q
  | 34 => .vmov (vreg F.d) (vreg F.a) F.q
  | 35 => .vmcnt F.d (vreg F.a) F.q
  | _ => .viota (vreg F.d) F.q

/-- The instruction of page 3 that the fields of a bundle spell. -/
def build3 (op : Nat) (F : Fields) : Instr :=
  match op with
  | 0 => .mlease F.d
  | 1 => .mfree
  | 2 => .mfmt F.a F.q
  | 3 => .mbld F.d F.a F.b F.q
  | 4 => .mbldg F.d F.a F.b F.q
  | 5 => .mmul F.d F.a F.b F.q
  | 6 => .mgath F.d F.a F.b F.q
  | 7 => .mzero F.d F.imm.toNat
  | 8 => .mdrain F.d F.a F.b
  | 9 => .mwalk F.d F.a F.b
  | 10 => .mwait F.a
  | _ => .mpoll F.d F.a

/-- The instruction of page 4 that the fields of a bundle spell. -/
def build4 (op : Nat) (F : Fields) : Instr :=
  match op with
  | 0 => .cpput F.a
  | 1 => .cplaunch F.d
  | 2 => .cpgath F.d F.a (vreg F.b)
  | 3 => .cpscat F.d F.a (vreg F.b)
  | 4 => .cpwait F.a
  | 5 => .sgath (vreg F.d) F.a (vreg F.b) F.q F.la
  | 6 => .aadd F.d F.a F.b F.q F.la
  | 7 => .aand F.d F.a F.b F.q F.la
  | 8 => .aor F.d F.a F.b F.q F.la
  | 9 => .amin F.d F.a F.b F.q F.la
  | 10 => .amax F.d F.a F.b F.q F.la
  | 11 => .axchg F.d F.a F.b F.q F.la
  | 12 => .acas F.d F.a F.q F.la
  | 13 => .afadd F.d F.a F.b F.q F.la
  | 14 => .msend F.a F.b
  | 15 => .hset F.a F.imm.toNat
  | 16 => .spawn F.a
  | 17 => .cdarm F.a F.b
  | 18 => .cddec F.a F.b
  | _ => .jwait F.d F.a

/-- The instruction of page 5 that the fields of a bundle spell. -/
def build5 (op : Nat) (F : Fields) : Instr :=
  match op with
  | 0 => .fence F.q
  | 1 => .fencea F.q
  | 2 => .fencer F.q
  | 3 => .sfence F.sid
  | 4 => .barr F.imm.toNat
  | 5 => .barw F.imm.toNat
  | 6 => .barx F.imm.toNat
  | 7 => .evwait
  | 8 => .yield
  | 9 => .waitge F.a F.b
  | 10 => .carve F.a
  | 11 => .sprint F.d F.a
  | 12 => .sprintq F.d
  | 13 => .uret
  | _ => 
    if F.imm = 0 then .scallExit
    else if F.imm = 1 then .scallTimerArm
    else if F.imm = 2 then .scallTimerCancel
    else if F.imm = 3 then .scallDestroyDeque
    else .scallRefused F.imm.toNat

/-- The instruction of page 6 that the fields of a bundle spell. -/
def build6 (op : Nat) (F : Fields) : Instr :=
  match op with
  | 0 => .rst F.d F.a F.imm F.sid F.cls
  | 1 => .rstv (vreg F.d) F.a F.imm F.sid F.cls
  | 2 => .rstm F.a F.b F.sid F.cls
  | 3 => .raadd F.d F.a F.b F.la F.sid F.cls
  | 4 => .rafadd F.d F.a F.b F.la F.sid F.cls
  | 5 => .racas F.d F.a F.la F.sid F.cls
  | 6 => .raxchg F.d F.a F.b F.la F.sid F.cls
  | 7 => .rbegin
  | 8 => .rcommit
  | 9 => .rreq F.d F.a F.b
  | 10 => .rsl F.a F.b
  | 11 => .rslgo
  | 12 => .rsetc F.a F.b F.sid F.cls
  | _ => .rclose F.a F.b F.sid F.cls

/-- The instruction of page 7 that the fields of a bundle spell. -/
def build7 (op : Nat) (F : Fields) : Instr :=
  match op with
  | 0 => .tryChoice F.a F.b
  | 1 => .trySteal F.a F.b
  | 2 => .fail
  | 3 => .cut F.a
  | 4 => .mark F.d
  | 5 => .otask F.d F.a
  | 6 => .oend
  | 7 => .oabort
  | _ => .ohoriz F.d

/-- The instruction of page 8 that the fields of a bundle spell. -/
def build8 (op : Nat) (F : Fields) : Instr :=
  match op with
  | 0 => .cvdef F.a F.b
  | 1 => .cvslope F.a F.b
  | 2 => .cvquant F.a F.b
  | 3 => .cvfan F.a F.b
  | 4 => .cvrun F.a
  | 5 => .cvstop F.a
  | 6 => .cvread F.d F.a
  | 7 => .cvguard F.a F.b
  | _ => .cvsurvey F.a F.b

/-- The instruction of page 9 that the fields of a bundle spell. -/
def build9 (op : Nat) (F : Fields) : Instr :=
  match op with
  | 0 => .rlead F.d F.a
  | 1 => .rfollow F.a F.b
  | 2 => .rdetach
  | 3 => .rrejoin
  | 4 => .thset F.d F.a F.b
  | 5 => .thprio F.a F.b
  | 6 => .thevict F.a
  | 7 => .thdemote F.a
  | _ => .xprobe F.d F.a

/-- The instruction of page 14 that the fields of a bundle spell. -/
def build14 (op : Nat) (F : Fields) : Instr :=
  match op with
  | 0 => .skget F.d F.imm.toNat
  | 1 => .skput F.d F.imm.toNat
  | 2 => .tret
  | 3 => .stage F.a F.b
  | 4 => .swapgo
  | 5 => .spill F.a F.b
  | 6 => .tlbinv F.a F.b
  | 7 => .pinrel F.a
  | 8 => .gstop F.a
  | 9 => .gresume F.a
  | _ => .adopt F.d F.a

/-- The instruction that the fields of a bundle spell. -/
def build (F : Fields) : Instr :=
  match F.page with
  | 0 => build0 F.op F
  | 1 => build1 F.op F
  | 2 => build2 F.op F
  | 3 => build3 F.op F
  | 4 => build4 F.op F
  | 5 => build5 F.op F
  | 6 => build6 F.op F
  | 7 => build7 F.op F
  | 8 => build8 F.op F
  | 9 => build9 F.op F
  | _ => build14 F.op F

/-- The fields that an instruction fills; a step without an encoding fills none. -/
def Instr.fields : Instr → Option Fields
  | .add d a b f => some { page := 0, op := 0, d := d, a := a, b := b, f := f }
  | .sub d a b f => some { page := 0, op := 1, d := d, a := a, b := b, f := f }
  | .and d a b f => some { page := 0, op := 2, d := d, a := a, b := b, f := f }
  | .or d a b f => some { page := 0, op := 3, d := d, a := a, b := b, f := f }
  | .xor d a b f => some { page := 0, op := 4, d := d, a := a, b := b, f := f }
  | .shl d a b f => some { page := 0, op := 5, d := d, a := a, b := b, f := f }
  | .shr d a b f => some { page := 0, op := 6, d := d, a := a, b := b, f := f }
  | .sra d a b f => some { page := 0, op := 7, d := d, a := a, b := b, f := f }
  | .mul d a b f => some { page := 0, op := 8, d := d, a := a, b := b, f := f }
  | .mulh d a b f => some { page := 0, op := 9, d := d, a := a, b := b, f := f }
  | .min d a b f => some { page := 0, op := 10, d := d, a := a, b := b, f := f }
  | .max d a b f => some { page := 0, op := 11, d := d, a := a, b := b, f := f }
  | .seq d a b f => some { page := 0, op := 12, d := d, a := a, b := b, f := f }
  | .slt d a b f => some { page := 0, op := 13, d := d, a := a, b := b, f := f }
  | .sel d a b => some { page := 0, op := 14, d := d, a := a, b := b }
  | .addi d a imm => some { page := 0, op := 15, d := d, a := a, imm := imm }
  | .andi d a imm => some { page := 0, op := 16, d := d, a := a, imm := imm }
  | .ori d a imm => some { page := 0, op := 17, d := d, a := a, imm := imm }
  | .xori d a imm => some { page := 0, op := 18, d := d, a := a, imm := imm }
  | .shli d a imm => some { page := 0, op := 19, d := d, a := a, imm := imm }
  | .shri d a imm => some { page := 0, op := 20, d := d, a := a, imm := imm }
  | .srai d a imm => some { page := 0, op := 21, d := d, a := a, imm := imm }
  | .slti d a imm => some { page := 0, op := 22, d := d, a := a, imm := imm }
  | .li d imm => some { page := 0, op := 23, d := d, imm := imm }
  | .lih d imm => some { page := 0, op := 24, d := d, imm := imm }
  | .pcrel d imm => some { page := 0, op := 25, d := d, imm := imm }
  | .ldb d a imm la => some { page := 0, op := 26, d := d, a := a, imm := imm, la := la }
  | .ldbn d a imm la => some { page := 0, op := 27, d := d, a := a, imm := imm, la := la }
  | .ldh d a imm la => some { page := 0, op := 28, d := d, a := a, imm := imm, la := la }
  | .ldhn d a imm la => some { page := 0, op := 29, d := d, a := a, imm := imm, la := la }
  | .ldw d a imm la => some { page := 0, op := 30, d := d, a := a, imm := imm, la := la }
  | .ldwn d a imm la => some { page := 0, op := 31, d := d, a := a, imm := imm, la := la }
  | .ldd d a imm la => some { page := 0, op := 32, d := d, a := a, imm := imm, la := la }
  | .stb d a imm xs => some { page := 0, op := 33, d := d, a := a, imm := imm, xs := xs }
  | .sth d a imm xs => some { page := 0, op := 34, d := d, a := a, imm := imm, xs := xs }
  | .stw d a imm xs => some { page := 0, op := 35, d := d, a := a, imm := imm, xs := xs }
  | .std d a imm xs => some { page := 0, op := 36, d := d, a := a, imm := imm, xs := xs }
  | .tch kind a imm la => some { page := 0, op := 37, d := ofCode kind, a := a, imm := imm, la := la }
  | .lda d a imm q la => some { page := 0, op := 38, d := d, a := a, imm := imm, q := q, la := la }
  | .stl d a imm q xs => some { page := 0, op := 39, d := d, a := a, imm := imm, q := q, xs := xs }
  | .beq a b imm => some { page := 0, op := 40, a := a, b := b, imm := imm }
  | .bne a b imm => some { page := 0, op := 41, a := a, b := b, imm := imm }
  | .blt a b imm => some { page := 0, op := 42, a := a, b := b, imm := imm }
  | .bge a b imm => some { page := 0, op := 43, a := a, b := b, imm := imm }
  | .bltn a b imm => some { page := 0, op := 44, a := a, b := b, imm := imm }
  | .bgen a b imm => some { page := 0, op := 45, a := a, b := b, imm := imm }
  | .jmp imm => some { page := 0, op := 46, imm := imm }
  | .jal imm => some { page := 0, op := 47, imm := imm }
  | .jr d a => some { page := 0, op := 48, d := d, a := a }
  | .div d a b f la => some { page := 1, op := 0, d := d, a := a, b := b, f := f, la := la }
  | .divn d a b f la => some { page := 1, op := 1, d := d, a := a, b := b, f := f, la := la }
  | .rem d a b f la => some { page := 1, op := 2, d := d, a := a, b := b, f := f, la := la }
  | .remn d a b f la => some { page := 1, op := 3, d := d, a := a, b := b, f := f, la := la }
  | .popc d a f => some { page := 1, op := 4, d := d, a := a, f := f }
  | .clz d a f => some { page := 1, op := 5, d := d, a := a, f := f }
  | .ctz d a f => some { page := 1, op := 6, d := d, a := a, f := f }
  | .rot d a b f => some { page := 1, op := 7, d := d, a := a, b := b, f := f }
  | .bswap d a f => some { page := 1, op := 8, d := d, a := a, f := f }
  | .bext d a b => some { page := 1, op := 9, d := d, a := a, b := b }
  | .bins d a b => some { page := 1, op := 10, d := d, a := a, b := b }
  | .fadd d a b f => some { page := 1, op := 11, d := d, a := a, b := b, f := f }
  | .fsub d a b f => some { page := 1, op := 12, d := d, a := a, b := b, f := f }
  | .fmul d a b f => some { page := 1, op := 13, d := d, a := a, b := b, f := f }
  | .fma d a b f => some { page := 1, op := 14, d := d, a := a, b := b, f := f }
  | .fdiv d a b f => some { page := 1, op := 15, d := d, a := a, b := b, f := f }
  | .fsqrt d a f => some { page := 1, op := 16, d := d, a := a, f := f }
  | .fmin d a b f => some { page := 1, op := 17, d := d, a := a, b := b, f := f }
  | .fmax d a b f => some { page := 1, op := 18, d := d, a := a, b := b, f := f }
  | .feq d a b f => some { page := 1, op := 19, d := d, a := a, b := b, f := f }
  | .flt d a b f => some { page := 1, op := 20, d := d, a := a, b := b, f := f }
  | .fle d a b f => some { page := 1, op := 21, d := d, a := a, b := b, f := f }
  | .fcvt d a code => some { page := 1, op := 22, d := d, a := a, b := ofCode code }
  | .fcls d a f => some { page := 1, op := 23, d := d, a := a, f := f }
  | .kget d imm => some { page := 1, op := 24, d := d, imm := imm }
  | .kput d imm => some { page := 1, op := 25, d := d, imm := imm }
  | .rand d => some { page := 1, op := 26, d := d }
  | .vld d a imm q la => some { page := 2, op := 0, d := ofV d, a := a, imm := imm, q := q, la := la }
  | .vst d a imm q => some { page := 2, op := 1, d := ofV d, a := a, imm := imm, q := q }
  | .vlds d a b q la => some { page := 2, op := 2, d := ofV d, a := a, b := b, q := q, la := la }
  | .vsts d a b q => some { page := 2, op := 3, d := ofV d, a := a, b := b, q := q }
  | .vldx d a b q la => some { page := 2, op := 4, d := ofV d, a := a, b := ofV b, q := q, la := la }
  | .vstx d a b q => some { page := 2, op := 5, d := ofV d, a := a, b := ofV b, q := q }
  | .vadd d a b q => some { page := 2, op := 6, d := ofV d, a := ofV a, b := ofV b, q := q }
  | .vsub d a b q => some { page := 2, op := 7, d := ofV d, a := ofV a, b := ofV b, q := q }
  | .vmul d a b q => some { page := 2, op := 8, d := ofV d, a := ofV a, b := ofV b, q := q }
  | .vfma d a b q => some { page := 2, op := 9, d := ofV d, a := ofV a, b := ofV b, q := q }
  | .vmin d a b q => some { page := 2, op := 10, d := ofV d, a := ofV a, b := ofV b, q := q }
  | .vmax d a b q => some { page := 2, op := 11, d := ofV d, a := ofV a, b := ofV b, q := q }
  | .vand d a b q => some { page := 2, op := 12, d := ofV d, a := ofV a, b := ofV b, q := q }
  | .vor d a b q => some { page := 2, op := 13, d := ofV d, a := ofV a, b := ofV b, q := q }
  | .vxor d a b q => some { page := 2, op := 14, d := ofV d, a := ofV a, b := ofV b, q := q }
  | .vshl d a b q => some { page := 2, op := 15, d := ofV d, a := ofV a, b := ofV b, q := q }
  | .vshr d a b q => some { page := 2, op := 16, d := ofV d, a := ofV a, b := ofV b, q := q }
  | .vcmpeq d a b q => some { page := 2, op := 17, d := ofV d, a := ofV a, b := ofV b, q := q }
  | .vcmplt d a b q => some { page := 2, op := 18, d := ofV d, a := ofV a, b := ofV b, q := q }
  | .vsel d a b q => some { page := 2, op := 19, d := ofV d, a := ofV a, b := ofV b, q := q }
  | .vcvt d a code q => some { page := 2, op := 20, d := ofV d, a := ofV a, b := ofCode code, q := q }
  | .vpack4 d a code q la => some { page := 2, op := 21, d := ofV d, a := ofV a, b := ofCode code, q := q, la := la }
  | .vunpk4 d a q => some { page := 2, op := 22, d := ofV d, a := ofV a, q := q }
  | .vredsum d a q => some { page := 2, op := 23, d := d, a := ofV a, q := q }
  | .vredmax d a q => some { page := 2, op := 24, d := d, a := ofV a, q := q }
  | .vredmin d a q => some { page := 2, op := 25, d := d, a := ofV a, q := q }
  | .vbcast d a q => some { page := 2, op := 26, d := ofV d, a := a, q := q }
  | .vext d a imm q => some { page := 2, op := 27, d := d, a := ofV a, imm := imm, q := q }
  | .vins d a imm q => some { page := 2, op := 28, d := ofV d, a := a, imm := imm, q := q }
  | .vperm d a b q => some { page := 2, op := 29, d := ofV d, a := ofV a, b := ofV b, q := q }
  | .vrcp d a q => some { page := 2, op := 30, d := ofV d, a := ofV a, q := q }
  | .vrsq d a q => some { page := 2, op := 31, d := ofV d, a := ofV a, q := q }
  | .vexp d a q => some { page := 2, op := 32, d := ofV d, a := ofV a, q := q }
  | .vscal d a b q => some { page := 2, op := 33, d := ofV d, a := ofV a, b := b, q := q }
  | .vmov d a q => some { page := 2, op := 34, d := ofV d, a := ofV a, q := q }
  | .vmcnt d a q => some { page := 2, op := 35, d := d, a := ofV a, q := q }
  | .viota d q => some { page := 2, op := 36, d := ofV d, q := q }
  | .mlease d => some { page := 3, op := 0, d := d }
  | .mfmt a q => some { page := 3, op := 2, a := a, q := q }
  | .mbld d a b q => some { page := 3, op := 3, d := d, a := a, b := b, q := q }
  | .mbldg d a b q => some { page := 3, op := 4, d := d, a := a, b := b, q := q }
  | .mmul d a b q => some { page := 3, op := 5, d := d, a := a, b := b, q := q }
  | .mgath d a b q => some { page := 3, op := 6, d := d, a := a, b := b, q := q }
  | .mzero d imm => some { page := 3, op := 7, d := d, imm := imm }
  | .mdrain d a b => some { page := 3, op := 8, d := d, a := a, b := b }
  | .mwalk d a b => some { page := 3, op := 9, d := d, a := a, b := b }
  | .mwait a => some { page := 3, op := 10, a := a }
  | .mpoll d a => some { page := 3, op := 11, d := d, a := a }
  | .cpput a => some { page := 4, op := 0, a := a }
  | .cplaunch d => some { page := 4, op := 1, d := d }
  | .cpgath d a b => some { page := 4, op := 2, d := d, a := a, b := ofV b }
  | .cpscat d a b => some { page := 4, op := 3, d := d, a := a, b := ofV b }
  | .cpwait a => some { page := 4, op := 4, a := a }
  | .cpLaunchRead d => some { page := 1, op := 24, d := d, imm := 23 }
  | .sgath d a b q la => some { page := 4, op := 5, d := ofV d, a := a, b := ofV b, q := q, la := la }
  | .aadd d a b q la => some { page := 4, op := 6, d := d, a := a, b := b, q := q, la := la }
  | .aand d a b q la => some { page := 4, op := 7, d := d, a := a, b := b, q := q, la := la }
  | .aor d a b q la => some { page := 4, op := 8, d := d, a := a, b := b, q := q, la := la }
  | .amin d a b q la => some { page := 4, op := 9, d := d, a := a, b := b, q := q, la := la }
  | .amax d a b q la => some { page := 4, op := 10, d := d, a := a, b := b, q := q, la := la }
  | .axchg d a b q la => some { page := 4, op := 11, d := d, a := a, b := b, q := q, la := la }
  | .acas d a q la => some { page := 4, op := 12, d := d, a := a, q := q, la := la }
  | .afadd d a b q la => some { page := 4, op := 13, d := d, a := a, b := b, q := q, la := la }
  | .msend a b => some { page := 4, op := 14, a := a, b := b }
  | .hset a imm => some { page := 4, op := 15, a := a, imm := imm }
  | .spawn a => some { page := 4, op := 16, a := a }
  | .cdarm a b => some { page := 4, op := 17, a := a, b := b }
  | .cddec a b => some { page := 4, op := 18, a := a, b := b }
  | .jwait d a => some { page := 4, op := 19, d := d, a := a }
  | .fence q => some { page := 5, op := 0, q := q }
  | .fencea q => some { page := 5, op := 1, q := q }
  | .fencer q => some { page := 5, op := 2, q := q }
  | .sfence sid => some { page := 5, op := 3, xs := streamWord sid 0 }
  | .barr imm => some { page := 5, op := 4, imm := imm }
  | .barw imm => some { page := 5, op := 5, imm := imm }
  | .barx imm => some { page := 5, op := 6, imm := imm }
  | .waitge a b => some { page := 5, op := 9, a := a, b := b }
  | .carve a => some { page := 5, op := 10, a := a }
  | .sprint d a => some { page := 5, op := 11, d := d, a := a }
  | .sprintq d => some { page := 5, op := 12, d := d }
  | .scallRefused imm => some { page := 5, op := 14, imm := imm }
  | .rst d a imm sid cls => some { page := 6, op := 0, d := d, a := a, imm := imm, xs := streamWord sid cls }
  | .rstv d a imm sid cls => some { page := 6, op := 1, d := ofV d, a := a, imm := imm, xs := streamWord sid cls }
  | .rstm a b sid cls => some { page := 6, op := 2, a := a, b := b, xs := streamWord sid cls }
  | .raadd d a b la sid cls => some { page := 6, op := 3, d := d, a := a, b := b, la := la, xs := streamWord sid cls }
  | .rafadd d a b la sid cls => some { page := 6, op := 4, d := d, a := a, b := b, la := la, xs := streamWord sid cls }
  | .racas d a la sid cls => some { page := 6, op := 5, d := d, a := a, la := la, xs := streamWord sid cls }
  | .raxchg d a b la sid cls => some { page := 6, op := 6, d := d, a := a, b := b, la := la, xs := streamWord sid cls }
  | .rreq d a b => some { page := 6, op := 9, d := d, a := a, b := b }
  | .rsl a b => some { page := 6, op := 10, a := a, b := b }
  | .rsetc a b sid cls => some { page := 6, op := 12, a := a, b := b, xs := streamWord sid cls }
  | .rclose a b sid cls => some { page := 6, op := 13, a := a, b := b, xs := streamWord sid cls }
  | .tryChoice a b => some { page := 7, op := 0, a := a, b := b }
  | .trySteal a b => some { page := 7, op := 1, a := a, b := b }
  | .cut a => some { page := 7, op := 3, a := a }
  | .mark d => some { page := 7, op := 4, d := d }
  | .otask d a => some { page := 7, op := 5, d := d, a := a }
  | .ohoriz d => some { page := 7, op := 8, d := d }
  | .cvdef a b => some { page := 8, op := 0, a := a, b := b }
  | .cvslope a b => some { page := 8, op := 1, a := a, b := b }
  | .cvquant a b => some { page := 8, op := 2, a := a, b := b }
  | .cvfan a b => some { page := 8, op := 3, a := a, b := b }
  | .cvrun a => some { page := 8, op := 4, a := a }
  | .cvstop a => some { page := 8, op := 5, a := a }
  | .cvread d a => some { page := 8, op := 6, d := d, a := a }
  | .cvguard a b => some { page := 8, op := 7, a := a, b := b }
  | .cvsurvey a b => some { page := 8, op := 8, a := a, b := b }
  | .rlead d a => some { page := 9, op := 0, d := d, a := a }
  | .rfollow a b => some { page := 9, op := 1, a := a, b := b }
  | .thset d a b => some { page := 9, op := 4, d := d, a := a, b := b }
  | .thprio a b => some { page := 9, op := 5, a := a, b := b }
  | .thevict a => some { page := 9, op := 6, a := a }
  | .thdemote a => some { page := 9, op := 7, a := a }
  | .xprobe d a => some { page := 9, op := 8, d := d, a := a }
  | .skget d imm => some { page := 14, op := 0, d := d, imm := imm }
  | .skput d imm => some { page := 14, op := 1, d := d, imm := imm }
  | .stage a b => some { page := 14, op := 3, a := a, b := b }
  | .spill a b => some { page := 14, op := 5, a := a, b := b }
  | .tlbinv a b => some { page := 14, op := 6, a := a, b := b }
  | .pinrel a => some { page := 14, op := 7, a := a }
  | .gstop a => some { page := 14, op := 8, a := a }
  | .gresume a => some { page := 14, op := 9, a := a }
  | .adopt d a => some { page := 14, op := 10, d := d, a := a }
  | .teamStart _ => none
  | .quantumExpire _ => none
  | .yieldRequest _ => none
  | .teamSwap _ => none
  | .messageArrive _ => none
  | .horizonReduction _ => none
  | .copyComplete _ => none
  | .barrierPhaseComplete _ _ => none
  | .timerFire _ => none
  | .longLatencyComplete _ => none
  | .streamCommit _ => none
  | .streamAck _ => none
  | .remoteAtomicResult _ => none
  | .fabricFailure _ => none
  | .requestArrive _ => none
  | .requestTimeout _ => none
  | .ualinkReadRequest _ => none
  | .stationLinkDown _ => none
  | .icefieldUpdate _ => none
  | .biasWindow _ => none
  | .temperatureSample _ _ => none
  | .hotDwellExpire _ => none
  | .uncorrectableError _ => none
  | .heartWrite _ => none
  | .ploadWrite _ => none
  | .stagectlWrite _ => none
  | .jobMessage _ => none
  | .attestationRequest _ => none
  | .powerGood _ => none
  | .unassignedOpcode _ => none
  | .streamGapTimeout _ => none
  | .brokenStreamClear _ _ => none
  | .stationLinkUp _ => none
  | .portLinkChange _ _ => none
  | .serviceCoreRemoval _ => none
  | .nop => some { page := 0, op := 49 }
  | .brk => some { page := 0, op := 49, imm := 1 }
  | .mfree => some { page := 3, op := 1 }
  | .evwait => some { page := 5, op := 7 }
  | .yield => some { page := 5, op := 8 }
  | .uret => some { page := 5, op := 13 }
  | .scallExit => some { page := 5, op := 14 }
  | .scallTimerArm => some { page := 5, op := 14, imm := 1 }
  | .scallTimerCancel => some { page := 5, op := 14, imm := 2 }
  | .scallDestroyDeque => some { page := 5, op := 14, imm := 3 }
  | .rbegin => some { page := 6, op := 7 }
  | .rcommit => some { page := 6, op := 8 }
  | .rslgo => some { page := 6, op := 11 }
  | .fail => some { page := 7, op := 2 }
  | .oend => some { page := 7, op := 6 }
  | .oabort => some { page := 7, op := 7 }
  | .rdetach => some { page := 9, op := 2 }
  | .rrejoin => some { page := 9, op := 3 }
  | .tret => some { page := 14, op := 2 }
  | .swapgo => some { page := 14, op := 4 }
  | .launchRecordTake => none
  | .dispenserDecision => none
  | .yieldDeadline => none
  | .handlerStart => none
  | .handlerTableApply => none
  | .stealRequest => none
  | .stealAnswer => none
  | .stealReplyReceive => none
  | .readyRingPush => none
  | .otaskCommit => none
  | .taskAbort => none
  | .contourCrossing => none
  | .surveyFire => none
  | .leaseGrant => none
  | .leaseTimeout => none
  | .matrixJobComplete => none
  | .indexWalkComplete => none
  | .doneWordPush => none
  | .copyInterrupt => none
  | .translationWalk => none
  | .pinExpire => none
  | .contextMigrate => none
  | .regionTimeout => none
  | .regionFailure => none
  | .swapTimeDue => none
  | .ridgeFlip => none
  | .stageComplete => none
  | .spillComplete => none
  | .sprintLeaseExpire => none
  | .systemFault => none
  | .faultRecordPost => none
  | .watchdogExpire => none
  | .timeLockLost => none
  | .storeAcknowledgement => none
  | .sprintEnergyCharge => none
  | .biasHoldExpire => none
  | .timeLockRegained => none
  | .serviceWarmRestart => none
  | .ridgeDrain => none

/-! ### Words -/

/-- A prefix word: bits [15:13] are 0b111 (R70). -/
def isPrefix (w : IWord) : Bool := decide (w.toNat / 2 ^ 13 = 7)

/-- The words of a bundle by kind, each prefix word with its position (R72, R76). -/
structure Bundle where
  xr : Option (Nat × IWord) := none
  xp : Option (Nat × IWord) := none
  xs : Option (Nat × IWord) := none
  xi : List (Nat × IWord) := []
  base : IWord := 0
  count : Nat := 0
  deriving DecidableEq, Repr

/-- The first base word of a list. Where the words that were fetched hold none, the word field of a detail 2 or 3 record is zero, since R88
does not say what it is then (DESIGN CHOICE, log 86). -/
def firstBase : List IWord → IWord
  | [] => 0
  | w :: ws => if isPrefix w then firstBase ws else w

/-- Reads the words of a bundle upward from its address; the earliest violating word decides (R76, R87 step 2). -/
def scan (pos : Nat) (b : Bundle) : List IWord → Except BadBundle (Bundle × List IWord)
  | [] => .error { detail := 1, pos := 0, npre := pos, pre := 0, word := 0, ext := none }
  | w :: ws =>
    if isPrefix w then
      if 4 ≤ pos then .error { detail := 1, pos := 0, npre := 5, pre := 0, word := w, ext := none }
      else
        let bad (detail : Nat) : Except BadBundle (Bundle × List IWord) :=
          .error { detail, pos, npre := pos + 1, pre := w, word := firstBase ws, ext := none }
        match w.toNat / 2 ^ 11 % 4 with
        | 0 => if b.xr.isSome then bad 2 else scan (pos + 1) { b with xr := some (pos, w) } ws
        | 1 => if 3 ≤ b.xi.length then bad 3 else scan (pos + 1) { b with xi := b.xi ++ [(pos, w)] } ws
        | 2 => if b.xp.isSome then bad 2 else scan (pos + 1) { b with xp := some (pos, w) } ws
        | _ => if b.xs.isSome then bad 2 else scan (pos + 1) { b with xs := some (pos, w) } ws
    else .ok ({ b with base := w, count := pos }, ws)

/-- Bits of a word, as a number. -/
def bits (w : IWord) (hi lo : Nat) : Nat := w.toNat / 2 ^ lo % 2 ^ (hi + 1 - lo)

/-- A word of a bundle, or zero where the bundle has none. -/
def wordOf (x : Option (Nat × IWord)) : IWord := (x.map Prod.snd).getD 0

/-- The opcode page (R74). -/
def Bundle.page (b : Bundle) : Nat := bits (wordOf b.xp) 10 7 * (if b.xp.isSome then 1 else 0)
/-- The lookahead (R74). -/
def Bundle.la (b : Bundle) : Nat := bits (wordOf b.xp) 6 3
/-- The q field (R74). -/
def Bundle.q (b : Bundle) : Nat := bits (wordOf b.xp) 2 0
/-- The op field (R70). -/
def Bundle.op (b : Bundle) : Nat := bits b.base 15 10
/-- The stream and class of the XS word (R75). -/
def Bundle.stream (b : Bundle) : Option XS :=
  b.xs.map (fun x => ⟨⟨bits x.2 10 5 % 64, Nat.mod_lt _ (by decide)⟩, ⟨bits x.2 4 3 % 4, Nat.mod_lt _ (by decide)⟩⟩)

/-- The low and high parts of fields d, a and b by format (R71, R73): a BR word has no d. -/
def Bundle.reg (b : Bundle) (fmt : Format) (which : Nat) : Nat × Nat :=
  let h := wordOf b.xr
  let hi := match which with | 0 => bits h 8 6 | 1 => bits h 5 3 | _ => bits h 2 0
  let lo :=
    match fmt, which with
    | .rr, 0 | .ri, 0 | .di, 0 => bits b.base 9 7
    | .rr, 1 | .ri, 1 => bits b.base 6 4
    | .rr, _ => bits b.base 3 1
    | .br, 1 => bits b.base 9 7
    | .br, 2 => bits b.base 6 4
    | _, _ => 0
  (hi, lo)

/-- A register number (R73). -/
def Bundle.regNum (b : Bundle) (fmt : Format) (which : Nat) : Fin 64 :=
  let r := b.reg fmt which
  ⟨(r.1 * 8 + r.2) % 64, Nat.mod_lt _ (by decide)⟩

/-- Bits of the immediate field of a base word (R71). -/
def immBits : Format → Nat
  | .rr => 0 | .ri => 4 | .di => 7 | .br => 4 | .sy => 10

/-- The immediate before extension, and its width (R81). -/
def Bundle.rawImm (b : Bundle) (fmt : Format) : Nat × Nat :=
  let n := immBits fmt
  (b.xi.foldl (fun acc x => acc * 2 ^ 11 + bits x.2 10 0) 0 * 2 ^ n + b.base.toNat % 2 ^ n, 11 * b.xi.length + n)

/-- The value of the immediate: sign-extended, or zero-extended where the map marks it natural (R81). -/
def Bundle.imm (b : Bundle) (row : Row) : Int :=
  let r := b.rawImm row.fmt
  match row.imm with
  | .signed => if r.1 < 2 ^ (r.2 - 1) then r.1 else (r.1 : Int) - 2 ^ r.2
  | _ => r.1

/-- The fields of a bundle under its row. -/
def Bundle.fields (b : Bundle) (row : Row) : Fields where
  page := b.page
  op := b.op
  d := b.regNum row.fmt 0
  a := b.regNum row.fmt 1
  b := b.regNum row.fmt 2
  f := row.f && decide (b.base.toNat % 2 = 1)
  q := ⟨b.q % 8, Nat.mod_lt _ (by decide)⟩
  la := ⟨b.la % 16, Nat.mod_lt _ (by decide)⟩
  imm := b.imm row
  xs := b.stream

/-! ### The checks of R87 -/

/-- What the core that decodes lists and which mode it runs in (R29, R87). -/
structure Env where
  ext : Nat
  supervisor : Bool
  deriving DecidableEq, Repr

/-- Lists every page and family, in supervisor mode. -/
def Env.all : Env := ⟨2 ^ 21 - 1, true⟩

/-- The typed matrix commands, which name a family (R96). -/
def typedMatrix (page op : Nat) : Bool := decide (page = 3) && decide (2 ≤ op) && decide (op ≤ 6)

/-- The k.EXT bit of the matrix family that q names (R29); none for q 0, 4 and 5. -/
def familyBit (q : Nat) : Option Nat :=
  match q with
  | 7 => some 16 | 1 => some 17 | 2 => some 18 | 3 => some 19 | 6 => some 20 | _ => none

/-- Step 6: prefix acceptance (R85, R60). The offending prefix word comes with the detail. -/
def acceptance (b : Bundle) (row : Row) : Option (Nat × Option (Nat × IWord)) :=
  if row.fmt = .rr ∧ b.xi ≠ [] then some (8, b.xi.head?)
  else if row.fmt = .sy ∧ b.xr.isSome then some (8, b.xr)
  else if row.xs = .none ∧ b.xs.isSome then some (4, b.xs)
  else if row.la = false ∧ b.la ≠ 0 then some (17, b.xp)
  else none

/-- A field part that its row does not use (R84): the whole field, or the high part of a code (R117). -/
def reservedField (u : Use) (r : Nat × Nat) : Bool :=
  match u with
  | .none => r.1 != 0 || r.2 != 0
  | .code => r.1 != 0
  | _ => false

/-- Whether the XR word sets a bit that its row reserves. -/
def reservedXr (b : Bundle) (row : Row) : Bool :=
  decide (bits (wordOf b.xr) 10 9 ≠ 0) ||
  (row.d != .g && row.d != .v && (b.reg row.fmt 0).1 != 0) ||
  (row.a != .g && row.a != .v && (b.reg row.fmt 1).1 != 0) ||
  (row.b != .g && row.b != .v && (b.reg row.fmt 2).1 != 0)

/-- Step 7: reserved fields (R84). -/
def reserved (b : Bundle) (row : Row) : Option (Nat × Option (Nat × IWord)) :=
  if reservedXr b row then some (5, b.xr)
  else if row.q = false ∧ b.q ≠ 0 then some (5, b.xp)
  else if row.sizes ∧ 4 ≤ b.q then some (5, b.xp)
  else if bits (wordOf b.xs) 2 0 ≠ 0 then some (5, b.xs)
  else if row.xs = .sid ∧ bits (wordOf b.xs) 4 3 ≠ 0 then some (5, b.xs)
  else if reservedField row.d (b.reg row.fmt 0) || reservedField row.a (b.reg row.fmt 1) ||
      reservedField row.b (b.reg row.fmt 2) then some (5, none)
  else if row.fmt = .rr ∧ row.f = false ∧ b.base.toNat % 2 = 1 then some (5, none)
  else if row.imm = .zero ∧ (b.rawImm row.fmt).1 ≠ 0 then some (5, none)
  else none

/-- Step 8: register ranges (R73, then R20 and R22, then R19). -/
def ranges (b : Bundle) (row : Row) : Option (Nat × Option (Nat × IWord)) :=
  let d := (b.regNum row.fmt 0).val
  let a := (b.regNum row.fmt 1).val
  if (row.d = .v ∧ 32 ≤ d) ∨ (row.a = .v ∧ 32 ≤ a) ∨ (row.b = .v ∧ 32 ≤ (b.regNum row.fmt 2).val) then some (7, b.xr)
  else if row.pair ∧ 54 < d then some (13, b.xr)
  else if b.q = 7 ∧ ((row.pairD ∧ d = 31) ∨ (row.pairA ∧ a = 31)) then some (13, b.xr)
  else if row.dest ∧ row.d = .g ∧ 57 ≤ d ∧ d ≤ 59 then some (12, b.xr)
  else none

/-- Step 9: the immediate's range (R82), and the access kind of tch (R135). -/
def immRange (b : Bundle) (row : Row) : Option (Nat × Option (Nat × IWord)) :=
  let n := (b.rawImm row.fmt).1
  match row.imm with
  | .natural max => if max < n then some (9, none) else none
  | .misc => if 1023 < n then some (9, none) else none
  | .lane => if 4096 / lane ⟨b.q % 8, Nat.mod_lt _ (by decide)⟩ ≤ n then some (9, none) else none
  | _ => if row.d = .code ∧ 5 ≤ (b.reg row.fmt 0).2 then some (9, none) else none

/-- The first cause of steps 6 to 9 (R87), where a typed matrix command whose q names no family has the cause 19 of
step 3 before any of them. -/
def laterCause (b : Bundle) (row : Row) : Option (Nat × Option (Nat × IWord)) :=
  match (acceptance b row).or ((reserved b row).or ((ranges b row).or (immRange b row))) with
  | none => none
  | some c => if typedMatrix b.page b.op ∧ familyBit b.q = none then some (19, none) else some c

/-- The answer for a bundle with a cause: the detail, the prefix word at fault, and a missing k.EXT bit. -/
def Bundle.bad (b : Bundle) (detail : Nat) (x : Option (Nat × IWord)) (ext : Option Nat) : Except BadBundle Instr :=
  .error { detail, pos := (x.map Prod.fst).getD 0, npre := b.count, pre := wordOf x, word := b.base, ext }

/-- Steps 4 to 9 of R87, and the instruction. -/
def Bundle.assigned (b : Bundle) (env : Env) : Except BadBundle Instr :=
  if b.page = 14 ∧ env.supervisor = false then b.bad 6 none none
  else
    match rowOf b.page b.op with
    | none => b.bad 0 none none
    | some row =>
      if row.imm = .misc ∧ 2 ≤ (b.rawImm row.fmt).1 ∧ (b.rawImm row.fmt).1 ≤ 1023 then b.bad 0 none none
      else
        match laterCause b row with
        | some (detail, x) => b.bad detail x none
        | none => .ok (build (b.fields row))

/-- The checks of R87 from step 3 on, and the instruction. -/
def Bundle.instr (env : Env) (b : Bundle) : Except BadBundle Instr :=
  if env.ext.testBit b.page = false then b.bad 18 none (some b.page)
  else
    match (if typedMatrix b.page b.op then familyBit b.q else none) with
    | some f => if env.ext.testBit f = false then b.bad 18 none (some f) else b.assigned env
    | none => b.assigned env

/-- Decodes the bundle at the head of a list of words: the instruction and the words after it, or why it is none. -/
def decode (env : Env) (ws : List IWord) : Except BadBundle (Instr × List IWord) :=
  match scan 0 {} ws with
  | .error e => .error e
  | .ok (b, rest) =>
    match b.instr env with
    | .error e => .error e
    | .ok i => .ok (i, rest)

/-! ### The encoder -/

/-- A 16-bit word from its number. -/
def word16 (n : Nat) : IWord := BitVec.ofNat 16 n

/-- The fewest XI words whose width holds the immediate (R94). -/
def xiCount (fmt : Format) (use : ImmUse) (imm : Int) : Nat :=
  let n := immBits fmt
  let fits (k : Nat) : Bool :=
    match use with
    | .signed => fitsSigned (n + 11 * k) imm
    | _ => fitsNatural (n + 11 * k) imm.toNat
  if fits 0 then 0 else if fits 1 then 1 else if fits 2 then 2 else 3

/-- The XI words of an immediate, most significant first (R81). -/
def xiWords (u : Nat) : Nat → List IWord
  | 0 => []
  | k + 1 => word16 (0xE800 + u / 2 ^ (11 * k) % 2 ^ 11) :: xiWords u k

/-- The base word of a bundle (R71). -/
def baseWord (row : Row) (F : Fields) (u : Nat) : IWord :=
  let d := F.d.val % 8
  let a := F.a.val % 8
  let b := F.b.val % 8
  match row.fmt with
  | .rr => word16 (F.op * 1024 + d * 128 + a * 16 + b * 2 + F.f.toNat)
  | .ri => word16 (F.op * 1024 + d * 128 + a * 16 + u % 16)
  | .di => word16 (F.op * 1024 + d * 128 + u % 128)
  | .br => word16 (F.op * 1024 + a * 128 + b * 16 + u % 16)
  | .sy => word16 (F.op * 1024 + u % 1024)

/-- The words of a bundle in the order XP, XS, XR, XI, base, each prefix only when it is needed (R94). -/
def emit (row : Row) (F : Fields) : List IWord :=
  let n := immBits row.fmt
  let k := if row.imm = .none then 0 else xiCount row.fmt row.imm F.imm
  let u := (F.imm % (2 ^ (n + 11 * k) : Int)).toNat
  (if F.page = 0 ∧ F.la = 0 ∧ F.q = 0 then [] else [word16 (0xF000 + F.page * 128 + F.la.val * 8 + F.q.val)]) ++
  (match F.xs with | none => [] | some x => [word16 (0xF800 + x.sid.val * 32 + x.cls.val * 8)]) ++
  (if F.d.val < 8 ∧ F.a.val < 8 ∧ F.b.val < 8 then []
    else [word16 (0xE000 + F.d.val / 8 * 64 + F.a.val / 8 * 8 + F.b.val / 8)]) ++
  xiWords (u / 2 ^ n) k ++ [baseWord row F u]

/-- The words of an instruction, as pka writes them (R94); none for a step without an encoding. -/
def encode (i : Instr) : List IWord :=
  match i.fields with
  | none => []
  | some F =>
    match rowOf F.page F.op with
    | none => []
    | some row => emit row F

/-! ### The words of the opcode table -/

/-- The 16-bit words of a number, the lowest bits first. -/
def numberWords (w : Nat) : Nat → List IWord
  | 0 => []
  | k + 1 => word16 w :: numberWords (w / 2 ^ 16) k

/-- The words of a table number in address order. spec/opcode_table.json writes the words of a row from the highest
bits down, so that the prefix word of a row stands above its base word; a number whose lowest word is a prefix word has
its words from the lowest bits up (log 12). -/
def tableWords (nbits w : Nat) : List IWord :=
  let up := numberWords w (nbits / 16)
  if isPrefix (word16 w) then up else up.reverse

/-- The instruction that the decoder reads from the words of a table number (every operand word of zeros follows). -/
def decodeTableWord (nbits w : Nat) : Option Instr :=
  match decode Env.all (tableWords nbits w ++ [0, 0, 0, 0]) with
  | .ok (i, _) => some i
  | .error _ => none

end Sys2Proof
end

