-- ==== Sys2Proof/Machine/Fetch.lean ====
section
/-! DEFINITION. Fetching a bundle (R77 to R80), which context issues (R411), and how time passes. -/

namespace Sys2Proof.Machine

/-! ### Fetch -/

/-- The locations of an instruction word. A translation miss is noted and waits for its walk (R419); poison is taken at
the next boundary (R424); a claimed line is waited for (R187), and so is a speculative writer of another domain (R224). -/
def fetchLocs (ea : Word) : M (List Nat) := do
  let s ← get
  if isAperture ea then
    let (_, v) ← aperture ea 2
    pure (run (v.base + field ea 20 0) 2)
  else if isService (coreOf s.cur) then physical ea 2
  else
    let va := ea.toNat
    match s.myCore.cached s.me.part va with
    | none => throw (.wait .other)
    | some e =>
      match s.checkLeaf s.me.part .fetch e.level va e.pte with
      | .error t => raise t
      | .ok l => do
        modifyCore (fun k => k.touch e)
        if l.isSC then await s.quiet
        pure (run (l.pa va) 2)

/-- Whether a context misses the translation cache on an instruction word (R419). -/
def State.misses (s : State) (c : CtxId) (ea : Word) : Bool :=
  !isAperture ea && !isService (coreOf c) && ((s.core (coreOf c)).cached (s.ctx c).part ea.toNat).isNone

/-- The old contents that a context may still fetch at a location (R80): of its own stores, of others' stores that no fence has covered
its core after, and of those whose fence it has not yet acquired and followed by a jr. -/
def State.oldByte (s : State) (c : CtxId) (loc : Nat) : Option Byte :=
  let x := s.ctx c
  match (x.stale ++ x.fenced ++ x.offered).find? (fun e => e.1 == loc) with
  | some e => some e.2
  | none =>
    let left (core : CoreId) (y : Ctx) : Option Byte :=
      (y.unseen.find? (fun u => u.1 == loc && !inScope core u.2.2 (.core (coreOf c)))).map (fun u => u.2.1)
    match s.ctxs.findSome? (fun e => if e.1 = c then none else left (coreOf e.1) e.2) with
    | some b => some b
    | none => s.saved.findSome? (fun e => left ((s.absCore e.2.part (s.load (e.1 + 8) 2 % 1024)).getD 0) e.2)

/-- Reads one instruction word: where it was stored to without the fence, the acquire and the jr of R80, the old or the new contents
come, a free choice. -/
def fetchWord (ea : Word) : M IWord := do
  let locs ← fetchLocs ea
  let s ← get
  await (!(linesOf locs).any s.claims.contains)
  await ((linesOf locs).all s.readable)
  consume locs
  let new := s.loadAt locs
  if locs.any (fun l => (s.oldByte s.cur l).isSome) then
    if ← takeBit then pure (BitVec.ofNat 16 (leNat new))
    else pure (BitVec.ofNat 16 (leNat ((locs.zip new).map (fun p => (s.oldByte s.cur p.1).getD p.2))))
  else pure (BitVec.ofNat 16 (leNat new))

/-- Reads the words of a bundle upward from its address, up to its base word or its fifth word (R76). -/
def fetchWords (ea : Word) : Nat → M (List IWord)
  | 0 => pure []
  | k + 1 => do
    let w ← fetchWord ea
    if isPrefix w then return w :: (← fetchWords (ea + 2) k) else pure [w]

/-- The environment that a context decodes in (R87). -/
def State.env (s : State) (c : CtxId) : Env := ⟨extOf (coreOf c), s.supervisor c⟩

/-- Latches a bundle's words and the address of the next bundle (log 2). -/
def Ctx.latch (x : Ctx) (ws : List IWord) : Ctx := { x with ir := ws, npc := x.pc + BitVec.ofNat 64 (2 * ws.length) }

/-- The instruction that a bundle's words are: a bundle that is none is the step UNASSIGNED_OPCODE (R86, R96). -/
def instrOf (env : Env) (ws : List IWord) : Instr :=
  match decode env ws with
  | .ok (i, _) => i
  | .error bad => .unassignedOpcode bad

/-- The bundles that a rope follower's leader has forwarded to it (R52); none where the context follows no rope. -/
def State.forwarded (s : State) (c : CtxId) : Option (List Bundle) :=
  match (s.ctx c).rope with
  | none => none
  | some p =>
    if p.pos = 0 ∨ p.attached = false then none
    else (s.ropeOf p).map (fun r => r.buffers.get (fun _ => []) p.pos)

/-- Fetches and latches the current context's next bundle; an attached follower executes the words that its leader has forwarded
(R52, R78). -/
def fetchBundle : M Instr := do
  let s ← get
  let ws ← (match s.forwarded s.cur with
    | some (b :: _) => pure b.words
    | _ => fetchWords s.me.pc 5)
  modifyMe (fun x => x.latch ws)
  pure (instrOf (s.env s.cur) ws)

/-! ### Which context issues (R411) -/

/-- A pending interrupt may be taken (R242, R263). -/
def Ctx.interruptible (x : Ctx) : Bool := !x.intr.isEmpty && !x.status.getLsbD 3 && !x.handling

/-- A failure of the context's region waits to be taken (R288). -/
def Ctx.regionFails (x : Ctx) : Bool := match x.region with | some r => r.failed.isSome | none => false

/-- Something is taken at the context's next bundle boundary, and within a stall: an imprecise fault (R424), or its region's failure
(R288). -/
def Ctx.breaks (x : Ctx) : Bool := x.faulted.isSome || x.regionFails

/-- A context may issue: it runs, or leaves a wait for a fault, a region's failure or an interrupt; it is not frozen or yielded or held for
migration, and its partition is not stopped. -/
def State.canRun (s : State) (c : CtxId) : Bool :=
  let x := s.ctx c
  (x.run == .running || (x.run == .waiting && (x.breaks || x.interruptible))) && !x.yielded && !x.migrating && !s.halted c &&
  !(s.core (coreOf c)).removed && !s.stalled.contains c

/-- A pending result whose window is used up holds the next bundle (R61). -/
def Ctx.windowClosed (x : Ctx) : Bool := x.pend.any (fun p => p.left == 0)

/-- A context's latest access to an SC page is not yet performed at package scope (R133). -/
def State.owing (s : State) (c : CtxId) : Bool :=
  (s.ctx c).owes.any (s.core (coreOf c)).acks.contains || (s.ctx c).owed.any (fun i => s.packets.any (fun p => p.id == i))

/-- A core's egress queue has room: it holds 64 entries (R420, log 57). -/
def State.egressRoom (s : State) (c : CoreId) : Bool := decide ((s.core c).egress.length < 64)

/-- A context is ready: it may issue, its windows are open, its store to an SC page is acknowledged, its core's egress queue has room, and a
rope follower has a forwarded bundle. -/
def State.ready (s : State) (c : CtxId) : Bool :=
  s.canRun c && ((!s.owing c && s.egressRoom (coreOf c)) || (s.ctx c).breaks) && (!(s.ctx c).windowClosed || (s.ctx c).breaks) &&
  (match s.forwarded c with | some [] => false | _ => true)

/-- The context numbers after the one that issued last, cyclically (R411). -/
def turnOrder (last : Nat) : List Nat := (List.range 8).map (fun i => (last + 1 + i) % 8)

/-- The context of a core that issues next (R411): a rope follower with a forwarded bundle first, the lowest context number of several. -/
def State.chosen (s : State) (core : CoreId) : Option CtxId :=
  let b := s.activeBank core
  let order := (turnOrder (s.core core).last).map (ctxIn b)
  let follower (c : CtxId) : Bool := match s.forwarded c with | some (_ :: _) => true | _ => false
  match ((List.range 8).map (ctxIn b)).find? (fun c => follower c && s.ready c) with
  | some c => some c
  | none => order.find? s.ready

/-- A follower takes up its oldest forwarded bundle: the first one is where it joins the leader's stream (R269); one whose own next
bundle differs detaches (R54). -/
def State.follow (s : State) (c : CtxId) : State :=
  match (s.ctx c).rope, s.forwarded c with
  | some p, some (b :: _) =>
    let s := if p.joined then s else s.setCtx c { s.ctx c with pc := b.addr, rope := some { p with joined := true } }
    if b.addr = (s.ctx c).pc then s else s.setCtx c (s.ctx c).detached
  | _, _ => s

/-- Whether a leader waits for a masked core that has not yet executed rfollow (R268), or for an attached follower with a full buffer
of 32 bundles (R53). -/
def State.ropeFull (s : State) (c : CtxId) : Bool :=
  match (s.ctx c).rope with
  | none => false
  | some p =>
    p.pos == 0 && (match s.ropeOf p with
      | none => false
      | some r => decide (r.joined.dedup.length < ridgesBelow r.mask 16) ||
          r.members.any (fun m => s.follows p.die r m && decide (32 ≤ (r.buffers.get (fun _ => []) m.2).length)))

/-- Makes a context the current one of its core, which issues its next bundle (log 4). -/
def State.select (s : State) (c : CtxId) : State := { s with cur := c, focus := coreOf c, issued := true }

/-- What the chosen context does next: an imprecise fault, a region's failure or a pending interrupt is taken between bundles (R242, R288, R424),
a translation miss waits for its walk, and otherwise its next bundle is fetched; poison on the fetch is taken before the bundle
issues (R395, R424). -/
def turn (s : State) (c : CtxId) : Except Stop (Instr × State) :=
  let s := s.select c
  if (s.ctx c).faulted.isSome then .ok (.systemFault, s)
  else if (s.ctx c).regionFails then .ok (.regionFailure, s)
  else if (s.ctx c).interruptible then
    .ok (.copyInterrupt, s)
  else if s.ropeFull c then .error (.wait .other)
  else
    match fetchBundle (s.follow c) with
    | .ok (i, s') =>
      if (s'.ctx c).faulted.isSome then .ok (.systemFault, s'.setCtx c { s'.ctx c with ir := [] }) else .ok (i, s')
    | .error e => .error e

/-- The first instruction word of a bundle that misses the translation cache (R79, R419). -/
def State.missAt (s : State) (c : CtxId) : Nat → Word → Option Word
  | 0, _ => none
  | k + 1, ea =>
    if s.misses c ea then some ea
    else
      match fetchWord ea (s.select c) with
      | .ok (w, _) => if isPrefix w then s.missAt c k (ea + 2) else none
      | .error _ => none

/-- A context whose bundle cannot be fetched stalls; a miss goes to a walker (R419). -/
def State.waitFetch (s : State) (c : CtxId) : State :=
  let s := s.select c
  let s := s.noteStall .other
  s.setCtx c { s.ctx c with miss := s.missAt c 5 (s.ctx c).pc }

/-! ### Time -/

/-- The contexts of a core that wait for the array's lease. -/
def State.leaseWaiters (s : State) (c : CoreId) : List CtxId :=
  ((List.range 8).map (ctxIn (s.activeBank c))).filter (fun n => (s.ctx n).wait == .lease && (s.ctx n).run == .running && !(s.ctx n).yielded &&
    !(s.ctx n).status.getLsbD 4)

/-- A core whose contexts no longer wait for the array has left its arbiter's contenders, and has no credit (R403). -/
def State.leaveArbiter (s : State) (r : Nat) (g : Ridge) : Ridge :=
  let stays (i : Nat) : Bool := !(s.leaseWaiters (r * 8 + i)).isEmpty
  if g.contenders.all stays then g else { g with contenders := g.contenders.filter stays, credit := g.credit.filter (fun e => stays e.1) }

/-- Time passes with every step: pod time and cycles advance, and leased ridges use up their sprint cycles (R452, R453,
R462; log 10); contenders that have left an array's arbiter lose their credit (R403). A partition's request and region timeouts and its quanta have clocks that stop as R408, R432, R434 and R443 state. -/
def State.tick (s : State) : State :=
  { s with
    time := s.time + Config.elapsed s.free
    cyc := s.cyc + Config.cycles s.free
    parts := s.parts.map (fun p => (p.1, if s.crashed || p.2.out then p.2 else
      { p.2 with
        clock := if p.2.stopped then p.2.clock else p.2.clock + Config.elapsed s.free
        quanta := p.2.quanta + Config.elapsed s.free }))
    ridges := s.ridges.map (fun r => (r.1, s.leaveArbiter r.1 { r.2 with leaseLeft := r.2.leaseLeft - Config.cycles s.free }))
    free := s.free + 1 }

/-- Time passes after a step that gives a next state. -/
def ticked (o : Host.Outcome State Fault Refusal) : Host.Outcome State Fault Refusal :=
  match o with
  | .next s => .next s.tick
  | .fault f => .fault f
  | .refused r => .refused r

/-! ### Placing an instruction -/

/-- The core that runs a placed instruction: a broad one for a matrix command of a broad family. -/
def placedCore (ws : List IWord) : CoreId :=
  match decode ⟨extOf 0, true⟩ ws with
  | .error { ext := some f, .. } => if 16 ≤ f then 192 else 0
  | _ => 0

/-- Whether a placed instruction needs supervisor mode: page 14 (R96). -/
def placedMode (ws : List IWord) : Word :=
  match decode ⟨2 ^ 21 - 1, false⟩ ws with
  | .error { detail := 6, .. } => 1
  | _ => 0

/-- A leaf entry of a 1 GiB local page at 0 that every access kind may use (R415). -/
def placedLeaf : Word := 0xBF

/-- The state in which a context has its next bundle's words in translated memory at 0x4000, through one 1 GiB page of
partition 0 whose table stands at 0x1000 and whose translation the core holds. -/
def State.withWords (s : State) (ws : List IWord) : State :=
  let core := placedCore ws
  let c := core * 16 + (s.core core).active * 8
  let m := ((s.mem.writes 0x1000 (leBytes 8 0x2001)).writes 0x2000 (leBytes 8 placedLeaf.toNat)).writes 0x4000
    (ws.flatMap (fun w => leBytes 2 w.toNat))
  let p := s.part 0
  let s := { s with mem := m, agenda := [], stalled := [], issued := false, focus := core }
  let s := s.setPart 0 { p with valid := true, hbase := 0, hsize := 2 ^ 30, ptroot := 0x1000, stopped := false }
  let x := s.ctx c
  let x := { x with pc := 0x4000, run := .running, part := 0, yielded := false, migrating := false }
  let x := { x with status := placedMode ws, pend := [], intr := [], faulted := none, rope := none, stale := [], fenced := [], offered := [] }
  let s := s.setCtx c x
  let k := s.core core
  s.setCore core { k with last := 7, stopped := [], removed := false, tlb := [⟨0, 0, 0, 2 ^ 30, 2, placedLeaf⟩] }

end Sys2Proof.Machine
end

