-- ==== Sys2Proof/Machine/Priv.lean ====
section
/-! DEFINITION. Page 14 but for skget and skput (R384 to R397, R429 to R432): returning to user mode, staging and spilling, bank flips at
an instruction or at pod time (R440 to R444), invalidating translations, the halt tree, resolving parked faults, and adopting
frozen contexts. -/

namespace Sys2Proof.Machine

/-- Runs only on compute cores (R386). -/
def computeOnly : M Unit := do require (!isService (coreOf (← get).cur)) 7 10

/-- tret (R388). -/
def execTret (s : State) : Result :=
  runBundle (do
    supervisorOnly
    computeOnly
    modifyMe (fun x => { x with npc := x.sepc, status := x.status &&& ~~~(1 : Word) })) s

/-! ### Records and images (R384, R385) -/

/-- The control registers that a record's k and kp images hold. -/
def imageRegs : List Nat :=
  [8, 9, 10, 11, 16, 17, 18, 19, 20, 21, 22, 24, 25, 32, 33, 34, 35, 48, 49] ++ (List.range 64).map (64 + ·) ++
  [512, 513, 514, 515, 522, 523, 530]

/-- A control register restored from a record. -/
def Ctx.setImage (x : Ctx) (n : Nat) (w : Word) : Ctx := if n = 512 then { x with status := w } else x.setControl n w

/-- Where a record holds a control register. -/
def imageOffset (n : Nat) : Nat := if n < 512 then 768 + 8 * n else 1792 + 8 * (n - 512)

/-- A pin from the four words of its record slot (log 6). -/
def pinOf (ws : List Word) : Option Pin :=
  let w := ws.getD 1 0
  if field w 63 16 = 0 then none
  else some ⟨(ws.getD 0 0).toNat, field w 63 16, field w 15 8, ws.getD 3 0, field w 7 0, (ws.getD 2 0).toNat⟩

/-- n words of physical memory. -/
def State.words (s : State) (loc n : Nat) : List Word := (List.range n).map (fun i => s.word (loc + 8 * i))

/-- A context as its registry record holds it (R384); what the record has no place for comes from the context that was written
there. A record that no context was written to gives an identity of its own. -/
def State.readRecord (s : State) (r : Nat) (id : CtxId) : Ctx :=
  let x := s.saved.get (fun _ => { Ctx.reset id with source := 2 ^ 58 + r }) r
  let senders := (List.range 2816).filterMap (fun i => senderOf (s.word (r + 20480 + 16 * i)) (s.word (r + 20488 + 16 * i)))
  let x := imageRegs.foldl (fun x n => x.setImage n (s.word (r + imageOffset n))) x
  let pins := (List.range 16).filterMap (fun i => pinOf (s.words (r + 3072 + 32 * i) 4))
  let vec (i : Nat) : VWord := BitVec.ofNat 4096 (s.load (r + 4096 + 512 * i) 512)
  { x with
    g := Vector.ofFn (fun i : Fin 64 => if i.val = 0 ∨ 56 ≤ i.val then 0 else s.word (r + 256 + 8 * i.val))
    v := Vector.ofFn (fun i : Fin 32 => vec i.val)
    pc := s.word (r + 24)
    msg := s.words (r + 2048) x.msg.length
    evt := s.words (r + 2112) x.evt.length
    mres := s.words (r + 2144) x.mres.length
    done := s.words (r + 2656) x.done.length
    pins
    streams := senders.map Prod.snd ++ x.streams.drop 2816
    source := match senders with | [] => x.source | e :: _ => e.1
    record := r }

/-- The contour records of a slot (R327, R328). -/
def Slot.words (k : Slot) : List Word × List Word :=
  let code := match k.state with | .undefined => 0 | .stopped => 1 | .running => 2 | .parked => 3
  ([BitVec.ofNat 64 (code * 2 ^ 62 + k.fcount * 2 ^ 32 + k.fanout),
    BitVec.ofNat 64 (k.limit * 2 ^ 56 + k.gcount * 2 ^ 48 + k.ghid * 2 ^ 40 + k.window), k.wstart, 0],
   [BitVec.ofNat 64 (k.x.toNat * 2 ^ 32 + k.q.toNat), BitVec.ofNat 64 (k.delta.toNat * 2 ^ 32 + k.slope.toNat), k.t, k.tn])

/-- A slot from its records; the marks of ordered tasks stay with it. -/
def slotOfWords (c r : List Word) (marks : List Nat) : Slot :=
  let c0 := c.getD 0 0
  let c1 := c.getD 1 0
  { state := match field c0 63 62 with | 0 => .undefined | 1 => .stopped | 2 => .running | _ => .parked
    q := (r.getD 0 0).extractLsb' 0 32
    x := (r.getD 0 0).extractLsb' 32 32
    slope := (r.getD 1 0).extractLsb' 0 32
    delta := (r.getD 1 0).extractLsb' 32 32
    t := r.getD 2 0
    tn := r.getD 3 0
    fcount := field c0 39 32
    fanout := field c0 20 0
    limit := field c1 63 56
    gcount := field c1 55 48
    ghid := field c1 47 40
    window := field c1 31 0
    wstart := c.getD 2 0
    marks }

/-- A command's locations changed. -/
def Cmd.relocate (f : Nat → Nat) (c : Cmd) : Cmd :=
  let m (l : List Nat) : List Nat := l.map f
  match c with
  | .load rows scales t col0 k0 => .load (rows.map m) (scales.map m) t col0 k0
  | .multiply rows scales ta tb tile row0 col0 n k k0 fresh clear => .multiply (rows.map m) (scales.map m) ta tb tile row0 col0 n k k0 fresh clear
  | .zero tile => .zero tile
  | .drain tile elems dests s32 dt sr port clear rng => .drain tile elems (m dests) s32 dt sr port clear rng
  | .walk coords bad dests => .walk coords bad (m dests)

/-- Accepted commands and armed surveys find bytes that move where they are now (R34, R343). -/
def State.relocate (s : State) (src dst n : Nat) : State :=
  let f (l : Nat) : Nat := if src ≤ l ∧ l < src + n then l - src + dst else l
  let lines (ls : List Nat) : List Nat := ls.map (fun l => lineOf (f (l * 128)))
  let job (j : Job) : Job := { j with cmd := j.cmd.relocate f, claims := lines j.claims }
  let copy (c : Copy) : Copy :=
    { c with moves := c.moves.map (fun p => (f p.1, f p.2)), sources := c.sources.map f, dests := c.dests.map f, claims := lines c.claims }
  let survey (v : Survey) : Survey := { v with dest := f v.dest }
  let core (k : Core) : Core := { k with survey := k.survey.map survey, waitingSurveys := k.waitingSurveys.map survey }
  { s with
    cores := s.cores.map (fun (e : Nat × Core) => (e.1, core e.2))
    ridges := s.ridges.map (fun (e : Nat × Ridge) =>
      (e.1, { e.2 with jobs := e.2.jobs.map job, walks := e.2.walks.map job, copies := e.2.copies.map copy }))
    packets := s.packets.map (fun (p : Packet) => match p.body with | .copied c i a srcs => { p with body := .copied c i a (srcs.map f) } | _ => p) }

/-- n bytes from one location on are copied to another with their poison (R211). -/
def State.duplicate (s : State) (src dst n : Nat) : State :=
  let inside (l : Nat) : Bool := decide (src ≤ l * 128) && decide (l * 128 < src + n)
  let moved := (s.poison.filter inside).map (fun l => lineOf (l * 128 - src + dst))
  let kept := s.poison.filter (fun l => !(decide (dst ≤ l * 128) && decide (l * 128 < dst + n)))
  { s.copyRange src dst n with poison := (moved ++ kept).dedup }

/-- n bytes from one location on move to another, where everything that names them finds them. -/
def State.moveRange (s : State) (src dst n : Nat) : State := (s.relocate src dst n).duplicate src dst n

/-- Bytes of a bank that hold scratch and trail. -/
def State.bankData (s : State) (b : Nat) : Nat := bankBytes (s.core (b / 2)).cc (s.core (b / 2)).staged - 131072

/-- Writes a bank's image: the ticket that finds its queue state again, its contour slots, its scratch and trail (R385, log 7). -/
def State.writeImage (s : State) (b a : Nat) : State :=
  let s := (s.zeroRange a 131072).storeWords a [BitVec.ofNat 64 a]
  let s := (s.bank b).slots.foldl (fun s e =>
    if e.1 < 1024 then (s.storeWords (a + 65536 + 32 * e.1) e.2.words.1).storeWords (a + 98304 + 32 * e.1) e.2.words.2 else s) s
  s.moveRange (bankLoc b 0) (a + 131072) (s.bankData b)

/-- The contour slots that an image holds. -/
def State.imageSlots (s : State) (a : Nat) (kept : Bank) : Table Slot :=
  (List.range 1024).filterMap (fun n =>
    let k := slotOfWords (s.words (a + 65536 + 32 * n) 4) (s.words (a + 98304 + 32 * n) 4) (kept.slots.get (fun _ => Slot.none) n).marks
    if k.state = .undefined ∧ k.marks = [] then none else some (n, k))

/-- Reserved places of a bank's link queues are found where the bank goes (R17, R34). -/
def State.rehome (s : State) (old new : Home) : State :=
  let f (x : Ctx) : Ctx := { x with pend := x.pend.map (fun p => match p.place with
    | some (.link h n) => if h = old then { p with place := some (.link new n) } else p
    | _ => p) }
  { s with ctxs := s.ctxs.map (fun e => (e.1, f e.2)), saved := s.saved.map (fun e => (e.1, f e.2)) }

/-- A bank leaves the package for an image: its team's events find it there (R34, R130). -/
def State.bankToImage (s : State) (b a : Nat) : State :=
  let x := s.bank b
  let s := s.writeImage b a
  let s := { s with images := s.images.put a { x with size := s.scratchSize b } }
  let s := s.rehome (.bank b) (.image a)
  let c := b / 2
  let s := match x.team with
    | some t =>
      let k := s.team t
      let s := s.setTeam t { k with saved := (c, a) :: k.saved.filter (fun e => e.1 != c) }
      s.setCore c { s.core c with lastImage := (s.core c).lastImage.put k.part a }
    | none => s
  s.setBank b { Bank.reset b with image := a }

/-- A bank comes from the image at an address, whose ticket names the queue state that was written with it; messages that an earlier team has
left in the bank's outbox are still on their way (R42). -/
def State.imageToBank (s : State) (b a : Nat) : State :=
  let c := b / 2
  let ticket := s.load a 8
  let kept := s.images.get Bank.reset ticket
  let s := s.setBank b { kept with slots := s.imageSlots a kept, outbox := (s.bank b).outbox ++ kept.outbox, image := 0, size := 0 }
  let s := s.moveRange (a + 131072) (bankLoc b 0) (s.bankData b)
  let s := { s with images := s.images.drop ticket }
  let s := s.rehome (.image ticket) (.bank b)
  match kept.team with
  | some t =>
    let k := s.team t
    let s := s.setTeam t { k with saved := k.saved.filter (fun e => e.1 != c) }
    s.setCore c { s.core c with lastImage := (s.core c).lastImage.drop k.part }
  | none => s

/-- A context leaves its bank for its registry record, which gets state 3 (R389); its slot keeps nothing but where it went. -/
def State.ctxToRecord (s : State) (c : CtxId) (r : Nat) : State :=
  let s := s.finishPending c
  let s := s.setCtx c { s.ctx c with record := r }
  let s := s.writeRecord c 3
  let s := { s with saved := s.saved.put r (s.ctx c) }
  s.setCtx c { Ctx.reset c with source := 2 ^ 59 + c, record := r, run := .exited, out := true }

/-- A context comes from a record into a slot, and the record gets a state. -/
def State.recordToCtx (s : State) (c : CtxId) (r state : Nat) : State :=
  let x := s.readRecord r c
  let s := s.setCtx c x
  let s := { s with saved := s.saved.drop r }
  (s.reseat c).recordState r state

/-! ### Resolving a parked fault (R395, R429) -/

/-- The state that a record of a context in a bank holds (R384). -/
def State.liveState (s : State) (c : CtxId) : Nat :=
  let x := s.ctx c
  if x.run = .exited then 6 else if x.run = .parked then 4 else if x.status.getLsbD 4 then 5
  else if bankOf c = s.activeBank (coreOf c) then 1 else 2

/-- The record of a context in a bank shows its state. -/
def State.showState (s : State) (c : CtxId) : State := s.recordState (s.ctx c).record (s.liveState c)

/-- What a kill of a handler context waits for: its accesses and the claims on the records that its end decrements (R45, R187), and what an
unwinding of its ordered task waits for (R322). -/
def awaitKill (c : CtxId) : M Unit := do
  let x := (← get).ctx c
  match x.task with
  | none => awaitSuccessors c
  | some r => awaitUndo (bankLoc (bankOf c) 0) x r.task

/-- A killed handler context: its event ends with killed status and its ordered task is aborted as without effect (R320, R322, R395); its
place in a rope ends (R54). -/
def State.killHandler (s : State) (c : CtxId) : State :=
  let x := s.ctx c
  match x.task with
  | none => s.endEvent c .killed
  | some r =>
    let u := s.undoTask (bankLoc (bankOf c) 0) x r.task
    let t := u.1.team r.task.team
    let s := u.1.setTeam r.task.team { t with oaborted := t.oaborted ++ [r.task] }
    s.retireTask c u.2

/-- gresume's action on a parked context of a bank (R395). An action that delivers a user trap where none can be taken parks again (R425). -/
def State.resolve (s : State) (c : CtxId) (action : Nat) : State :=
  let x := s.ctx c
  let ready : Ctx := { x with run := .running, wait := .none, cause := none, action := none }
  match action with
  | 0 => (s.setCtx c ready).showState c
  | 1 => (s.setCtx c { ready with pc := x.pc + BitVec.ofNat 64 (2 * x.ir.length), barrier := stillWaits x.handling.toNat x.barrier }).showState c
  | 2 =>
    let t := x.cause.getD { cls := 0, detail := 0 }
    if x.utvec = 0 ∨ x.status.getLsbD 0 ∨ x.status.getLsbD 3 then (s.setCtx c ready).park c t else (s.setCtx c (ready.userTrap t t.addr)).showState c
  | _ =>
    let s := s.setCtx c { x with cause := none, action := none }
    let s := if ctxNum c = 0 then s.exitMember c true else s.killHandler c
    (s.showState c).settleTeam (bankOf c)

/-- The actions that wait for a staged bank are taken once the bank's state and the context are both in place (R429). -/
def State.takeActions (s : State) (b : Nat) (valid : BitVec 9) : State :=
  if valid.getLsbD 8 then
    (List.range 8).foldl (fun s n =>
      match (s.ctx (ctxIn b n)).action with
      | some a => if valid.getLsbD n then s.resolve (ctxIn b n) a else s
      | none => s) s
  else s

/-- An action that the faulting bundle admits: action 1 needs a decoded end (R395). -/
def Ctx.admits (x : Ctx) (action : Nat) : Bool :=
  let t := x.cause.getD { cls := 0, detail := 0 }
  x.run == .parked && (action != 1 ||
    !(x.ir.isEmpty || (decide (t.cls = 1) && decide (t.detail / 16 = 0)) || (decide (t.cls = 0) && decide (1 ≤ t.detail) && decide (t.detail ≤ 3))))

/-- The context that a context word names in a partition (R386). -/
def State.contextAt (s : State) (part : Nat) (w : Word) : Option CtxId :=
  if field w 63 14 ≠ 0 then none
  else (s.absCore part (field w 9 0)).map (fun c =>
    ctxIn (if w.getLsbD 13 then s.shadowBank c else s.activeBank c) (field w 12 10))

/-- The records of spilled contexts of a partition whose header gives a context word (R384). -/
def State.recordsAt (s : State) (part : Nat) (w : Word) : List Nat :=
  (s.saved.filter (fun e => e.2.part == part && decide (s.load (e.1 + 8) 2 % 2 ^ 14 = w.toNat))).map Prod.fst

/-- gresume (R395, R429); a service core is in no partition, and its context word names a core of the record's partition (R427, R472). -/
def execGresume (a : GReg) (s : State) : Result :=
  runBundle (do
    supervisorOnly
    issue [a] [] [] []
    let r := (← readG a).toNat
    require (decide (r % 64 = 0) && decide (r + 64 ≤ hbmTop)) 7 8
    let s ← get
    let w := s.word r
    let action := (s.word (r + 24)).toNat
    require (decide (action < 4)) 7 8
    let part := if isService (coreOf s.cur) then field (s.word (r + 8)) 18 16 else s.me.part
    match s.contextAt part w with
    | none => trap 7 8
    | some c =>
      if (s.ctx c).run = .parked then do
        require ((s.ctx c).admits action) 7 8
        if action = 3 ∧ ctxNum c ≠ 0 then awaitKill c
        set (s.resolve c action)
      else
        match (s.recordsAt part w).find? (fun q => (s.saved.get Ctx.reset q).run == .parked) with
        | none => trap 7 8
        | some q => do
          let x := s.saved.get Ctx.reset q
          require (x.admits action) 7 8
          set { s with saved := s.saved.put q { x with action := some action } }) s

/-! ### stage and spill (R389, R390) -/

/-- A source that stage accepts (R389). -/
def State.stageable (s : State) (src slot : Nat) : Bool :=
  decide (src % 65536 = 0) && (slot == 8 ||
    (decide (s.load src 4 = 0x52434B53) && decide (s.load (src + 4) 2 = 1) && (s.part (s.load (src + 16) 8 % 8)).valid &&
      [2, 3].contains (s.load (src + 6) 1 % 16)))

/-- The bit of a slot. -/
def slotBit (n : Nat) : BitVec 9 := 1#9 <<< n

/-- stage: accepted, it moves its data in the background (R389); a record that a spill still writes is waited for (R390). -/
def execStage (a b : GReg) (s : State) : Result :=
  runBundle (do
    supervisorOnly
    computeOnly
    issue [a, b] [] [] []
    let src ← readG a
    let w ← readG b
    let k := (← get).myCore
    require k.staged 7 2
    require (decide (w.toNat ≤ 8)) 7 3
    await (w.toNat == 8 || !(← get).claims.contains (lineOf src.toNat))
    require ((← get).stageable src.toNat w.toNat) 7 4
    await (!k.busy.getLsbD w.toNat)
    modifyCore (fun k => { k with busy := k.busy ||| slotBit w.toNat, valid := k.valid &&& ~~~slotBit w.toNat,
                                  ops := k.ops ++ [.stage w.toNat src.toNat] })) s

/-- spill: accepted, it claims its destination (R389, R390). -/
def execSpill (a b : GReg) (s : State) : Result :=
  runBundle (do
    supervisorOnly
    computeOnly
    issue [a, b] [] [] []
    let w ← readG a
    let dst ← readG b
    let k := (← get).myCore
    require k.staged 7 2
    require (decide (w.toNat ≤ 8) && k.valid.getLsbD w.toNat) 7 3
    require (decide (dst.toNat % 65536 = 0)) 7 4
    await (!k.busy.getLsbD w.toNat)
    modifyCore (fun k => { k with busy := k.busy ||| slotBit w.toNat, ops := k.ops ++ [.spill w.toNat dst.toNat] })) s

/-- A stage or spill of the focus core ends. -/
def State.endOp (s : State) (c : CoreId) (slot : Nat) (valid : BitVec 9) : State :=
  let k := s.core c
  s.setCore c { k with ops := k.ops.drop 1, busy := k.busy &&& ~~~slotBit slot, valid }

/-- The team that a staged record names for a bank with none. -/
def State.nameTeam (s : State) (b r : Nat) : State :=
  let t := teamKey (s.load (r + 16) 4 % 8) (s.load (r + 12) 4)
  if (s.bank b).team.isNone && (s.team t).state != .none then s.setBank b { s.bank b with team := some t } else s

/-- STAGE_COMPLETE: the focus core's stage, first in issue order, fills its slot, and the record gets state 2 (R389). -/
def execStageComplete (s : State) : Result :=
  runStep (do
    let s ← get
    let c := s.focus
    let k := s.core c
    match k.ops.head? with
    | some (.stage slot src) => do
      let others := (s.setCore c { k with ops := [] }).claims
      let size := if slot < 8 then 65536 else 131072 + s.bankData (s.shadowBank c)
      await (!others.any (fun l => overlap (l * 128) 128 src size))
      let b := s.shadowBank c
      let s := if slot < 8 then
          let s := (s.recordToCtx (ctxIn b slot) src 2).nameTeam b src
          s.setCtx (ctxIn b slot) { s.ctx (ctxIn b slot) with team := (s.bank b).team }
        else s.imageToBank b src
      let valid := (s.core c).valid ||| slotBit slot
      set ((s.endOp c slot valid).takeActions b valid)
    | _ => stall) s

/-- A slot is written to a record. One that an earlier spill has written out still holds what it wrote: that goes to the new record, with
the context itself where it is still spilled (R389: valid stays 1). -/
def State.spillSlot (s : State) (c : CtxId) (dst : Nat) : State :=
  let x := s.ctx c
  if x.out = false then s.ctxToRecord c dst
  else if (s.saved.map Prod.fst).contains x.record then
    let y := s.readRecord x.record c
    let s : State := { s with saved := s.saved.drop x.record }
    (s.setCtx c y).ctxToRecord c dst
  else (s.moveRange x.record dst 65536).recordState dst 3

/-- The bank state is written to an image, or what an earlier spill wrote goes to the new one. -/
def State.spillBank (s : State) (b dst : Nat) : State :=
  let a := (s.bank b).image
  if a = 0 then s.bankToImage b dst
  else if (s.images.map Prod.fst).contains a then (s.imageToBank b a).bankToImage b dst
  else s.moveRange a dst (131072 + s.bankData b)

/-- SPILL_COMPLETE: the focus core's spill, first in issue order, has waited for its slot's pending results and writes it out; the
record gets state 3 (R389). -/
def execSpillComplete (s : State) : Result :=
  runStep (do
    let s ← get
    let c := s.focus
    match (s.core c).ops.head? with
    | some (.spill slot dst) => do
      let b := s.shadowBank c
      let s ← (if slot < 8 then do
          await (!s.hasWork (ctxIn b slot))
          pure (s.spillSlot (ctxIn b slot) dst)
        else pure (s.spillBank b dst) : M State)
      set (s.endOp c slot (s.core c).valid)
    | _ => stall) s

/-! ### Flipping the banks (R391, R440 to R444) -/

/-- An open region's clock stops and starts with its context's place in an active bank (R288): out of it, the time used is kept. -/
def Ctx.turnRegion (x : Ctx) (clock : Nat) : Ctx := { x with region := x.region.map (fun r => { r with started := clock - r.started }) }

/-- A context's region clock turned. -/
def State.turnRegion (s : State) (c : CtxId) : State := s.setCtx c ((s.ctx c).turnRegion (s.part (s.ctx c).part).clock)

/-- A context leaves the active bank: its lease ends (R57), its rope detaches (R55), a sprint lease that it extended ends (R454), and its
yield request is over (R447). -/
def State.leaveBank (s : State) (c : CtxId) : State :=
  let s := (((s.endLease c).detach c).leaveSprint c).turnRegion c
  s.setCtx c { s.ctx c with yielded := false, yreq := BitVec.allOnes 64 }

/-- A slot of the incoming bank: one never staged is an empty context; one that a spill wrote out comes from its record. -/
def State.enterBank (s : State) (valid : BitVec 9) (c : CtxId) : State :=
  let x := s.ctx c
  if valid.getLsbD (ctxNum c) = false then s.setCtx c { Ctx.reset c with run := .exited }
  else (if x.out then s.recordToCtx c x.record 1 else s).turnRegion c

/-- A partition is out when no active bank holds a team of it (R408, R443). -/
def State.markOut (s : State) (p : Nat) : State :=
  let inside := s.banks.any (fun e => e.1 == s.activeBank (e.1 / 2) && (match e.2.team with | some t => (s.team t).part == p | none => false))
  s.setPart p { s.part p with out := !inside }

/-- The partition of a bank's team. -/
def State.bankPart (s : State) (b : Nat) : Option Nat := (s.bank b).team.map (fun t => (s.team t).part)

/-- The active and shadow banks of a core are exchanged (R391). -/
def State.flip (s : State) (c : CoreId) : State :=
  let k := s.core c
  let old := s.activeBank c
  let new := s.shadowBank c
  let s := (List.range 8).foldl (fun s n => s.leaveBank (ctxIn old n)) s
  let s := if (s.bank new).image = 0 then s else s.imageToBank new (s.bank new).image
  let s := (List.range 8).foldl (fun s n => s.enterBank k.valid (ctxIn new n)) s
  let s := s.setCore c { s.core c with active := 1 - k.active, valid := 0x1FF }
  let s := (List.range 8).foldl (fun s n => (s.showState (ctxIn old n)).showState (ctxIn new n)) s
  let s := ((s.bankPart old).toList ++ (s.bankPart new).toList).foldl (fun s p => s.markOut p) s
  s.takeActions new 0x1FF

/-- swapgo (R391). -/
def execSwapgo (s : State) : Result :=
  runBundle (do
    supervisorOnly
    computeOnly
    let k := (← get).myCore
    require k.staged 7 2
    require (k.valid.getLsbD 8) 7 5
    await (k.busy == 0)
    modify (fun s => s.flip (coreOf s.cur))) s

/-- The spills that follow a gang switch (R440 step 4): each old slot goes to its record, the bank to the image that context 0's record
names. -/
def State.switchSpills (s : State) (c : CoreId) : List SlotOp :=
  let b := s.shadowBank c
  let slots := ((List.range 8).filter (fun n => (s.ctx (ctxIn b n)).record != 0)).map (fun n => SlotOp.spill n (s.ctx (ctxIn b n)).record)
  let r := (s.ctx (ctxIn b 0)).record
  if r = 0 then slots else slots ++ [.spill 8 (s.load (r + 48) 8)]

/-- The slot of a stage or spill. -/
def SlotOp.slot (o : SlotOp) : Nat := match o with | .stage n _ => n | .spill n _ => n

/-- SWAP_TIME_DUE: at its armed pod time the focus core flips, once no slot is busy, and its old slots are spilled; with no staged bank
state, or no time lock, the swap is missed (R440, R444, R462). -/
def execSwapTimeDue (s : State) : Result :=
  runStep (do
    let s ← get
    let c := s.focus
    let k := s.core c
    await (k.swapt != BitVec.allOnes 64 && decide (k.swapt.toNat ≤ s.time))
    if s.timeLock = false ∨ k.valid.getLsbD 8 = false then
      set ((s.setCore c { k with swapt := BitVec.allOnes 64 }).postNoctx ((s.bankPart (s.activeBank c)).getD 0) { cls := 6, detail := 18 })
    else do
      await (k.busy == 0)
      let s := s.flip c
      let ops := s.switchSpills c
      let s := s.setCore c { s.core c with swapt := BitVec.allOnes 64, ops, busy := ops.foldl (fun b o => b ||| slotBit o.slot) 0 }
      let r := s.ridge (ridgeOf c)
      set (s.setRidge (ridgeOf c) { r with flips := r.flips ++ [c] })) s

/-- Bytes of a ridge-state area (R437). -/
def ridgeBytes : Nat := 24 * 2 ^ 20

/-- The ridge's state goes to one area and comes from another; an area at zero discards it, or sets it to zero (R442). -/
def State.exchangeRidge (s : State) (r out_ in_ : Nat) : State :=
  let s := if out_ = 0 then s else s.moveRange (ridgeLoc r 0) out_ ridgeBytes
  if in_ = 0 then
    { s.zeroRange (ridgeLoc r 0) ridgeBytes with
      poison := s.poison.filter (fun l => !(decide (ridgeLoc r 0 ≤ l * 128) && decide (l * 128 < ridgeLoc r ridgeBytes))) }
  else s.moveRange in_ (ridgeLoc r 0) ridgeBytes

/-- RIDGE_FLIP: the focus core's ridge flips when the last of its cores has, after every accepted command (R442). -/
def execRidgeFlip (s : State) : Result :=
  runStep (do
    let s ← get
    let r := ridgeOf s.focus
    let g := s.ridge r
    let due (i : Nat) : Bool := decide ((s.core (r * 8 + i)).swapt.toNat ≤ s.time) && ((s.core (r * 8 + i)).swapt != BitVec.allOnes 64)
    await (!g.flips.isEmpty && g.jobs.isEmpty && !(List.range 8).any due)
    set ((s.setRidge r { g with flips := [] }).exchangeRidge r g.rsout.toNat g.rsin.toNat)) s

/-! ### tlbinv and pinrel (R392, R393, R421) -/

/-- Whether a page word names an address range (R392). -/
def pageHit (w : Word) (page size : Nat) : Bool :=
  let a := w.toNat / 4096 * 4096
  decide (field w 1 0 = 1) || (decide (page ≤ a) && decide (a < page + size))

/-- A core drops the matching translations of a partition, and its generation advances. -/
def Core.invalidate (k : Core) (part : Nat) (w : Word) (gen : BitVec 32) : Core :=
  let old := k.gens.get (fun _ => 0) part
  { k with
    tlb := k.tlb.filter (fun e => !(e.part == part && pageHit w e.page e.size))
    gens := if (gen - old).toNat < 2 ^ 31 then k.gens.put part gen else k.gens }

/-- The compute cores of a partition. -/
def State.partCores (s : State) (part : Nat) : List CoreId := (List.range 1024).filter (s.inPart part)

/-- tlbinv's operands, checked: the page word and the new generation. -/
def invalidation (a b : GReg) : M (Word × BitVec 32) := do
  supervisorOnly
  issue [a, b] [] [] []
  let w ← readG a
  let gen ← readG b
  require (decide (field w 11 2 = 0) && decide (field w 1 0 < 2) && !(w.getLsbD 0 && decide (field w 63 12 ≠ 0)) &&
    decide (field gen 63 32 = 0)) 0 9
  let s ← get
  let p := s.me.part
  let g : BitVec 32 := gen.setWidth 32
  require (decide ((g - s.myCore.gens.get (fun _ => 0) p).toNat < 2 ^ 31)) 7 6
  pure (w, g)

/-- The issuing core and the cores of its partition drop the translations of a page. -/
def State.invalidateAll (s : State) (w : Word) (g : BitVec 32) : State :=
  let p := s.me.part
  let cores := (coreOf s.cur :: s.partCores p).dedup
  cores.foldl (fun (s : State) c => s.setCore c ((s.core c).invalidate p w g)) s

/-- A generation older than another (R392). -/
def olderThan (g t : BitVec 32) : Bool := t != g && decide ((g - t).toNat < 2 ^ 31)

/-- No access that a translation of an older generation served is still to be performed: pins on the page, egress entries, engine work,
surveys and packets, those of an undone region attempt too (R392, R421). -/
def State.retired (s : State) (p : Nat) (w : Word) (g : BitVec 32) : Bool :=
  let pinned (x : Ctx) : Bool := x.part == p && x.livePins.any (fun q => pageHit w q.page q.size)
  let own (q : Packet) : Bool := q.src.isSome || (q.srcPackage == s.gid && q.owner != 0)
  !(s.ctxs ++ s.saved).any (fun e => pinned e.2) &&
  (s.partCores p).all (fun c => !(s.core c).egress.any (olderThan g)) &&
  !s.engaged p &&
  !s.cores.any (fun k => k.2.surveys.any (fun v => (s.team v.team).part == p && olderThan g v.gen)) &&
  !s.packets.any (fun q => q.part == p && own q && ofStream q && q.state == .sent && olderThan g q.gen)

/-- tlbinv: the translations are dropped at once, and it stalls until nothing uses them (R392). Words that it pops from ports leave them
when it completes (R17, R18; log 81). -/
def execTlbinv (a b : GReg) (s : State) : Result :=
  match invalidation a b s with
  | .error e => runBundle (throw e) s
  | .ok ((w, g), s') =>
    if s.retired s.me.part w g then runBundle (modify (fun s => s.invalidateAll w g)) s' else .next ((s.invalidateAll w g).noteStall .other)

/-- A spilled context's pins end in its record too. -/
def State.unpinRecord (s : State) (r : Nat) : State :=
  let x := s.saved.get Ctx.reset r
  ({ s with saved := s.saved.put r { x with pins := [] } } : State).storeWords (r + 3072) (List.replicate 64 0)

/-- pinrel: the live pins of the context at the named place end, in the record that a spill of its slot has written too (R393). -/
def execPinrel (a : GReg) (s : State) : Result :=
  runBundle (do
    supervisorOnly
    issue [a] [] [] []
    let w ← readG a
    let s ← get
    match s.contextAt s.me.part w with
    | none => trap 7 3
    | some c =>
      let x := s.ctx c
      let out := if x.out && (s.saved.map Prod.fst).contains x.record then [x.record] else []
      let s' := s.setCtx c { x with pins := [] }
      set ((out ++ s.recordsAt s.me.part w).foldl (fun s r => s.unpinRecord r) s')) s

/-! ### gstop (R394, R430 to R432) -/

/-- Every item that the cores of a partition have sent has been acknowledged, delivered or failed (R431), and no context has still to park
(R432, R436). -/
def State.drained (s : State) (p : Nat) : Bool :=
  !s.packets.any (fun q => q.part == p && q.srcPackage == s.gid && q.state != .failed) && !s.messages.any (fun m => m.part == p) &&
  !s.requests.any (fun q => q.part == p && q.src.isSome) &&
  !s.banks.any (fun e => e.2.outbox.any (fun m => m.part == p)) &&
  !s.ctxs.any (fun e => e.2.part == p && s.parksFirst e.1)

/-- A core's entry of a stop (R431). -/
def State.stopEntry (s : State) (p : Nat) (c : CoreId) : State :=
  let n := (s.core c).count p
  s.storeWords ((s.part p).stoparea + 32 * s.relCore p c) [n.icount, n.sent, n.recv, BitVec.ofNat 64 (s.part p).stopAt]

/-- gstop's tree word: partition, and whether it releases; none where another bit is set (R394). -/
def treeWord (w : Word) : Option (Nat × Bool) :=
  if field w 63 9 = 0 ∧ field w 7 5 = 0 ∧ w.getLsbD 3 = false then some (field w 2 0, w.getLsbD 8) else none

/-- The partition's cores stop issuing at once. -/
def State.haltPart (s : State) (p : Nat) : State :=
  let s := s.setPart p { s.part p with stopper := some s.cur, stopAt := s.time }
  (s.partCores p).foldl (fun s c => let k := s.core c; s.setCore c { k with stopped := p :: k.stopped.filter (· != p) }) s

/-- The partition's cores issue again. -/
def State.releasePart (s : State) (p : Nat) : State :=
  let s := s.setPart p { s.part p with stopped := false, stopper := none }
  (s.partCores p).foldl (fun s c => let k := s.core c; s.setCore c { k with stopped := k.stopped.filter (· != p) }) s

/-- The stop of a partition completes: its entries are written. -/
def State.completeStop (s : State) (p : Nat) : State :=
  let s := (s.partCores p).foldl (fun s c => s.stopEntry p c) s
  s.setPart p { s.part p with stopped := true, stopper := none }

/-- What gstop checks: the partition and whether it is a release. -/
def treeOperand (a : GReg) : M (Nat × Bool) := do
  supervisorOnly
  issue [a] [] [] []
  match treeWord (← readG a) with
  | none => trap 7 7
  | some (p, release) => do
    let s ← get
    require (isService (coreOf s.cur) || s.me.part == p) 7 7
    pure (p, release)

/-- gstop: a stop halts the partition's cores, waits until it has drained, and writes the entries; a release lets them issue (R394,
R431). A word that it pops from a port leaves it when it completes (R17, R18; log 81). -/
def execGstop (a : GReg) (s : State) : Result :=
  match treeOperand a s with
  | .error e => runBundle (throw e) s
  | .ok ((p, release), s') =>
    let part := s'.part p
    if release then
      if part.stopped then runBundle (modify (fun s => s.releasePart p)) s' else runBundle (pure ()) s'
    else if part.stopped then runBundle (pure ()) s'
    else
      match part.stopper with
      | some c =>
        if c = s.cur ∧ s.drained p then runBundle (modify (fun s => s.completeStop p)) s' else .next (s.noteStall .other)
      | none =>
        if s.drained p then runBundle (modify (fun s => (s.haltPart p).completeStop p)) s'
        else
          let h := s.haltPart p
          .next { h.setMe { h.me with wait := .other } with stalled := [h.cur] }

/-! ### adopt (R396) -/

/-- What adopt finds: its status, and the context that it names. -/
def State.adoption (s : State) (r : Nat) : Nat × CtxId :=
  let part := s.load (r + 16) 8 % 8
  match s.contextAt part (BitVec.ofNat 64 (s.load (r + 8) 2 % 2 ^ 14)) with
  | none => if s.load r 4 = 0x52434B53 ∧ s.load (r + 4) 2 = 1 then (2, 0) else (3, 0)
  | some c =>
    let x := s.ctx c
    if s.load r 4 ≠ 0x52434B53 ∨ s.load (r + 4) 2 ≠ 1 then (3, c)
    else if x.incarn.toNat % 2 ^ 32 ≠ s.load (r + 12) 4 ∨ x.part ≠ part ∨
        (s.bank (bankOf c)).team ≠ some (teamKey part (s.load (r + 12) 4)) ∨
        (s.team (teamKey part (s.load (r + 12) 4))).id ≠ s.load (r + 20) 4 ∨ x.run = .exited then (2, c)
    else if x.status.getLsbD 4 then (0, c) else (1, c)

/-- A frozen context is adopted: its record shows its bank. -/
def State.adoptCtx (s : State) (c : CtxId) (r : Nat) : State :=
  let x := s.ctx c
  let s := s.setCtx c { x with status := x.status &&& ~~~(16 : Word) }
  s.recordState r (if bankOf c = s.activeBank (coreOf c) then 1 else 2)

/-- adopt (R396). -/
def execAdopt (d a : GReg) (s : State) : Result :=
  runBundle (do
    supervisorOnly
    require (isService (coreOf (← get).cur)) 7 10
    issue [a] [d] [] []
    let ea ← readG a
    aligned ea 65536
    let s ← get
    await (!s.claims.contains (lineOf ea.toNat))
    let (status, c) := s.adoption ea.toNat
    if status = 0 then set (s.adoptCtx c ea.toNat)
    writeG d (BitVec.ofNat 64 status)) s

end Sys2Proof.Machine
end

