-- ==== Sys2Proof/Machine/Percolator.lean ====
section
/-! DEFINITION. The percolator (R37 to R40), messages on their way (R42), stealing (R46, R47, R310, R409), the ready ring (R49), timers
(R264), results and walks that end (R159, R419), migration (R58, R59), and bundles that are no instruction (R86, R96). -/

namespace Sys2Proof.Machine

/-! ### Starting a handler (R38, R39) -/

/-- What a source's oldest event starts: the handler id and cause (a code address already known in the place of an id), the EVT words
after the first, the packet to copy into the slot, the event's successors and tag, the ordered task, a snapshot for g1 to g55, and whether it is a
wake-up of context 0, which starts nothing. -/
structure Start where
  src : Nat
  hid : Nat
  code : Option Word := none
  cause : Nat := 0
  words : List Word := []
  packet : List Byte := []
  slot : Bool := false
  msg : List Word := []
  succ : List Word := []
  tag : Option (Nat × Nat) := none
  task : Option Task := none
  snapshot : List Word := []
  wakes : Bool := false
  deriving DecidableEq, Repr

/-- The scratch offset of a context's packet slot (R44). -/
def State.slotOffset (s : State) (b n : Nat) : Nat := s.scratchSize b - 256 * (8 - n)

/-- The aperture address of an offset of a core (R198). -/
def State.apertureAddr (s : State) (part : Nat) (c : CoreId) (off : Nat) : Word :=
  BitVec.ofNat 64 (0x01FF000000000000 + s.relCore part c * 2 ^ 38 + off)

/-- The oldest event of a source and the bank without it; none where the source is empty. The deque's spilled entries follow its
hardware ones (R44). -/
def State.nextEvent (s : State) (b : Nat) : Nat → Option (Start × Bank)
  | 0 =>
    match (s.bank b).inbox with
    | [] => none
    | m :: rest => some ({ src := 0, hid := field (m.getD 0 0) 7 0, words := [m.getD 0 0], msg := m }, { s.bank b with inbox := rest })
  | 1 =>
    match (s.bank b).ready with
    | [] => none
    | a :: rest => some ({ src := 1, hid := 0, code := some (s.word (bankLoc b (field a 20 0))), words := [a] }, { s.bank b with ready := rest })
  | 2 =>
    let x := s.bank b
    let ofPacket (p : List Byte) : Start := { src := 2, hid := leNat ((p.drop 1).take 1), packet := p, slot := true, succ := packetSuccessors p }
    match x.stolen, x.deque with
    | some (.packet p), _ => some (ofPacket p, { x with stolen := none })
    | some (.alternative snap code owner i), _ =>
      some ({ src := 2, hid := 0, code := some code, cause := 2, words := [owner, i], snapshot := snap }, { x with stolen := none })
    | none, p :: rest => some (ofPacket p, { x with deque := rest })
    | none, [] =>
      if x.spillCount = 0 then none
      else
        let loc := s.spillLoc b (x.spillHead + x.spillCount - 1)
        some (ofPacket (s.mem.bytes loc (packetLength (s.load loc 8))), { x with spillCount := x.spillCount - 1 })
  | 3 =>
    match (s.bank b).s3 with
    | [] => none
    | t :: rest => some ({ src := 3, hid := leNat ((t.packet.drop 1).take 1), packet := t.packet, slot := true, task := some t },
                         { s.bank b with s3 := rest })
  | 4 =>
    match (s.bank b).s4 with
    | [] => none
    | .task t :: rest => some ({ src := 4, hid := leNat ((t.packet.drop 1).take 1), packet := t.packet, slot := true, task := some t },
                               { s.bank b with s4 := rest })
    | .avalanche hid ws :: rest => some ({ src := 4, hid, cause := 3, words := ws }, { s.bank b with s4 := rest })
  | 5 =>
    match (s.bank b).s5 with
    | [] => none
    | e :: rest => some ({ src := 5, hid := e.hid.getD 0, cause := e.cause, words := e.words }, { s.bank b with s5 := rest })
  | 6 =>
    match (s.bank b).s6 with
    | [] => none
    | r :: rest =>
      let w := r.getD 0 0
      some ({ src := 6, hid := field w 47 40, packet := r.flatMap (fun x => leBytes 8 x.toNat), slot := true,
              tag := some (field w 53 48, field w 63 56) }, { s.bank b with s6 := rest })
  | _ =>
    match (s.bank b).s7 with
    | [] => none
    | e :: rest => some ({ src := 7, hid := e.hid.getD 0, cause := e.cause, words := e.words, wakes := e.hid.isNone },
                         { s.bank b with s7 := rest })

/-- The bytes of scratch that serving a source's oldest event reads or writes: a ready record's code word, a spilled task of the deque
(R44, R49). -/
def State.eventLocs (s : State) (b src : Nat) : List Nat :=
  let x := s.bank b
  match src with
  | 1 => match x.ready with | a :: _ => run (bankLoc b (field a 20 0)) 8 | [] => []
  | 2 => if x.stolen.isNone && x.deque.isEmpty && decide (x.spillCount ≠ 0) then run (s.spillLoc b (x.spillHead + x.spillCount - 1)) 256 else []
  | _ => []

/-- The bytes that a handler's start touches need no wait: those of its event, and its packet slot (R187, R224). -/
def State.startFree (s : State) (c : CtxId) (e : Start) : Bool :=
  s.openTo none (s.eventLocs (bankOf c) e.src ++ if e.slot then run (bankLoc (bankOf c) (s.slotOffset (bankOf c) (ctxNum c))) e.packet.length else [])

/-- The code address of an event and its cause: an empty entry redirects to entry 0; none where that is empty too (R40). -/
def Bank.codeFor (x : Bank) (e : Start) : Option (Word × Nat) :=
  match e.code with
  | some a => some (a, e.cause)
  | none =>
    let entry := x.handlers.get (fun _ => 0) e.hid
    let fallback := x.handlers.get (fun _ => 0) 0
    if entry ≠ 0 then some (entry, e.cause) else if fallback ≠ 0 then some (fallback, 1) else none

/-- The handler context that the percolator would start (R38); a frozen or yielded one is not dormant for it. -/
def State.freeHandler (s : State) (b : Nat) : Option CtxId :=
  ((List.range 7).map (fun n => ctxIn b (n + 1))).find? (fun c =>
    let x := s.ctx c
    x.run == .dormant && !x.status.getLsbD 4 && !x.yielded && !x.migrating)

/-- A context stalled on a read of g56, which takes the next message first (R16), unless it is held. Which one of several takes it is not stated: the model
takes the lowest-numbered (DESIGN CHOICE, log 79). -/
def State.messageWaiter (s : State) (b : Nat) : Option CtxId :=
  ((List.range 8).map (ctxIn b)).find? (fun c => (s.ctx c).run == .running && (s.ctx c).wait == .message && (s.ctx c).msg.isEmpty &&
    !(s.ctx c).yielded && !s.halted c)

/-- A task's mark on the trail of the context that starts it (R303, R316). -/
def State.taskMark (s : State) (c : CtxId) (t : Task) : State :=
  let x := s.ctx c
  let s := s.storeWords (bankLoc (bankOf c) x.trailBase.toNat) [BitVec.ofNat 64 (t.h % 2 ^ 32 * 2 ^ 32 + 4), t.time]
  s.setCtx c { x with trailTop := x.trailBase + 16, choice := 0, task := some ⟨t, true, false, false, false⟩ }

/-- Starts an event's handler on a context (R32, R39, R44); the start of a readied codelet orders as an acquire (R254). -/
def State.startHandler (s : State) (c : CtxId) (e : Start) (code : Word) (cause : Nat) : State :=
  let b := bankOf c
  let x := s.ctx c
  let off := s.slotOffset b (ctxNum c)
  let s := if e.slot then { s with mem := s.mem.writes (bankLoc b off) e.packet } else s
  let words := if e.slot then s.apertureAddr x.part (coreOf c) off :: (match e.task with
      | some t => if t.crossing then [t.time] else []
      | none => []) else e.words
  let evt := BitVec.ofNat 64 (cause * 2 ^ 16 + e.hid * 2 ^ 8 + e.src) :: padTo 3 words
  let x : Ctx := { x with run := .running, wait := .none, pc := code &&& ~~~(1 : Word), evt, msg := if e.src = 0 then e.msg else x.msg,
                          event := some ⟨e.src, e.succ, e.tag⟩ }
  let x := if e.src = 1 then x.acquire else x
  let s := s.setCtx c (if e.snapshot = [] then x else x.restore e.snapshot)
  match e.task with
  | some t => s.taskMark c t
  | none => s

/-- An event that finds no handler is discarded, counted and reported (R40). -/
def State.noFallback (s : State) (b : Nat) : State :=
  let t := (s.bank b).team.getD 0
  (s.undeliverable t 1).postNoctx (s.team t).part { cls := 4, detail := 20 }

/-- The sources of a bank in the order of service: after the one last served (R38). -/
def sourceOrder (last : Nat) : List Nat := (List.range 8).map (fun i => (last + 1 + i) % 8)

/-- The percolator of a bank may start events: its member accepts them, and neither a stop nor a freeze holds its core (R432, R434). -/
def State.percolates (s : State) (b : Nat) : Bool :=
  let p := ((s.bankPart b).getD (s.ctx (ctxIn b 0)).part)
  !(s.bank b).exited && !(s.part p).stopped && !(s.core (b / 2)).stopped.contains p && !s.crashed

/-- A pop that reaches the spilled entries of an orphaned deque: the popping context takes trap(4, 21), and the entry is lost (R47). -/
def State.orphanPop (s : State) (b : Nat) (src : Nat) : Bool :=
  let x := s.bank b
  decide (src = 2) && x.stolen.isNone && x.deque.isEmpty && s.orphaned b

/-- A wake-up of S7 is served: it resumes context 0, or, where that does not wait in evwait, its next evwait ends at once (R37, R261, log 28). -/
def State.serveWake (s : State) (b : Nat) (x : Bank) : State :=
  if (s.ctx (ctxIn b 0)).run = .waiting then (s.setBank b { x with lastSrc := 7 }).wake0 b else s.setBank b { x with lastSrc := 7, wake := true }

/-- What the percolator does with no dormant handler context: a message goes to a context stalled on g56 (R16), and a wake-up that is the
oldest event of S7 needs no handler (R37); any other event waits. -/
def State.serveNoHandler (s : State) (b : Nat) : Option State :=
  match s.messageWaiter b, (s.bank b).inbox, s.nextEvent b 7 with
  | some c, m :: rest, _ => some ((s.setBank b { s.bank b with inbox := rest, lastSrc := 0 }).setCtx c { s.ctx c with msg := m, wait := .none })
  | _, _, some (e, x) => if e.wakes then some (s.serveWake b x) else none
  | _, _, none => none

/-- HANDLER_START: the percolator of the focus core serves its next source; a message goes first to a context stalled on g56 (R16, R38
to R40). -/
def execHandlerStart (s : State) : Result :=
  runStep (do
    let s ← get
    let b := s.activeBank s.focus
    let x := s.bank b
    await (s.percolates b)
    let found := (sourceOrder x.lastSrc).findSome? (fun n => s.nextEvent b n)
    match found, s.messageWaiter b, x.inbox with
    | some ({ src := 0, .. }, _), some c, m :: rest =>
      set ((s.setBank b { x with inbox := rest, lastSrc := 0 }).setCtx c { s.ctx c with msg := m, wait := .none })
    | some (e, x'), _, _ =>
      if e.wakes then set (s.serveWake b x')
      else match s.freeHandler b with
      | none => match s.serveNoHandler b with | some t => set t | none => stall
      | some c => do
        await (s.startFree c e)
        let t := s.setBank b { x' with lastSrc := e.src }
        if s.orphanPop b e.src then set (t.takeTrap c { cls := 4, detail := 21 })
        else
          match x.codeFor e with
          | none => set (t.noFallback b)
          | some (code, cause) => set (t.startHandler c e code cause)
    | none, _, _ => stall) s

/-- HANDLER_TABLE_APPLY: the member in the focus core's active bank applies its next handler table write between events (R252). -/
def execHandlerTableApply (s : State) : Result :=
  runStep (do
    let s ← get
    let b := s.activeBank s.focus
    let x := s.bank b
    match x.hsets with
    | [] => stall
    | (n, code) :: rest => set (s.setBank b { x with hsets := rest, handlers := x.handlers.put n code })) s

/-! ### Messages (R42) -/

/-- A message arrives at a core of this package: in the inbox, or as a crossing task in S4; none while there is no room (R42, R336). -/
def State.arriveMessage (s : State) (c : CoreId) (m : Message) : Option State :=
  let room := match s.teamAt c m.team with
    | some v => !(s.servedBank v).open ||
        (if m.crossing.isSome then decide ((s.servedBank v).s4.length < 64) else decide ((s.servedBank v).inbox.length < 16))
    | none => true
  if room = false then none
  else
    let s := (s.countRecv c m.part).contourReceived m
    match m.crossing with
    | none => some (s.enterTeam c m.team (fun x => { x with inbox := x.inbox ++ [m.words] }))
    | some (h, rank) =>
      let t : Task := { id := s.taskNext, team := m.team, h, rank, packet := (m.words.take 4).flatMap (fun w => leBytes 8 w.toNat),
                        crossing := true, time := m.words.getD 1 0, parent := none }
      some (({ s with taskNext := s.taskNext + 1 } : State).enterTeam c m.team (fun x => { x with s4 := x.s4 ++ [.task t] }))

/-- Where a message of this package goes: a core of it, or out of the package. -/
def State.messageCore (s : State) (m : Message) : Option CoreId :=
  match m.dest with
  | .core c => some c
  | .package g => if g = s.gid then some m.place else none

/-- A message of another package that this one does not let in: to a core outside the partition (R251), or a crossing task for a core that
holds no member of its team (R349). -/
def State.refusesMessage (s : State) (c : CoreId) (m : Message) : Bool :=
  !s.inPart m.part c || (m.crossing.isSome && (s.memberAt c m.team).isNone)

/-- MESSAGE_ARRIVE: the oldest message of a bank's outbox, or of those on their way from other packages, enters its inbox (R42); one for
another package is on its way to it; a refused one fails at its sender (R284). -/
def execMessageArrive (bank : Option Nat) (s : State) : Result :=
  runStep (do
    let s ← get
    match bank with
    | some b =>
      let x := s.bank b
      match x.outbox with
      | [] => stall
      | m :: rest =>
        let left := s.setBank b { x with outbox := rest }
        match s.messageCore m with
        | none => set (left.departMessage (b / 2) m)
        | some c => match left.arriveMessage c m with | some s' => set s' | none => stall
    | none =>
      match s.messages with
      | [] => stall
      | m :: rest =>
        let left := { s with messages := rest }
        match s.messageCore m with
        | none => set left
        | some c =>
          if s.refusesMessage c m then set (left.contourReceived m)
          else match left.arriveMessage c m with | some s' => set s' | none => stall) s

/-! ### Stealing (R46, R310, R409) -/

/-- A core is idle (R46). -/
def State.idle (s : State) (c : CoreId) : Bool :=
  let b := s.activeBank c
  let rests (x : Ctx) : Bool := x.run == .dormant || x.run == .exited || (x.run == .waiting && x.task.isNone)
  (List.range 8).all (fun n => rests (s.ctx (ctxIn b n))) && decide ((s.bank b).queued = 0) && (s.bank b).open

/-- The next value of the steal generator (R409). -/
def stealNext (x : BitVec 32) : BitVec 32 :=
  let x := x ^^^ (x <<< 13)
  let x := x ^^^ (x >>> 17)
  x ^^^ (x <<< 5)

/-- The members of a team on a core's die, other than the core, in ascending place (R409). -/
def State.victims (s : State) (t : Nat) (c : CoreId) : List CoreId :=
  (List.range 256).filterMap (fun i =>
    let v := dieOf c * 256 + i
    if v ≠ c ∧ (s.team t).members.contains v then some v else none)

/-- STEAL_REQUEST: the idle focus core draws a victim once its backoff is over; a held region's members send none (R46, R406). With no
other member on the die the generator steps and no request is sent (R409); the next draw comes after the backoff of R46 (log 80). -/
def execStealRequest (s : State) : Result :=
  runStep (do
    let s ← get
    let c := s.focus
    let k := s.core c
    match (s.bank (s.activeBank c)).team with
    | none => stall
    | some t => do
      await (s.idle c && k.steal.isNone && decide (k.stealDue ≤ s.cyc) && !s.held (s.team t).rcb && s.percolates (s.activeBank c))
      let g := stealNext k.stealGen
      let vs := s.victims t c
      match vs[g.toNat * vs.length / 2 ^ 32]? with
      | none => set (s.setCore c { k with stealGen := g, stealFails := k.stealFails + 1, stealDue := s.cyc + 64 * 2 ^ min (k.stealFails + 1) 6 })
      | some v => set (s.setCore c { k with stealGen := g, steal := some (.sent v t) })) s

/-- The oldest record of a context that a steal may take (R310). -/
def State.stealable (s : State) (c : CtxId) : Option Nat :=
  (({ s with cur := c } : State).choices 64 (s.ctx c).choice.toNat).reverse.find? (fun r =>
    let f := s.load (bankLoc (bankOf c) (r + 40)) 1
    f.testBit 0 && !f.testBit 4)

/-- The alternative that a theft takes from a context's record, or the empty reply where the table word's read would fault or nothing
remains; none where that read must wait (R310). -/
def State.takeAlternative (s : State) (c : CtxId) (r : Nat) : Option (State × Option Stolen) :=
  let loc := bankLoc (bankOf c) r
  let remain := s.load (loc + 8) 4
  if remain = 0 then some (s, none)
  else
    let i := s.load (loc + 12) 4 - remain
    let table := s.word loc &&& ~~~(7 : Word)
    match (keepPins (loadWord .load (table + BitVec.ofNat 64 (8 * i)))) { s with cur := c } with
    | .ok (w, s') =>
      if (s'.ctx c).faulted ≠ (s.ctx c).faulted then some (s, none)
      else
        let snap := s.snapshot loc
        let s := s.store (loc + 8) 4 (remain - 1)
        let s := s.store (loc + 40) 1 (s.load (loc + 40) 1 ||| 2)
        some (s, some (.alternative snap w (BitVec.ofNat 64 (ctxNum c * 1024 + placeOf (coreOf c))) (BitVec.ofNat 64 i)))
    | .error (.wait _) | .error (.abort _) => none
    | .error _ => some (s, none)

/-- What a victim's queue engine answers for a team: its deque's oldest entry, else an alternative, else nothing (R46, R310). A steal that
reaches the spilled entries of an orphaned deque is reported apart (R47). None where the answer must wait. -/
def State.answerSteal (s : State) (v : CoreId) (team : Nat) : Option (State × Option Stolen × Bool) :=
  let b := s.activeBank v
  let x := s.bank b
  if x.team ≠ some team ∨ x.exited ∨ (s.team team).state ≠ .resident then some (s, none, false)
  else if x.spillCount ≠ 0 then
    let loc := s.spillLoc b x.spillHead
    if s.openTo none (run loc 256) = false then none else
    let s' := s.setBank b { x with spillHead := x.spillHead + 1, spillCount := x.spillCount - 1 }
    if s.orphaned b then some (s', none, true) else some (s', some (.packet (s.mem.bytes loc (packetLength (s.load loc 8)))), false)
  else
    match x.deque.getLast? with
    | some p => some (s.setBank b { x with deque := x.deque.dropLast }, some (.packet p), false)
    | none =>
      match ((List.range 8).map (ctxIn b)).findSome? (fun c => (s.stealable c).map (fun r => (c, r))) with
      | none => some (s, none, false)
      | some (c, r) => (s.takeAlternative c r).map (fun a => (a.1, a.2, false))

/-- STEAL_ANSWER: the focus core's queue engine answers the first request that names it (R46, R310). -/
def execStealAnswer (s : State) : Result :=
  runStep (do
    let s ← get
    let v := s.focus
    match s.cores.findSome? (fun e => match e.2.steal with | some (.sent w t) => if w = v then some (e.1, t) else none | _ => none) with
    | none => stall
    | some (thief, t) => do
      let b := s.activeBank thief
      match s.answerSteal v t with
      | none => stall
      | some (s', reply, orphan) => do
      let s' := s'.setCore thief { s'.core thief with steal := some (.answered t reply) }
      match orphan && s.bankTeam b == some t, s.freeHandler b with
      | true, some c => set (s'.takeTrap c { cls := 4, detail := 21 })
      | _, _ => set { s' with cur := s.cur }) s

/-- STEAL_REPLY_RECEIVE: the focus core places a stolen entry in the steal buffer of the team that asked for it, wherever its member is now,
or counts a failed steal of the team that it runs (R35, R46, R66). -/
def execStealReplyReceive (s : State) : Result :=
  runStep (do
    let s ← get
    let c := s.focus
    let k := s.core c
    let mine (t : Nat) : Bool := s.bankTeam (s.activeBank c) == some t
    match k.steal with
    | some (.answered t (some x)) =>
      let k := if mine t then { k with stealFails := 0, stealDue := s.cyc } else k
      set ((s.setCore c { k with steal := none }).enterTeam c t (fun y => { y with stolen := some x }))
    | some (.answered t none) =>
      let k := if mine t then { k with stealFails := k.stealFails + 1, stealDue := s.cyc + 64 * 2 ^ min (k.stealFails + 1) 6 } else k
      set (s.setCore c { k with steal := none })
    | _ => stall) s

/-! ### The ready ring, timers, results and pins -/

/-- READY_RING_PUSH: a held decrement of the focus core's active bank pushes its record once there is room (R49). -/
def execReadyRingPush (s : State) : Result :=
  runStep (do
    let s ← get
    let b := s.activeBank s.focus
    let x := s.bank b
    match x.readyHeld with
    | [] => stall
    | a :: rest => do
      await (decide (x.ready.length < 256))
      set (s.enter b (fun x => { x with ready := x.ready ++ [a], readyHeld := rest }))) s

/-- A wake-up of context 0 arrives at its team's member at a core: in a bank it resumes a context 0 that waits in evwait at once (R261), and
enters S7 otherwise (R37) and under a stop or freeze (R432, R434); where no member accepts it, it is discarded and counted (R66). -/
def State.wakeTeam (s : State) (c : CoreId) (t : Nat) : State :=
  match s.memberAt c t with
  | some (_, v) =>
    let x := s.servedBank v
    if x.open = false then s.undeliverable t 1
    else if v.image = 0 ∧ (s.ctx (ctxIn v.bank 0)).run = .waiting ∧ s.halted (ctxIn v.bank 0) = false then s.serveWake v.bank x
    else s.setServedBank v { x with s7 := x.s7 ++ [⟨none, 0, []⟩] }
  | none => s.undeliverable t 1

/-- TIMER_FIRE: timer n of the focus core falls due, puts its event or wake-up into S7, and is disarmed (R37, R264). -/
def execTimerFire (n : Nat) (s : State) : Result :=
  runStep (do
    let s ← get
    let c := s.focus
    let k := s.core c
    match k.timers.get (fun _ => none) n with
    | none => stall
    | some t => do
      await (decide (t.time ≤ s.time))
      let s := s.setCore c { k with timers := k.timers.put n none }
      set (match t.hid with
        | some h => s.enterTeam c t.team (fun x => { x with s7 := x.s7 ++ [PlainEvent.mk (some h) 0 [BitVec.ofNat 64 t.time]] })
        | none => s.wakeTeam c t.team)) s

/-- LONG_LATENCY_COMPLETE: pending result n of the context completes into its destination (R159). -/
def execLongLatencyComplete (n : Nat) (s : State) : Result :=
  runStep (do
    let s ← get
    match s.me.pend[n]? with
    | none => stall
    | some p => do
      await p.isLocal
      set ((s.setMe { s.me with pend := s.me.pend.eraseIdx n }).deliver s.cur p)) s

/-- PIN_EXPIRE: the context's pins whose count has reached zero end (R136). -/
def execPinExpire (s : State) : Result :=
  runStep (do
    let x ← getMe
    await (decide (x.livePins.length ≠ x.pins.length))
    modifyMe (fun x => { x with pins := x.livePins })) s

/-- TRANSLATION_WALK: a walker completes the context's fetch miss, or its fault is taken before the bundle issues (R79, R419). Its reads wait
as loads do (R414). -/
def execTranslationWalk (s : State) : Result :=
  runStep (do
    let s ← get
    let x := s.me
    match x.miss with
    | none => stall
    | some ea =>
      let s := s.setMe { x with miss := none }
      if x.run ≠ .running then set s
      else do
        await (s.walkFree x.part ea.toNat)
        match s.walk x.part .fetch ea.toNat with
        | .error t => set ((s.setMe { s.me with ir := [] }).takeTrap s.cur t)
        | .ok l =>
          let k := s.myCore
          set (s.setCore (coreOf s.cur) (k.touch ⟨x.part, (k.gens.get (fun _ => 0) x.part).toNat, l.page, l.size, l.level, l.pte⟩))) s

/-! ### Migration and bundles that are no instruction (R58, R59, R86 to R88, R96) -/

/-- A context may not move (R59). -/
def Ctx.anchored (x : Ctx) : Bool := (x.choice != 0) || (x.trailTop != x.trailBase) || x.task.isSome || x.region.isSome

/-- The cores that a context may migrate to: they list the extension, and their active bank holds its team with a free handler context
(R35, R58, log 20). -/
def State.refuges (s : State) (c : CtxId) (ext : Nat) : List CoreId :=
  match (s.bank (bankOf c)).team with
  | none => []
  | some t => (s.team t).members.filter (fun d =>
      (extOf d).testBit ext && d != coreOf c && s.bankTeam (s.activeBank d) == some t && (s.freeHandler (s.activeBank d)).isSome)

/-- The nearest of them: fewest hops, then the lowest (R58). -/
def State.refuge (s : State) (c : CtxId) (ext : Nat) : Option CoreId :=
  let ds := s.refuges c ext
  ds.find? (fun d => ds.all (fun e =>
    decide (Config.hops (coreOf c) d * 2048 + d ≤ Config.hops (coreOf c) e * 2048 + e)))

/-- k.UINFO of trap(0, 18) (R59). -/
def extInfo (ext : Nat) (anchored : Bool) : Word :=
  BitVec.ofNat 64 ((if ext < 16 then ext else (ext - 16) * 16 + 256) + (if anchored then 512 else 0))

/-- UNASSIGNED_OPCODE: a bundle that is no instruction raises its class 0 cause (R86, R88); one whose extension the core does not list
migrates its context, or raises trap(0, 18) (R59, R96, R374). -/
def execUnassignedOpcode (bad : BadBundle) (s : State) : Result :=
  match bad.ext with
  | none =>
    let word := BitVec.ofNat 64 (bad.pos * 2 ^ 35 + bad.npre * 2 ^ 32 + bad.pre.toNat * 2 ^ 16 + bad.word.toNat)
    runBundle (raise { cls := 0, detail := bad.detail, word }) s
  | some ext =>
    let x := s.me
    if x.anchored ∨ isService (coreOf s.cur) ∨ (s.refuge s.cur ext).isNone then
      runBundle (raise { cls := 0, detail := 18, info := extInfo ext x.anchored }) s
    else .next { s.setMe { x with migrating := true, wait := .other } with stalled := [] }

/-- The extension that a migrating context needs, by its latched bundle. -/
def State.wantedExt (s : State) (c : CtxId) : Option Nat :=
  match decode ⟨extOf (coreOf c), s.supervisor c⟩ (s.ctx c).ir with
  | .error { ext := some f, .. } => some f
  | _ => none

/-- A context takes the place of another, whose trail and record header are that place's (R58, log 20). Words pushed to g56 and not yet sent
are not in R58's list of what moves: they are dropped (DESIGN CHOICE, log 20). -/
def Ctx.placedAt (x y : Ctx) : Ctx :=
  { x with trailTop := y.trailBase, trailBase := y.trailBase, trailLim := y.trailLim, migrating := false, wait := .none, asm := [] }

/-- What names a context's place is renamed when it moves: packets and requests. -/
def State.rename (s : State) (old new : CtxId) : State :=
  let f (c : CtxId) : CtxId := if c = old then new else if c = new then old else c
  { s with
    packets := s.packets.map (fun p => { p with src := p.src.map f })
    requests := s.requests.map (fun r => { r with src := r.src.map f }) }

/-- A record's header names the place of its context (R384). -/
def State.placeRecord (s : State) (r : Nat) (c : CtxId) : State :=
  if r = 0 then s else s.store (r + 8) 2 ((s.load (r + 8) 2 / 2 ^ 14 * 2 ^ 14) + (s.contextWord c).toNat)

/-- Messages that a context has sent are still in its bank's outbox: those of one context to one core arrive in order, so it moves after them
(R42). -/
def State.hasMail (s : State) (c : CtxId) : Bool := (s.bank (bankOf c)).outbox.any (fun m => m.owner == (s.ctx c).source)

/-- A context moves to another place: what stood there, a dormant context, takes the old one. A context 0 that moves is one of the contexts 1
to 7 of the new core from then on, so that scall 0 refuses it as it refuses a handler: R58 does not say what it is there (DESIGN CHOICE,
log 20). A leader that moves leaves its followers detached, as R55 says of its bank swap (DESIGN CHOICE, log 20). -/
def State.migrate (s : State) (old new : CtxId) : State :=
  let s := ((s.endLease old).detach old).leaveSprint old
  let x := s.ctx old
  let y := s.ctx new
  let s := (s.setCtx new (x.placedAt y)).setCtx old (y.placedAt x)
  let s := ((s.rename old new).reseat new).reseat old
  (s.placeRecord x.record new).placeRecord y.record old

/-- CONTEXT_MIGRATE: the spill engine moves a context whose bundle needs an extension to the nearest core that lists it, once its engine
work is done; with no place left its bundle is taken again (R55, R57, R58, R159). -/
def execContextMigrate (s : State) : Result :=
  runStep (do
    let s ← get
    let c := s.cur
    await (s.me.migrating && !s.hasWork c && !s.hasMail c)
    let place := (s.wantedExt c).bind (s.refuge c)
    match place.bind (fun d => s.freeHandler (s.activeBank d)) with
    | none => set (s.setMe { s.me with migrating := false, wait := .none })
    | some new => set ({ s.migrate c new with cur := new, focus := coreOf new })) s

end Sys2Proof.Machine
end

