-- ==== Sys2Proof/Machine/Launch.lean ====
section
/-! DEFINITION. Scheduling hardware (R398 to R410): launch records, admission, weighted choice, placement, team starts and swaps, quanta and
yields (R446, R447), and the leases of the matrix arrays (R56). -/

namespace Sys2Proof.Machine

/-! ### Weighted choice (R403) -/

/-- One choice among contenders with their weights, in ascending order: the chosen one and the credits after it. A contender that has just
joined starts from credit zero. -/
def weigh (credit : Table Int) (old : List Nat) (last : Nat) (cs : List (Nat × Nat)) : Option (Nat × Table Int) :=
  let raised : Table Int := cs.map (fun c => (c.1, (if old.contains c.1 then credit.get (fun _ => 0) c.1 else 0) + (c.2 : Int)))
  let total : Int := (cs.map (fun c => (c.2 : Int))).sum
  let tied := (raised.filter (fun c => raised.all (fun e => decide (e.2 ≤ c.2)))).map Prod.fst
  match (tied.find? (fun c => decide (last < c))).or tied.head? with
  | none => none
  | some c => some (c, raised.map (fun e => (e.1, if e.1 = c then e.2 - total else e.2)))

/-! ### Team descriptors (R363) -/

/-- The locations of n bytes at a virtual address of a partition, for the dispenser. -/
def State.partLocs (s : State) (part va n : Nat) : Option (List Nat) :=
  ((pieces (n / 4096 + 2) va n).mapM (fun (p : Nat × Nat) =>
    match s.walk part .load p.1 with
    | .ok l => if l.isRemote then none else some (run (l.pa p.1) p.2)
    | .error _ => none)).map List.flatten

/-- The n words at a virtual address of a partition. -/
def State.partWords (s : State) (part va n : Nat) : Option (List Word) :=
  (s.partLocs part va (8 * n)).map (fun locs =>
    let bs := s.loadAt locs
    (List.range n).map (fun i => BitVec.ofNat 64 (leNat ((bs.drop (8 * i)).take 8))))

/-- The dispenser's read of n bytes of a partition waits for nothing: neither the walks' entries nor the bytes are claimed by an engine or
written speculatively (R187, R224, R414). -/
def State.partFree (s : State) (part va n : Nat) : Bool :=
  (pieces (n / 4096 + 2) va n).all (fun p => s.walkFreeBy none part p.1) && s.openTo none ((s.partLocs part va n).getD [])

/-- A well-formed descriptor's words (R363). -/
def descOk (ws : List Word) : Bool :=
  let w (i : Nat) : Word := ws.getD i 0
  decide (field (w 1) 63 48 = 0) && decide (field (w 1) 31 20 = 0) && decide (field (w 1) 15 11 = 0) && decide (field (w 1) 19 16 ≤ 8) &&
  decide (1 ≤ field (w 1) 10 0) && decide (field (w 1) 10 0 ≤ 1024) && decide (field (w 2) 63 21 = 0) && decide (field (w 3) 63 10 = 0) &&
  decide (field (w 3) 7 4 = 0) && decide (field (w 4) 31 21 = 0)

/-! ### Launch records (R398 to R400) -/

/-- Where a die's launch ring lies (R398). -/
def State.launchRing (s : State) (d : Nat) : Nat := s.regbase.toNat + 0x40000000 + d * 0x200000

/-- A grid as its launch record gives it. -/
def State.gridOf (s : State) (n loc : Nat) : Grid :=
  let w (i : Nat) : Word := s.word (loc + 8 * i)
  let desc := w 1
  let ws := (s.partWords (field (w 0) 2 0) desc.toNat 16).getD []
  { id := n, part := field (w 0) 2 0, desc, rcb := (w 2).toNat, nteams := field (w 0) 39 16, dies := field (w 0) 15 12,
    team0 := field (w 3) 63 32, status := (w 4).toNat, cores := field (ws.getD 1 0) 10 0, ext := field (ws.getD 2 0) 20 0,
    prio := s.eff 0 (w 2).toNat, slots := 0, next := 0, ended := 0, faulted := 0, chargedCores := 0, chargedRidges := 0, words := ws }

/-- A launch record that the dispenser refuses (R400). -/
def State.recordRefused (s : State) (loc : Nat) (g : Grid) : Bool :=
  let w0 := s.word loc
  decide (field w0 63 40 ≠ 0) || decide (field w0 11 3 ≠ 0) || decide (s.load (loc + 24) 4 ≠ 0) || decide (s.load (loc + 40) 216 ≠ 0) ||
  decide (g.dies = 0) || decide (g.nteams = 0) || !(s.part g.part).valid || decide (g.rcb % 128 ≠ 0) ||
  !(decide (s.regbase.toNat ≤ g.rcb) && decide (g.rcb + 128 ≤ s.regbase.toNat + s.regsize.toNat)) ||
  (match s.partWords g.part g.desc.toNat 16 with | none => true | some ws => !descOk ws)

/-- The ridges of the dies that a grid names and its partition allows, in ascending order. -/
def State.gridRidges (s : State) (g : Grid) : List Nat :=
  (List.range 128).filter (fun r => g.dies.testBit (r / 32) && (s.part g.part).ridges.testBit r)

/-- A record whose team can never be placed (R400). -/
def State.neverFits (s : State) (g : Grid) : Bool :=
  decide (s.eff 1 g.rcb < g.cores) || decide (8 * (s.gridRidges g).length < g.cores)

/-- LAUNCH_RECORD_TAKE: the dispenser of the focus core's die takes its next record; a malformed or unplaceable one is reported and
dropped (R398, R400). -/
def execLaunchRecordTake (s : State) : Result :=
  runStep (do
    let s ← get
    let d := dieOf s.focus
    let ring := s.launchRing d
    let n := s.load (ring + 8) 4
    await (!s.crashed && decide (s.load ring 4 ≠ n) && decide (d < 4))
    let loc := ring + 4096 + 256 * (n % 4096)
    await (s.openTo none (run loc 256) && s.partFree (field (s.word loc) 2 0) (s.word (loc + 8)).toNat 128)
    let g := s.gridOf n loc
    let s := s.store (ring + 8) 4 ((n + 1) % 2 ^ 32)
    set (if s.recordRefused loc g then s.postNoctx g.part { cls := 7, detail := 4 }
      else if s.neverFits g then s.postNoctx g.part { cls := 4, detail := 23 }
      else
        let k := s.die d
        s.setDie d { k with queue := k.queue ++ [g] })) s

/-! ### Placement (R402, R404, R439) -/

/-- The matrix families that an ext names (R363). -/
def families (ext : Nat) : List Nat := (List.range 5).filterMap (fun i => if ext.testBit (16 + i) then some (16 + i) else none)
/-- An ext that names both ridge kinds. -/
def mixed (ext : Nat) : Bool := ext.testBit 16 && (families ext).any (fun f => f != 16)

/-- A core lists the families that a grid needs of its kind of ridge. -/
def listsFamilies (c : CoreId) (ext : Nat) : Bool :=
  let fs := families ext
  (if mixed ext then fs.filter (fun f => (f == 16) != broadCore c) else fs).all (extOf c).testBit

/-- A free core for a grid (R402, R439). Engine work that an earlier team left there finds no context of its own (log 54). -/
def State.freeCore (s : State) (g : Grid) (c : CoreId) : Bool :=
  let r := ridgeOf c
  let b := s.activeBank c
  let ws := g.words
  let w4 := ws.getD 4 0
  let spatial := (List.range 8).any (fun p => p != g.part && (s.part p).valid && (s.part p).spatial && (s.part p).ridges.testBit r)
  (s.bank b).team.isNone && (s.part g.part).ridges.testBit r && !spatial && !(s.ridge r).draining && !(s.ridge r).retired &&
  listsFamilies c g.ext &&
  (!(s.core c).staged || decide (max (s.part g.part).scratch.length (field w4 20 0 + field w4 63 32) ≤
    scratchBytes (field (ws.getD 3 0) 9 8) (field (ws.getD 3 0) 3 0) true))

/-- The free cores of a ridge for a grid, but for those already taken. -/
def State.freeOn (s : State) (g : Grid) (taken : List CoreId) (r : Nat) : List CoreId :=
  ((List.range 8).map (r * 8 + ·)).filter (fun c => s.freeCore g c && !taken.contains c)

/-- Lists taken in turn, the first list first. -/
def interleave {α : Type} : List α → List α → List α
  | [], ys => ys
  | x :: xs, [] => x :: xs
  | x :: xs, y :: ys => x :: y :: interleave xs ys

/-- Where a team of a grid is placed, in member order (R404). -/
def State.place (s : State) (g : Grid) (taken : List CoreId) : Option (List CoreId) :=
  let fine := (s.gridRidges g).filter (fun r => !broadCore (r * 8))
  let broad := (s.gridRidges g).filter (fun r => broadCore (r * 8))
  let n := g.cores
  if n ≤ 8 then
    let first (rs : List Nat) (k : Nat) : Option (List CoreId) :=
      if k = 0 then some []
      else rs.findSome? (fun r =>
        let free := s.freeOn g taken r
        if k ≤ free.length then some (free.take k) else none)
    if mixed g.ext then
      match first fine ((n + 1) / 2), first broad (n / 2) with
      | some a, some b => some (a ++ b)
      | _, _ => none
    else first (s.gridRidges g) n
  else
    let whole (rs : List Nat) := (rs.map (s.freeOn g taken)).filter (fun f => f.length == 8)
    let k := (n + 7) / 8
    let picked := if mixed g.ext then interleave ((whole fine).take ((k + 1) / 2)) ((whole broad).take (k / 2)) else (whole (s.gridRidges g)).take k
    if picked.length = k then some (picked.flatten.take n) else none

/-- Placements of teams one after another, at most a number of them (R402). -/
def State.placeMany (s : State) (g : Grid) (taken : List CoreId) : Nat → List (List CoreId)
  | 0 => []
  | k + 1 =>
    match s.place g taken with
    | none => []
    | some m => m :: s.placeMany g (taken ++ m) k

/-! ### Starting and swapping teams (R31, R34, R405, R407) -/

/-- A partition's streams for the teams of a descriptor: k(64 + sid) names the own aperture base plus the offset (R364). -/
def State.teamStreams (s : State) (part : Nat) (desc : Word) : Table Word :=
  ((s.part part).streams.filter (fun e => e.1 == desc.toNat)).foldl (fun t e => t.put e.2.1 (BitVec.ofNat 64 e.2.2)) []

/-- A team's handler table from its descriptor's address; entries that cannot be read are empty. -/
def State.teamHandlers (s : State) (part : Nat) (addr : Word) : Table Word :=
  ((s.partWords part addr.toNat 256).getD []).zipIdx.filterMap (fun e => if e.1 &&& ~~~(1 : Word) = 0 then none else some (e.2, e.1 &&& ~~~(1 : Word)))

/-- The registry record that Brukezin takes for a context of a team: one that no context of a resident team has (R384, log 6). -/
def State.freeRecord (s : State) (t : Nat) (c : CtxId) : Nat :=
  let at_ (i : Nat) : Nat := s.regbase.toNat + 0x100000000 + 65536 * (Config.recordSlot c t + i)
  let used := (s.ctxs.filter (fun e => e.2.team.isSome || e.2.out)).map (fun e => e.2.record) ++ s.saved.map Prod.fst
  ((List.range (used.length + 1)).map at_).find? (fun r => !used.contains r) |>.getD (at_ 0)

/-- A context of a bank at its team's launch (R31, R302): zero but for what names its team. Its stream identity is new: its incarnation and
its place (R278, log 39). -/
def State.launched (s : State) (t : Nat) (c : CtxId) : Ctx :=
  let k := s.team t
  let b := bankOf c
  let base (n : Nat) : Word := BitVec.ofNat 64 (s.scratchSize b + n * (trailBytes (s.core (coreOf c)).tc / 8))
  { Ctx.reset c with
    part := k.part, rcba := BitVec.ofNat 64 k.rcb, incarn := BitVec.ofNat 64 k.incarn, team := some t,
    record := s.freeRecord t c, source := (k.incarn + 1) * 2 ^ 15 + c + 1
    trailTop := base (ctxNum c), trailBase := base (ctxNum c), trailLim := base (ctxNum c + 1) }

/-- A context's registry header, which Brukezin writes at launch (R384): in an active bank, its incarnation, place, team and block; the
image word stands as it is (log 6). -/
def State.writeHeader (s : State) (c : CtxId) : State :=
  let x := s.ctx c
  let r := x.record
  let id := match x.team with | some t => (s.team t).id | none => 0
  let s := s.storeWords r [0x0001000152434B53, BitVec.ofNat 64 (x.incarn.toNat % 2 ^ 32 * 2 ^ 32 + (s.contextWord c).toNat),
    BitVec.ofNat 64 (id * 2 ^ 32 + x.part)]
  s.storeWords (r + 32) [x.rcba, 0]

/-- The steal generator's seed (R409). -/
def stealSeed (incarn place : Nat) : BitVec 32 := let x := BitVec.ofNat 32 (incarn * 1024 + place); if x = 0 then 1 else x

/-- A core takes a carve in the layout of R27. -/
def State.setCarve (s : State) (c : CoreId) (carve : Nat) : State :=
  (s.setCore c { s.core c with cc := carve / 256 % 4, tc := carve % 16 }).fitL1 c

/-- A member's core and bank at a team's launch. The core takes the team's carve, also where its other bank holds a team that was laid out
under another one: R26 has a core's banks equal and does not say whose carve they have then (DESIGN CHOICE, log 76). -/
def State.launchMember (s : State) (t : Nat) (c : CoreId) : State :=
  let k := s.team t
  let b := s.activeBank c
  let s := (s.setBank b { Bank.reset b with team := some t, handlers := k.handlers, outbox := (s.bank b).outbox }).setCarve c k.carve
  let s := (List.range 8).foldl (fun s n => (s.setCtx (ctxIn b n) (s.launched t (ctxIn b n))).writeHeader (ctxIn b n)) s
  let x := s.core c
  s.setCore c { x with stealGen := stealSeed k.incarn (placeOf c), stealFails := 0, stealDue := s.cyc }

/-- A team's quantum runs from now (R407). -/
def State.newQuantum (s : State) (part rcb : Nat) : Nat := (s.part part).quanta + s.eff 6 rcb * 1000

/-- Team j of a grid takes its cores: context 0 of each member starts after its ridge's phase (R405). -/
def State.launchTeam (s : State) (d : Nat) (g : Grid) (j : Nat) (members : List CoreId) : State :=
  let ws := g.words
  let w (i : Nat) : Word := ws.getD i 0
  let id := (g.team0 + j) % 2 ^ 32
  let t := teamKey g.part s.incarnNext
  let team : Team :=
    { Team.none t with
      state := .resident, part := g.part, id, die := d, grid := g.id, index := j, desc := g.desc, entry := w 0, members,
      ext := g.ext, carve := (w 3).toNat, spill := field (w 4) 20 0, spillSize := field (w 4) 63 32, utvec := w 6, rng := w 7,
      selfbase := field (w 1) 19 16, args := ws.drop 8, streams := s.teamStreams g.part g.desc, rcb := g.rcb, incarn := s.incarnNext,
      handlers := s.teamHandlers g.part (w 5), quantum := s.newQuantum g.part g.rcb, startAt := s.cyc }
  let s := { s.setTeam t team with incarnNext := (s.incarnNext + 1) % 2 ^ 32 }
  members.foldl (fun s c => s.launchMember t c) s

/-- The phase of a core's ridge in cycles (R398, R405). -/
def State.phase (s : State) (c : CoreId) : Nat := 16 * s.load (s.launchRing (dieOf c) + 64 + 2 * (ridgeOf c % 32)) 2

/-- Context 0 of a member starts at the entry, with the image's .scratch copied to its scratch (R31, R355). -/
def State.startMember (s : State) (t : Nat) (c : CoreId) : State :=
  let k := s.team t
  let n := ctxIn (s.activeBank c) 0
  let base := s.apertureAddr k.part c 0
  let arg (i : Nat) : Word := if i + 1 = k.selfbase then base else k.args.getD i 0
  let s := { s with mem := s.mem.writes (bankLoc (s.activeBank c) 0) (s.part k.part).scratch }
  let x := s.ctx n
  let x := (List.range 8).foldl (fun (x : Ctx) i => { x with g := x.g.set! (i + 1) (arg i) }) x
  let x := k.streams.foldl (fun (x : Ctx) e => { x with strc := x.strc.set! e.1 (base + e.2) }) x
  s.setCtx n { x with pc := k.entry &&& ~~~(1 : Word), run := .running, utvec := k.utvec, rng := k.rng }

/-- TEAM_START: the members of a team whose ridges' phases have passed start (R31, R405). -/
def execTeamStart (team : Nat) (s : State) : Result :=
  runStep (do
    let s ← get
    let k := s.team team
    let now := k.members.filter (fun c => !k.started.contains c && !k.departed.contains c && s.bankTeam (s.activeBank c) == some team &&
      decide (k.startAt + s.phase c ≤ s.cyc))
    await (k.state == .resident && !now.isEmpty)
    let s := s.setTeam team { k with started := k.started ++ now }
    set (now.foldl (fun (s : State) c => s.startMember team c) s)) s

/-- A ridge on which no other team stands. -/
def State.ownRidge (s : State) (t r : Nat) : Bool :=
  (List.range 8).all (fun i => let x := s.bankTeam (s.activeBank (r * 8 + i)); x.isNone || x == some t)

/-- The ridges of a team's cores in member order, each with its number in that order, which names the team's area for it (R442, log 6). -/
def ridgesOf (cores : List CoreId) : List (Nat × Nat) := (cores.map ridgeOf).eraseDups.zipIdx

/-- A leaving team's ridge goes to its area; with another team on the ridge its state is written there and stays as well (R174, R442; DESIGN
CHOICE, log 6). -/
def State.saveRidge (s : State) (t r i : Nat) : State :=
  let a := Config.ridgeArea t i
  let s := s.setRidge r { s.ridge r with rsout := BitVec.ofNat 64 a }
  if s.ownRidge t r then s.exchangeRidge r a 0 else s.duplicate (ridgeLoc r 0) a ridgeBytes

/-- A returning team's ridge comes from its area; a ridge with another team on it keeps the state that it has (R174, R442; DESIGN CHOICE,
log 6). -/
def State.loadRidge (s : State) (t r i : Nat) : State :=
  let a := Config.ridgeArea t i
  if s.ownRidge t r then (s.setRidge r { s.ridge r with rsin := BitVec.ofNat 64 a }).exchangeRidge r 0 a else s

/-- A team is out: its banks and contexts go to their images and records, its ridges' state to the team's areas (R34, R322, R407). -/
def State.swapOut (s : State) (t : Nat) : State :=
  let k := s.team t
  let banks := k.members.map s.activeBank
  let s := (ridgesOf k.members).foldl (fun s e => s.saveRidge t e.1 e.2) s
  let s := banks.foldl (fun s b =>
    let image := s.load ((s.ctx (ctxIn b 0)).record + 48) 8
    let s := (List.range 8).foldl (fun s n =>
      let c := ctxIn b n
      let r := (s.ctx c).record
      let parked := (s.ctx c).run == .parked
      let s := (s.leaveBank c).ctxToRecord c r
      let s := if parked then s.recordState r 4 else s
      s.setCtx c { Ctx.reset c with source := 2 ^ 59 + c }) s
    let s := s.bankToImage b image
    s.setBank b { s.bank b with image := 0 }) s
  s.setTeam t { s.team t with state := .out }

/-- The registry records of a team's contexts of one core, by their headers (R384). -/
def State.memberRecords (s : State) (t part : Nat) (c : CoreId) : List (Nat × Nat) :=
  (s.saved.filter (fun e => e.2.team == some t && decide (s.load (e.1 + 8) 2 % 2 ^ 10 = s.relCore part c))).map (fun e =>
    (s.load (e.1 + 8) 2 / 2 ^ 10 % 8, e.1))

/-- A list of cores with one renamed. -/
def renameCores (m : List (CoreId × CoreId)) (l : List CoreId) : List CoreId :=
  l.map (fun c => ((m.find? (fun e => e.1 == c)).map Prod.snd).getD c)

/-- A member comes back from its records and its image to a core, which takes the team's carve (log 76); a parked context stays parked in
its record (R407). -/
def State.swapInMember (s : State) (t : Nat) (c : CoreId) (records : List (Nat × Nat)) (image : Option Nat) : State :=
  let b := s.activeBank c
  let s := s.setCarve c (s.team t).carve
  let s := records.foldl (fun s r =>
    let n := ctxIn b r.1
    let s := s.recordToCtx n r.2 1
    let s := if (s.ctx n).run = .parked then s.recordState r.2 4 else s
    (s.turnRegion n).placeRecord r.2 n) s
  match image with
  | none => s
  | some a => s.imageToBank b a

/-- A waiting team comes back onto cores, in member order; its quantum runs from now (R407). What its members left is found before any
core takes it, since the new cores may overlap the old ones; an item for a core that it has left still finds its member (R66). Actions that
gresume has left for its contexts are taken once the team is resident (R429), and may end it. -/
def State.swapIn (s : State) (t : Nat) (cores : List CoreId) : State :=
  let k := s.team t
  let moves := k.members.zip cores
  let plan := moves.map (fun m => (m.2, s.memberRecords t k.part m.1, (k.saved.find? (fun e => e.1 == m.1)).map Prod.snd))
  let leave (s : State) (c : CoreId) : State := s.setCore c { s.core c with lastImage := (s.core c).lastImage.drop k.part }
  let s := k.members.foldl leave (s.setTeam t { k with saved := [] })
  let s := plan.foldl (fun s m => s.swapInMember t m.1 m.2.1 m.2.2) s
  let k := s.team t
  let left := (moves.zipIdx.filter (fun m => m.1.1 != m.1.2)).map (fun m => (m.1.1, m.2))
  let s := s.setTeam t { k with
    state := .resident
    members := cores
    past := left ++ k.past.filter (fun e => !(left.map Prod.fst).contains e.1)
    started := renameCores moves k.started
    departed := renameCores moves k.departed
    barriers := k.barriers.map (fun e => (e.1, { e.2 with here := renameCores moves e.2.here }))
    carves := k.carves.map (fun e => (((moves.find? (fun m => m.1 == e.1)).map Prod.snd).getD e.1, e.2))
    deferred := false
    quantum := s.newQuantum k.part k.rcb }
  let s := (ridgesOf cores).foldl (fun s e => s.loadRidge t e.1 e.2) s
  (cores.foldl (fun s c => s.takeActions (s.activeBank c) 0x1FF) s).tryEndTeam t

/-- The teams of a grid that its die's dispenser has started. -/
def State.teamsOf (s : State) (d : Nat) (g : Grid) : List (Nat × Team) :=
  s.teams.filter (fun e => e.2.state != .none && e.2.die == d && e.2.grid == g.id && e.2.part == g.part)

/-- The next waiting team of a grid, in cyclic order of index after the one last swapped in (R407): its index, and its key where it has run
before. -/
def State.nextTeam (s : State) (d : Nat) (g : Grid) : Option (Nat × Option Nat) :=
  let ts := s.teamsOf d g
  ((List.range g.nteams).map (fun i => (g.next + 1 + i) % g.nteams)).findSome? (fun j =>
    match ts.find? (fun e => e.2.index == j) with
    | none => some (j, none)
    | some e => if e.2.state = .out then some (j, some e.1) else none)

/-- The grid has teams that wait for a slot. -/
def State.waiting (s : State) (d : Nat) (g : Grid) : Bool := (s.nextTeam d g).isSome

/-- Teams of a grid that hold a slot. -/
def State.resident (s : State) (d : Nat) (g : Grid) : Nat :=
  ((s.teamsOf d g).filter (fun e => e.2.state == .resident || e.2.state == .leaving)).length

/-- A partition's decisions go on: it is valid, in a bank or not switched out, and the service has not crashed (R408, R434). -/
def State.decides (s : State) (p : Nat) : Bool := (s.part p).valid && !(s.part p).out && !s.crashed

/-- Fills one free slot of a grid with its next waiting team (R401 step 1, R407): a team that returns takes its own cores where they are
free. -/
def State.fillSlot (s : State) (d : Nat) (g : Grid) : Option State :=
  if g.slots ≤ s.resident d g ∨ s.held g.rcb ∨ s.decides g.part = false then none
  else
    match s.nextTeam d g with
    | none => none
    | some (j, old) =>
      let note (s : State) : State := s.setDie d { s.die d with grids := (s.die d).grids.map (fun x => if x.id = g.id ∧ x.part = g.part then { x with next := j } else x) }
      match old with
      | some t =>
        let own := (s.team t).members
        let cores := if own.all (s.freeCore g) then some own else s.place g []
        cores.map (fun m => note (s.swapIn t m))
      | none => (s.place g []).map (fun m => note (s.launchTeam d g j m))

/-- Fills the free slots of a grid. -/
def State.fillSlots (s : State) (d : Nat) (g : Grid) : Nat → State
  | 0 => s
  | k + 1 =>
    match (s.die d).grids.find? (fun x => x.id == g.id && x.part == g.part) with
    | none => s
    | some g =>
      match s.fillSlot d g with
      | none => s
      | some s => s.fillSlots d g k

/-! ### Decisions (R401 to R403) -/

/-- The code of a record's queue: partition and priority (R401). -/
def Grid.queue (g : Grid) : Nat := g.part * 16 + g.prio

/-- The queues with each record's priority read again: one whose priority has changed moves to the tail (R401). -/
def State.requeue (s : State) (d : Nat) : State :=
  let k := s.die d
  let fresh := k.queue.map (fun g => (g.prio == s.eff 0 g.rcb, { g with prio := s.eff 0 g.rcb }))
  s.setDie d { k with queue := (fresh.filter Prod.fst).map Prod.snd ++ (fresh.filter (fun e => !e.1)).map Prod.snd }

/-- The placements that admit a head record now (R402, R383); none where it is not admissible. -/
def State.admission (s : State) (g : Grid) : List (List CoreId) :=
  if s.held g.rcb ∨ s.decides g.part = false then []
  else
    let ms := s.placeMany g [] (min g.nteams (s.room 1 g.rcb / max 1 g.cores))
    if (ms.flatten.map ridgeOf).dedup.length ≤ s.room 2 g.rcb then ms else []

/-- The head of a queue. -/
def Die.head (k : Die) (q : Nat) : Option Grid := k.queue.find? (fun g => g.queue == q)

/-- The contenders of a decision with their weights, in ascending order. -/
def State.contenders (s : State) (d : Nat) : List (Nat × Nat) :=
  (List.range 128).filterMap (fun q =>
    match (s.die d).head q with
    | some g => if s.admission g ≠ [] then some (q, g.prio + 1) else none
    | none => none)

/-- Admits a head record: it charges its region, and its first teams start (R402). -/
def State.admitHead (s : State) (d : Nat) (g : Grid) : State :=
  let ms := s.admission g
  let ridges := (ms.flatten.map ridgeOf).dedup.length
  let g' := { g with slots := ms.length, next := ms.length - 1, chargedCores := g.cores * ms.length, chargedRidges := ridges }
  let k := s.die d
  let s := s.setDie d { k with queue := k.queue.erase g, grids := k.grids ++ [g'] }
  let s := s.charge g.rcb (fun a b => a + b) g'.chargedCores g'.chargedRidges
  ms.zipIdx.foldl (fun s m => s.launchTeam d g' m.2 m.1) s

/-- Steps 2 to 4 of a decision (R401). -/
def State.admitAll (s : State) (d : Nat) : Nat → State
  | 0 => s
  | n + 1 =>
    let k := s.die d
    let cs := s.contenders d
    match weigh k.credit k.contenders k.lastQueue cs with
    | none => s.setDie d { k with contenders := [], credit := [] }
    | some (q, credit) =>
      match k.head q with
      | none => s
      | some g =>
        let s := s.setDie d { k with credit, contenders := cs.map Prod.fst, lastQueue := q }
        (s.admitHead d g).admitAll d n

/-! ### Quanta (R407, R446) -/

/-- The grid of a team. -/
def State.gridOfTeam (s : State) (t : Nat) : Option (Nat × Grid) :=
  let k := s.team t
  ((s.die k.die).grids.find? (fun g => g.id == k.grid && g.part == k.part)).map (fun g => (k.die, g))

/-- A yield request to every context of a member's bank; the notice is one event (R446). -/
def State.requestYields (s : State) (b : Nat) (deadline : Word) : State :=
  let s := (List.range 8).foldl (fun s n => s.setCtx (ctxIn b n) { s.ctx (ctxIn b n) with yreq := deadline }) s
  s.yieldNotice (ctxIn b 0) deadline

/-- A team's quantum ends: its contexts get the yield request with its deadline (R407, R446). -/
def State.expire (s : State) (t deadline : Nat) : State :=
  let k := s.team t
  let s := s.setTeam t { k with state := .leaving, deferred := false }
  k.members.foldl (fun (s : State) c => s.requestYields (s.activeBank c) (BitVec.ofNat 64 deadline)) s

/-- The teams of a die whose deferred expiry may be taken, in team index order (R406, R407). -/
def State.deferredTeams (s : State) (d : Nat) : List Nat :=
  let due (e : Nat × Team) : Bool :=
    e.2.deferred && e.2.state == .resident && e.2.die == d && !s.held e.2.rcb && s.decides e.2.part &&
    (match s.gridOfTeam e.1 with | some (d, g) => s.waiting d g | none => false)
  ((s.teams.filter due).mergeSort (fun a b => decide (a.2.index ≤ b.2.index))).map Prod.fst

/-! ### A decision (R401) -/

/-- A decision of a die's dispenser (R401); the expiries that were deferred while their region was held come first (R406). -/
def State.decision (s : State) (d : Nat) : State :=
  let s := (s.deferredTeams d).foldl (fun s t => s.expire t (s.time + 64000)) s
  let s := (s.die d).grids.foldl (fun s g => s.fillSlots d g g.slots) s
  let s := s.requeue d
  s.admitAll d ((s.die d).queue.length + 1)

/-- The handler tables that launches of a die's grids may read need no wait (R187, R414). -/
def State.tablesFree (s : State) (d : Nat) : Bool :=
  let k := s.die d
  (k.queue ++ k.grids).all (fun g => s.partFree g.part (g.words.getD 5 0).toNat 2048)

/-- DISPENSER_DECISION: the dispenser of the focus core's die decides (R401). -/
def execDispenserDecision (s : State) : Result :=
  runStep (do
    let s ← get
    await (!s.crashed && decide (s.focus < 1024) && s.tablesFree (dieOf s.focus))
    set (s.decision (dieOf s.focus))) s

/-! ### Quanta, yields and team swaps (R34, R407, R446, R447) -/

/-- QUANTUM_EXPIRE: a resident team's quantum has passed while another waits: its contexts get the yield request (R407); in a held region
the expiry is deferred (R406). -/
def execQuantumExpire (team : Nat) (s : State) : Result :=
  runStep (do
    let s ← get
    let k := s.team team
    match s.gridOfTeam team with
    | none => stall
    | some (d, g) => do
      let q := (s.part k.part).quanta
      await (k.state == .resident && decide (k.quantum ≤ q) && s.waiting d g && !k.deferred && s.decides k.part)
      set (if s.held k.rcb then s.setTeam team { k with deferred := true } else s.expire team (s.time - (q - k.quantum) + 64000))) s

/-- A context counts as out of the way of its team's swap. -/
def Ctx.settled (x : Ctx) : Bool := x.yielded || x.run == .dormant || x.run == .exited || x.run == .parked

/-- YIELD_DEADLINE: at the deadline every context of the current context's bank that is neither yielded nor dormant is taken (R447). -/
def execYieldDeadline (s : State) : Result :=
  runStep (do
    let s ← get
    let b := bankOf s.cur
    let x := s.me
    await (x.yreq != BitVec.allOnes 64 && decide (x.yreq.toNat ≤ s.time) && !(s.part x.part).out && !s.crashed)
    let ids := ((List.range 8).map (ctxIn b)).filter (fun c => !(s.ctx c).settled)
    await (!ids.isEmpty)
    set (ids.foldl (fun (s : State) c => s.setCtx c { s.ctx c with yielded := true }) s)) s

/-- A leaving team may be swapped out: its contexts have yielded or been taken, and its engine work and its ridges' commands are done
(R159, R188, R262); nothing moves under a stop or freeze (R432, R434). -/
def State.swappable (s : State) (t : Nat) : Bool :=
  let k := s.team t
  k.members.all (fun c =>
    let b := s.activeBank c
    s.bankTeam b == some t && (List.range 8).all (fun n =>
      let c := ctxIn b n
      (s.ctx c).settled && !s.hasWork c && !(s.halted c && (s.ctx c).run != .parked && (s.ctx c).run != .exited))) &&
  (ridgesOf k.members).all (fun e => (s.ridge e.1).jobs.isEmpty || !s.ownRidge t e.1)

/-- TEAM_SWAP: a leaving team is swapped out whole, and the next waiting team of its grid takes its slot (R34, R407). -/
def execTeamSwap (team : Nat) (s : State) : Result :=
  runStep (do
    let s ← get
    await ((s.team team).state == .leaving && s.swappable team)
    match s.gridOfTeam team with
    | none => stall
    | some (d, g) => do
      await (s.tablesFree d)
      let s := s.swapOut team
      set ((s.fillSlot d g).getD s)) s

/-! ### Leases (R56, R410) -/

/-- The cores of a ridge that contend for its array, with their weights (R410). -/
def State.leaseContenders (s : State) (r : Nat) : List (Nat × Nat) :=
  (List.range 8).filterMap (fun i =>
    match s.leaseWaiters (r * 8 + i) with
    | [] => none
    | c :: _ => some (i, s.eff 0 (s.ctx c).rcba.toNat + 1))

/-- LEASE_GRANT: the arbiter of the focus core's ridge grants the idle array by weighted choice, once no ridge exchange is under way
(R410, R442). -/
def execLeaseGrant (s : State) : Result :=
  runStep (do
    let s ← get
    let r := ridgeOf s.focus
    let g := s.ridge r
    await (g.lease.isNone && g.flips.isEmpty)
    let cs := s.leaseContenders r
    match weigh g.credit g.contenders g.lastGrant cs with
    | none => stall
    | some (i, credit) =>
      match s.leaseWaiters (r * 8 + i) with
      | [] => stall
      | c :: _ => set (s.setRidge r { g with lease := some ⟨c, 64, s.time⟩, credit, contenders := cs.map Prod.fst, lastGrant := i })) s

/-- LEASE_TIMEOUT: the focus core's ridge's lease ends 50 µs after its grant (R56). -/
def execLeaseTimeout (s : State) : Result :=
  runStep (do
    let s ← get
    let r := ridgeOf s.focus
    let g := s.ridge r
    match g.lease with
    | none => stall
    | some l => do
      await (decide (l.since + 50000 ≤ s.time))
      set (s.setRidge r { g with lease := none })) s

end Sys2Proof.Machine
end

