-- ==== Sys2Proof/Machine/Vector.lean ====
section
/-! DEFINITION. Page 2 (R155 to R171): vector memory, lane arithmetic, compares, conversions, q4 pairs, reductions and moves. -/

namespace Sys2Proof.Machine

/-- trap(0, 19) unless the instruction accepts the element type (R156, R158). -/
def accepts (ok : Bool) : M Unit := require ok 0 19

/-! ### Memory (R160 to R162) -/

/-- Bytes of a lane in memory: q4 moves bytes of two codes (R162). -/
def laneBytes (q : QType) : Nat := if q = 7 then 1 else laneWidth q / 8

/-- The addresses of the lanes of a run, a strided and an indexed access (R160). -/
def runAddrs (q : QType) (ea : Word) : List Word :=
  (List.range (512 / laneBytes q)).map (fun i => ea + BitVec.ofNat 64 (i * laneBytes q))
/-- Strided lanes. -/
def stridedAddrs (q : QType) (base stride : Word) : List Word :=
  (List.range (laneCount q)).map (fun i => base + BitVec.ofNat 64 i * stride)
/-- Indexed lanes. -/
def indexedAddrs (q : QType) (base : Word) (idx : VWord) : List Word :=
  (lanesOf (laneWidth q) idx).map (fun x => offsetAddr base (toSigned (laneWidth q) x) (laneBytes q))

/-- A lane's locations; a class 1 or class 2 cause of its address names the lane's address (R161). -/
def laneLocs (acc : Acc) (ea : Word) (n : Nat) : M (List Nat) := fun s =>
  match locate acc ea n s with
  | .error (.trap t) => .error (.trap (if t.cls = 1 ∨ t.cls = 2 then { t with addr := ea } else t))
  | r => r

/-- The locations of lanes: all are checked before any performs (R161). -/
def lanesLocs (acc : Acc) (lanes : List (Word × Nat)) : M (List (List Nat)) := underPins (fun p => laneLocs acc p.1 p.2) lanes

/-- A vector load: every lane is translated and checked before any is read (R161). -/
def vectorLoad (q : QType) (d : VReg) (la : La) (eas : List Word) : M Unit := do
  let n := laneBytes q
  let s ← get
  let sc := eas.any (fun ea => s.touchesSC .load ea n)
  let lanes := eas.map (fun ea => (ea, n))
  let locs ← lanesLocs .load lanes
  awaitOwn locs.flatten
  let xs ← locs.mapM (fun ls => do return leNat (← readBytes ls))
  late (if sc then 0 else la) (.v d) 0 (ofLanes (8 * n) xs)

/-- The bytes of a vector's lanes as stored. -/
def laneData (q : QType) (v : VWord) : List (List Byte) := (lanesOf (8 * laneBytes q) v).map (leBytes (laneBytes q))

/-- Whether a lane lies in the scratch of the context's own core. -/
def State.ownLane (s : State) (ea : Word) : Bool := isAperture ea && s.apertureCore s.me.part ea == some (coreOf s.cur)

/-- Logs what a vector store changes: one irrevocable mark, before all entries, where lanes lie in other cores' scratch, and one entry for
each aligned word, in lane order (R162; the number and place of the marks: log 78). -/
def logLanes (op : Nat) (items : List ((Word × List Byte) × List Nat)) : M Unit := do
  let s ← get
  let x := s.me
  if x.logging then
    let far (ea : Word) : Bool := isAperture ea && !s.ownLane ea
    let near := items.filter (fun i => !far i.1.1)
    await (s.stillHere ((near.filter (fun i => isAperture i.1.1)).flatMap Prod.snd))
    if items.any (fun i => far i.1.1) then
      await (!x.speculates) .earliest
      pushTrail 0 (irrevocable 2 op x.pc)
    let words := near.flatMap (fun i => (storedWords i.1.1 i.2).map (fun w => (i.1.1, w.1, w.2)))
    let firsts := words.foldl (fun acc w => if acc.any (fun v => v.2.1 == w.2.1) then acc else acc ++ [w]) []
    firsts.forM (fun w => logWord w.1 w.2.1 w.2.2)

/-- Performs one lane of a vector store: in the aperture a stream 0, class 0 packet (R162). -/
def performLane (i : (Word × List Byte) × List Nat) : M Unit := do
  let s ← get
  if isAperture i.1.1 then
    match s.apertureCore s.me.part i.1.1 with
    | none => pure ()
    | some c => do
      let id ← sendPacket 0 0 (.core c) (.store i.1.1 i.1.2)
      if s.ownLane i.1.1 && s.me.logging then markLogged id
  else perform i.2 i.1.2

/-- A vector store (R161, R162): every lane is checked, then logged, and the lanes perform in order; a store of a whole line clears its
poison (R211). One with a lane on an SC page is one access there: the next bundle waits for its packets too (R133). -/
def vectorStore (op : Nat) (q : QType) (v : VWord) (eas : List Word) : M Unit := do
  let parts := eas.zip (laneData q v)
  let locs ← lanesLocs .store (parts.map (fun p => (p.1, p.2.length)))
  let items := parts.zip locs
  let s ← get
  let plain := (items.filter (fun i => !isAperture i.1.1)).flatMap Prod.snd
  awaitOwn plain
  let ordered := s.me.task.isSome || s.me.logging
  meet true ((items.filter (fun i => !isAperture i.1.1 || (ordered && s.ownLane i.1.1))).flatMap Prod.snd)
  logLanes op items
  items.forM performLane
  let sent (s' : State) : List Nat := (List.range (s'.packetNext - s.packetNext)).map (s.packetNext + ·)
  modify (fun s' => (if s'.me.strict then s'.setMe { s'.me with owed := sent s' } else s').cleanse plain)

/-- vld (R160). -/
def execVld (d : VReg) (a : GReg) (imm : Int) (q : QType) (la : La) (s : State) : Result :=
  runBundle (do
    issue [a] [] [] [d]
    let base ← readG a
    vectorLoad q d la (runAddrs q (offsetAddr base imm 512))) s
/-- vst (R160). -/
def execVst (d : VReg) (a : GReg) (imm : Int) (q : QType) (s : State) : Result :=
  runBundle (do
    issue [a] [] [d] []
    let base ← readG a
    let v ← readV d
    vectorStore 1 q v (runAddrs q (offsetAddr base imm 512))) s
/-- vlds (R160). -/
def execVlds (d : VReg) (a b : GReg) (q : QType) (la : La) (s : State) : Result :=
  runBundle (do
    accepts (q != 7)
    issue [a, b] [] [] [d]
    let base ← readG a
    let stride ← readG b
    vectorLoad q d la (stridedAddrs q base stride)) s
/-- vsts (R160). -/
def execVsts (d : VReg) (a b : GReg) (q : QType) (s : State) : Result :=
  runBundle (do
    accepts (q != 7)
    issue [a, b] [] [d] []
    let base ← readG a
    let stride ← readG b
    let v ← readV d
    vectorStore 3 q v (stridedAddrs q base stride)) s
/-- vldx (R160). -/
def execVldx (d : VReg) (a : GReg) (b : VReg) (q : QType) (la : La) (s : State) : Result :=
  runBundle (do
    accepts (q != 7)
    issue [a] [] [b] [d]
    let base ← readG a
    let idx ← readV b
    vectorLoad q d la (indexedAddrs q base idx)) s
/-- vstx (R160). -/
def execVstx (d : VReg) (a : GReg) (b : VReg) (q : QType) (s : State) : Result :=
  runBundle (do
    accepts (q != 7)
    issue [a] [] [b, d] []
    let base ← readG a
    let idx ← readV b
    let v ← readV d
    vectorStore 5 q v (indexedAddrs q base idx)) s

/-! ### Lane arithmetic (R163 to R165) -/

/-- A floating-point type (q 0 to 3). -/
def isFloat (q : QType) : Bool := decide (q.val < 4)
/-- An integer type (q 4 to 6). -/
def isInt (q : QType) : Bool := decide (4 ≤ q.val) && decide (q.val < 7)

/-- A two-operand lane result: floating-point rounded to nearest-even, integers modulo 2^w (R163). -/
def laneOp (q : QType) (ff : Val → Val → Val) (fi : Int → Int → Int) (a b : Nat) : Nat :=
  match elemOf q with
  | .flt f => f.encode .rne (ff (f.decode a) (f.decode b))
  | .int w => wrapBits w (fi (toSigned w a) (toSigned w b))
  | .q4 => 0

/-- A two-operand vector instruction over lanes. -/
def lanewise (ok : Bool) (q : QType) (f : Nat → Nat → Nat) (d a b : VReg) : M Unit := do
  accepts ok
  issue [] [] [a, b] [d]
  let x ← readV a
  let y ← readV b
  writeV d (ofLanes (laneWidth q) (List.zipWith f (lanesOf (laneWidth q) x) (lanesOf (laneWidth q) y)))

/-- A lane instruction that also reads d as data (R163 vfma, R165 vsel). -/
def lanewise3 (ok : Bool) (q : QType) (f : Nat → Nat → Nat → Nat) (d a b : VReg) : M Unit := do
  accepts ok
  issue [] [] [a, b, d] [d]
  let x ← readV a
  let y ← readV b
  let z ← readV d
  let xy := (lanesOf (laneWidth q) x).zip (lanesOf (laneWidth q) y)
  writeV d (ofLanes (laneWidth q) (List.zipWith (fun p c => f p.1 p.2 c) xy (lanesOf (laneWidth q) z)))

/-- A one-operand vector instruction over lanes. -/
def lanewise1 (ok : Bool) (q : QType) (f : Nat → Nat) (d a : VReg) : M Unit := do
  accepts ok
  issue [] [] [a] [d]
  let x ← readV a
  writeV d (ofLanes (laneWidth q) ((lanesOf (laneWidth q) x).map f))

/-- vadd (R163). -/
def execVadd (d a b : VReg) (q : QType) (s : State) : Result :=
  runBundle (lanewise (q != 7) q (laneOp q Val.add (· + ·)) d a b) s
/-- vsub (R163). -/
def execVsub (d a b : VReg) (q : QType) (s : State) : Result :=
  runBundle (lanewise (q != 7) q (laneOp q Val.sub (· - ·)) d a b) s
/-- vmul (R163). -/
def execVmul (d a b : VReg) (q : QType) (s : State) : Result :=
  runBundle (lanewise (q != 7) q (laneOp q Val.mul (· * ·)) d a b) s
/-- vmin (R163). -/
def execVmin (d a b : VReg) (q : QType) (s : State) : Result :=
  runBundle (lanewise (q != 7) q (laneOp q Val.min (fun x y => if x ≤ y then x else y)) d a b) s
/-- vmax (R163). -/
def execVmax (d a b : VReg) (q : QType) (s : State) : Result :=
  runBundle (lanewise (q != 7) q (laneOp q Val.max (fun x y => if x ≤ y then y else x)) d a b) s

/-- One lane of vfma: one rounding (R163). -/
def laneFma (q : QType) (a b d : Nat) : Nat :=
  match elemOf q with
  | .flt f => f.encode .rne (((f.decode a).mul (f.decode b)).add (f.decode d))
  | .int w => wrapBits w (toSigned w a * toSigned w b + toSigned w d)
  | .q4 => 0
/-- vfma (R163). -/
def execVfma (d a b : VReg) (q : QType) (s : State) : Result := runBundle (lanewise3 (q != 7) q (laneFma q) d a b) s

/-- A bitwise vector instruction on all 4,096 bits (R163). -/
def bitwise (f : VWord → VWord → VWord) (d a b : VReg) : M Unit := do
  issue [] [] [a, b] [d]
  let x ← readV a
  let y ← readV b
  writeV d (f x y)
/-- vand (R163): every q is accepted, and q4 combines the codes of the named registers. -/
def execVand (d a b : VReg) (_q : QType) (s : State) : Result := runBundle (bitwise (· &&& ·) d a b) s
/-- vor (R163). -/
def execVor (d a b : VReg) (_q : QType) (s : State) : Result := runBundle (bitwise (· ||| ·) d a b) s
/-- vxor (R163). -/
def execVxor (d a b : VReg) (_q : QType) (s : State) : Result := runBundle (bitwise (· ^^^ ·) d a b) s

/-- vshl, integer types only (R163). -/
def execVshl (d a b : VReg) (q : QType) (s : State) : Result :=
  runBundle (lanewise (isInt q) q (fun x y => x * 2 ^ (y % laneWidth q) % 2 ^ laneWidth q) d a b) s
/-- vshr, integer types only: arithmetic (R163). -/
def execVshr (d a b : VReg) (q : QType) (s : State) : Result :=
  runBundle (lanewise (isInt q) q
    (fun x y => wrapBits (laneWidth q) (toSigned (laneWidth q) x / (2 ^ (y % laneWidth q) : Int))) d a b) s

/-- The order of two lanes: integers as signed (R164). -/
def laneCmp (q : QType) (a b : Nat) : Option Ordering := ((elemOf q).value a).cmp ((elemOf q).value b)
/-- A mask lane (R164). -/
def maskLane (q : QType) (b : Bool) : Nat := if b then 2 ^ laneWidth q - 1 else 0
/-- vcmpeq (R164). -/
def execVcmpeq (d a b : VReg) (q : QType) (s : State) : Result :=
  runBundle (lanewise (q != 7) q (fun x y => maskLane q (laneCmp q x y == some .eq)) d a b) s
/-- vcmplt (R164). -/
def execVcmplt (d a b : VReg) (q : QType) (s : State) : Result :=
  runBundle (lanewise (q != 7) q (fun x y => maskLane q (laneCmp q x y == some .lt)) d a b) s
/-- vsel (R165). -/
def execVsel (d a b : VReg) (q : QType) (s : State) : Result :=
  runBundle (lanewise3 (q != 7) q (fun x y m => if m ≠ 0 then x else y) d a b) s
/-- vmcnt (R165). -/
def execVmcnt (d : GReg) (a : VReg) (q : QType) (s : State) : Result :=
  runBundle (do
    accepts (q != 7)
    issue [] [d] [a] []
    let x ← readV a
    writeG d (BitVec.ofNat 64 ((lanesOf (laneWidth q) x).filter (· != 0)).length)) s

/-! ### Conversions (R166 to R168) -/

/-- One element converted between types (R106). -/
def convertElem (src dst : QType) (x : Nat) : Nat := (elemOf dst).ofVal .rne ((elemOf src).value x)
/-- vcvt (R166). -/
def execVcvt (d a : VReg) (code : Fin 8) (q : QType) (s : State) : Result :=
  runBundle (do
    accepts (q != 7 && code != 7)
    issue [] [] [a] [d]
    let x ← readV a
    writeV d (ofLanes (laneWidth q) (((lanesOf (laneWidth code) x).take (laneCount q)).map (convertElem code q)))) s

/-- The number of registers in a group of 1,024 elements (R157). -/
def groupSize (q : QType) : Nat := 1024 / laneCount q
/-- Register j of a group. -/
def groupReg (a : VReg) (j : Nat) : VReg := ⟨(a.val + j) % 32, Nat.mod_lt _ (by decide)⟩
/-- A group that lies within the 32 registers (R157). -/
def groupFits (q : QType) (a : VReg) : Bool := decide (a.val + groupSize q ≤ 32)

/-- Packs blocks in order, drawing as they go (R111 to R114, R167). -/
def packBlocks (mode : Nat) : List (List Val) → Word → List Nat × List Nat × Word
  | [], g => ([], [], g)
  | b :: bs, g =>
    let (cs, sc, g') := packBlock mode b g
    let (cs', scs, g'') := packBlocks mode bs g'
    (cs ++ cs', sc :: scs, g'')

/-- vpack4 (R167). -/
def execVpack4 (d a : VReg) (code : Fin 8) (q : QType) (la : La) (s : State) : Result :=
  runBundle (do
    accepts (q != 7)
    require (d != 31 && groupFits q a) 0 13
    let regs := (List.range (groupSize q)).map (groupReg a)
    issue [] [] regs [d, d + 1]
    let vs ← regs.mapM readV
    let xs := (vs.flatMap (lanesOf (laneWidth q))).map (elemOf q).value
    let (cs, scs, g) := packBlocks code.val (chunks 32 32 xs) (← getMe).rng
    modifyMe (fun x => { x with rng := g })
    late la (.v d) 0 (ofLanes 4 cs)
    late la (.scales (d + 1)) 0 (ofLanes 8 scs)) s

/-- The values of a q4 pair's elements (R22, R110). -/
def pairValues (codes scales : VWord) : List Val :=
  let cs := lanesOf 4 codes
  let ss := (lanesOf 8 scales).take 32
  (cs.zip (List.range 1024)).map (fun p => codeValue (ss.getD (p.2 / 32) 0) p.1)

/-- vunpk4 (R168). -/
def execVunpk4 (d a : VReg) (q : QType) (s : State) : Result :=
  runBundle (do
    accepts (q != 7)
    require (a != 31 && groupFits q d) 0 13
    let regs := (List.range (groupSize q)).map (groupReg d)
    issue [] [] [a, a + 1] regs
    let codes ← readV a
    let scales ← readV (a + 1)
    let xs := (pairValues codes scales).map ((elemOf q).ofVal .rne)
    (regs.zip (chunks (laneCount q) (groupSize q) xs)).forM (fun p => writeV p.1 (ofLanes (laneWidth q) p.2))) s

/-! ### Reductions (R115, R169) -/

/-- A reduction: floating-point lanes, q4 included, as f32 values; integers exactly (R115). -/
def reduce (ff : Val → Val → Val) (fi : Int → Int → Int) (d : GReg) (a : VReg) (q : QType) : M Unit := do
  require (q != 7 || a != 31) 0 13
  issue [] [d] (if q = 7 then [a, a + 1] else [a]) []
  let x ← readV a
  match elemOf q with
  | .int w => writeG d (BitVec.ofInt 64 (treeReduce fi 0 12 ((lanesOf w x).map (toSigned w))))
  | .flt f => writeG d (BitVec.ofNat 64 (Fmt.f32.encode .rne (treeReduce ff .nan 12 ((lanesOf f.width x).map f.decode))))
  | .q4 => do
    let y ← readV (a + 1)
    writeG d (BitVec.ofNat 64 (Fmt.f32.encode .rne (treeReduce ff .nan 12 (pairValues x y))))

/-- vredsum (R169). -/
def execVredsum (d : GReg) (a : VReg) (q : QType) (s : State) : Result := runBundle (reduce addF32 (· + ·) d a q) s
/-- vredmax (R169). -/
def execVredmax (d : GReg) (a : VReg) (q : QType) (s : State) : Result :=
  runBundle (reduce Val.max (fun x y => if x ≤ y then y else x) d a q) s
/-- vredmin (R169). -/
def execVredmin (d : GReg) (a : VReg) (q : QType) (s : State) : Result :=
  runBundle (reduce Val.min (fun x y => if x ≤ y then x else y) d a q) s

/-! ### Moves (R170) -/

/-- vbcast (R170). -/
def execVbcast (d : VReg) (a : GReg) (q : QType) (s : State) : Result :=
  runBundle (do
    accepts (q != 7)
    issue [a] [] [] [d]
    let x ← readG a
    writeV d (ofLanes (laneWidth q) (List.replicate (laneCount q) x.toNat))) s
/-- vext (R170). -/
def execVext (d : GReg) (a : VReg) (imm : Nat) (q : QType) (s : State) : Result :=
  runBundle (do
    require (decide (imm < laneCount q)) 0 9
    issue [] [d] [a] []
    let x ← readV a
    let lane := (lanesOf (laneWidth q) x).getD imm 0
    writeG d (if isInt q then BitVec.ofInt 64 (toSigned (laneWidth q) lane) else BitVec.ofNat 64 lane)) s
/-- vins (R170). -/
def execVins (d : VReg) (a : GReg) (imm : Nat) (q : QType) (s : State) : Result :=
  runBundle (do
    require (decide (imm < laneCount q)) 0 9
    issue [a] [] [d] [d]
    let x ← readG a
    let v ← readV d
    writeV d (ofLanes (laneWidth q) ((lanesOf (laneWidth q) v).set imm x.toNat))) s
/-- vperm (R170). -/
def execVperm (d a b : VReg) (q : QType) (s : State) : Result :=
  runBundle (do
    accepts (q != 7)
    issue [] [] [a, b] [d]
    let x ← readV a
    let y ← readV b
    let src := lanesOf (laneWidth q) x
    let l := min (laneCount q) 256
    let idx := (lanesOf (laneWidth q) y).zip (List.range (laneCount q))
    writeV d (ofLanes (laneWidth q) (idx.map (fun p => src.getD (256 * (p.2 / 256) + p.1 % l) 0)))) s
/-- vmov: for q4 the scales move too (R170). -/
def execVmov (d a : VReg) (q : QType) (s : State) : Result :=
  runBundle (do
    require (q != 7 || (d != 31 && a != 31)) 0 13
    issue [] [] (if q = 7 then [a, a + 1] else [a]) (if q = 7 then [d, d + 1] else [d])
    let x ← readV a
    if q = 7 then
      let y ← readV (a + 1)
      writeV d x
      let old := (← getMe).v[(d + 1).val]
      writeV (d + 1) (withScales old y)
    else writeV d x) s
/-- viota (R170). -/
def execViota (d : VReg) (q : QType) (s : State) : Result :=
  runBundle (do
    accepts (q != 7)
    issue [] [] [] [d]
    let lane (i : Nat) : Nat :=
      match elemOf q with
      | .flt f => f.encode .rne (Val.ofInt i)
      | .int w => i % 2 ^ w
      | .q4 => 0
    writeV d (ofLanes (laneWidth q) ((List.range (laneCount q)).map lane))) s

/-! ### Reciprocals, square roots, powers and scaling (R163, R171) -/

/-- One correctly rounded lane (R171). -/
def laneFn (q : QType) (f : Val → Val) (x : Nat) : Nat :=
  match elemOf q with
  | .flt t => t.encode .rne (f (t.decode x))
  | _ => 0
/-- vrcp (R171). -/
def execVrcp (d a : VReg) (q : QType) (s : State) : Result :=
  runBundle (lanewise1 (decide (q.val < 2)) q (laneFn q Val.recip) d a) s
/-- vrsq (R171). -/
def execVrsq (d a : VReg) (q : QType) (s : State) : Result :=
  runBundle (lanewise1 (decide (q.val < 2)) q (laneFn q Val.rsqrt) d a) s
/-- vexp (R171). -/
def execVexp (d a : VReg) (q : QType) (s : State) : Result :=
  runBundle (lanewise1 (decide (q.val < 2)) q (laneFn q Val.exp2) d a) s
/-- vscal (R163). -/
def execVscal (d a : VReg) (b : GReg) (q : QType) (s : State) : Result :=
  runBundle (do
    accepts (isFloat q)
    issue [b] [] [a] [d]
    let n ← readG b
    let x ← readV a
    writeV d (ofLanes (laneWidth q) ((lanesOf (laneWidth q) x).map (laneFn q (Val.scale n.toInt))))) s

end Sys2Proof.Machine
end

