-- ==== Sys2Proof/Machine/Matrix.lean ====
section
/-! DEFINITION. Page 3 (R172 to R197): leases, format contexts, array and index-engine commands, and their completion. -/

namespace Sys2Proof.Machine

/-! ### Ridge state (R173, R174) -/

/-- The location of a tile element (R174, R437). -/
def tileLoc (r t i j : Nat) : Nat := ridgeLoc r (t * 2 ^ 19 + (i * 256 + j) * 4)
/-- The location of a byte of a B-store slice (R173, R437). -/
def sliceLoc (r c off : Nat) : Nat := ridgeLoc r (2 ^ 23 + c * 65536 + off)

/-- Bytes that k elements of a type take (R173, R183). -/
def elemRun (t : QType) (k : Nat) : Nat := if t = 7 then k / 2 else k * (laneWidth t / 8)
/-- Capacity of a slice (R173). -/
def sliceCapacity (t : QType) : Nat := if t = 7 then 114688 else 65536 / (laneWidth t / 8)

/-- The ridge of the current context. -/
def State.myRidge (s : State) : Nat := ridgeOf (coreOf s.cur)

/-! ### Leases (R56, R177, R190) -/

/-- The lease that the current context holds. -/
def State.myLease (s : State) : Option Lease :=
  match (s.ridge s.myRidge).lease with
  | some l => if l.ctx = s.cur then some l else none
  | none => none

/-- Waits for the lease (R177). -/
def awaitLease : M Unit := do await (← get).myLease.isSome .lease

/-- Counts an accepted command against the lease, which ends with its 64th (R56). -/
def State.countLease (s : State) : State :=
  match s.myLease with
  | none => s
  | some l =>
    let g := s.ridge s.myRidge
    s.setRidge s.myRidge { g with lease := if l.left ≤ 1 then none else some { l with left := l.left - 1 } }

/-- mlease (R190). -/
def execMlease (d : GReg) (s : State) : Result :=
  runBundle (do
    issue [] [d] [] []
    let s ← get
    match s.myLease with
    | none => stall .lease
    | some l => writeG d (if s.me.wait = .lease then 64 else BitVec.ofNat 64 (0x80 ||| l.left))) s
/-- mfree (R190). -/
def execMfree (s : State) : Result := runBundle (modify (fun s => s.endLease s.cur)) s

/-! ### Format contexts (R172, R176, R191) -/

/-- The valid format pairs of a ridge (R172). -/
def pairValid (broad : Bool) (ta tb : Nat) : Bool :=
  if broad then (ta == 1 && tb == 1) || ((ta == 2 || ta == 3) && (tb == 2 || tb == 3)) || (ta == 6 && tb == 6)
  else ta == 7 && tb == 7

/-- A typed command accepts every q but f32, s32 and s16 (R185). -/
def typed (q : QType) : M Unit := accepts (q != 0 && q != 4 && q != 5)

/-- mfmt (R191). -/
def execMfmt (a : GReg) (q : QType) (s : State) : Result :=
  runBundle (do
    typed q
    issue [a] [] [] []
    let ea ← readG a
    require (decide (ea.toNat % 8 = 0)) 4 0
    let w ← loadWord .load ea
    require (decide (w.toNat < 64)) 4 0
    let ta := w.toNat % 8
    let tb := w.toNat / 8
    require (pairValid (broadCore (coreOf (← get).cur)) ta tb && tb == q.val) 4 3
    modifyCore (fun k => { k with ta := ⟨ta, Nat.mod_lt _ (by decide)⟩, tb := q, ovf := false })) s

/-! ### Descriptors (R181 to R184) -/

/-- A matrix descriptor's fields (R181). -/
structure MDesc where
  addr : Word
  stride : Word
  kn : Nat
  nm1 : Nat
  mm1 : Nat
  k0 : Nat
  col0 : Nat
  row0 : Nat
  list : Word
  scales : Word
  deriving DecidableEq, Repr

/-- The descriptor that eight words give; none where a reserved field is set (R181). -/
def mdesc (ws : List Word) : Option MDesc :=
  let w2 := ws.getD 2 0
  let w3 := ws.getD 3 0
  let clean (w : Word) : Bool := field w 63 49 == 0 && field w 31 24 == 0 && field w 15 9 == 0
  if clean w2 && clean w3 && ws.getD 6 0 == 0 && ws.getD 7 0 == 0 then
    some { addr := ws.getD 0 0, stride := ws.getD 1 0, kn := field w2 48 32, nm1 := field w2 23 16, mm1 := field w2 8 0,
           k0 := field w3 48 32, col0 := field w3 23 16, row0 := field w3 8 0, list := ws.getD 4 0, scales := ws.getD 5 0 }
  else none

/-- Reads a descriptor (R178, R181). -/
def loadDesc (ea : Word) : M MDesc := do
  require (decide (ea.toNat % 64 = 0)) 4 0
  let bs ← loadBytes .load ea 64
  match mdesc ((List.range 8).map (fun i => BitVec.ofNat 64 (leNat ((bs.drop (8 * i)).take 8)))) with
  | some d => pure d
  | none => trap 4 0

/-- A list of numbers of n bytes each. -/
def listOf (count n : Nat) (bs : List Byte) : List Nat := (List.range count).map (fun i => leNat ((bs.drop (n * i)).take n))

/-- Reads a list of numbers of n bytes each (R178), as a load (R418). -/
def loadList (ea : Word) (count n : Nat) : M (List Nat) := return listOf count n (← loadBytes .load ea (count * n))

/-- The modifier's fields that a command uses must be the only ones set (R184). -/
def modifierOk (used : Word) (w : Word) : M Unit := require (decide (w &&& ~~~used = 0)) 4 0

/-- Accepts a command into the array or the index engine: the next job id, its claims on its destination and on the source lines that it
holds, and its place in order (R178, R179, R220). -/
def acceptJob (walk counted notify : Bool) (cmd : Cmd) (dests held : List Nat) : M Word := do
  let s ← get
  let core := coreOf s.cur
  let k := s.core core
  let id := k.jobNewest + 1
  let s := s.setCore core { k with jobNewest := id, jobs := newJob k.jobs id.toNat }
  let job : Job := { ctx := s.cur, source := s.me.source, id := id.toNat, notify, cmd, claims := linesOf dests ++ held }
  let g := s.ridge s.myRidge
  let s := s.setRidge s.myRidge (if walk then { g with walks := g.walks ++ [job] } else { g with jobs := g.jobs ++ [job] })
  set (if counted then s.countLease else s)
  pure (id.setWidth 64)

/-- Parts of a command's source: their locations, once the context's own stores to them have landed (R186), and the lines that it
holds. -/
def sourceLocs (parts : List (Word × Nat)) : M (List (List Nat) × List Nat) := do
  let s ← get
  let ls ← locateAll .engineRead parts
  awaitOwn ls.flatten
  pure (ls, s.heldSources .engineRead parts ls)

/-- The locations of rows of one access, and of their q4 scale bytes (R183), with the lines that the command holds. -/
def rowLocs (t : QType) (desc : MDesc) (rows : List Nat) : M (List (List Nat) × List (List Nat) × List Nat) := do
  let (ls, h) ← sourceLocs (rows.map (fun r => (desc.addr + BitVec.ofNat 64 r * desc.stride, elemRun t desc.kn)))
  if t = 7 then
    let n := desc.kn / 32
    let (ss, h') ← sourceLocs ((List.range rows.length).map (fun i => (desc.scales + BitVec.ofNat 64 (i * n), n)))
    pure (ls, ss, h ++ h')
  else pure (ls, [], h)

/-- The locations of a command's destination, once the context's own stores to it have landed. -/
def destParts (parts : List (Word × Nat)) : M (List (List Nat)) := do
  let ls ← locateAll .engineWrite parts
  awaitOwn ls.flatten
  pure ls

/-- The checks of R183 on a load or multiply; trap(4, 2) is the B-store range. -/
def checkRange (t : QType) (desc : MDesc) : M Unit := do
  require (decide (1 ≤ desc.kn) && decide (desc.kn ≤ 114688)) 4 0
  require (t == 7 || desc.scales == 0) 4 0
  require (t != 7 || (desc.kn % 32 == 0 && desc.k0 % 32 == 0)) 4 0
  require (decide (desc.row0 + desc.mm1 + 1 ≤ 512)) 4 0
  require (decide (desc.col0 + desc.nm1 + 1 ≤ 256) && decide (desc.k0 + desc.kn ≤ sliceCapacity t)) 4 2

/-! ### mbld and mbldg (R192) -/

/-- A B-store load with rows consecutive or listed. -/
def buildStep (listed : Bool) (d a b : GReg) (q : QType) : M Unit := do
  typed q
  issue [a, b] [d] [] []
  let ea ← readG a
  let mod ← readG b
  awaitLease
  require ((← get).myCore.tb == q) 4 1
  modifierOk 0x40 mod
  let desc ← loadDesc ea
  require (desc.mm1 == 0 && desc.row0 == 0 && (listed || desc.list == 0)) 4 0
  checkRange q desc
  let rows ← (if listed then loadList desc.list (desc.nm1 + 1) 4 else pure (List.range (desc.nm1 + 1)) : M (List Nat))
  let (ls, ss, held) ← rowLocs q desc rows
  meet false (ls.flatten ++ ss.flatten)
  let id ← acceptJob false true (mod.getLsbD 6) (.load ls ss q desc.col0 desc.k0) [] held
  writeG d id

/-- mbld (R192). -/
def execMbld (d a b : GReg) (q : QType) (s : State) : Result := runBundle (buildStep false d a b q) s
/-- mbldg (R192). -/
def execMbldg (d a b : GReg) (q : QType) (s : State) : Result := runBundle (buildStep true d a b q) s

/-! ### mmul and mgath (R193) -/

/-- A multiply with A rows consecutive or listed. -/
def multiplyStep (listed : Bool) (d a b : GReg) (q : QType) : M Unit := do
  typed q
  issue [a, b] [d] [] []
  let ea ← readG a
  let mod ← readG b
  awaitLease
  let k := (← get).myCore
  require (k.tb == q) 4 1
  modifierOk 0x7F mod
  let desc ← loadDesc ea
  require (listed || desc.list == 0) 4 0
  checkRange q desc
  let rows ← (if listed then loadList desc.list (desc.mm1 + 1) 4 else pure (List.range (desc.mm1 + 1)) : M (List Nat))
  let (ls, ss, held) ← rowLocs k.ta desc rows
  meet false (ls.flatten ++ ss.flatten)
  let cmd := Cmd.multiply ls ss k.ta k.tb (field mod 3 0) desc.row0 desc.col0 (desc.nm1 + 1) desc.kn desc.k0
    (mod.getLsbD 5) (mod.getLsbD 4)
  let id ← acceptJob false true (mod.getLsbD 6) cmd [] held
  writeG d id

/-- mmul (R193). -/
def execMmul (d a b : GReg) (q : QType) (s : State) : Result := runBundle (multiplyStep false d a b q) s
/-- mgath (R193). -/
def execMgath (d a b : GReg) (q : QType) (s : State) : Result := runBundle (multiplyStep true d a b q) s

/-- mzero (R194). -/
def execMzero (d : GReg) (imm : Nat) (s : State) : Result :=
  runBundle (do
    require (decide (imm < 16)) 0 9
    issue [] [d] [] []
    awaitLease
    let id ← acceptJob false true false (.zero imm) [] []
    writeG d id) s

/-! ### mdrain (R195) -/

/-- The elements that a drain reads: row-major for a window, list order when sampled. -/
def drainElems (sampled : Bool) (desc : MDesc) (list : List Nat) : List (Nat × Nat) :=
  if sampled then list.map (fun e => (desc.row0 + e / 256, desc.col0 + e % 256))
  else (List.range (desc.mm1 + 1)).flatMap (fun m => (List.range (desc.nm1 + 1)).map (fun n => (desc.row0 + m, desc.col0 + n)))

/-- The fields that a drain must leave zero (R182, R195). -/
def drainZero (sampled : Bool) (desc : MDesc) : Bool :=
  desc.k0 == 0 && desc.scales == 0 &&
  (if sampled then desc.stride == 0 && desc.mm1 == 0 && desc.nm1 == 0 && decide (1 ≤ desc.kn) && decide (desc.kn ≤ 4096)
   else desc.kn == 0 && desc.list == 0 && decide (desc.row0 + desc.mm1 + 1 ≤ 512) && decide (desc.col0 + desc.nm1 + 1 ≤ 256))

/-- mdrain (R195). -/
def execMdrain (d a b : GReg) (s : State) : Result :=
  runBundle (do
    issue [a, b] [d] [] []
    let ea ← readG a
    let mod ← readG b
    awaitLease
    modifierOk 0x3FCF mod
    let sampled := mod.getLsbD 12
    let port := mod.getLsbD 11
    let dt : QType := ⟨field mod 10 8 % 8, Nat.mod_lt _ (by decide)⟩
    require (dt != 5 && dt != 7 && (sampled || !port)) 4 0
    let desc ← loadDesc ea
    require (drainZero sampled desc && (!port || decide (desc.kn ≤ 64))) 4 0
    let list ← (if sampled then loadList desc.list desc.kn 2 else pure [] : M (List Nat))
    let elems := drainElems sampled desc list
    require (elems.all (fun e => decide (e.1 < 512) && decide (e.2 < 256))) 4 0
    let size := laneWidth dt / 8
    let dests ← (if port then pure []
      else if sampled then destParts [(desc.addr, desc.kn * size)]
      else destParts ((List.range (desc.mm1 + 1)).map (fun m =>
        (desc.addr + BitVec.ofNat 64 m * desc.stride, (desc.nm1 + 1) * size))) : M (List (List Nat)))
    meet true dests.flatten
    let x ← getMe
    if port then await (decide (x.mres.length + x.mresHeld + desc.kn ≤ 64))
    let k := (← get).myCore
    let s32 := k.ta == 6 && k.tb == 6
    let sr := mod.getLsbD 7
    let cmd := Cmd.drain (field mod 3 0) elems dests.flatten s32 dt sr port (mod.getLsbD 13) x.rng
    if sr then modifyMe (fun x => { x with rng := advanceBy elems.length x.rng })
    if port then modifyMe (fun x => { x with mresHeld := x.mresHeld + desc.kn })
    let id ← acceptJob false true (mod.getLsbD 6) cmd dests.flatten []
    writeG d id) s

/-! ### mwalk (R196) -/

/-- mwalk: the coordinates are read at acceptance; poison among them sets the job's fault (R178, R196). -/
def execMwalk (d a b : GReg) (s : State) : Result :=
  runBundle (do
    issue [a, b] [d] [] []
    let ea ← readG a
    let mod ← readG b
    modifierOk 0x40 mod
    let desc ← loadDesc ea
    require (desc.stride == 0 && desc.mm1 == 0 && desc.nm1 == 0 && desc.row0 == 0 && desc.col0 == 0 && desc.k0 == 0 &&
      desc.scales == 0 && decide (1 ≤ desc.kn) && decide (desc.kn ≤ 65535)) 4 0
    let (srcs, _) ← sourceLocs [(desc.addr, 4 * desc.kn)]
    let dests ← destParts [(desc.list, 64 + 256 * desc.kn)]
    meet false srcs.flatten
    meet true dests.flatten
    let s ← get
    let cmd := Cmd.walk (listOf desc.kn 4 (s.loadAt srcs.flatten)) ((linesOf srcs.flatten).any s.poison.contains) dests.flatten
    let id ← acceptJob true false (mod.getLsbD 6) cmd dests.flatten []
    writeG d id) s

/-! ### mwait and mpoll (R197) -/

/-- The checks on a job id operand (R197). -/
def checkJob (x : Word) : M JobStatus := do
  require (decide (x.toNat < 65536)) 4 0
  let k := (← get).myCore
  require (!notIssued k.jobNewest x.toNat) 4 4
  pure (jobStatus k.jobs x.toNat)

/-- mwait (R197). -/
def execMwait (a : GReg) (s : State) : Result :=
  runBundle (do
    issue [a] [] [] []
    let j ← checkJob (← readG a)
    await j.done) s
/-- mpoll (R197). -/
def execMpoll (d a : GReg) (s : State) : Result :=
  runBundle (do
    issue [a] [d] [] []
    let j ← checkJob (← readG a)
    writeG d (if j.done then BitVec.ofNat 64 (1 + j.fault.toNat * 2 + j.ovf.toNat * 4) else 0)) s

/-! ### What commands do (R175, R192 to R196) -/

/-- Whether poison lies on a list of locations. -/
def State.poisoned (s : State) (locs : List Nat) : Bool := locs.any (fun l => s.poison.contains (lineOf l))

/-- The bytes at locations as numbers. -/
def State.nums (s : State) (locs : List Nat) : List Nat := locs.map (fun l => (s.mem.read l).toNat)

/-- Element i of a run of elements of a type, from its bytes and, for q4, its scale bytes (R173, R183). -/
def elemBits (t : QType) (bytes : List Nat) (i : Nat) : Nat :=
  match t.val with
  | 1 => bytes.getD (2 * i) 0 + 256 * bytes.getD (2 * i + 1) 0
  | 7 => bytes.getD (i / 2) 0 / 16 ^ (i % 2) % 16
  | _ => bytes.getD i 0
/-- The value of element i. -/
def elemValue (t : QType) (bytes scales : List Nat) (i : Nat) : Val :=
  if t = 7 then codeValue (scales.getD (i / 32) 0) (elemBits t bytes i) else (elemOf t).value (elemBits t bytes i)

/-- The values of k elements at locations; an element on a poisoned line is a NaN (R178). -/
def State.values (s : State) (t : QType) (k : Nat) (locs slocs : List Nat) : List Val :=
  let bytes := s.nums locs
  let scales := s.nums slocs
  let bad (l : Nat) : Bool := s.poison.contains (lineOf l)
  (List.range k).map (fun i =>
    let at_ := locs.getD (match t.val with | 1 => 2 * i | 7 => i / 2 | _ => i) 0
    if bad at_ || (t == 1 && bad (locs.getD (2 * i + 1) 0)) || (t == 7 && bad (slocs.getD (i / 32) 0)) then .nan else elemValue t bytes scales i)

/-- The locations of k elements of a slice from position k0 on, and of their scale bytes (R173). -/
def sliceLocs (r c : Nat) (t : QType) (k0 k : Nat) : List Nat := run (sliceLoc r c (elemRun t k0)) (elemRun t k)
/-- Scale bytes of a slice. -/
def sliceScales (r c : Nat) (t : QType) (k0 k : Nat) : List Nat :=
  if t = 7 then run (sliceLoc r c (57344 + k0 / 32)) (k / 32) else []

/-- A B-store load (R192): bytes are copied unchanged, poison with them. -/
def State.runLoad (s : State) (r : Nat) (rows scales : List (List Nat)) (t : QType) (col0 k0 : Nat) : State × Bool :=
  let put (s : State) (src dst : List Nat) : State :=
    ((s.storeAt dst (s.loadAt src)).cleanse dst).carryPoison (src.zip dst)
  let k (row : List Nat) : Nat := if t = 7 then row.length * 2 else row.length / (laneWidth t / 8)
  let s' := (rows.zip (List.range rows.length)).foldl (fun s p =>
    put s p.1 (sliceLocs r (col0 + p.2) t k0 (k p.1))) s
  let s'' := (scales.zip (List.range scales.length)).foldl (fun s p =>
    put s p.1 (sliceScales r (col0 + p.2) t k0 (p.1.length * 32))) s'
  (s'', s.poisoned (rows.flatten ++ scales.flatten))

/-- The s8 accumulation of R108 where groups are poisoned: such a group leaves the element at 0x80000000 (R178), on which the later ones
overflow or not; it ends there (DESIGN CHOICE, log 90). Whether any step of an unpoisoned group overflowed. -/
def State.poisonedS32 (s : State) (c : Nat) (row col : List Nat) : Bool :=
  let ints (ls : List Nat) : List Int := (s.nums ls).map (toSigned 8)
  (((chunks 32 row.length row).zip (chunks 32 col.length col)).foldl (fun (acc : Nat × Bool) g =>
    if s.poisoned (g.1 ++ g.2) then (0x80000000, acc.2)
    else
      let x := accumulateS32 acc.1 (ints g.1) (ints g.2)
      (x.1, acc.2 || x.2)) (c, false)).2

/-- One element of a multiply (R107 to R109) from the element c, which is poisoned or not: its new bits, whether s32 overflowed, and
whether poison was consumed. A poisoned c makes the sum a NaN (R178). -/
def State.multiplyElem (s : State) (r : Nat) (ta tb : QType) (c : Nat) (cBad : Bool) (row scale : List Nat) (col k0 k : Nat) :
    Nat × Bool × Bool :=
  let bl := sliceLocs r col tb k0 k
  let bs := sliceScales r col tb k0 k
  let bad := cBad || s.poisoned (row ++ scale ++ bl ++ bs)
  let c := if cBad then 0x7FC00000 else c
  if ta = 6 then
    if bad then (0x80000000, s.poisonedS32 (if cBad then 0x80000000 else c) row bl, true)
    else
      let ints (ls : List Nat) : List Int := (s.nums ls).map (toSigned 8)
      let x := accumulateS32 c (ints row) (ints bl)
      (x.1, x.2, false)
  else (accumulateF32 c (s.values ta k row scale) (s.values tb k bl bs), false, bad)

/-- Zeroes every element of a tile outside a window (R184, R193). -/
def State.zeroOutside (s : State) (r tile row0 col0 m n : Nat) : State :=
  (List.range 512).foldl (fun s i =>
    if row0 ≤ i ∧ i < row0 + m then
      (s.zeroRange (tileLoc r tile i 0) (4 * col0)).zeroRange (tileLoc r tile i (col0 + n)) (4 * (256 - col0 - n))
    else s.zeroRange (tileLoc r tile i 0) 1024) s

/-- What a command did: whether it consumed poison, whether s32 overflowed, and what it pushes into MRES. -/
structure Ran where
  state : State
  fault : Bool
  ovf : Bool
  words : List Word

/-- An element of a tile that a byte of it belongs to. -/
def tileElem (r tile loc : Nat) : Option (Nat × Nat) :=
  let base := tileLoc r tile 0 0
  if base ≤ loc ∧ loc < base + 2 ^ 19 then some ((loc - base) / 1024, (loc - base) / 4 % 256) else none

/-- Poison goes from the lines of a tile that a command has written whole (R211). -/
def State.cleanseTile (s : State) (r tile : Nat) (written : Nat × Nat → Bool) : State :=
  s.cleanseWhere (fun l => match tileElem r tile l with | some e => written e | none => false)

/-- A multiply (R193); the tile's lines that it writes whole lose their poison (R211). -/
def State.runMultiply (s : State) (r : Nat) (rows scales : List (List Nat)) (ta tb : QType)
    (tile row0 col0 n k k0 : Nat) (fresh clear : Bool) : Ran :=
  let cells := (List.range rows.length).flatMap (fun m => (List.range n).map (fun j => (m, j)))
  let out := cells.foldl (fun acc p =>
    let loc := tileLoc r tile (row0 + p.1) (col0 + p.2)
    let c := if fresh then 0 else s.load loc 4
    let x := s.multiplyElem r ta tb c (!fresh && s.poisoned (run loc 4)) (rows.getD p.1 []) (scales.getD p.1 []) (col0 + p.2) k0 k
    (acc.1.store loc 4 x.1, acc.2.1 || x.2.1, acc.2.2 || x.2.2)) (s, false, false)
  let inside (e : Nat × Nat) : Bool := decide (row0 ≤ e.1 ∧ e.1 < row0 + rows.length ∧ col0 ≤ e.2 ∧ e.2 < col0 + n)
  let done := if clear then out.1.zeroOutside r tile row0 col0 rows.length n else out.1
  ⟨done.cleanseTile r tile (fun e => clear || inside e), out.2.2, out.2.1, []⟩

/-- One drained element converted (R195). -/
def drainConvert (s32 : Bool) (dt : QType) (sr : Bool) (x : Nat) (rng : Word) : Nat :=
  let v := if s32 then Val.ofInt (toSigned 32 x) else Fmt.f32.decode x
  (elemOf dt).ofVal (if sr then .sr (rngDraw rng) else .rne) v

/-- Drains elements in order (R195): their converted bits, with the tile's elements zeroed where asked. -/
def State.drainFrom (s : State) (r tile : Nat) (s32 : Bool) (dt : QType) (sr clear : Bool) :
    List (Nat × Nat) → Word → State × List Nat
  | [], _ => (s, [])
  | e :: es, g =>
    let loc := tileLoc r tile e.1 e.2
    let g' := if sr then rngNext g else g
    let x := drainConvert s32 dt sr (s.load loc 4) g'
    let s' := if clear then s.store loc 4 0 else s
    let rest := s'.drainFrom r tile s32 dt sr clear es g'
    (rest.1, x :: rest.2)

/-- A drain (R195). -/
def State.runDrain (s : State) (r tile : Nat) (elems : List (Nat × Nat)) (dests : List Nat) (s32 : Bool) (dt : QType)
    (sr port clear : Bool) (rng : Word) : Ran :=
  let bad := s.poisoned (elems.map (fun e => tileLoc r tile e.1 e.2))
  let size := laneWidth dt / 8
  let drained := s.drainFrom r tile s32 dt sr clear elems rng
  let out := (if clear then drained.1.cleanseTile r tile elems.contains else drained.1, drained.2)
  if port then ⟨out.1, bad, false, out.2.map (BitVec.ofNat 64)⟩
  else
    let moves := (elems.map (fun e => tileLoc r tile e.1 e.2)).zip ((List.range elems.length).map (fun i => dests.getD (size * i) 0))
    let written := ((out.1.storeAt dests (out.2.flatMap (leBytes size))).stampEngine dests).cleanse dests
    ⟨written.carryPoison (moves.filter (fun m => s.poison.contains (lineOf m.1))), bad, false, []⟩

/-- A tile that mwalk is filling (R196). -/
structure WalkTile where
  first : Nat
  rows : List Nat
  cols : List Nat
  samp : List Nat
  deriving DecidableEq, Repr

/-- The slot of a number in a list, which it joins if it is new. -/
def slotOf (xs : List Nat) (x : Nat) : List Nat × Nat :=
  if xs.contains x then (xs, xs.idxOf x) else (xs ++ [x], xs.length)

/-- The tiles of a coordinate list in order (R196). -/
def walkTiles : List (Nat × Nat) → WalkTile → List WalkTile
  | [], t => [t]
  | (i, x) :: rest, t =>
    let r := x / 65536
    let c := x % 65536
    let full := (!t.rows.contains r && t.rows.length == 32) || (!t.cols.contains c && t.cols.length == 32) ||
      t.samp.length == 56
    let t' : WalkTile := if full then ⟨i, [], [], []⟩ else t
    let a := slotOf t'.rows r
    let b := slotOf t'.cols c
    let next := walkTiles rest ⟨t'.first, a.1, b.1, t'.samp ++ [a.2 * 256 + b.2]⟩
    if full then t :: next else next

/-- Numbers as two-byte entries, padded with zeros to a count. -/
def halves (n : Nat) (xs : List Nat) : List Byte := (xs ++ List.replicate (n - xs.length) 0).flatMap (leBytes 2)

/-- The 256 bytes of a tile record (R196). -/
def WalkTile.bytes (t : WalkTile) : List Byte :=
  leBytes 8 (t.samp.length * 65536 + t.cols.length * 256 + t.rows.length) ++ leBytes 8 t.first ++
  halves 32 t.rows ++ halves 32 t.cols ++ halves 56 t.samp

/-- A walk (R196): the header with the tile count, and the records. -/
def State.runWalk (s : State) (coords dests : List Nat) : State :=
  let ts := walkTiles ((List.range coords.length).zip coords) ⟨0, [], [], []⟩
  let bytes := leBytes 64 ts.length ++ ts.flatMap WalkTile.bytes
  ((s.storeAt dests bytes).stampEngine (dests.take bytes.length)).cleanse (dests.take bytes.length)

/-- What a command does at a ridge. -/
def State.runCmd (s : State) (r : Nat) : Cmd → Ran
  | .load rows scales t col0 k0 => let x := s.runLoad r rows scales t col0 k0; ⟨x.1, x.2, false, []⟩
  | .multiply rows scales ta tb tile row0 col0 n k k0 fresh clear =>
    s.runMultiply r rows scales ta tb tile row0 col0 n k k0 fresh clear
  | .zero tile => ⟨(s.zeroRange (tileLoc r tile 0 0) (2 ^ 19)).cleanseTile r tile (fun _ => true), false, false, []⟩
  | .drain tile elems dests s32 dt sr port clear rng => s.runDrain r tile elems dests s32 dt sr port clear rng
  | .walk coords bad dests => ⟨s.runWalk coords dests, bad, false, []⟩

/-- The locations of translated memory and scratch that a command reads as it runs. -/
def Cmd.sources : Cmd → List Nat
  | .load rows scales _ _ _ | .multiply rows scales _ _ _ _ _ _ _ _ _ _ => rows.flatten ++ scales.flatten
  | .zero _ | .drain _ _ _ _ _ _ _ _ _ | .walk _ _ _ => []
/-- The locations that a command overwrites there. -/
def Cmd.dests : Cmd → List Nat
  | .drain _ _ dests _ _ _ _ _ _ | .walk _ _ dests => dests
  | .load _ _ _ _ _ | .multiply _ _ _ _ _ _ _ _ _ _ _ _ | .zero _ => []

/-- Completes a job at a ridge: its effect, its status with the format context's ovf, its MRES words and its DONE word (R175,
R179, R180, R197). -/
def State.completeJob (s : State) (r : Nat) (j : Job) : State :=
  let ran := (s.noteOld (s.seat j.ctx j.source) j.cmd.dests).runCmd r j.cmd
  let s := ran.state
  let core := coreOf j.ctx
  let k := s.core core
  let ovf := k.ovf || ran.ovf
  let s := s.setCore core { k with ovf, jobs := finishJob k.jobs j.id ran.fault ovf }
  s.onSeat (s.seat j.ctx j.source) (fun x =>
    let x := { x with mres := x.mres ++ ran.words, mresHeld := x.mresHeld - ran.words.length }
    if j.notify then x.pushDone (BitVec.ofNat 64 (j.id + 2 ^ 16)) else x)

/-- MATRIX_JOB_COMPLETE: the oldest accepted command of the ridge completes (R175, R179), once no ordered task outside its context's
domain has written its sources speculatively (R224). -/
def execMatrixJobComplete (s : State) : Result :=
  runStep (do
    let s ← get
    let r := ridgeOf s.focus
    match (s.ridge r).jobs with
    | [] => stall
    | j :: rest => do
      meetEngine (s.atSeat (s.seat j.ctx j.source)) j.cmd.sources
      set ((s.setRidge r { s.ridge r with jobs := rest }).completeJob r j)) s

/-- INDEX_WALK_COMPLETE: a walk of the ridge's index engine completes (R179, R196). -/
def execIndexWalkComplete (s : State) : Result :=
  runStep (do
    let s ← get
    let r := ridgeOf s.focus
    match (s.ridge r).walks with
    | [] => stall
    | j :: rest => set ((s.setRidge r { s.ridge r with walks := rest }).completeJob r j)) s

end Sys2Proof.Machine
end

