-- ==== Sys2Proof/Machine/Power.lean ====
section
/-! DEFINITION. Body bias and margining (R448 to R450), temperature (R451), the icefield and sprint leases (R452 to R456), and
uncorrectable errors (R211, R424, R450). -/

namespace Sys2Proof.Machine

/-! ### The end of a sprint lease (R454) -/

/-- The ridges whose lease was last extended by a context of a region or of one below it. -/
def State.sprintsUnder (s : State) (rcb : Nat) : List Nat :=
  (s.ridges.filter (fun e => match e.2.extender with
    | some c => (s.region (s.ctx c).rcba.toNat).contains rcb
    | none => false)).map Prod.fst

/-- A region has become hot or spent: the leases that its contexts extended end (R451, R454). -/
def State.chillRegion (s : State) (rcb : Nat) : State := (s.sprintsUnder rcb).foldl (fun s r => s.endSprint r true) s

/-- SPRINT_LEASE_EXPIRE: the lease of the focus core's ridge has run out (R454). -/
def execSprintLeaseExpire (s : State) : Result :=
  runStep (do
    let s ← get
    let r := ridgeOf s.focus
    let g := s.ridge r
    await (decide (g.leaseLeft = 0) && g.extender.isSome)
    set (s.endSprint r true)) s

/-- Adds 10 mJ to the energy spent of a block, and sets spent where it reaches the effective energy (R453). -/
def State.chargeEnergy (s : State) (rcb : Nat) : State :=
  let use := (s.rcbUse rcb 4 + 10) % 2 ^ 64
  let s := s.store (rcb + 64) 8 use
  if s.eff 4 rcb ≤ use then s.rcbFlag rcb 1 true else s

/-- SPRINT_ENERGY_CHARGE: the leased ridge of the focus core charges the region of the context that last extended its lease and every
region above it (R453). -/
def execSprintEnergyCharge (s : State) : Result :=
  runStep (do
    let s ← get
    let g := s.ridge (ridgeOf s.focus)
    match g.extender with
    | none => stall
    | some c => do
      await (decide (g.leaseLeft ≠ 0))
      let path := s.region (s.ctx c).rcba.toNat
      let fresh := path.filter (fun r => !s.rcbSpent r)
      let s := path.foldl (fun s r => s.chargeEnergy r) s
      set ((fresh.filter s.rcbSpent).foldl (fun s r => s.chillRegion r) s)) s

/-! ### The icefield (R452, R455) -/

/-- The icefield account's unit: it has 32 fraction bits. -/
def meltUnit : Nat := 2 ^ 32

/-- The account after one ms at a power in mW (R452), rounded down. -/
def meltAfter (m milliwatts : Nat) : Nat :=
  let step : Int := ((milliwatts : Int) - 3000000) * (65536 * meltUnit : Nat) / 150000000000
  min ((m : Int) + step).toNat (65536 * meltUnit)

/-- ICEFIELD_UPDATE: the account follows the package power of the last ms, and a refreeze begins or ends (R452, R455). -/
def execIcefieldUpdate (milliwatts : Nat) (s : State) : Result :=
  runStep (do
    let s ← get
    let m := meltAfter s.melt milliwatts
    let s : State := { s with melt := m, pwr := milliwatts }
    if m = 65536 * meltUnit then
      let s : State := { s with refreeze := true }
      set ((s.ridges.map Prod.fst).foldl (fun (s : State) r => if (s.ridge r).extender.isSome then s.endSprint r true else s) s)
    else if m / meltUnit < 13107 then set { s with refreeze := false }
    else set s) s

/-! ### Bias (R448, R449) -/

/-- BIAS_WINDOW: the bias controller of the focus core's ridge acts on the count of correctable events, once the ridge map is applied
(R449, R456). -/
def execBiasWindow (events : Nat) (s : State) : Result :=
  runStep (do
    let s ← get
    let r := ridgeOf s.focus
    let g := s.ridge r
    await (decide (3 ≤ s.bringUp))
    let trim :=
      if events = 0 ∧ g.hold.isNone ∧ g.trim < 31 then g.trim + 1
      else if 4 ≤ events then g.trim - 4
      else g.trim
    set (s.setRidge r { g with trim })) s

/-- BIAS_HOLD_EXPIRE: the 1 s hold of the focus core's ridge ends (R450). -/
def execBiasHoldExpire (s : State) : Result :=
  runStep (do
    let s ← get
    let r := ridgeOf s.focus
    let g := s.ridge r
    match g.hold with
    | none => stall
    | some t => do
      await (decide (t + 1000000000 ≤ s.time))
      set (s.setRidge r { g with hold := none, trim := 0 })) s

/-! ### Temperature (R451) -/

/-- A temperature word as a signed number of 1/16 °C (R437). -/
def degrees (w : Word) : Int := (w.setWidth 16).toInt

/-- The ridges on which a context of a region's teams occupies an active bank. -/
def State.regionRidges (s : State) (rcb : Nat) : List Nat :=
  ((s.banks.filter (fun e => e.1 == s.activeBank (e.1 / 2) && (match e.2.team with
    | some t => (s.region (s.team t).rcb).contains rcb
    | none => false))).map (fun e => ridgeOf (e.1 / 2))).dedup

/-- The change of hot that a region's temperature calls for (R451). -/
def State.hotWanted (s : State) (rcb : Nat) : Option Bool :=
  let temps := (s.regionRidges rcb).map (fun r => degrees (s.ridge r).temp)
  match temps.head? with
  | none => none
  | some t0 =>
    let t := temps.foldl max t0
    let hot := (s.eff 7 rcb : Int) * 16
    if hot ≤ t then (if s.rcbHot rcb then none else some true)
    else if t < hot - 32 then (if s.rcbHot rcb then some false else none)
    else none

/-- A region's hot bit changes now; a hot region's sprint leases end (R451, R454). -/
def State.setHot (s : State) (rcb : Nat) (on : Bool) : State :=
  let s : State := { s.rcbFlag rcb 0 on with heats := s.heats.put rcb ⟨s.time, none⟩ }
  if on then s.chillRegion rcb else s

/-- The 1 ms dwell since a region's last change of hot is over (R451). -/
def State.dwellOver (s : State) (rcb : Nat) : Bool :=
  match s.heats.find? (fun e => e.1 == rcb) with
  | none => true
  | some e => decide (e.2.changed + 1000000 ≤ s.time)

/-- A region's hot bit follows its temperature, after the dwell where one runs (R451). -/
def State.followHeat (s : State) (rcb : Nat) : State :=
  let due (d : Option Bool) : State :=
    match s.heats.find? (fun e => e.1 == rcb) with
    | none => s
    | some e => { s with heats := s.heats.put rcb { e.2 with due := d } }
  match s.hotWanted rcb with
  | none => due none
  | some on => if s.dwellOver rcb then s.setHot rcb on else due (some on)

/-- TEMPERATURE_SAMPLE: ridges' temperatures are read, and the region's is compared with T_hot (R451). -/
def execTemperatureSample (rcb : Nat) (readings : List (Nat × Word)) (s : State) : Result :=
  runStep (modify (fun s =>
    (readings.foldl (fun (s : State) e => s.setRidge e.1 { s.ridge e.1 with temp := e.2 &&& 0xFFFF }) s).followHeat rcb)) s

/-- HOT_DWELL_EXPIRE: a change of hot that waited for the dwell is taken, if it is still due (R451). -/
def execHotDwellExpire (rcb : Nat) (s : State) : Result :=
  runStep (do
    let s ← get
    let waits := match s.heats.find? (fun e => e.1 == rcb) with | some e => e.2.due.isSome | none => false
    await (waits && s.dwellOver rcb)
    set (s.followHeat rcb)) s

/-! ### Uncorrectable errors (R211, R424, R450) -/

/-- The ridge whose storage holds a location: its own or its cores' banks; none for HBM4. -/
def ridgeAt (loc : Nat) : Option Nat :=
  if loc < 2 ^ 47 then none
  else if loc < 2 ^ 49 then some (ridgeOf ((loc - 2 ^ 47) / 2 ^ 21 / 2))
  else some ((loc - 2 ^ 49) / 2 ^ 25)

/-- An uncorrectable error in a ridge's storage while it is margined or leased: a report without a context, the lease's end, and the hold
at the safe point (R450). -/
def State.marginError (s : State) (r : Nat) : State :=
  let g := s.ridge r
  if g.trim = 0 ∧ g.leaseLeft = 0 then s
  else
    let s := (s.postNoctx 0 { cls := 2, detail := 1 }).endSprint r true
    s.setRidge r { s.ridge r with trim := 0, hold := some s.time }

/-- A context's registers fail: it takes trap(2, 2) at its next bundle boundary (R424). -/
def State.registerError (s : State) (c : CtxId) : State :=
  let x := s.ctx c
  s.setCtx c { x with faulted := some (x.faulted.getD { cls := 2, detail := 2, precise := false }) }

/-- UNCORRECTABLE_ERROR: a line is poisoned, also by its copy in a core's cache carve, or a context's registers fail (R211, R424); in a ridge's
tiles, B store or cores' unified arrays, which hold the cache carves and the register carves, the bias reacts (R25, R26, R449, R450). -/
def execUncorrectableError (site : ErrorSite) (s : State) : Result :=
  runStep (modify (fun s =>
    match site with
    | .line loc =>
      let s : State := { s with poison := (lineOf loc :: s.poison).dedup }
      match ridgeAt loc with
      | some r => s.marginError r
      | none => s
    | .cache core loc =>
      let held := (s.l1 core).any (fun l => l.line == lineOf loc)
      let s : State := if held then { s with poison := (lineOf loc :: s.poison).dedup } else s
      s.marginError (ridgeOf core)
    | .registers c => s.registerError c
    | .carve c => (s.registerError c).marginError (ridgeOf (coreOf c)))) s

end Sys2Proof.Machine
end

