-- ==== Sys2Proof/Machine/Ropes.lean ====
section
/-! DEFINITION. Page 9 (R268 to R272): ropes, residency handles and xprobe. -/

namespace Sys2Proof.Machine

/-! ### Ropes (R52 to R55, R268, R269) -/

/-- The bit of a core in the member mask of a leader's rope (R268). -/
def ropeBit (leader c : CoreId) : Option Nat :=
  if ridgeOf c = ridgeOf leader then some (c % 8)
  else if ridgeOf c = ridgeOf leader ^^^ 1 then some (8 + c % 8)
  else none

/-- The die of the current context. -/
def State.myDie (s : State) : Die := s.die (dieOf (coreOf s.cur))
/-- Changes the current die. -/
def modifyDie (f : Die → Die) : M Unit := fun s => .ok ((), s.setDie (dieOf (coreOf s.cur)) (f s.myDie))

/-- The current context leaves the rope that it is in: a leader ends it, a follower detaches (R269). -/
def State.leaveRope (s : State) : State :=
  match s.me.rope with
  | none => s
  | some p => if p.pos = 0 then s.quitRope s.cur else s.setMe s.me.detached

/-- rlead (R268). A context that already has a place in a rope leaves it: a leader's old rope ends, a follower detaches for good (DESIGN CHOICE,
log 45). -/
def execRlead (d a : GReg) (s : State) : Result :=
  runBundle (do
    issue [a] [d] [] []
    let mask ← readG a
    let core := coreOf (← get).cur
    require (decide (mask.toNat < 2 ^ 16) && mask.toNat.testBit (core % 8)) 4 10
    modify State.leaveRope
    let s ← get
    let id := s.myDie.ropeNext
    let rope : Rope := { id, core := coreOf s.cur, mask := mask.toNat, joined := [coreOf s.cur], members := [(s.cur, 0)], buffers := [], next := 0 }
    modifyDie (fun k => { k with ropes := k.ropes ++ [rope], ropeNext := id + 1 })
    modifyMe (fun x => { x with rope := some ⟨dieOf (coreOf s.cur), id, 0, true, true, false⟩ })
    writeG d (BitVec.ofNat 64 id)) s

/-- Whether a core may take a position of a rope (R269): the mask names it, no context of it is a member, and the position is free. -/
def Rope.admits (r : Rope) (c : CoreId) (pos : Nat) : Bool :=
  (match ropeBit r.core c with | some i => r.mask.testBit i | none => false) &&
  decide (1 ≤ pos) && decide (pos ≤ 15) && !r.members.any (fun m => m.2 == pos || coreOf m.1 == c)

/-- rfollow (R269). -/
def execRfollow (a b : GReg) (s : State) : Result :=
  runBundle (do
    issue [a, b] [] [] []
    let id ← readG a
    let pos ← readG b
    let s ← get
    match s.myDie.ropes.find? (fun r => r.id == id.toNat) with
    | none => trap 4 10
    | some r => do
      require (r.admits (coreOf s.cur) pos.toNat) 4 10
      modify (fun s => s.quitRope s.cur)
      modifyDie (fun k => { k with ropes := k.ropes.map (fun x =>
        if x.id = r.id then
          { x with joined := coreOf s.cur :: x.joined, members := x.members ++ [(s.cur, pos.toNat)], buffers := x.buffers.put pos.toNat [] } else x) })
      modifyMe (fun x => { x with rope := some ⟨dieOf (coreOf s.cur), r.id, pos.toNat, true, false, false⟩ })) s

/-- rdetach (R269). -/
def execRdetach (s : State) : Result := runBundle (modify State.leaveRope) s

/-- The rope of the current context, while it stands. -/
def State.myRope (s : State) : Option (RopePlace × Rope) := s.me.rope.bind (fun p => (s.ropeOf p).map (fun r => (p, r)))

/-- A detached follower that waits at the leader's rrejoin re-attaches: its own rrejoin completes as the leader's, forwarded to it
(R54). -/
def State.reattach (s : State) (die id : Nat) (pc : Word) (m : CtxId) : State :=
  match (s.ctx m).rope with
  | some p =>
    if p.die = die ∧ p.id = id ∧ p.waits ∧ p.attached = false ∧ (s.ctx m).pc = pc ∧ (s.ctx m).run = .running then
      (s.changeRope p (fun r => { r with buffers := r.buffers.put p.pos [] })).setCtx m
        { s.ctx m with rope := some { p with attached := true, waits := false } }
    else s
  | none => s

/-- rrejoin: the leader's re-attaches the followers that wait at the same address; a detached follower waits there; with the rope
ended it is nop (R54). -/
def execRrejoin (s : State) : Result :=
  match s.myRope with
  | none => runBundle (pure ()) s
  | some (p, r) =>
    if p.pos = 0 then runBundle (modify (fun t => r.members.foldl (fun t m => t.reattach p.die p.id s.me.pc m.1) t)) s
    else if p.attached then runBundle (pure ()) s
    else if p.waits then runBundle (stall) s
    else .next { (s.setMe { s.me with rope := some { p with waits := true }, wait := .other }) with stalled := [s.cur] }

/-! ### Residency handles (R209, R210, R270, R271) -/

/-- The partition of the current context. -/
def State.myPart (s : State) : Part := s.part s.me.part
/-- Changes the current partition. -/
def modifyPart (f : Part → Part) : M Unit := fun s => .ok ((), s.setPart s.me.part (f s.myPart))

/-- A handle's entry. -/
def Part.handle (p : Part) (n : Nat) : Option Handle := p.handles.get (fun _ => none) n

/-- The lowest handle that is not live. -/
def Part.freeHandle (p : Part) : Option Nat := (List.range 256).find? (fun n => (p.handle n).isNone)

/-- thset (R270). It takes the lowest handle that is not live: R270 does not say which (DESIGN CHOICE, log 88). -/
def execThset (d a b : GReg) (s : State) : Result :=
  runBundle (do
    issue [a, b] [d] [] []
    let ea ← readG a
    let prio ← readG b
    let bytes ← loadBytes .load ea 16
    let base := leNat (bytes.take 8)
    let length := leNat (bytes.drop 8)
    require (decide (base % 128 = 0) && decide (length % 128 = 0) && decide (128 ≤ length) && decide (length ≤ 2 ^ 40) &&
      decide (prio.toNat ≤ 7)) 0 9
    let s ← get
    match s.myPart.freeHandle with
    | none => trap 4 12
    | some n => do
      modifyPart (fun p => { p with handles := p.handles.put n (some ⟨base, length, prio.toNat, s.myTeam⟩) })
      writeG d (BitVec.ofNat 64 n)) s

/-- The live handle of the current team that a register names; any other raises trap(4, 13) (R271). -/
def ownHandle (h : Word) : M Handle := do
  let s ← get
  match s.myPart.handle h.toNat with
  | some k => if h.toNat < 256 ∧ k.team = s.myTeam then pure k else trap 4 13
  | none => trap 4 13

/-- A line of a handle's tensor is claimed by an engine or marked by an ordered task (R210). -/
def State.tensorBusy (s : State) (h : Handle) : Bool :=
  let busy := s.claims ++ s.marks.map Prod.fst
  !busy.isEmpty && (List.range (h.length / 4096 + 2)).any (fun i =>
    let va := h.base / 4096 * 4096 + 4096 * i
    decide (va < h.base + h.length) && (match s.mapped s.me.part va with
      | some pa => busy.any (fun b => decide (pa ≤ b * 128) && decide (b * 128 < pa + 4096) && decide (h.base ≤ va + (b * 128 - pa)) &&
          decide (va + (b * 128 - pa) < h.base + h.length))
      | none => false))

/-- Replaces a handle's entry. -/
def setHandle (n : Nat) (h : Option Handle) : M Unit := modifyPart (fun p => { p with handles := p.handles.put n h })

/-- thprio (R271). -/
def execThprio (a b : GReg) (s : State) : Result :=
  runBundle (do
    issue [a, b] [] [] []
    let n ← readG a
    let prio ← readG b
    let h ← ownHandle n
    require (decide (prio.toNat ≤ 7)) 0 9
    setHandle n.toNat (some { h with prio := prio.toNat })) s

/-- thevict: once no line of the tensor is claimed or marked, its lines leave every slice and L1, which changes no value, and the handle
is free (R210, R271). -/
def execThevict (a : GReg) (s : State) : Result :=
  runBundle (do
    issue [a] [] [] []
    let n ← readG a
    let h ← ownHandle n
    await (!(← get).tensorBusy h)
    modify (fun s => s.evictTensor s.me.part h)
    setHandle n.toNat none) s

/-- thdemote (R210, R271). -/
def execThdemote (a : GReg) (s : State) : Result :=
  runBundle (do
    issue [a] [] [] []
    let n ← readG a
    let h ← ownHandle n
    setHandle n.toNat (some { h with prio := 0 })) s

/-! ### xprobe (R272) -/

/-- The features of xprobe. -/
def State.feature (s : State) (n : Nat) : Nat :=
  match n with
  | 0 => extOf (coreOf s.cur)
  | 1 => 0x30001
  | 2 => 8 * ridgesBelow s.myPart.ridges 128
  | 3 => s.myPart.slices.length
  | 4 => (s.team s.myTeam).members.length
  | 5 => s.eff 6 s.me.rcba.toNat * 1000
  | 6 => 16
  | 7 => 256 - ((List.range 256).filter (fun n => (s.myPart.handle n).isSome)).length
  | _ => 0

/-- xprobe (R272). -/
def execXprobe (d a : GReg) (s : State) : Result :=
  runBundle (do
    issue [a] [d] [] []
    let n ← readG a
    writeG d (BitVec.ofNat 64 ((← get).feature n.toNat))) s

end Sys2Proof.Machine
end

