-- ==== Sys2Proof/Machine/Service.lean ====
section
/-! DEFINITION. Faults on their way to the service (R426 to R428), the service's crash and restart (R433 to R435), acknowledgements of
homes (R204, R205), and the package's outside (R459 to R470): time lock, jobs, attestation, bring-up, and live service. -/

namespace Sys2Proof.Machine

/-! ### Faults (R424, R426, R428) -/

/-- The words of the bundle at a context's pc, where they can be fetched. -/
def State.boundaryWords (s : State) (c : CtxId) : List IWord :=
  match fetchBundle { s with cur := c } with
  | .ok (_, t) => if (t.ctx c).faulted.isSome then [] else (t.ctx c).ir
  | .error _ => []

/-- A context takes its imprecise cause at its bundle boundary (R424, R426). -/
def State.takeFaulted (s : State) (c : CtxId) (t : Trap) : State :=
  let s := s.setCtx c { s.ctx c with faulted := none }
  let s := s.setCtx c { s.ctx c with ir := s.boundaryWords c }
  s.takeTrap c t

/-- SYSTEM_FAULT: an imprecise cause is taken at the context's bundle boundary (R424, R426). -/
def execSystemFault (s : State) : Result :=
  runStep (do
    let s ← get
    match s.me.faulted with
    | none => stall
    | some t => set (s.takeFaulted s.cur t)) s

/-- A queued record's ring number: the one it took, or the next (R428). -/
def State.recordNumber (s : State) (f : FaultRecord) : Nat × State :=
  match f.slot with
  | some n => (n, s)
  | none => s.ringNumber

/-- FAULT_RECORD_POST: the oldest queued record is written once the ring has room, its word 1 last (R428). -/
def execFaultRecordPost (s : State) : Result :=
  runStep (do
    let s ← get
    match s.faults with
    | [] => stall
    | f :: rest => do
      let (n, s) := s.recordNumber f
      await (decide ((n + 2 ^ 32 - s.load (s.ring + 8) 4) % 2 ^ 32 < 4096))
      set { s.storeWords (s.ringSlot n) f.words with faults := rest }) s

/-- STORE_ACKNOWLEDGEMENT: the oldest acknowledgement of a home reaches the focus core, which records the write generation; the strong
access that it ends is no longer pending (R204, R205, R219). -/
def execStoreAcknowledgement (s : State) : Result :=
  runStep (do
    let s ← get
    await (!(s.core s.focus).acks.isEmpty)
    set (s.receiveAck s.focus)) s

/-! ### The service's crash (R433 to R435) -/

/-- A context frozen (R434): parked ones, ones that have departed, and the service's own are not. -/
def freezes (c : CtxId) (x : Ctx) : Bool := !isService (coreOf c) && x.run != .parked && x.run != .exited

/-- The contexts that have an imprecise fault to take park (R436). -/
def State.parkPending (s : State) : State :=
  (s.ctxs.map Prod.fst).foldl (fun s c =>
    match (s.ctx c).faulted with
    | some t => if s.parksFirst c then s.takeFaulted c t else s
    | none => s) s

/-- The package freezes (R434): contexts, armed swaps, and the clocks and decisions that the crash suspends. A parking in progress
completes first (R436). -/
def State.freeze (s : State) : State :=
  let s := s.parkPending
  let frozen : List CtxId := (s.ctxs.filter (fun e => freezes e.1 e.2)).map Prod.fst
  let s : State := frozen.foldl (fun s c => (s.setCtx c { s.ctx c with status := (s.ctx c).status ||| 16 }).recordState (s.ctx c).record 5) s
  { s with crashed := true, cores := s.cores.map (fun e => (e.1, { e.2 with swapt := BitVec.allOnes 64 })) }

/-- WATCHDOG_EXPIRE: the heartbeat's period has passed without a beat (R433, R434). -/
def execWatchdogExpire (s : State) : Result :=
  runStep (do
    let s ← get
    let period := field s.heart 63 32
    await (decide (period ≠ 0) && !s.crashed && decide (s.heartAt + period * 1000 ≤ s.time))
    set s.freeze) s

/-- A service core that runs Brukezin from its start. -/
def State.startService (s : State) (n : Nat) : State :=
  let c := 1024 + n
  let b := s.activeBank c
  let s := (List.range 8).foldl (fun s i => s.setCtx (ctxIn b i) (Ctx.reset (ctxIn b i))) s
  s.setCtx (ctxIn b 0) { s.ctx (ctxIn b 0) with run := .running, pc := Config.serviceEntry c }

/-- The service cores that are not removed (R468). -/
def State.serviceCores (s : State) : List Nat := (List.range 8).filter (fun n => !(s.core (1024 + n)).removed)

/-- SERVICE_WARM_RESTART: the service cores restart, after a crash or, through the same freeze, for a new image, which is then the running one
(R435, R466, R468). -/
def execServiceWarmRestart (s : State) : Result :=
  runStep (modify (fun s =>
    let s := if s.crashed then s else s.freeze
    let s : State := { s with bootImage := s.newImage.getD s.bootImage, newImage := none }
    s.serviceCores.foldl (fun s n => s.startService n) s)) s

/-- SERVICE_CORE_REMOVAL: a service core stops while others run, and its ring work passes to them (R468). -/
def execServiceCoreRemoval (n : Nat) (s : State) : Result :=
  runStep (do
    let s ← get
    await (s.serviceCores.contains n && decide (2 ≤ s.serviceCores.length))
    set (s.setCore (1024 + n) { s.core (1024 + n) with removed := true })) s

/-! ### Pod time (R462) -/

/-- TIME_LOCK_LOST (R462). -/
def execTimeLockLost (s : State) : Result :=
  runStep (do
    let s ← get
    await s.timeLock
    set (({ s with timeLock := false } : State).postNoctx 0 { cls := 7, detail := 11 })) s

/-- TIME_LOCK_REGAINED (R462). -/
def execTimeLockRegained (s : State) : Result := runStep (modify (fun s => { s with timeLock := true })) s

/-! ### Records of configuration (R464, R465) -/

/-- A number of n bytes of a file. -/
def fileNat (f : List Byte) (off n : Nat) : Nat := leNat ((f.drop off).take n)

/-- A record's kind (R464). -/
def recordKind (r : FlashRecord) : Nat := fileNat r.bytes 4 2
/-- A record's sequence number (R464). -/
def recordSeq (r : FlashRecord) : Nat := fileNat r.bytes 8 8
/-- The bytes of a record that its signature covers (R464). -/
def recordText (r : FlashRecord) : List Byte := r.bytes.take (24 + fileNat r.bytes 16 2)
/-- A record's signature (R464). -/
def recordSignature (r : FlashRecord) : List Byte := r.bytes.drop (24 + fileNat r.bytes 16 2)

/-- The operator's key by the ownership record in force. -/
def operatorKey (rs : List FlashRecord) : Option (List Byte) :=
  rs.findSome? (fun r => match r.content with | .ownership k => if recordKind r = 1 then some k else none | _ => none)

/-- The kind that a record's contents have (R465). -/
def contentKind (c : FlashContent) : Nat :=
  match c with
  | .ownership _ => 1 | .placement _ _ _ _ _ => 2 | .ridgeMap _ _ => 3 | .submitterKeys _ => 4 | .defaults _ _ _ => 5

/-- Contents within their ranges (R459, R460, R465): numbers of pods and planes, one physical ridge of its die for each ridge number, at most
16 keys. -/
def contentOk (c : FlashContent) : Bool :=
  match c with
  | .ownership _ => true
  | .placement pod accel planes _ _ => decide (pod < 2048) && decide (accel < 1024) && [1, 2, 4, 8, 16, 32].contains planes
  | .ridgeMap physical retired => decide (physical.length = 128) && physical.all (fun p => decide (p < 34)) && retired.all (fun p => decide (p < 136)) &&
      (List.range 4).all (fun d => decide ((physical.drop (32 * d) |>.take 32).dedup.length = 32))
  | .submitterKeys ks => decide (ks.length ≤ 16)
  | .defaults period quantum thot => decide (period < 2 ^ 32) && decide (quantum < 2 ^ 32) && decide (thot < 256)

/-- A well-formed record (R464): its magic, its zero bits, its length, and contents of its kind. -/
def recordOk (r : FlashRecord) : Bool :=
  let len := fileNat r.bytes 16 2
  decide (fileNat r.bytes 0 4 = 0x46434B53) && decide (fileNat r.bytes 6 2 = 0) && decide (fileNat r.bytes 18 6 = 0) && decide (len ≤ 65472) &&
  decide (r.bytes.length = 88 + len) && decide (recordKind r = contentKind r.content) && contentOk r.content

/-- A well-formed record whose signature is valid under a key. -/
def recordSigned (r : FlashRecord) (key : List Byte) : Bool := recordOk r && Config.signatureValid key (recordText r) (recordSignature r)

/-- The valid record of a kind with the highest sequence number; at equal numbers the first stays in force (R465). -/
def newest (rs : List FlashRecord) (kind : Nat) (key : List Byte) : Option FlashRecord :=
  (rs.filter (fun r => recordKind r == kind && recordSigned r key)).foldl (fun best r =>
    match best with
    | none => some r
    | some b => if recordSeq b < recordSeq r then some r else best) none

/-- The records in force, in kind order (R465). -/
def recordsInForce (rootKey : List Byte) (rs : List FlashRecord) : List FlashRecord :=
  match newest rs 1 rootKey with
  | none => []
  | some o =>
    match operatorKey [o] with
    | none => [o]
    | some k => o :: ([2, 3, 4, 5].filterMap (fun n => newest rs n k))

/-- The content in force of a kind. -/
def State.configOf (s : State) (kind : Nat) : Option FlashContent := (s.flash.find? (fun r => recordKind r == kind)).map FlashRecord.content

/-- A record of kinds 2 to 5 that arrives in flash comes into force where it is valid and its number is above that of the record in force
(R465). -/
def State.addRecord (s : State) (r : FlashRecord) : State :=
  let kind := recordKind r
  let newer : Bool := match s.flash.find? (fun q => recordKind q == kind) with | some q => decide (recordSeq q < recordSeq r) | none => true
  match operatorKey s.flash with
  | none => s
  | some k =>
    if recordSigned r k ∧ newer ∧ 2 ≤ kind then
      { s with flash := s.flash.filter (fun q => decide (recordKind q < kind)) ++ r :: s.flash.filter (fun q => decide (kind < recordKind q)) }
    else s

/-! ### Retiring a ridge (R469) -/

/-- A ridge holds no team. -/
def State.ridgeEmpty (s : State) (r : Nat) : Bool :=
  (List.range 8).all (fun i => (s.bank ((r * 8 + i) * 2)).team.isNone && (s.bank ((r * 8 + i) * 2 + 1)).team.isNone) &&
  (s.ridge r).jobs.isEmpty && (s.ridge r).walks.isEmpty && (s.ridge r).copies.isEmpty

/-- A partition's ridge set without a ridge, in its descriptor too (R379, R469). -/
def State.dropRidge (s : State) (r p : Nat) : State :=
  let q := s.part p
  if q.ridges.testBit r then
    let set := q.ridges &&& (2 ^ 128 - 1 - 2 ^ r)
    (s.setPart p { q with ridges := set }).store (s.ptab.toNat + 128 * p + 40) 16 set
  else s

/-- A ridge map that says which physical ridges bear the numbers now (R465, R469). -/
def State.mapsRidges (s : State) (c : FlashContent) : Bool :=
  match c with
  | .ridgeMap physical retired => physical == (List.range 128).map (fun r => (s.ridge r).physical) &&
      (List.range 128).all (fun r => retired.contains (34 * (r / 32) + (s.ridge r).physical) == (s.ridge r).retired)
  | _ => false

/-- A new ridge-map record makes the ridges' change permanent: it comes into force where it is the operator's and says what now stands
(R465, R469). -/
def State.recordRidges (s : State) : State :=
  let t : State := { s with newMap := none }
  match s.newMap with
  | some r => if s.mapsRidges r.content then t.addRecord r else t
  | none => t

/-- RIDGE_DRAIN: the focus core's ridge starts draining; once a draining ridge is empty, a spare takes its number, or with none left the
number stays retired (R10, R469), and the operator's new ridge-map record, where one has come in, is in force. -/
def execRidgeDrain (s : State) : Result :=
  runStep (do
    let s ← get
    let r := ridgeOf s.focus
    let g := s.ridge r
    let d := s.die (r / 32)
    if g.draining = false then set (s.setRidge r { g with draining := true })
    else do
      await (s.ridgeEmpty r && !g.retired)
      match d.spares with
      | [] => set (((List.range 8).foldl (fun s p => s.dropRidge r p) (s.setRidge r { g with retired := true })).recordRidges)
      | p :: rest =>
        let s := (s.setDie (r / 32) { d with spares := rest }).setRidge r { Ridge.reset r with physical := p }
        set ((s.zeroRange (ridgeLoc r 0) ridgeBytes).recordRidges)) s

/-! ### Bring-up (R467) -/

/-- The dies apply a ridge map (R10, R465): each number gets its physical ridge, one whose ridge is retired stays retired, and the other
physical ridges of a die are its spares. -/
def State.applyRidges (s : State) (physical retired : List Nat) : State :=
  let s := (List.range 128).foldl (fun (s : State) r =>
    let p := physical.getD r (r % 32)
    s.setRidge r { s.ridge r with physical := p, retired := retired.contains (34 * (r / 32) + p) }) s
  (List.range 4).foldl (fun (s : State) d =>
    let used := (physical.drop (32 * d)).take 32
    s.setDie d { s.die d with spares := (List.range 34).filter (fun p => !used.contains p && !retired.contains (34 * d + p)) }) s

/-- Pod time locks (R462): the package counts from the epoch of the pod's time master, which its own count is where the package is the
master; time never steps backward. -/
def State.lockTime (s : State) : State :=
  { s with timeLock := true, time := if s.timeMaster then s.time else max s.time (Config.masterTime s.free), free := s.free + 1 }

/-- A step of bring-up fails: the configuration says so, or it is the first and the Brukezin image does not pass the ownership chain, of which
the operator's key is the end (R467; DESIGN CHOICE, log 9). -/
def stepFails (config : BootConfig) (n : Nat) : Bool :=
  config.failedStep == some n || (decide (n = 1) && (match operatorKey (recordsInForce config.rootKey config.records) with
    | some k => !Config.signatureValid k config.image config.imageSignature
    | none => true))

/-- What step n of bring-up does. -/
def bringUpStep (config : BootConfig) (n : Nat) (s : State) : State :=
  match n with
  | 1 => { s with flash := recordsInForce config.rootKey config.records, bootImage := config.image }
  | 2 => (List.range 8).foldl (fun s n => s.startService n) (s.zeroRange s.regbase.toNat s.regsize.toNat)
  | 3 =>
    match s.configOf 3 with
    | some (.ridgeMap physical retired) => s.applyRidges physical retired
    | _ => s
  | 4 =>
    let s : State := { s with stations := BitVec.allOnes 32, ports := BitVec.allOnes 4 }
    match s.configOf 2 with
    | some (.placement pod accel planes timeMaster podMap) => ({ s with pod, accel, planes, podMap, timeMaster } : State).lockTime
    | _ => s.lockTime
  | _ =>
    match s.configOf 5 with
    | some (.defaults period _ _) => s.beat (BitVec.ofNat 64 (period * 2 ^ 32))
    | _ => s

/-- Bring-up runs its steps in order up to the one that fails, which leaves the ports answering only attestation (R467). -/
def bringUpTo (config : BootConfig) (s : State) : List Nat → State
  | [] => s
  | n :: ns => if stepFails config n then { s with attestOnly := true } else bringUpTo config { bringUpStep config n s with bringUp := n } ns

/-- The bytes of a digest or signature. -/
def digestBytes (x : BitVec 512) : List Byte := leBytes 64 x.toNat

/-- POWER_GOOD: the package comes up from reset (R467). -/
def execPowerGood (config : BootConfig) (s : State) : Result :=
  .next (bringUpTo config { State.reset with identity := digestBytes (Config.sha512 config.seed), agenda := s.agenda, free := s.free } [1, 2, 3, 4, 5])

/-! ### Attestation (R466) -/

/-- The 208 bytes of an attestation reply before its signature (R466). -/
def State.attestation (s : State) (nonce : List Byte) : List Byte :=
  (nonce ++ List.replicate 32 0).take 32 ++ digestBytes (Config.sha512 s.bootImage) ++
  digestBytes (Config.sha512 (s.flash.flatMap FlashRecord.bytes)) ++ leBytes 32 (Config.publicKey s.identity).toNat ++ leBytes 8 s.gid ++
  leBytes 8 s.time

/-- ATTESTATION_REQUEST (R466). -/
def execAttestationRequest (nonce : List Byte) (s : State) : Result :=
  runStep (modify (fun s =>
    let bs := s.attestation nonce
    { s with replies := s.replies ++ [Reply.attestation (bs ++ digestBytes (Config.sign s.identity bs))] })) s

/-! ### Images (R354, R355, R364, R365) -/

/-- A section entry of an image (R355). -/
structure Section where
  id : Nat
  nobits : Bool
  align : Nat
  offset : Nat
  size : Nat
  addr : Nat
  zeros : Bool
  deriving DecidableEq, Repr

/-- The section entry at a file offset; zeros says that its reserved bits are zero. -/
def sectionAt (f : List Byte) (e : Nat) : Section :=
  { id := fileNat f e 1, nobits := (fileNat f (e + 1) 1).testBit 1, align := fileNat f (e + 4) 4, offset := fileNat f (e + 8) 8,
    size := fileNat f (e + 16) 8, addr := fileNat f (e + 24) 8, zeros := decide (fileNat f (e + 1) 3 / 4 = 0) }

/-- The sections of an image. -/
def sections (f : List Byte) : List Section := (List.range (fileNat f 16 2)).map (fun i => sectionAt f (fileNat f 32 8 + 32 * i))

/-- The section of an image with an id. -/
def imageSection (f : List Byte) (id : Nat) : Option Section := (sections f).find? (fun e => e.id == id)

/-- Bytes of a section. -/
def sectionSize (f : List Byte) (id : Nat) : Nat := ((imageSection f id).map Section.size).getD 0

/-- The contents of a section (R355). -/
def sectionBytes (f : List Byte) (e : Section) : List Byte := if e.nobits then List.replicate e.size 0 else (f.drop e.offset).take e.size

/-- The bytes of an image's .scratch (R355). -/
def imageScratch (f : List Byte) : List Byte := ((imageSection f 3).map (sectionBytes f)).getD []

/-- The sections that have addresses, in the order of R365: .text, .data, .contour and .handlers. -/
def placed (f : List Byte) : List Section := [1, 2, 5, 6].filterMap (imageSection f)

/-- The file offsets of the team descriptors, the region records and the stream records (R354). -/
def fileTeam (f : List Byte) (i : Nat) : Nat := fileNat f 56 8 + 128 * i
/-- The file offset of a region record. -/
def fileRegion (f : List Byte) (i : Nat) : Nat := fileTeam f (fileNat f 18 2) + 64 * i
/-- The file offset of a stream record. -/
def fileStream (f : List Byte) (i : Nat) : Nat := fileRegion f (fileNat f 20 2) + 16 * i

/-- An image's stream records (R364): the descriptor's address of the record's team, the stream, and the counter's scratch offset. -/
def imageStreams (f : List Byte) (descs : List Nat) : List (Nat × Nat × Nat) :=
  (List.range (fileNat f 22 2)).map (fun i =>
    (descs.getD (fileNat f (fileStream f i) 2) 0, fileNat f (fileStream f i + 2) 1, fileNat f (fileStream f i + 8) 8))

/-- A section entry that is well formed (R355). -/
def sectionOk (f : List Byte) (e : Section) : Bool :=
  decide (1 ≤ e.id) && decide (e.id ≤ 6) && e.zeros && ((List.range 12).map (fun k => 2 ^ (k + 1))).contains e.align &&
  (e.nobits || decide (e.offset + e.size ≤ f.length)) && (decide (e.addr = 0) || e.id != 3 && e.id != 4)

/-- A header and tables that are well formed and those of a linked image (R354, R355, R364). -/
def imageOk (f : List Byte) : Bool :=
  let flags := fileNat f 6 2
  decide (fileNat f 0 4 = 0x334F4B50) && decide (fileNat f 4 2 = 1) && decide (flags / 4 = 0) && decide (flags % 2 = 1) &&
  (flags.testBit 1 || decide (fileNat f 8 8 = 2 ^ 64 - 1)) && decide (fileNat f 16 2 ≤ 6) && decide (fileNat f 28 4 = 0) &&
  (sections f).all (sectionOk f) && decide (((sections f).map Section.id).dedup.length = (sections f).length) &&
  decide (fileStream f (fileNat f 22 2) ≤ f.length) &&
  (List.range (fileNat f 22 2)).all (fun i => decide (fileNat f (fileStream f i) 2 < fileNat f 18 2) &&
    decide (fileNat f (fileStream f i + 2) 6 < 64)) &&
  (List.range (fileNat f 20 2)).all (fun i =>
    let r := fileRegion f i
    decide (fileNat f r 1 / 16 = 0) && decide (fileNat f (r + 1) 1 ≤ 1) && decide (fileNat f (r + 2) 2 ≤ fileNat f 20 2) &&
    decide (fileNat f (r + 36) 4 = 0) && decide (fileNat f (r + 40) 24 = 0))

/-- What R365 refuses of one team: its scratch, trail and spill area against its carve. -/
def teamRefused (f : List Byte) (d : Nat) : Bool :=
  let carve := fileNat f (d + 24) 8
  let scratch := scratchBytes (carve / 256 % 4) (carve % 16) false
  let used := sectionSize f 3
  let spill := fileNat f (d + 32) 4 % 2 ^ 21
  let size := fileNat f (d + 36) 4
  decide (scratch < used) || decide (scratch < spill + size) || decide (trailBytes (carve % 16) / 8 < sectionSize f 4) ||
  decide (size ≠ 0) && overlap spill size 0 used || decide (scratch - 2048 < used) || decide (size ≠ 0 ∧ scratch - 2048 < spill + size)

/-- An image that Brukezin refuses: no well-formed linked image, or one that R365 refuses. -/
def imageRefused (f : List Byte) : Bool := !imageOk f || (List.range (fileNat f 18 2)).any (fun i => teamRefused f (fileTeam f i))

/-- Sections stand in order, each on the 4 KiB boundary after the one before it, from a base address on (R365). -/
def inOrder : Nat → List Section → Bool
  | _, [] => true
  | base, e :: rest => decide (e.addr = (base + 4095) / 4096 * 4096) && inOrder (e.addr + e.size) rest

/-! ### Jobs (R463) -/

/-- A job's image is refused (R365, R463): the image itself, or its place at the base that the job names. -/
def jobRefused (j : JobMessage) : Bool := imageRefused j.image || !inOrder (j.header.getD 3 0).toNat (placed j.image)

/-- The bytes of a job header. -/
def headerBytes (j : JobMessage) : List Byte := (padTo 8 j.header).flatMap (fun w => leBytes 8 w.toNat)

/-- A job's header and signature are valid (R463). -/
def State.jobValid (s : State) (j : JobMessage) : Bool :=
  let w (i : Nat) : Word := j.header.getD i 0
  let key := match s.configOf 4 with | some (.submitterKeys ks) => ks[field (w 0) 51 48]? | _ => none
  decide (field (w 0) 63 52 = 0) && decide (field (w 0) 47 32 = 1) && decide (field (w 0) 31 0 = 0x424A4B53) &&
  decide ((w 2).toNat % 2 ^ 30 = 0) && decide (field (w 4) 63 32 = 0) && decide (field (w 4) 31 0 = j.image.length) &&
  decide (w 5 = 0) && decide (w 6 = 0) && decide (w 7 = 0) && decide (j.header.length = 8) &&
  (match key with | some k => Config.signatureValid k (headerBytes j ++ j.image) j.signature | none => false)

/-- Bytes written at a virtual address of a partition, through its page tables. -/
def State.placeBytes (s : State) (part va : Nat) (bs : List Byte) : State :=
  bs.zipIdx.foldl (fun s b => match s.mapped part (va + b.2) with | some pa => { s with mem := s.mem.write pa b.1 } | none => s) s

/-- Every byte of a range of a partition's virtual addresses is mapped into the partition's HBM, or, where a page may be left out until a
fault asks for it (R472, log 58), not mapped. -/
def State.placeable (s : State) (part va n : Nat) (sparse : Bool) : Bool :=
  let p := s.part part
  (List.range n).all (fun i => match s.mapped part (va + i) with
    | some pa => decide (p.hbase ≤ pa) && decide (pa < p.hbase + p.hsize) && !s.protects pa 1
    | none => sparse)

/-- The block of an image's region record (R364, R382): what the record gives, and the parent's value for what it omits (log 58). -/
def State.placeRegion (s : State) (j : JobMessage) (root i : Nat) : State :=
  let f := j.image
  let r := fileRegion f i
  let parent := fileNat f (r + 2) 2
  let pset := fileNat f (r + 1) 1
  let own : List Nat := [pset, fileNat f (r + 8) 4, fileNat f (r + 12) 4, fileNat f (r + 16) 8, fileNat f (r + 24) 8, fileNat f (r + 32) 4, 0, 0]
  let inherit := own.zipIdx.foldl (fun m e => if e.1 = 0 then m + 2 ^ e.2 else m) 0
  let up := if parent = 0 then root else j.plan.blocks.getD (parent - 1) 0
  let at_ := j.plan.blocks.getD i 0
  s.storeWords at_ ([up, fileNat f (r + 32) 4 * 2 ^ 32 + inherit * 2 ^ 16 + fileNat f r 1 % 16, fileNat f (r + 8) 8, fileNat f (r + 16) 8,
    fileNat f (r + 24) 8, 0, 0, 0, 0, 0].map (BitVec.ofNat 64))

/-- The partition of a job once Brukezin has made its descriptor and tables: it keeps what the image holds for its teams' starts (R355,
R364, R380). -/
def State.placePart (s : State) (j : JobMessage) : State :=
  let s : State := { s with mem := j.plan.writes.foldl (fun m e => m.writes e.1 e.2) s.mem }
  let n := j.plan.partition
  let p : Part := { s.descriptor n with streams := imageStreams j.image j.plan.descs, scratch := imageScratch j.image }
  { s.setPart n p with pload := BitVec.ofNat 64 n }

/-- A launch record of a job (R399) in its die's ring, whose tail advances (R398): it names the block of the region that the team's
descriptor gives, 0 for the root (R363). -/
def State.placeLaunch (s : State) (j : JobMessage) (root : Nat) (l : LaunchPlan) : State :=
  let ring := s.regbase.toNat + 0x40000000 + l.die * 0x200000
  let tail := s.load ring 4
  let region := fileNat j.image (fileTeam j.image l.team + 12) 2
  let rcb := if region = 0 then root else j.plan.blocks.getD (region - 1) 0
  let words := [l.nteams * 2 ^ 16 + l.dies * 2 ^ 12 + j.plan.partition, j.plan.descs.getD l.team 0, rcb, l.team0 * 2 ^ 32, l.status].map (BitVec.ofNat 64)
  (s.storeWords (ring + 4096 + 256 * (tail % 4096)) (padTo 32 words)).store ring 4 ((tail + 1) % 2 ^ 32)

/-- The root block gets the service's defaults for quantum and T_hot (R382, R465). -/
def State.placeRoot (s : State) (root : Nat) : State :=
  match s.configOf 5 with
  | some (.defaults _ quantum thot) => s.storeWords (root + 40) [BitVec.ofNat 64 (quantum * 2 ^ 32 + thot)]
  | _ => s

/-- The state with what Brukezin writes for a job: its partition, the image's sections at their addresses, the team descriptors, the
blocks of its regions, and its launch records (R355, R363, R364, R380, R399). -/
def State.placeJob (s : State) (j : JobMessage) : State :=
  let f := j.image
  let n := j.plan.partition
  let s := s.placePart j
  let s := (placed f).foldl (fun s e => s.placeBytes n e.addr (sectionBytes f e)) s
  let s := j.plan.descs.zipIdx.foldl (fun s d => s.placeBytes n d.1 ((f.drop (fileTeam f d.2)).take 128)) s
  let root := (s.part n).rootrcb
  let s := (List.range j.plan.blocks.length).foldl (fun s i => s.placeRegion j root i) (s.placeRoot root)
  j.plan.launches.foldl (fun s l => s.placeLaunch j root l) s

/-- A partition and HBM of a job's size are free (R463): a range of whole GiB that meets neither the protected region nor a valid partition. -/
def State.hasRoom (s : State) (size : Nat) : Bool :=
  let parts := (List.range 8).map s.part
  parts.any (fun p => !p.valid) && (List.range 512).any (fun g =>
    decide (g * 2 ^ 30 + size ≤ 2 ^ 39) && !s.protects (g * 2 ^ 30) size &&
    parts.all (fun p => !(p.valid && overlap (g * 2 ^ 30) size p.hbase p.hsize)))

/-- A block for a region (R382): aligned to 128 bytes, in the protected region. -/
def State.blockOk (s : State) (b : Nat) : Bool :=
  decide (b % 128 = 0) && decide (s.regbase.toNat ≤ b) && decide (b + 128 ≤ s.regbase.toNat + s.regsize.toNat)

/-- A launch record that Brukezin may write for a job (R399): within its fields, of one of the job's teams, whose region the job has, with its
status word in the job's HBM. -/
def launchOk (j : JobMessage) (l : LaunchPlan) : Bool :=
  decide (l.die < 4) && decide (1 ≤ l.dies) && decide (l.dies < 16) && decide (l.team < j.plan.descs.length) && decide (1 ≤ l.nteams) &&
  decide (l.nteams < 2 ^ 24) && decide (l.team0 < 2 ^ 32) && decide (fileNat j.image (fileTeam j.image l.team + 12) 2 ≤ j.plan.blocks.length) &&
  (decide (l.status = 0) || (decide (l.status % 8 = 0) && decide (j.plan.hbase ≤ l.status) &&
    decide (l.status + 8 ≤ j.plan.hbase + (j.header.getD 2 0).toNat)))

/-- A physical write of a job's plan stays in the protected region or in the job's HBM. -/
def State.writeOk (s : State) (j : JobMessage) (w : Nat × List Byte) : Bool :=
  let within (base size : Nat) : Bool := decide (base ≤ w.1) && decide (w.1 + w.2.length ≤ base + size)
  within s.regbase.toNat s.regsize.toNat || within j.plan.hbase (j.header.getD 2 0).toNat

/-- What Brukezin plans for a job is a plan for it (R463): the descriptor it makes is one of a free partition that k.PLOAD takes, with the job's
HBM; its tables map the image and the team descriptors; its blocks lie in the protected region (R382); and it launches the job. -/
def State.jobFits (s : State) (j : JobMessage) : Bool :=
  let n := j.plan.partition
  let f := j.image
  let t := s.placePart j
  decide (n < 8) && !(s.part n).valid && j.plan.writes.all (s.writeOk j) && (t.part n).valid && decide ((t.part n).hbase = j.plan.hbase) &&
  decide ((t.part n).hsize = (j.header.getD 2 0).toNat) && !t.descriptorRefused n (t.part n) && s.blockOk (t.part n).rootrcb &&
  (placed f).all (fun e => t.placeable n e.addr e.size true) &&
  decide (j.plan.descs.length = fileNat f 18 2) && j.plan.descs.all (fun d => t.placeable n d 128 false) &&
  decide (j.plan.blocks.length = fileNat f 20 2) && j.plan.blocks.all s.blockOk &&
  (!j.plan.launches.isEmpty || j.plan.descs.isEmpty) && j.plan.launches.all (launchOk j)

/-- The status of a job's reply (R463), in the order of the rule's checks: the signature first, then the free partition, then the image as it
is placed; the rule does not say which status answers a job that fails several (DESIGN CHOICE, log 96). -/
def State.jobStatus (s : State) (j : JobMessage) : Nat :=
  if s.jobValid j = false then 1 else if s.hasRoom (j.header.getD 2 0).toNat = false then 2 else if jobRefused j then 3 else 0

/-- JOB_MESSAGE: a job is checked, placed and answered; only status 0 changes the machine (R463). A plan that is none for an accepted job is not
Brukezin's, and nothing comes of it. -/
def execJobMessage (job : JobMessage) (s : State) : Result :=
  runStep (do
    let s ← get
    await (decide (s.bringUp = 5))
    let status := s.jobStatus job
    await (decide (status ≠ 0) || s.jobFits job)
    let reply := [job.header.getD 1 0, BitVec.ofNat 64 (status + (if status = 0 then job.plan.partition * 256 else 0)),
      Config.linkLatency false, Config.linkLatency true]
    let s := if status = 0 then s.placeJob job else s
    set { s with replies := s.replies ++ [Reply.job reply] }) s

end Sys2Proof.Machine
end

