-- ==== Sys2Proof/Machine/Dispatch.lean ====
section
/-! DEFINITION. One arm for each instruction and step: a direct call of its meaning. -/

namespace Sys2Proof.Machine

/-- What each instruction and step does. -/
def exec (i : Instr) (s : State) : Host.Outcome State Fault Refusal :=
  match i with
  | .add d a b f => Sys2Proof.Machine.execAdd d a b f s
  | .sub d a b f => Sys2Proof.Machine.execSub d a b f s
  | .and d a b f => Sys2Proof.Machine.execAnd d a b f s
  | .or d a b f => Sys2Proof.Machine.execOr d a b f s
  | .xor d a b f => Sys2Proof.Machine.execXor d a b f s
  | .shl d a b f => Sys2Proof.Machine.execShl d a b f s
  | .shr d a b f => Sys2Proof.Machine.execShr d a b f s
  | .sra d a b f => Sys2Proof.Machine.execSra d a b f s
  | .mul d a b f => Sys2Proof.Machine.execMul d a b f s
  | .mulh d a b f => Sys2Proof.Machine.execMulh d a b f s
  | .min d a b f => Sys2Proof.Machine.execMin d a b f s
  | .max d a b f => Sys2Proof.Machine.execMax d a b f s
  | .seq d a b f => Sys2Proof.Machine.execSeq d a b f s
  | .slt d a b f => Sys2Proof.Machine.execSlt d a b f s
  | .sel d a b => Sys2Proof.Machine.execSel d a b s
  | .addi d a imm => Sys2Proof.Machine.execAddi d a imm s
  | .andi d a imm => Sys2Proof.Machine.execAndi d a imm s
  | .ori d a imm => Sys2Proof.Machine.execOri d a imm s
  | .xori d a imm => Sys2Proof.Machine.execXori d a imm s
  | .shli d a imm => Sys2Proof.Machine.execShli d a imm s
  | .shri d a imm => Sys2Proof.Machine.execShri d a imm s
  | .srai d a imm => Sys2Proof.Machine.execSrai d a imm s
  | .slti d a imm => Sys2Proof.Machine.execSlti d a imm s
  | .li d imm => Sys2Proof.Machine.execLi d imm s
  | .lih d imm => Sys2Proof.Machine.execLih d imm s
  | .pcrel d imm => Sys2Proof.Machine.execPcrel d imm s
  | .ldb d a imm la => Sys2Proof.Machine.execLdb d a imm la s
  | .ldbn d a imm la => Sys2Proof.Machine.execLdbn d a imm la s
  | .ldh d a imm la => Sys2Proof.Machine.execLdh d a imm la s
  | .ldhn d a imm la => Sys2Proof.Machine.execLdhn d a imm la s
  | .ldw d a imm la => Sys2Proof.Machine.execLdw d a imm la s
  | .ldwn d a imm la => Sys2Proof.Machine.execLdwn d a imm la s
  | .ldd d a imm la => Sys2Proof.Machine.execLdd d a imm la s
  | .stb d a imm xs => Sys2Proof.Machine.execStb d a imm xs s
  | .sth d a imm xs => Sys2Proof.Machine.execSth d a imm xs s
  | .stw d a imm xs => Sys2Proof.Machine.execStw d a imm xs s
  | .std d a imm xs => Sys2Proof.Machine.execStd d a imm xs s
  | .tch kind a imm la => Sys2Proof.Machine.execTch kind a imm la s
  | .lda d a imm q la => Sys2Proof.Machine.execLda d a imm q la s
  | .stl d a imm q xs => Sys2Proof.Machine.execStl d a imm q xs s
  | .beq a b imm => Sys2Proof.Machine.execBeq a b imm s
  | .bne a b imm => Sys2Proof.Machine.execBne a b imm s
  | .blt a b imm => Sys2Proof.Machine.execBlt a b imm s
  | .bge a b imm => Sys2Proof.Machine.execBge a b imm s
  | .bltn a b imm => Sys2Proof.Machine.execBltn a b imm s
  | .bgen a b imm => Sys2Proof.Machine.execBgen a b imm s
  | .jmp imm => Sys2Proof.Machine.execJmp imm s
  | .jal imm => Sys2Proof.Machine.execJal imm s
  | .jr d a => Sys2Proof.Machine.execJr d a s
  | .div d a b f la => Sys2Proof.Machine.execDiv d a b f la s
  | .divn d a b f la => Sys2Proof.Machine.execDivn d a b f la s
  | .rem d a b f la => Sys2Proof.Machine.execRem d a b f la s
  | .remn d a b f la => Sys2Proof.Machine.execRemn d a b f la s
  | .popc d a f => Sys2Proof.Machine.execPopc d a f s
  | .clz d a f => Sys2Proof.Machine.execClz d a f s
  | .ctz d a f => Sys2Proof.Machine.execCtz d a f s
  | .rot d a b f => Sys2Proof.Machine.execRot d a b f s
  | .bswap d a f => Sys2Proof.Machine.execBswap d a f s
  | .bext d a b => Sys2Proof.Machine.execBext d a b s
  | .bins d a b => Sys2Proof.Machine.execBins d a b s
  | .fadd d a b f => Sys2Proof.Machine.execFadd d a b f s
  | .fsub d a b f => Sys2Proof.Machine.execFsub d a b f s
  | .fmul d a b f => Sys2Proof.Machine.execFmul d a b f s
  | .fma d a b f => Sys2Proof.Machine.execFma d a b f s
  | .fdiv d a b f => Sys2Proof.Machine.execFdiv d a b f s
  | .fsqrt d a f => Sys2Proof.Machine.execFsqrt d a f s
  | .fmin d a b f => Sys2Proof.Machine.execFmin d a b f s
  | .fmax d a b f => Sys2Proof.Machine.execFmax d a b f s
  | .feq d a b f => Sys2Proof.Machine.execFeq d a b f s
  | .flt d a b f => Sys2Proof.Machine.execFlt d a b f s
  | .fle d a b f => Sys2Proof.Machine.execFle d a b f s
  | .fcvt d a code => Sys2Proof.Machine.execFcvt d a code s
  | .fcls d a f => Sys2Proof.Machine.execFcls d a f s
  | .kget d imm => Sys2Proof.Machine.execKget d imm s
  | .kput d imm => Sys2Proof.Machine.execKput d imm s
  | .rand d => Sys2Proof.Machine.execRand d s
  | .vld d a imm q la => Sys2Proof.Machine.execVld d a imm q la s
  | .vst d a imm q => Sys2Proof.Machine.execVst d a imm q s
  | .vlds d a b q la => Sys2Proof.Machine.execVlds d a b q la s
  | .vsts d a b q => Sys2Proof.Machine.execVsts d a b q s
  | .vldx d a b q la => Sys2Proof.Machine.execVldx d a b q la s
  | .vstx d a b q => Sys2Proof.Machine.execVstx d a b q s
  | .vadd d a b q => Sys2Proof.Machine.execVadd d a b q s
  | .vsub d a b q => Sys2Proof.Machine.execVsub d a b q s
  | .vmul d a b q => Sys2Proof.Machine.execVmul d a b q s
  | .vfma d a b q => Sys2Proof.Machine.execVfma d a b q s
  | .vmin d a b q => Sys2Proof.Machine.execVmin d a b q s
  | .vmax d a b q => Sys2Proof.Machine.execVmax d a b q s
  | .vand d a b q => Sys2Proof.Machine.execVand d a b q s
  | .vor d a b q => Sys2Proof.Machine.execVor d a b q s
  | .vxor d a b q => Sys2Proof.Machine.execVxor d a b q s
  | .vshl d a b q => Sys2Proof.Machine.execVshl d a b q s
  | .vshr d a b q => Sys2Proof.Machine.execVshr d a b q s
  | .vcmpeq d a b q => Sys2Proof.Machine.execVcmpeq d a b q s
  | .vcmplt d a b q => Sys2Proof.Machine.execVcmplt d a b q s
  | .vsel d a b q => Sys2Proof.Machine.execVsel d a b q s
  | .vcvt d a code q => Sys2Proof.Machine.execVcvt d a code q s
  | .vpack4 d a code q la => Sys2Proof.Machine.execVpack4 d a code q la s
  | .vunpk4 d a q => Sys2Proof.Machine.execVunpk4 d a q s
  | .vredsum d a q => Sys2Proof.Machine.execVredsum d a q s
  | .vredmax d a q => Sys2Proof.Machine.execVredmax d a q s
  | .vredmin d a q => Sys2Proof.Machine.execVredmin d a q s
  | .vbcast d a q => Sys2Proof.Machine.execVbcast d a q s
  | .vext d a imm q => Sys2Proof.Machine.execVext d a imm q s
  | .vins d a imm q => Sys2Proof.Machine.execVins d a imm q s
  | .vperm d a b q => Sys2Proof.Machine.execVperm d a b q s
  | .vrcp d a q => Sys2Proof.Machine.execVrcp d a q s
  | .vrsq d a q => Sys2Proof.Machine.execVrsq d a q s
  | .vexp d a q => Sys2Proof.Machine.execVexp d a q s
  | .vscal d a b q => Sys2Proof.Machine.execVscal d a b q s
  | .vmov d a q => Sys2Proof.Machine.execVmov d a q s
  | .vmcnt d a q => Sys2Proof.Machine.execVmcnt d a q s
  | .viota d q => Sys2Proof.Machine.execViota d q s
  | .mlease d => Sys2Proof.Machine.execMlease d s
  | .mfmt a q => Sys2Proof.Machine.execMfmt a q s
  | .mbld d a b q => Sys2Proof.Machine.execMbld d a b q s
  | .mbldg d a b q => Sys2Proof.Machine.execMbldg d a b q s
  | .mmul d a b q => Sys2Proof.Machine.execMmul d a b q s
  | .mgath d a b q => Sys2Proof.Machine.execMgath d a b q s
  | .mzero d imm => Sys2Proof.Machine.execMzero d imm s
  | .mdrain d a b => Sys2Proof.Machine.execMdrain d a b s
  | .mwalk d a b => Sys2Proof.Machine.execMwalk d a b s
  | .mwait a => Sys2Proof.Machine.execMwait a s
  | .mpoll d a => Sys2Proof.Machine.execMpoll d a s
  | .cpput a => Sys2Proof.Machine.execCpput a s
  | .cplaunch d => Sys2Proof.Machine.execCplaunch d s
  | .cpgath d a b => Sys2Proof.Machine.execCpgath d a b s
  | .cpscat d a b => Sys2Proof.Machine.execCpscat d a b s
  | .cpwait a => Sys2Proof.Machine.execCpwait a s
  | .cpLaunchRead d => Sys2Proof.Machine.execCpLaunchRead d s
  | .sgath d a b q la => Sys2Proof.Machine.execSgath d a b q la s
  | .aadd d a b q la => Sys2Proof.Machine.execAadd d a b q la s
  | .aand d a b q la => Sys2Proof.Machine.execAand d a b q la s
  | .aor d a b q la => Sys2Proof.Machine.execAor d a b q la s
  | .amin d a b q la => Sys2Proof.Machine.execAmin d a b q la s
  | .amax d a b q la => Sys2Proof.Machine.execAmax d a b q la s
  | .axchg d a b q la => Sys2Proof.Machine.execAxchg d a b q la s
  | .acas d a q la => Sys2Proof.Machine.execAcas d a q la s
  | .afadd d a b q la => Sys2Proof.Machine.execAfadd d a b q la s
  | .msend a b => Sys2Proof.Machine.execMsend a b s
  | .hset a imm => Sys2Proof.Machine.execHset a imm s
  | .spawn a => Sys2Proof.Machine.execSpawn a s
  | .cdarm a b => Sys2Proof.Machine.execCdarm a b s
  | .cddec a b => Sys2Proof.Machine.execCddec a b s
  | .jwait d a => Sys2Proof.Machine.execJwait d a s
  | .fence q => Sys2Proof.Machine.execFence q s
  | .fencea q => Sys2Proof.Machine.execFencea q s
  | .fencer q => Sys2Proof.Machine.execFencer q s
  | .sfence sid => Sys2Proof.Machine.execSfence sid s
  | .barr imm => Sys2Proof.Machine.execBarr imm s
  | .barw imm => Sys2Proof.Machine.execBarw imm s
  | .barx imm => Sys2Proof.Machine.execBarx imm s
  | .waitge a b => Sys2Proof.Machine.execWaitge a b s
  | .carve a => Sys2Proof.Machine.execCarve a s
  | .sprint d a => Sys2Proof.Machine.execSprint d a s
  | .sprintq d => Sys2Proof.Machine.execSprintq d s
  | .scallRefused imm => Sys2Proof.Machine.execScallRefused imm s
  | .rst d a imm sid cls => Sys2Proof.Machine.execRst d a imm sid cls s
  | .rstv d a imm sid cls => Sys2Proof.Machine.execRstv d a imm sid cls s
  | .rstm a b sid cls => Sys2Proof.Machine.execRstm a b sid cls s
  | .raadd d a b la sid cls => Sys2Proof.Machine.execRaadd d a b la sid cls s
  | .rafadd d a b la sid cls => Sys2Proof.Machine.execRafadd d a b la sid cls s
  | .racas d a la sid cls => Sys2Proof.Machine.execRacas d a la sid cls s
  | .raxchg d a b la sid cls => Sys2Proof.Machine.execRaxchg d a b la sid cls s
  | .rreq d a b => Sys2Proof.Machine.execRreq d a b s
  | .rsl a b => Sys2Proof.Machine.execRsl a b s
  | .rsetc a b sid cls => Sys2Proof.Machine.execRsetc a b sid cls s
  | .rclose a b sid cls => Sys2Proof.Machine.execRclose a b sid cls s
  | .tryChoice a b => Sys2Proof.Machine.execTryChoice a b s
  | .trySteal a b => Sys2Proof.Machine.execTrySteal a b s
  | .cut a => Sys2Proof.Machine.execCut a s
  | .mark d => Sys2Proof.Machine.execMark d s
  | .otask d a => Sys2Proof.Machine.execOtask d a s
  | .ohoriz d => Sys2Proof.Machine.execOhoriz d s
  | .cvdef a b => Sys2Proof.Machine.execCvdef a b s
  | .cvslope a b => Sys2Proof.Machine.execCvslope a b s
  | .cvquant a b => Sys2Proof.Machine.execCvquant a b s
  | .cvfan a b => Sys2Proof.Machine.execCvfan a b s
  | .cvrun a => Sys2Proof.Machine.execCvrun a s
  | .cvstop a => Sys2Proof.Machine.execCvstop a s
  | .cvread d a => Sys2Proof.Machine.execCvread d a s
  | .cvguard a b => Sys2Proof.Machine.execCvguard a b s
  | .cvsurvey a b => Sys2Proof.Machine.execCvsurvey a b s
  | .rlead d a => Sys2Proof.Machine.execRlead d a s
  | .rfollow a b => Sys2Proof.Machine.execRfollow a b s
  | .thset d a b => Sys2Proof.Machine.execThset d a b s
  | .thprio a b => Sys2Proof.Machine.execThprio a b s
  | .thevict a => Sys2Proof.Machine.execThevict a s
  | .thdemote a => Sys2Proof.Machine.execThdemote a s
  | .xprobe d a => Sys2Proof.Machine.execXprobe d a s
  | .skget d imm => Sys2Proof.Machine.execSkget d imm s
  | .skput d imm => Sys2Proof.Machine.execSkput d imm s
  | .stage a b => Sys2Proof.Machine.execStage a b s
  | .spill a b => Sys2Proof.Machine.execSpill a b s
  | .tlbinv a b => Sys2Proof.Machine.execTlbinv a b s
  | .pinrel a => Sys2Proof.Machine.execPinrel a s
  | .gstop a => Sys2Proof.Machine.execGstop a s
  | .gresume a => Sys2Proof.Machine.execGresume a s
  | .adopt d a => Sys2Proof.Machine.execAdopt d a s
  | .teamStart team => Sys2Proof.Machine.execTeamStart team s
  | .quantumExpire team => Sys2Proof.Machine.execQuantumExpire team s
  | .yieldRequest deadline => Sys2Proof.Machine.execYieldRequest deadline s
  | .teamSwap team => Sys2Proof.Machine.execTeamSwap team s
  | .messageArrive bank => Sys2Proof.Machine.execMessageArrive bank s
  | .horizonReduction team => Sys2Proof.Machine.execHorizonReduction team s
  | .copyComplete n => Sys2Proof.Machine.execCopyComplete n s
  | .barrierPhaseComplete team id => Sys2Proof.Machine.execBarrierPhaseComplete team id s
  | .timerFire n => Sys2Proof.Machine.execTimerFire n s
  | .longLatencyComplete n => Sys2Proof.Machine.execLongLatencyComplete n s
  | .streamCommit packet => Sys2Proof.Machine.execStreamCommit packet s
  | .streamAck packet => Sys2Proof.Machine.execStreamAck packet s
  | .remoteAtomicResult packet => Sys2Proof.Machine.execRemoteAtomicResult packet s
  | .fabricFailure packet => Sys2Proof.Machine.execFabricFailure packet s
  | .requestArrive n => Sys2Proof.Machine.execRequestArrive n s
  | .requestTimeout tag => Sys2Proof.Machine.execRequestTimeout tag s
  | .ualinkReadRequest gid => Sys2Proof.Machine.execUalinkReadRequest gid s
  | .stationLinkDown station => Sys2Proof.Machine.execStationLinkDown station s
  | .icefieldUpdate milliwatts => Sys2Proof.Machine.execIcefieldUpdate milliwatts s
  | .biasWindow events => Sys2Proof.Machine.execBiasWindow events s
  | .temperatureSample rcb readings => Sys2Proof.Machine.execTemperatureSample rcb readings s
  | .hotDwellExpire rcb => Sys2Proof.Machine.execHotDwellExpire rcb s
  | .uncorrectableError site => Sys2Proof.Machine.execUncorrectableError site s
  | .heartWrite value => Sys2Proof.Machine.execHeartWrite value s
  | .ploadWrite n => Sys2Proof.Machine.execPloadWrite n s
  | .stagectlWrite value => Sys2Proof.Machine.execStagectlWrite value s
  | .jobMessage job => Sys2Proof.Machine.execJobMessage job s
  | .attestationRequest nonce => Sys2Proof.Machine.execAttestationRequest nonce s
  | .powerGood config => Sys2Proof.Machine.execPowerGood config s
  | .unassignedOpcode bad => Sys2Proof.Machine.execUnassignedOpcode bad s
  | .streamGapTimeout packet => Sys2Proof.Machine.execStreamGapTimeout packet s
  | .brokenStreamClear sid dest => Sys2Proof.Machine.execBrokenStreamClear sid dest s
  | .stationLinkUp station => Sys2Proof.Machine.execStationLinkUp station s
  | .portLinkChange port up => Sys2Proof.Machine.execPortLinkChange port up s
  | .serviceCoreRemoval n => Sys2Proof.Machine.execServiceCoreRemoval n s
  | .nop => Sys2Proof.Machine.execNop s
  | .brk => Sys2Proof.Machine.execBrk s
  | .mfree => Sys2Proof.Machine.execMfree s
  | .evwait => Sys2Proof.Machine.execEvwait s
  | .yield => Sys2Proof.Machine.execYield s
  | .uret => Sys2Proof.Machine.execUret s
  | .scallExit => Sys2Proof.Machine.execScallExit s
  | .scallTimerArm => Sys2Proof.Machine.execScallTimerArm s
  | .scallTimerCancel => Sys2Proof.Machine.execScallTimerCancel s
  | .scallDestroyDeque => Sys2Proof.Machine.execScallDestroyDeque s
  | .rbegin => Sys2Proof.Machine.execRbegin s
  | .rcommit => Sys2Proof.Machine.execRcommit s
  | .rslgo => Sys2Proof.Machine.execRslgo s
  | .fail => Sys2Proof.Machine.execFail s
  | .oend => Sys2Proof.Machine.execOend s
  | .oabort => Sys2Proof.Machine.execOabort s
  | .rdetach => Sys2Proof.Machine.execRdetach s
  | .rrejoin => Sys2Proof.Machine.execRrejoin s
  | .tret => Sys2Proof.Machine.execTret s
  | .swapgo => Sys2Proof.Machine.execSwapgo s
  | .launchRecordTake => Sys2Proof.Machine.execLaunchRecordTake s
  | .dispenserDecision => Sys2Proof.Machine.execDispenserDecision s
  | .yieldDeadline => Sys2Proof.Machine.execYieldDeadline s
  | .handlerStart => Sys2Proof.Machine.execHandlerStart s
  | .handlerTableApply => Sys2Proof.Machine.execHandlerTableApply s
  | .stealRequest => Sys2Proof.Machine.execStealRequest s
  | .stealAnswer => Sys2Proof.Machine.execStealAnswer s
  | .stealReplyReceive => Sys2Proof.Machine.execStealReplyReceive s
  | .readyRingPush => Sys2Proof.Machine.execReadyRingPush s
  | .otaskCommit => Sys2Proof.Machine.execOtaskCommit s
  | .taskAbort => Sys2Proof.Machine.execTaskAbort s
  | .contourCrossing => Sys2Proof.Machine.execContourCrossing s
  | .surveyFire => Sys2Proof.Machine.execSurveyFire s
  | .leaseGrant => Sys2Proof.Machine.execLeaseGrant s
  | .leaseTimeout => Sys2Proof.Machine.execLeaseTimeout s
  | .matrixJobComplete => Sys2Proof.Machine.execMatrixJobComplete s
  | .indexWalkComplete => Sys2Proof.Machine.execIndexWalkComplete s
  | .doneWordPush => Sys2Proof.Machine.execDoneWordPush s
  | .copyInterrupt => Sys2Proof.Machine.execCopyInterrupt s
  | .translationWalk => Sys2Proof.Machine.execTranslationWalk s
  | .pinExpire => Sys2Proof.Machine.execPinExpire s
  | .contextMigrate => Sys2Proof.Machine.execContextMigrate s
  | .regionTimeout => Sys2Proof.Machine.execRegionTimeout s
  | .regionFailure => Sys2Proof.Machine.execRegionFailure s
  | .swapTimeDue => Sys2Proof.Machine.execSwapTimeDue s
  | .ridgeFlip => Sys2Proof.Machine.execRidgeFlip s
  | .stageComplete => Sys2Proof.Machine.execStageComplete s
  | .spillComplete => Sys2Proof.Machine.execSpillComplete s
  | .sprintLeaseExpire => Sys2Proof.Machine.execSprintLeaseExpire s
  | .systemFault => Sys2Proof.Machine.execSystemFault s
  | .faultRecordPost => Sys2Proof.Machine.execFaultRecordPost s
  | .watchdogExpire => Sys2Proof.Machine.execWatchdogExpire s
  | .timeLockLost => Sys2Proof.Machine.execTimeLockLost s
  | .storeAcknowledgement => Sys2Proof.Machine.execStoreAcknowledgement s
  | .sprintEnergyCharge => Sys2Proof.Machine.execSprintEnergyCharge s
  | .biasHoldExpire => Sys2Proof.Machine.execBiasHoldExpire s
  | .timeLockRegained => Sys2Proof.Machine.execTimeLockRegained s
  | .serviceWarmRestart => Sys2Proof.Machine.execServiceWarmRestart s
  | .ridgeDrain => Sys2Proof.Machine.execRidgeDrain s

end Sys2Proof.Machine
end

