-- ==== Sys2Proof/Machine/Due.lean ====
section
/-! DEFINITION. What comes next when the agenda names nothing: bundles of the cores in turn, and between them the steps of the hardware
that are due, in a fixed order (log 4). The agenda may name any other. -/

namespace Sys2Proof.Machine

/-- A step of the hardware with the place it acts at. -/
structure Candidate where
  step : Instr
  core : CoreId
  ctx : CtxId
  deriving DecidableEq, Repr

/-- The state in which a step acts at its place. -/
def State.at (s : State) (k : CoreId) (c : CtxId) : State := { s with focus := k, cur := c }

/-- A step has an effect where it acts. -/
def Candidate.effective (s : State) (x : Candidate) : Bool :=
  match exec x.step (s.at x.core x.ctx) with
  | .next t => decide ({ t with stalled := s.stalled } ≠ s.at x.core x.ctx)
  | _ => true

/-- The cores that anything is listed for. -/
def State.listedCores (s : State) : List CoreId :=
  (s.cores.map Prod.fst ++ (s.ctxs.map Prod.fst).map coreOf ++ (s.banks.map Prod.fst).map (· / 2)).eraseDups

/-- A step that is listed only where something for it to do is held. -/
def only (held : Bool) (i : Instr) : List Instr := if held then [i] else []

/-- Pending results of a context. -/
def lateResults (s : State) (c : CtxId) : List Instr := (List.range (s.ctx c).pend.length).map Instr.longLatencyComplete

/-- Whether something waits for a context's pending results: a closed window (R61), or a context that is not about to issue. -/
def State.awaitsResults (s : State) (c : CtxId) : Bool :=
  (s.ctx c).windowClosed || (s.ctx c).run != .running || s.stalled.contains c || !s.isActive c

/-- Steps of a context. -/
def contextSteps (s : State) (c : CtxId) : List Instr :=
  let x := s.ctx c
  [ only (s.parksFirst c && s.halted c) .systemFault, only x.region.isSome .regionFailure, only (x.task.isSome || !s.saved.isEmpty) .taskAbort, only (!x.doneHeld.isEmpty) .doneWordPush,
    only (x.task.isSome || s.teams.any (fun t => !t.2.oaborted.isEmpty)) .otaskCommit, only x.miss.isSome .translationWalk,
    only (!x.pins.isEmpty) .pinExpire, only x.migrating .contextMigrate, only (x.yreq != BitVec.allOnes 64) .yieldDeadline,
    if s.awaitsResults c then lateResults s c else [] ].flatten

/-- The horizon that a core holds for a domain is the one that stands, and has been for 1 µs, the longest that it may lag within a package: a
crossing is late before (R317, log 84). -/
def State.waveDone (s : State) (k : CoreId) (t : Nat) : Bool :=
  decide ((s.core k).horizonFor t = s.horizonOf t) && decide ((s.core k).waves.get (fun _ => 0) t + 1000 ≤ s.time)

/-- The copies that a core's contexts have launched. -/
def State.copiesOf (s : State) (k : CoreId) : List Nat := ((s.ridge (ridgeOf k)).copies.filter (fun c => coreOf c.ctx == k)).map Copy.id

/-- Steps of a core. -/
def coreSteps (s : State) (k : CoreId) : List Instr :=
  let x := s.core k
  let b := s.bank (s.activeBank k)
  [ only (!x.acks.isEmpty) .storeAcknowledgement, only (!b.readyHeld.isEmpty) .readyRingPush, only (!x.ops.isEmpty) .stageComplete,
    only (!x.ops.isEmpty) .spillComplete, only (!b.hsets.isEmpty) .handlerTableApply, (x.timers.map Prod.fst).map Instr.timerFire,
    (s.copiesOf k).map Instr.copyComplete, only x.steal.isSome .stealReplyReceive,
    only (s.cores.any (fun e => match e.2.steal with | some (.sent v _) => v == k | _ => false)) .stealAnswer, only b.team.isSome .handlerStart,
    only (x.swapt != BitVec.allOnes 64) .swapTimeDue, only (!b.slots.isEmpty && s.waveDone k (b.team.getD 0)) .contourCrossing, only x.survey.isSome .surveyFire ].flatten

/-- Steps of a ridge. -/
def ridgeSteps (s : State) (r : Nat) : List Instr :=
  let g := s.ridge r
  [ only (!g.jobs.isEmpty) .matrixJobComplete, only (!g.walks.isEmpty) .indexWalkComplete,
    only (s.ctxs.any (fun e => e.2.wait == .lease)) .leaseGrant, only g.lease.isSome .leaseTimeout, only g.extender.isSome .sprintLeaseExpire,
    only (!g.flips.isEmpty) .ridgeFlip, only g.hold.isSome .biasHoldExpire ].flatten

/-- Whether a team's horizon may move: it has tasks or contour slots, or a member holds a horizon below all ones. -/
def State.domainStirs (s : State) (t : Nat) : Bool :=
  decide (s.horizonOf t ≠ 2 ^ 96 - 1) || (s.team t).members.any (fun c => decide ((s.core c).horizonFor t ≠ 2 ^ 96 - 1)) ||
  s.ctxs.any (fun e => e.2.task.isSome)

/-- Steps of a team. -/
def teamSteps (s : State) (t : Nat) : List Instr :=
  let k := s.team t
  [ (k.barriers.map Prod.fst).map (Instr.barrierPhaseComplete t), only (s.domainStirs t) (.horizonReduction t),
    only (k.state == .resident && decide (k.started.length < k.members.length)) (.teamStart t), only (k.state == .leaving) (.teamSwap t),
    only (k.state == .resident) (.quantumExpire t) ].flatten

/-- Steps of the links and streams. -/
def streamSteps (s : State) : List Instr :=
  let ids : List Nat := s.packets.map Packet.id
  let boxes : List Instr := ((s.banks.filter (fun b => !b.2.outbox.isEmpty)).map (fun b => some b.1)).map Instr.messageArrive
  let refused : List Nat := (s.packets.filter (fun p =>
    p.state == .refused || p.state == .failed || (p.state == .sent && !s.reaches p.dest) || (p.state == .dropped && isAtomicBody p.body && p.src.isSome))).map Packet.id
  [ ids.map Instr.streamCommit, ids.map Instr.remoteAtomicResult, ids.map Instr.streamAck, refused.map Instr.fabricFailure,
    (List.range s.requests.length).map Instr.requestArrive, only (!s.messages.isEmpty) (.messageArrive none), boxes ].flatten

/-- Steps that belong to no place. -/
def packageSteps (s : State) : List Instr :=
  [ only (!s.faults.isEmpty) .faultRecordPost, only (s.heart != 0) .watchdogExpire, (s.heats.map Prod.fst).map Instr.hotDwellExpire ].flatten

/-- Whether a die's dispenser has anything to decide: a queued record, a grid with a free slot for a waiting team, or credits to clear. -/
def State.undecided (s : State) (d : Nat) : Bool :=
  let k := s.die d
  !k.queue.isEmpty || !k.contenders.isEmpty || !(s.deferredTeams d).isEmpty || k.grids.any (fun g => decide (s.resident d g < g.slots) && s.waiting d g)

/-- Steps of a die's dispenser. -/
def dieSteps (s : State) (d : Nat) : List Instr := .launchRecordTake :: only (s.undecided d) .dispenserDecision

/-- Steps at one place. -/
def atPlace (k : CoreId) (c : CtxId) (is : List Instr) : List Candidate := is.map (fun i => Candidate.mk i k c)

/-- Steps that have their own time: timeouts of requests and regions, and steals. -/
def timedSteps (s : State) : List Candidate :=
  let cores := s.listedCores
  [ cores.flatMap (fun k => atPlace k 0 (((s.core k).tags.map Prod.fst).map Instr.requestTimeout)),
    (s.ctxs.filter (fun e => e.2.region.isSome)).flatMap (fun e => atPlace (coreOf e.1) e.1 [Instr.regionTimeout]),
    cores.flatMap (fun k => atPlace k 0 (only ((s.bank (s.activeBank k)).team.isSome) Instr.stealRequest)) ].flatten

/-- The steps in the order in which they are tried. -/
def State.candidates (s : State) : List Candidate :=
  [ atPlace 0 0 (packageSteps s), atPlace 0 0 (streamSteps s),
    (s.ctxs.map Prod.fst).flatMap (fun c => atPlace (coreOf c) c (contextSteps s c)),
    s.listedCores.flatMap (fun k => atPlace k 0 (coreSteps s k)),
    (s.listedCores.map ridgeOf).eraseDups.flatMap (fun r => atPlace (r * 8) 0 (ridgeSteps s r)),
    atPlace 0 0 ((s.teams.map Prod.fst).flatMap (teamSteps s)),
    [0, 1, 2, 3].flatMap (fun d => atPlace (d * 256) (d * 4096) (dieSteps s d)), timedSteps s ].flatten

/-- Steps that come once nothing else does: results that nothing waits for, crossings of a horizon that may still lag, and packets above a gap
that nothing has filled in time (R284). -/
def State.lateCandidates (s : State) : List Candidate :=
  let sent : List Nat := (s.packets.filter (fun p => p.state == .sent)).map Packet.id
  (s.ctxs.map Prod.fst).flatMap (fun c => atPlace (coreOf c) c (lateResults s c)) ++
    s.listedCores.flatMap (fun k => atPlace k 0 (only (!(s.bank (s.activeBank k)).slots.isEmpty) .contourCrossing)) ++
    atPlace 0 0 (sent.map Instr.streamGapTimeout)

/-- The next core's context, in cyclic order after the focus core, that has a bundle to issue. -/
def State.nextToIssue (s : State) : Option CtxId :=
  let ks := s.cores.map Prod.fst
  ((ks.filter (fun k => decide (s.focus < k))) ++ (ks.filter (fun k => decide (k ≤ s.focus)))).findSome? s.chosen

/-- What comes next: a context's bundle, a step of the hardware, or nothing. -/
inductive Turn where
  | bundle (c : CtxId)
  | hardware (x : Candidate)
  | idle
  deriving DecidableEq, Repr

/-- What comes next where the agenda is empty: the focus core's bundle where its turn has just come, else the first step of the hardware
that is due, else the next core's bundle, else a late step (log 4). -/
def State.turnNow (s : State) : Turn :=
  match (if s.issued then none else s.chosen s.focus) with
  | some c => .bundle c
  | none =>
    match s.candidates.find? (Candidate.effective s) with
    | some x => .hardware x
    | none =>
      match s.nextToIssue with
      | some c => .bundle c
      | none =>
        match s.lateCandidates.find? (Candidate.effective s) with
        | some x => .hardware x
        | none => .idle

end Sys2Proof.Machine
end

