-- ==== Sys2Proof/Machine/Step.lean ====
section
/-! DEFINITION. One step of the package: the agenda's next move, else a bundle of the cores in turn or a step of the hardware that is due
(log 4). -/

namespace Sys2Proof.Machine

/-- The chosen context's turn: its instruction runs, or it stalls. -/
def runTurn (s : State) (c : CtxId) : Host.Outcome State Fault Refusal :=
  match turn s c with
  | .ok (i, s') => exec i s'
  | .error (.trap t) => .next (((s.select c).setCtx c { s.ctx c with ir := [] }).takeTrap c t)
  | .error (.fault f) => .fault f
  | .error (.refuse r) => .refused r
  | .error _ => .next (s.waitFetch c)

/-- A step of the hardware at its place; the focus stays where it was. -/
def runHardware (s : State) (x : Candidate) : Host.Outcome State Fault Refusal :=
  match exec x.step (s.at x.core x.ctx) with
  | .next t => .next { t with focus := s.focus }
  | .fault f => .fault f
  | .refused r => .refused r

/-- The step that comes when the agenda is empty (log 4). -/
def autonomous (s : State) : Host.Outcome State Fault Refusal :=
  match s.turnNow with
  | .bundle c => runTurn s c
  | .hardware x => runHardware s x
  | .idle => .next { s with stalled := [], issued := false }

/-- What comes in from outside; a package whose bring-up has failed lets nothing in (R467). -/
def State.takeIn (s : State) (f : State → State) : State := if s.attestOnly then s else f s

/-- One step. -/
def step (s : State) : Host.Outcome State Fault Refusal :=
  ticked (match s.agenda with
    | [] => autonomous s
    | .hw i k c :: rest => exec i { s with agenda := rest, focus := k, cur := c }
    | .core k :: rest => autonomous { s with agenda := rest, focus := k, issued := false }
    | .message m :: rest => .next (({ s with agenda := rest } : State).takeIn (fun s => ({ s with messages := s.messages ++ [m] } : State).contourSent m))
    | .request r :: rest => .next (({ s with agenda := rest } : State).takeIn (fun s => { s with requests := s.requests ++ [r] }))
    | .packet p :: rest => .next (({ s with agenda := rest } : State).takeIn (fun s =>
        { s with packets := s.packets ++ [{ p with id := s.packetNext }], packetNext := s.packetNext + 1 }))
    | .image b :: rest => .next (({ s with agenda := rest } : State).takeIn (fun s => { s with newImage := some b }))
    | .ridgeMap r :: rest => .next (({ s with agenda := rest } : State).takeIn (fun s => { s with newMap := some r })))

/-- The state with an instruction placed where the next step fetches it (log 15). -/
def State.withFetchWord (s : State) (nbits w : Nat) : State := s.withWords (tableWords nbits w ++ [0, 0, 0, 0])

end Sys2Proof.Machine
end

