-- ==== Sys2Proof/Safety.lean ====
section
/-! DEFINITION. The terms that claims use: the invariant of every step, what a bundle or step answers once its work is done, what register
operands give and take, and what a step leaves unchanged. -/

namespace Sys2Proof.Machine

/-- The invariant that every step keeps: the memory stands in its canonical form. -/
def State.Inv (s : State) : Prop := s.mem.wf = true

/-- The state once the current context's bundle has done its work and retires. -/
def State.done (s : State) : State := { s.retire with stalled := [] }

/-- The state once a step of the hardware has done its work. -/
def State.stepped (s : State) : State := { s with stalled := [] }

/-- The state once the current context has taken its bundle's cause; it is the last that its core has issued (R411). -/
def State.trapped (s : State) (t : Trap) : State := { (s.takeTrap s.cur t).noteIssue with stalled := [] }

/-! ### Register operands -/

/-- The current context with a general register written. -/
def State.wrote (s : State) (d : GReg) (w : Word) : State := s.setMe (s.me.wr d w)

/-- The current context with a vector register written. -/
def State.wroteV (s : State) (d : VReg) (w : VWord) : State := s.setMe (s.me.wrV d w)

/-- What register operands give, read in order, and the state their reads leave: a port gives up its next word (R15, R17), and any
other register reads as it stands. -/
def State.Reads (s : State) : List GReg → List Word → State → Prop
  | [], [], t => t = s
  | r :: rs, w :: ws, t =>
    if isPort r then (∃ more, s.portWords s.cur r = w :: more) ∧ (s.dropPort s.cur r).Reads rs ws t
    else w = s.me.rd r ∧ s.Reads rs ws t
  | _, _, _ => False

/-- The registers that a bundle reads and writes are free: no pending result is to write one (R61), links join members of the team
(R36), the assembly buffer of g56 is not full, and a written port has room (R17). -/
def State.clear (s : State) (rs ws : List GReg) (vr vw : List VReg) : Bool :=
  s.me.pend.all (fun p => (rs ++ ws).all (fun r => !p.writesG r) && (vr ++ vw).all (fun r => !p.writesV r)) &&
  rs.all (fun r => decide (r.val < 60) || s.holdsMyTeam (linkSource (coreOf s.cur) (r.val - 60))) &&
  ws.all (fun r => decide (r.val < 60) || s.holdsMyTeam (linkTarget (coreOf s.cur) (r.val - 60))) &&
  ws.all (fun r => !isPort r || decide (0 < s.portRoom s.cur r)) &&
  ws.all (fun r => r != 56 || decide (s.me.asm.length < 7))

/-- The state once a result has gone to a register: a port takes a push (R15), and a write to g0 has no effect (R14). -/
def State.put (s : State) (d : GReg) (w : Word) : State := if isPort d then s.pushPort s.cur d w else s.wrote d w

/-- The state once a long-latency result is on its way: at once for la = 0, else with a window of la bundles after this one
(R61), and with its place reserved where it goes to a port (R17). -/
def State.later (s : State) (la : La) (d : GReg) (w : Word) : State :=
  if d = 0 then s
  else if la = 0 then s.put d w
  else
    let (t, place) := if isPort d then let r := s.reservePlace s.cur d; (r.1, some r.2) else (s, none)
    t.setMe { t.me with pend := t.me.pend ++ [⟨.g d, w, 0, la.val + 1, s.me.pc, place⟩] }

/-- The same for a vector result. -/
def State.laterV (s : State) (la : La) (d : VReg) (w : VWord) : State :=
  if la = 0 then s.wroteV d w else s.setMe { s.me with pend := s.me.pend ++ [⟨.v d, 0, w, la.val + 1, s.me.pc, none⟩] }

/-- The same for a q4 pair: the codes, and the scale bytes in the low bits of the next register, whose other bits stay (R22). -/
def State.laterPair (s : State) (la : La) (d : VReg) (codes scales : VWord) : State :=
  if la = 0 then (s.wroteV d codes).wroteV (d + 1) (withScales s.me.v[(d + 1).val] scales)
  else s.setMe { s.me with pend := s.me.pend ++ [⟨.v d, 0, codes, la.val + 1, s.me.pc, none⟩, ⟨.scales (d + 1), 0, scales, la.val + 1, s.me.pc, none⟩] }

/-- Lane i of a vector register, w bits wide (R21). -/
def laneAt (w : Nat) (v : VWord) (i : Nat) : Nat := v.toNat / 2 ^ (w * i) % 2 ^ w

/-- The current context's next bundle is elsewhere. -/
def State.jumps (s : State) (a : Word) : State := s.setMe { s.me with npc := a }

/-- The registers that an instruction of registers alone writes, general and vector; none for any other instruction. -/
def registerWrites (i : Instr) : Option (List GReg × List VReg) :=
  match i with
  | .add d _ _ _ | .sub d _ _ _ | .and d _ _ _ | .or d _ _ _ | .xor d _ _ _ | .shl d _ _ _ | .shr d _ _ _ | .sra d _ _ _
  | .mul d _ _ _ | .mulh d _ _ _ | .min d _ _ _ | .max d _ _ _ | .seq d _ _ _ | .slt d _ _ _ | .sel d _ _ => some ([d], [])
  | .addi d _ _ | .andi d _ _ | .ori d _ _ | .xori d _ _ | .shli d _ _ | .shri d _ _ | .srai d _ _ | .slti d _ _ | .li d _ | .lih d _
  | .pcrel d _ | .jr d _ => some ([d], [])
  | .beq _ _ _ | .bne _ _ _ | .blt _ _ _ | .bge _ _ _ | .bltn _ _ _ | .bgen _ _ _ | .jmp _ | .nop | .brk => some ([], [])
  | .jal _ => some ([55], [])
  | .div d _ _ _ _ | .divn d _ _ _ _ | .rem d _ _ _ _ | .remn d _ _ _ _ | .popc d _ _ | .clz d _ _ | .ctz d _ _ | .rot d _ _ _
  | .bswap d _ _ | .bext d _ _ | .bins d _ _ => some ([d], [])
  | .fadd d _ _ _ | .fsub d _ _ _ | .fmul d _ _ _ | .fma d _ _ _ | .fdiv d _ _ _ | .fsqrt d _ _ | .fmin d _ _ _ | .fmax d _ _ _
  | .feq d _ _ _ | .flt d _ _ _ | .fle d _ _ _ | .fcvt d _ _ | .fcls d _ _ | .rand d => some ([d], [])
  | .vadd d _ _ _ | .vsub d _ _ _ | .vmul d _ _ _ | .vfma d _ _ _ | .vmin d _ _ _ | .vmax d _ _ _ | .vand d _ _ _ | .vor d _ _ _
  | .vxor d _ _ _ | .vshl d _ _ _ | .vshr d _ _ _ | .vcmpeq d _ _ _ | .vcmplt d _ _ _ | .vsel d _ _ _ | .vcvt d _ _ _ | .vbcast d _ _
  | .vins d _ _ _ | .vperm d _ _ _ | .vrcp d _ _ | .vrsq d _ _ | .vexp d _ _ | .vscal d _ _ _ | .viota d _ => some ([], [d])
  | .vmov d _ q => some ([], if q = 7 then [d, d + 1] else [d])
  | .vpack4 d _ _ _ _ => some ([], [d, d + 1])
  | .vunpk4 d _ q => some ([], (List.range (1024 / laneCount q)).map (fun j => ⟨(d.val + j) % 32, Nat.mod_lt _ (by decide)⟩))
  | .vredsum d _ _ | .vredmax d _ _ | .vredmin d _ _ | .vext d _ _ _ | .vmcnt d _ _ => some ([d], [])
  | _ => none

/-! ### Memory operands -/

/-- Locations that the current context may use at once: no engine has claimed their lines (R187), no ordered task has marked them
(R224), none is poisoned (R211), and the context runs no ordered task itself. -/
def State.unshared (s : State) (locs : List Nat) : Prop :=
  s.me.task = none ∧ ∀ l, l ∈ linesOf locs → l ∉ s.claims ∧ l ∉ s.poison ∧ s.marksOf l = ⟨[], []⟩

/-- No strong access of another size by another context is pending on the bytes of a strong access (R219). -/
def State.unmixed (s : State) (locs : List Nat) : Prop := s.mixedBytes locs = []

/-- No packet of the current context is still on its way to any of the locations (R62, R214). -/
def State.landed (s : State) (locs : List Nat) : Prop := s.inFlight locs = false

/-- The number held at listed locations, little-endian (R2). -/
def State.numberAt (s : State) (locs : List Nat) : Nat := leNat (s.loadAt locs)

/-! ### What a step leaves -/

/-- A step answers a next state. -/
def Answers (o : Host.Outcome State Fault Refusal) : Prop := ∃ t, o = .next t

/-- A step never ends in a fault or a refusal. -/
def Safe (s : State) : Prop := Answers (step s)

/-- Every byte of memory outside listed locations reads as before. -/
def State.keepsMemory (s t : State) (except_ : List Nat) : Prop := ∀ a, a ∉ except_ → t.mem.read a = s.mem.read a

/-- Every context but one is as before. -/
def State.keepsOthers (s t : State) (c : CtxId) : Prop := ∀ d, d ≠ c → t.ctx d = s.ctx d

/-- The current context's registers are as before, but for listed ones and ports: general, vector, and the control registers of the
registry's image by number (R384), its status among them. -/
def State.keepsRegisters (s t : State) (gs : List GReg) (vs : List VReg) (ks : List Nat) : Prop :=
  t.cur = s.cur ∧
  (∀ r, isPort r = false → r ∉ gs → t.me.rd r = s.me.rd r) ∧
  (∀ r : VReg, r ∉ vs → t.me.v[r.val] = s.me.v[r.val]) ∧
  (∀ n, n ∉ ks → t.me.kImage n = s.me.kImage n)

/-- Everything outside the contexts, banks and counters is as before: memory, ridges, dies, teams, partitions, packets on their way,
poison, the power and service registers. -/
def State.keepsPackage (s t : State) : Prop :=
  t.mem = s.mem ∧ t.ridges = s.ridges ∧ t.dies = s.dies ∧ t.teams = s.teams ∧ t.parts = s.parts ∧ t.packets = s.packets ∧
  t.messages = s.messages ∧ t.requests = s.requests ∧ t.poison = s.poison ∧ t.marks = s.marks ∧ t.faults = s.faults ∧
  t.saved = s.saved ∧ t.images = s.images ∧ t.melt = s.melt ∧ t.pwr = s.pwr ∧ t.regbase = s.regbase ∧ t.regsize = s.regsize ∧
  t.ptab = s.ptab ∧ t.pload = s.pload ∧ t.heart = s.heart ∧ t.time = s.time ∧ t.agenda = s.agenda

/-! ### Engines -/

/-- A command of the current context has been accepted (R56, R178, R179, R220): it has the core's next job id, not yet complete; it stands
last among its engine's jobs with its claims, on its destination and on the source lines that it holds; a counted one has counted
against the lease; and no memory has changed. -/
def State.accepted (s t : State) (walk notify : Bool) (cmd : Cmd) (dests held : List Nat) : Prop :=
  let id := s.myCore.jobNewest + 1
  let job : Job := ⟨s.cur, s.me.source, id.toNat, notify, cmd, linesOf dests ++ held⟩
  let r := s.ridge s.myRidge
  let u := t.ridge s.myRidge
  t.cur = s.cur ∧ t.myCore.jobNewest = id ∧ Machine.jobStatus t.myCore.jobs id.toNat = ⟨id.toNat, false, false, false⟩ ∧
  (walk = true → u.walks = r.walks ++ [job] ∧ u.jobs = r.jobs ∧ u.lease = r.lease) ∧
  (walk = false → u.jobs = r.jobs ++ [job] ∧ u.walks = r.walks ∧
    ∀ l, r.lease = some l → u.lease = if l.left ≤ 1 then none else some { l with left := l.left - 1 }) ∧
  t.mem = s.mem ∧ s.keepsOthers t s.cur

/-- A copy of the current context has been accepted (R240, R241): it has the core's next transfer id, not yet complete, and stands last
among the ridge's copies with its byte moves and its claims, on the source lines that it holds too; no memory has changed. -/
def State.copyAccepted (s t : State) (notify intr : Bool) (srcs dsts : List (List Nat)) (held : List Nat) : Prop :=
  let id := s.myCore.xferNewest + 1
  let copy : Copy := ⟨s.cur, s.me.source, id.toNat, (srcs.zip dsts).flatMap (fun p => p.1.zip p.2), srcs.flatten, dsts.flatten, notify, intr,
    linesOf dsts.flatten ++ held⟩
  t.cur = s.cur ∧ t.myCore.xferNewest = id ∧ Machine.jobStatus t.myCore.xfers id.toNat = ⟨id.toNat, false, false, false⟩ ∧
  (t.ridge s.myRidge).copies = (s.ridge s.myRidge).copies ++ [copy] ∧ t.mem = s.mem ∧ s.keepsOthers t s.cur

end Sys2Proof.Machine
end

