-- ==== Sys2Proof/Certificates/Slice0/Obligations.lean ====
section
/-! DEFINITION. The statements for the provers. A bundle's registers are read with `State.Reads` and `State.clear`, which cover queue
ports as well as plain registers; `State.put`, `State.later` and `State.done` say where its result goes and that it retires. -/

open Sys2Proof Sys2Proof.Machine

/-! ### Page 0 and page 1: registers -/

/-- R123 and R124: the result of each register operation of page 0, plain and with f = 1, for every register and port operand. -/
def Obligations.RegisterOperationResults : Prop :=
  ∀ (s t : State) (d a b : GReg) (f : Bool) (x y : Word), s.clear [a, b] [d] [] [] = true → s.Reads [a, b] [x, y] t →
    let lo (v : Word) : BitVec 32 := v.setWidth 32
    let flag (c : Bool) : Word := if c then 1 else 0
    exec (.add d a b f) s = .next (t.put d (if f then (lo (x + y)).signExtend 64 else x + y)).done ∧
    exec (.sub d a b f) s = .next (t.put d (if f then (lo (x - y)).signExtend 64 else x - y)).done ∧
    exec (.and d a b f) s = .next (t.put d (if f then (lo (x &&& y)).signExtend 64 else x &&& y)).done ∧
    exec (.or d a b f) s = .next (t.put d (if f then (lo (x ||| y)).signExtend 64 else x ||| y)).done ∧
    exec (.xor d a b f) s = .next (t.put d (if f then (lo (x ^^^ y)).signExtend 64 else x ^^^ y)).done ∧
    exec (.shl d a b f) s = .next (t.put d (if f then (BitVec.ofNat 32 (x.toNat * 2 ^ (y.toNat % 32))).signExtend 64
      else BitVec.ofNat 64 (x.toNat * 2 ^ (y.toNat % 64)))).done ∧
    exec (.shr d a b f) s = .next (t.put d (if f then (BitVec.ofNat 32 (x.toNat % 2 ^ 32 / 2 ^ (y.toNat % 32))).signExtend 64
      else BitVec.ofNat 64 (x.toNat / 2 ^ (y.toNat % 64)))).done ∧
    exec (.sra d a b f) s = .next (t.put d (if f then BitVec.ofInt 64 ((lo x).toInt / 2 ^ (y.toNat % 32))
      else BitVec.ofInt 64 (x.toInt / 2 ^ (y.toNat % 64)))).done ∧
    exec (.mul d a b f) s = .next (t.put d (if f then (lo (x * y)).signExtend 64 else x * y)).done ∧
    exec (.mulh d a b f) s = .next (t.put d (if f then BitVec.ofNat 64 (x.toNat * y.toNat / 2 ^ 64)
      else BitVec.ofInt 64 (x.toInt * y.toInt / 2 ^ 64))).done ∧
    exec (.min d a b f) s = .next (t.put d (if f then (if y.toNat < x.toNat then y else x) else (if y.toInt < x.toInt then y else x))).done ∧
    exec (.max d a b f) s = .next (t.put d (if f then (if x.toNat < y.toNat then y else x) else (if x.toInt < y.toInt then y else x))).done ∧
    exec (.seq d a b f) s = .next (t.put d (flag (if f then x.toNat % 2 ^ 32 == y.toNat % 2 ^ 32 else x == y))).done ∧
    exec (.slt d a b f) s = .next (t.put d (flag (if f then decide (x.toNat < y.toNat) else decide (x.toInt < y.toInt)))).done ∧
    (∀ (z : Word) (u : State), s.clear [a, b, d] [d] [] [] = true → s.Reads [a, b, d] [x, y, z] u →
      exec (.sel d a b) s = .next (u.put d (if z = 0 then y else x)).done)

/-- R125: the result of each immediate operation of page 0. -/
def Obligations.ImmediateOperationResults : Prop :=
  ∀ (s t : State) (d a : GReg) (x : Word) (imm : Int) (n : Nat), s.clear [a] [d] [] [] = true → s.Reads [a] [x] t →
    exec (.addi d a imm) s = .next (t.put d (x + BitVec.ofInt 64 imm)).done ∧
    exec (.andi d a n) s = .next (t.put d (x &&& BitVec.ofNat 64 n)).done ∧
    exec (.ori d a n) s = .next (t.put d (x ||| BitVec.ofNat 64 n)).done ∧
    exec (.xori d a n) s = .next (t.put d (x ^^^ BitVec.ofNat 64 n)).done ∧
    exec (.shli d a n) s = .next (t.put d (BitVec.ofNat 64 (x.toNat * 2 ^ n))).done ∧
    exec (.shri d a n) s = .next (t.put d (BitVec.ofNat 64 (x.toNat / 2 ^ n))).done ∧
    exec (.srai d a n) s = .next (t.put d (BitVec.ofInt 64 (x.toInt / 2 ^ n))).done ∧
    exec (.slti d a imm) s = .next (t.put d (if x.toInt < imm then 1 else 0)).done ∧
    (s.clear [] [d] [] [] = true → exec (.li d imm) s = .next (s.put d (BitVec.ofInt 64 imm)).done) ∧
    (s.clear [] [d] [] [] = true → exec (.pcrel d imm) s = .next (s.put d (s.me.pc + BitVec.ofInt 64 imm)).done) ∧
    (d = a → exec (.lih d n) s = .next (t.put d (BitVec.ofNat 64 (n % 2 ^ 24 * 2 ^ 40 + x.toNat % 2 ^ 40))).done)

/-- R145 to R148: division, and the bit operations with their field specs; a bad spec raises trap(0, 9). -/
def Obligations.DivisionAndBitResults : Prop :=
  ∀ (s t : State) (d a b : GReg) (f : Bool) (la : La) (x y : Word), s.clear [a, b] [d] [] [] = true → s.Reads [a, b] [x, y] t →
    let lo (v : Word) : BitVec 32 := v.setWidth 32
    let ones : Word := BitVec.allOnes 64
    exec (.div d a b f la) s = .next (t.later la d (if f then (if lo y = 0 then ones else BitVec.signExtend 64 (BitVec.ofInt 32 ((lo x).toInt.tdiv (lo y).toInt)))
      else (if y = 0 then ones else BitVec.ofInt 64 (x.toInt.tdiv y.toInt)))).done ∧
    exec (.divn d a b f la) s = .next (t.later la d (if f then (if lo y = 0 then ones else BitVec.signExtend 64 (lo x / lo y))
      else (if y = 0 then ones else x / y))).done ∧
    exec (.rem d a b f la) s = .next (t.later la d (if f then BitVec.signExtend 64 (BitVec.ofInt 32 ((lo x).toInt.tmod (lo y).toInt))
      else BitVec.ofInt 64 (x.toInt.tmod y.toInt))).done ∧
    exec (.remn d a b f la) s = .next (t.later la d (if f then BitVec.signExtend 64 (lo x % lo y) else x % y)).done ∧
    exec (.rot d a b f) s = .next (t.put d (if f then BitVec.signExtend 64 ((lo x).rotateRight (y.toNat % 32)) else x.rotateRight (y.toNat % 64))).done ∧
    (let w := field y 13 8 + 1
     let pos := field y 5 0
     let bad := decide (64 < pos + w ∨ field y 63 17 ≠ 0 ∨ field y 15 14 ≠ 0 ∨ field y 7 6 ≠ 0)
     exec (.bext d a b) s = .next (if bad then s.trapped (s.me.withDetail { cls := 0, detail := 9 })
       else (t.put d (if y.getLsbD 16 then BitVec.ofInt 64 (toSigned w (x.toNat / 2 ^ pos)) else BitVec.ofNat 64 (x.toNat / 2 ^ pos % 2 ^ w))).done) ∧
     (∀ (z : Word) (u : State), s.clear [a, b, d] [d] [] [] = true → s.Reads [a, b, d] [x, y, z] u → bad = false →
       ∃ r : Word, exec (.bins d a b) s = .next (u.put d r).done ∧
         ∀ i, i < 64 → r.getLsbD i = if pos ≤ i ∧ i < pos + w then x.getLsbD (i - pos) else z.getLsbD i) ∧
     (∀ (z : Word) (u : State), s.clear [a, b, d] [d] [] [] = true → s.Reads [a, b, d] [x, y, z] u → bad = true →
       exec (.bins d a b) s = .next (s.trapped (s.me.withDetail { cls := 0, detail := 9 })))) ∧
    (∀ u : State, s.clear [a] [d] [] [] = true → s.Reads [a] [x] u →
      let n := if f then 32 else 64
      let bits := if f then x.toNat % 2 ^ 32 else x.toNat
      exec (.popc d a f) s = .next (u.put d (BitVec.ofNat 64 ((List.range n).countP bits.testBit))).done ∧
      (∃ k, exec (.clz d a f) s = .next (u.put d (BitVec.ofNat 64 k)).done ∧ k ≤ n ∧ bits < 2 ^ (n - k) ∧ (k < n → 2 ^ (n - k - 1) ≤ bits)) ∧
      (∃ k, exec (.ctz d a f) s = .next (u.put d (BitVec.ofNat 64 k)).done ∧ k ≤ n ∧ (∀ i, i < k → bits.testBit i = false) ∧ (k < n → bits.testBit k = true)) ∧
      (∃ r : Word, exec (.bswap d a f) s = .next (u.put d r).done ∧
        (∀ i, i < n / 8 → r.toNat / 256 ^ i % 256 = bits / 256 ^ (n / 8 - 1 - i) % 256) ∧ (f = true → ∀ i, 31 ≤ i → i < 64 → r.getLsbD i = r.getLsbD 31)))

/-- R149 to R151 and R154: scalar floating point is the exact operation on the exact values, rounded once to nearest-even to the format;
rand advances the generator of R105.
The model's own choices in it: log 85. -/
def Obligations.FloatAndRandomResults : Prop :=
  ∀ (s t : State) (d a b : GReg) (f : Bool) (code : Fin 8) (x y : Word), s.clear [a, b] [d] [] [] = true → s.Reads [a, b] [x, y] t →
    let fmt : Fmt := if f then .f64 else .f32
    let val (v : Word) : Val := fmt.decode (if f then v.toNat else v.toNat % 2 ^ 32)
    let rne (v : Val) : Word := BitVec.ofNat 64 (fmt.encode .rne v)
    let holds (o : List Ordering) : Word := match (val x).cmp (val y) with | some c => if c ∈ o then 1 else 0 | none => 0
    exec (.fadd d a b f) s = .next (t.put d (rne ((val x).add (val y)))).done ∧
    exec (.fsub d a b f) s = .next (t.put d (rne ((val x).add (val y).neg))).done ∧
    exec (.fmul d a b f) s = .next (t.put d (rne ((val x).mul (val y)))).done ∧
    exec (.fdiv d a b f) s = .next (t.put d (rne ((val x).div (val y)))).done ∧
    exec (.fmin d a b f) s = .next (t.put d (rne ((val x).min (val y)))).done ∧
    exec (.fmax d a b f) s = .next (t.put d (rne ((val x).max (val y)))).done ∧
    exec (.feq d a b f) s = .next (t.put d (holds [.eq])).done ∧
    exec (.flt d a b f) s = .next (t.put d (holds [.lt])).done ∧
    exec (.fle d a b f) s = .next (t.put d (holds [.lt, .eq])).done ∧
    (∀ (z : Word) (u : State), s.clear [a, b, d] [d] [] [] = true → s.Reads [a, b, d] [x, y, z] u →
      exec (.fma d a b f) s = .next (u.put d (rne (((val x).mul (val y)).add (val z)))).done) ∧
    (∀ u : State, s.clear [a] [d] [] [] = true → s.Reads [a] [x] u →
      exec (.fsqrt d a f) s = .next (u.put d (rne (val x).sqrt)).done ∧
      (∃ k, k ≤ 8 ∧ exec (.fcls d a f) s = .next (u.put d (BitVec.ofNat 64 (2 ^ k))).done ∧ (k = 8 ↔ val x = .nan) ∧
        (k = 2 ∨ k = 5 ↔ ∃ n m, val x = .fin n m fmt.qmin ∧ 0 < m ∧ m < 2 ^ fmt.frac) ∧ (k = 0 ↔ val x = .inf true) ∧ (k = 7 ↔ val x = .inf false) ∧ (k = 3 ∨ k = 4 ↔ ∃ n e, val x = .fin n 0 e) ∧
        (k = 1 ∨ k = 2 ∨ k = 3 → (val x).isNeg = true) ∧ (k = 4 ∨ k = 5 ∨ k = 6 → (val x).isNeg = false)) ∧
      exec (.fcvt d a code) s = .next (u.put d (match code with
        | 0 => BitVec.ofNat 64 (Fmt.f64.encode .rne (Fmt.f32.decode (x.toNat % 2 ^ 32)))
        | 1 => BitVec.ofNat 64 (Fmt.f32.encode .rne (Fmt.f64.decode x.toNat))
        | 2 => BitVec.ofNat 64 (Fmt.f64.encode .rne (Val.ofInt x.toInt))
        | 3 => BitVec.ofInt 64 ((Fmt.f64.decode x.toNat).toInt .rne (-2 ^ 63) (2 ^ 63 - 1))
        | 4 => BitVec.ofNat 64 (Fmt.f32.encode .rne (Val.ofInt x.toInt))
        | 5 => BitVec.ofInt 64 ((Fmt.f32.decode (x.toNat % 2 ^ 32)).toInt .rne (-2 ^ 63) (2 ^ 63 - 1))
        | 6 => BitVec.ofNat 64 (Fmt.f64.encode .rne (Val.ofInt x.toNat))
        | 7 => BitVec.ofInt 64 ((Fmt.f64.decode x.toNat).toInt .rne 0 (2 ^ 64 - 1)))).done) ∧
    (s.clear [] [d] [] [] = true →
      let g0 : Word := if s.me.rng = 0 then 0x9E3779B97F4A7C15#64 else s.me.rng
      let g1 := g0 ^^^ g0 <<< 13
      let g2 := g1 ^^^ g1 >>> 7
      let g3 := g2 ^^^ g2 <<< 17
      exec (.rand d) s = .next ((s.setMe { s.me with rng := g3 }).put d g3).done)

/-- R142 to R144: branches, jumps and misc. -/
def Obligations.ControlFlow : Prop :=
  ∀ (s t : State) (a b d : GReg) (x y : Word) (imm : Int),
    let target : Word := s.me.pc + BitVec.ofInt 64 (2 * imm)
    exec (.jmp imm) s = .next (s.jumps target).done ∧
    (s.clear [] [55] [] [] = true → exec (.jal imm) s = .next ((s.put 55 s.me.npc).jumps target).done) ∧
    (s.clear [a] [d] [] [] = true → s.Reads [a] [x] t → x.toNat % 2 = 0 →
      let u := t.put d t.me.npc
      exec (.jr d a) s = .next (u.setMe { u.me with npc := x, fenced := [] }).done) ∧
    (s.clear [a] [d] [] [] = true → s.Reads [a] [x] t → x.toNat % 2 = 1 →
      exec (.jr d a) s = .next (s.trapped (s.me.withDetail { cls := 0, detail := 10 }))) ∧
    exec .nop s = .next s.done ∧
    exec .brk s = .next (s.trapped (s.me.withDetail { cls := 0, detail := 11 })) ∧
    (s.clear [a, b] [] [] [] = true → s.Reads [a, b] [x, y] t →
      exec (.beq a b imm) s = .next (if x = y then t.jumps target else t).done ∧
      exec (.bne a b imm) s = .next (if x = y then t else t.jumps target).done ∧
      exec (.blt a b imm) s = .next (if x.toInt < y.toInt then t.jumps target else t).done ∧
      exec (.bge a b imm) s = .next (if x.toInt < y.toInt then t else t.jumps target).done ∧
      exec (.bltn a b imm) s = .next (if x.toNat < y.toNat then t.jumps target else t).done ∧
      exec (.bgen a b imm) s = .next (if x.toNat < y.toNat then t else t.jumps target).done)

/-! ### Page 2 -/

/-- R163 to R165: lane arithmetic, compares and selection; an element type that the instruction does not accept raises trap(0, 19).
The model's own choices in it: log 85. -/
def Obligations.VectorLaneResults : Prop :=
  ∀ (s : State) (d a b : VReg) (q : QType),
    let w := laneWidth q
    let x := laneAt w s.me.v[a.val]
    let y := laneAt w s.me.v[b.val]
    let z := laneAt w s.me.v[d.val]
    let int (n : Nat) : Int := (BitVec.ofNat w n).toInt
    let gives (i : Instr) (f : Nat → Nat) : Prop := ∃ r, exec i s = .next (s.wroteV d r).done ∧ ∀ j, j < laneCount q → laneAt w r j = f j
    let bad (i : Instr) : Prop := exec i s = .next (s.trapped (s.me.withDetail { cls := 0, detail := 19 }))
    (s.clear [] [] [a, b] [d] = true →
      exec (.vand d a b q) s = .next (s.wroteV d (s.me.v[a.val] &&& s.me.v[b.val])).done ∧
      exec (.vor d a b q) s = .next (s.wroteV d (s.me.v[a.val] ||| s.me.v[b.val])).done ∧
      exec (.vxor d a b q) s = .next (s.wroteV d (s.me.v[a.val] ^^^ s.me.v[b.val])).done) ∧
    (∀ fmt, s.clear [] [] [a, b] [d] = true → elemOf q = .flt fmt →
      let o (j : Nat) := (fmt.decode (x j)).cmp (fmt.decode (y j))
      gives (.vadd d a b q) (fun j => fmt.encode .rne ((fmt.decode (x j)).add (fmt.decode (y j)))) ∧
      gives (.vsub d a b q) (fun j => fmt.encode .rne ((fmt.decode (x j)).add (fmt.decode (y j)).neg)) ∧
      gives (.vmul d a b q) (fun j => fmt.encode .rne ((fmt.decode (x j)).mul (fmt.decode (y j)))) ∧
      gives (.vmin d a b q) (fun j => fmt.encode .rne ((fmt.decode (x j)).min (fmt.decode (y j)))) ∧
      gives (.vmax d a b q) (fun j => fmt.encode .rne ((fmt.decode (x j)).max (fmt.decode (y j)))) ∧
      gives (.vcmpeq d a b q) (fun j => if o j = some .eq then 2 ^ w - 1 else 0) ∧
      gives (.vcmplt d a b q) (fun j => if o j = some .lt then 2 ^ w - 1 else 0)) ∧
    (s.clear [] [] [a, b] [d] = true → 4 ≤ q.val → q.val < 7 →
      gives (.vadd d a b q) (fun j => (x j + y j) % 2 ^ w) ∧
      gives (.vsub d a b q) (fun j => (x j + 2 ^ w - y j) % 2 ^ w) ∧
      gives (.vmul d a b q) (fun j => x j * y j % 2 ^ w) ∧
      gives (.vmin d a b q) (fun j => if int (y j) < int (x j) then y j else x j) ∧
      gives (.vmax d a b q) (fun j => if int (x j) < int (y j) then y j else x j) ∧
      gives (.vshl d a b q) (fun j => x j * 2 ^ (y j % w) % 2 ^ w) ∧
      gives (.vshr d a b q) (fun j => ((int (x j) / 2 ^ (y j % w)) % 2 ^ w).toNat) ∧
      gives (.vcmpeq d a b q) (fun j => if x j = y j then 2 ^ w - 1 else 0) ∧
      gives (.vcmplt d a b q) (fun j => if int (x j) < int (y j) then 2 ^ w - 1 else 0)) ∧
    (s.clear [] [] [a, b, d] [d] = true → q.val < 7 →
      gives (.vsel d a b q) (fun j => if z j = 0 then y j else x j) ∧
      (4 ≤ q.val → gives (.vfma d a b q) (fun j => (x j * y j + z j) % 2 ^ w)) ∧
      (∀ fmt, elemOf q = .flt fmt →
        gives (.vfma d a b q) (fun j => fmt.encode .rne (((fmt.decode (x j)).mul (fmt.decode (y j))).add (fmt.decode (z j)))))) ∧
    (q = 7 → bad (.vadd d a b q) ∧ bad (.vsub d a b q) ∧ bad (.vmul d a b q) ∧ bad (.vfma d a b q) ∧ bad (.vmin d a b q) ∧
      bad (.vmax d a b q) ∧ bad (.vcmpeq d a b q) ∧ bad (.vcmplt d a b q) ∧ bad (.vsel d a b q)) ∧
    (q.val < 4 ∨ q = 7 → bad (.vshl d a b q) ∧ bad (.vshr d a b q))

/-- R163 (vscal), R165 (vmcnt), R170 and R171: lane moves, counts and the correctly rounded functions.
The model's own choices in it: log 11. -/
def Obligations.VectorMoveResults : Prop :=
  ∀ (s t : State) (d a b : VReg) (g : GReg) (k : Nat) (q : QType) (u : Word),
    let w := laneWidth q
    let n := laneCount q
    let x := laneAt w s.me.v[a.val]
    let y := laneAt w s.me.v[b.val]
    let gives (i : Instr) (f : Nat → Nat) : Prop := ∃ r, exec i s = .next (s.wroteV d r).done ∧ ∀ j, j < n → laneAt w r j = f j
    (s.clear [] [] [a, b] [d] = true → q.val < 7 →
      gives (.vperm d a b q) (fun j => x (256 * (j / 256) + y j % min n 256)) ∧
      (4 ≤ q.val → gives (.viota d q) (fun j => j % 2 ^ w)) ∧
      (∀ fmt, elemOf q = .flt fmt → gives (.viota d q) (fun j => fmt.encode .rne (.fin false j 0))) ∧
      exec (.vmov d a q) s = .next (s.wroteV d s.me.v[a.val]).done ∧
      (∀ fmt, q.val < 2 → elemOf q = .flt fmt →
        gives (.vrcp d a q) (fun j => fmt.encode .rne (Val.div (.fin false 1 0) (fmt.decode (x j)))) ∧
        gives (.vrsq d a q) (fun j => fmt.encode .rne (fmt.decode (x j)).rsqrt) ∧
        gives (.vexp d a q) (fun j => fmt.encode .rne (fmt.decode (x j)).exp2))) ∧
    (q = 7 → d.val < 31 → a.val < 31 → s.clear [] [] [a, a + 1] [d, d + 1] = true →
      let r := s.wroteV d s.me.v[a.val]
      ∃ hi : VWord, exec (.vmov d a q) s = .next (r.wroteV (d + 1) hi).done ∧
        ∀ i, i < 4096 → hi.getLsbD i = if i < 256 then s.me.v[(a + 1).val].getLsbD i else r.me.v[(d + 1).val].getLsbD i) ∧
    (s.clear [g] [] [] [d] = true → s.Reads [g] [u] t → q.val < 7 →
      ∃ r, exec (.vbcast d g q) s = .next (t.wroteV d r).done ∧ ∀ j, j < n → laneAt w r j = u.toNat % 2 ^ w) ∧
    (s.clear [g] [] [d] [d] = true → s.Reads [g] [u] t → k < n →
      ∃ r, exec (.vins d g k q) s = .next (t.wroteV d r).done ∧
        ∀ j, j < n → laneAt w r j = if j = k then u.toNat % 2 ^ w else laneAt w s.me.v[d.val] j) ∧
    (s.clear [] [g] [a] [] = true → k < n →
      exec (.vext g a k q) s = .next (s.put g (if 4 ≤ q.val ∧ q.val < 7 then (BitVec.ofNat w (x k)).signExtend 64 else BitVec.ofNat 64 (x k))).done) ∧
    (n ≤ k → exec (.vext g a k q) s = .next (s.trapped (s.me.withDetail { cls := 0, detail := 9 })) ∧
      exec (.vins d g k q) s = .next (s.trapped (s.me.withDetail { cls := 0, detail := 9 }))) ∧
    (s.clear [] [g] [a] [] = true → q.val < 7 →
      exec (.vmcnt g a q) s = .next (s.put g (BitVec.ofNat 64 ((List.range n).countP (fun j => x j != 0)))).done) ∧
    (∀ fmt, s.clear [g] [] [a] [d] = true → s.Reads [g] [u] t → elemOf q = .flt fmt →
      ∃ r, exec (.vscal d a g q) s = .next (t.wroteV d r).done ∧
        ∀ j, j < n → laneAt w r j = fmt.encode .rne ((fmt.decode (x j)).scale u.toInt))

/-- R115 and R169: reductions by the fixed tree, R166 to R168: conversions, packing into q4 pairs and unpacking.
The model's own choices in it: log 85. -/
def Obligations.VectorConversionResults : Prop :=
  ∀ (s : State) (d a : VReg) (g : GReg) (code : Fin 8) (q : QType) (la : La),
    let w := laneWidth q
    let n := laneCount q
    let group (v : VReg) : List VReg := (List.range (1024 / n)).map (fun i => ⟨(v.val + i) % 32, Nat.mod_lt _ (by decide)⟩)
    let codes := s.me.v[a.val]
    let scales := s.me.v[(a + 1).val]
    let pair (j : Nat) : Val := codeValue (laneAt 8 scales (j / 32)) (laneAt 4 codes j)
    let float (v : Val) : Word := BitVec.ofNat 64 (Fmt.f32.encode .rne v)
    let rounded (x y : Val) : Val := Fmt.f32.decode (Fmt.f32.encode .rne (x.add y))
    let reduces (i : Instr) (ff : Val → Val → Val) (fi : Int → Int → Int) : Prop :=
      (4 ≤ q.val → q.val < 7 → exec i s = .next (s.put g (BitVec.ofInt 64
        (treeReduce fi 0 12 ((List.range n).map (fun j => (BitVec.ofNat w (laneAt w codes j)).toInt))))).done) ∧
      (∀ fmt, elemOf q = .flt fmt → exec i s = .next (s.put g (float
        (treeReduce ff .nan 12 ((List.range n).map (fun j => fmt.decode (laneAt w codes j)))))).done) ∧
      (q = 7 → a.val < 31 → exec i s = .next (s.put g (float (treeReduce ff .nan 12 ((List.range 1024).map pair)))).done)
    (s.clear [] [g] (if q = 7 then [a, a + 1] else [a]) [] = true →
      reduces (.vredsum g a q) rounded (· + ·) ∧
      reduces (.vredmax g a q) Val.max (fun x y => if x < y then y else x) ∧
      reduces (.vredmin g a q) Val.min (fun x y => if y < x then y else x)) ∧
    (s.clear [] [] [a] [d] = true → q.val < 7 → code.val < 7 →
      ∃ r, exec (.vcvt d a code q) s = .next (s.wroteV d r).done ∧ ∀ j, j < n →
        laneAt w r j = if j < laneCount code then (elemOf q).ofVal .rne ((elemOf code).value (laneAt (laneWidth code) codes j)) else 0) ∧
    (q.val < 7 → d.val < 31 → a.val + 1024 / n ≤ 32 → s.clear [] [] (group a) [d, d + 1] = true →
      let elems : List Val := (group a).flatMap (fun v => (List.range n).map (fun j => (elemOf q).value (laneAt w s.me.v[v.val] j)))
      let packed := packBlocks code.val (chunks 32 32 elems) s.me.rng
      ∃ cs ss : VWord, exec (.vpack4 d a code q la) s = .next ((s.setMe { s.me with rng := packed.2.2 }).laterPair la d cs ss).done ∧
        (∀ j, j < 1024 → laneAt 4 cs j = packed.1.getD j 0 % 16) ∧ (∀ j, j < 32 → laneAt 8 ss j = packed.2.1.getD j 0 % 256)) ∧
    (q.val < 7 → a.val < 31 → d.val + 1024 / n ≤ 32 → s.clear [] [] [a, a + 1] (group d) = true →
      ∃ t : State, exec (.vunpk4 d a q) s = .next t ∧
        (∀ i j, i < 1024 / n → j < n → laneAt w (t.me.v[(d.val + i) % 32]'(Nat.mod_lt _ (by decide))) j = (elemOf q).ofVal .rne (pair (i * n + j))) ∧
        (∀ v : VReg, v ∉ group d → t.me.v[v.val] = s.me.v[v.val])) ∧
    (q = 7 → a = 31 → exec (.vredsum g a q) s = .next (s.trapped (s.me.withDetail { cls := 0, detail := 13 }))) ∧
    (q = 7 ∨ code = 7 → exec (.vcvt d a code q) s = .next (s.trapped (s.me.withDetail { cls := 0, detail := 19 })))

/-! ### Frames, ports and pending results -/

/-- What an instruction of registers alone leaves (R62, R78, R117): where it answers a next state it has trapped, or stalled, or left every
register as it was but its destinations and the destinations of results still pending; every control register but k.RNG; every other
context; every byte of memory and everything else outside the banks. -/
def Obligations.RegisterFrame : Prop :=
  ∀ (i : Instr) (gs : List GReg) (vs : List VReg) (s t : State), registerWrites i = some (gs, vs) → exec i s = .next t →
    (∃ c, t = s.trapped c) ∨ (∃ w, t = s.noteStall w) ∨
    (s.keepsOthers t s.cur ∧ s.keepsPackage t ∧ t.cur = s.cur ∧
      (∀ r, isPort r = false → r ∉ gs → s.me.pend.all (fun p => !p.writesG r) = true → t.me.rd r = s.me.rd r) ∧
      (∀ r : VReg, r ∉ vs → s.me.pend.all (fun p => !p.writesV r) = true → t.me.v[r.val] = s.me.v[r.val]) ∧
      (∀ n, n ≠ 25 → t.me.kImage n = s.me.kImage n))

/-- R14 and R15: g0 reads as zero and discards writes, any other plain register holds what was written and nothing else changes, a push
goes to the end of the queue that the named core pops, and a pop takes that queue's first word. -/
def Obligations.RegisterFile : Prop :=
  ∀ (s : State) (r q : GReg) (w : Word),
    s.me.rd 0 = 0 ∧ (s.put 0 w).me = s.me ∧
    (isPort r = false → r ≠ 0 → (s.put r w).me.rd r = w) ∧
    (isPort r = false → q ≠ r → (s.put r w).me.rd q = s.me.rd q) ∧
    (isPort r = false → s.keepsOthers (s.put r w) s.cur ∧ s.keepsPackage (s.put r w) ∧ (s.put r w).banks = s.banks) ∧
    ((s.put 56 w).me.asm = s.me.asm ++ [.word w]) ∧
    (∀ (i : Fin 4) (b c : Nat), 60 + i.val = r.val → b = s.activeBank (linkTarget (coreOf s.cur) i.val) →
      c = linkTarget (coreOf s.cur) i.val → (s.put r w).bank b = { s.bank b with links := (s.bank b).links.set i ((s.bank b).links[i.val] ++ [.word w]) } ∧
      c / 8 = coreOf s.cur / 8 ∧
      c % 8 = (coreOf s.cur + [1, 7, 2, 4].getD i.val 0) % 8) ∧
    (isPort r = true → (s.dropPort s.cur r).portWords s.cur r = (s.portWords s.cur r).drop 1 ∧
      (∀ p, isPort p = true → p ≠ r → (s.dropPort s.cur r).portWords s.cur p = s.portWords s.cur p))

/-- R17: an instruction whose ports do not hold the words it reads, or have no place for its result, stalls before issue: it pops nothing,
pushes nothing and retires nothing. Shown of the two-operand and the one-operand register operations. -/
def Obligations.PortStall : Prop :=
  ∀ (s : State) (d a b : GReg) (f : Bool) (imm : Int),
    (∀ r, r ∈ [d, a, b] → s.me.pend.all (fun p => !p.writesG r) = true) →
    (∀ r, r ∈ [d, a, b] → 60 ≤ r.val → s.holdsMyTeam (linkSource (coreOf s.cur) (r.val - 60)) = true ∧
      s.holdsMyTeam (linkTarget (coreOf s.cur) (r.val - 60)) = true) →
    (isPort a = true → (s.portWords s.cur a).length < (if a = b then 2 else 1) →
      ∃ w, exec (.add d a b f) s = .next (s.noteStall w) ∧ exec (.xor d a b f) s = .next (s.noteStall w) ∧
        exec (.fadd d a b f) s = .next (s.noteStall w) ∧ (w = .message ↔ a = 56 ∨ b = 56)) ∧
    (isPort a = true → s.portWords s.cur a = [] → ∃ w, exec (.addi d a imm) s = .next (s.noteStall w) ∧ (w = .message ↔ a = 56)) ∧
    (60 ≤ d.val → isPort a = false → s.portRoom s.cur d = 0 → exec (.addi d a imm) s = .next (s.noteStall .other)) ∧
    (∀ w, (s.noteStall w).mem = s.mem ∧ (s.noteStall w).banks = s.banks ∧ s.keepsOthers (s.noteStall w) s.cur ∧
      (s.noteStall w).me = { s.me with wait := w } ∧ s.cur ∈ (s.noteStall w).stalled)

/-- R61 and R62: a bundle that reads a register whose result is pending obtains the old or the new value, and one that writes it leaves
either value, freely; under the debug attribute it raises trap(0, 16) instead: shown of addi and of vmov with one pending result. A context
with a result whose window is over issues nothing until that result has come, and the result comes into its register.
The model's own choices in it: log 73. -/
def Obligations.PendingResults : Prop :=
  ∀ (s : State) (d a : GReg) (x y : VReg) (q : QType) (imm : Int) (p : Pending), s.me.pend = [p] → p.place = none →
    let s1 : State := { s with free := s.free + 1 }
    let delivered : State := s1.setMe { s.me with pend := [] }
    (isPort d = false → isPort a = false → p.target = .g a ∨ p.target = .g d → a ≠ d → a ≠ 0 → d ≠ 0 →
     (s.me.status.getLsbD 2 = true →
      exec (.addi d a imm) s = .next (s.trapped (s.me.withDetail { cls := 0, detail := 16, info := p.pc }))) ∧
    (s.me.status.getLsbD 2 = false → p.target = .g a →
      exec (.addi d a imm) s = .next (s1.wrote d (s.me.rd a + BitVec.ofInt 64 imm)).done ∨
      exec (.addi d a imm) s = .next ((delivered.wrote a p.gval).wrote d (p.gval + BitVec.ofInt 64 imm)).done) ∧
    (s.me.status.getLsbD 2 = false → p.target = .g d →
      exec (.addi d a imm) s = .next (s1.wrote d (s.me.rd a + BitVec.ofInt 64 imm)).done ∨
      exec (.addi d a imm) s = .next (delivered.wrote d (s.me.rd a + BitVec.ofInt 64 imm)).done)) ∧
    (q.val < 7 → p.target = .v x ∨ p.target = .v y → x ≠ y →
      (s.me.status.getLsbD 2 = true →
        exec (.vmov y x q) s = .next (s.trapped (s.me.withDetail { cls := 0, detail := 16, info := p.pc }))) ∧
      (s.me.status.getLsbD 2 = false → p.target = .v x →
        exec (.vmov y x q) s = .next (s1.wroteV y s.me.v[x.val]).done ∨
        exec (.vmov y x q) s = .next ((delivered.wroteV x p.vval).wroteV y p.vval).done) ∧
      (s.me.status.getLsbD 2 = false → p.target = .v y →
        exec (.vmov y x q) s = .next (s1.wroteV y s.me.v[x.val]).done ∨
        exec (.vmov y x q) s = .next (delivered.wroteV y s.me.v[x.val]).done)) ∧
    (p.left = 0 → s.me.breaks = false → s.ready s.cur = false) ∧
    (∀ r : GReg, p.target = .g r → exec (.longLatencyComplete 0) s = .next ((s.setMe { s.me with pend := [] }).wrote r p.gval).stepped) ∧
    (∀ r : VReg, p.target = .v r → exec (.longLatencyComplete 0) s = .next ((s.setMe { s.me with pend := [] }).wroteV r p.vval).stepped)

/-! ### Loads, stores and translation -/

/-- R127, R133, R140: a load gives the bytes at its address, little-endian, extended, in a window of la bundles (none on an SC page);
nothing else changes but what translating the address does. `locate` gives the bytes' locations. -/
def Obligations.LoadResults : Prop :=
  ∀ (s t u : State) (d a : GReg) (imm : Int) (la : La) (q : QType) (base : Word) (locs : List Nat) (size : Nat),
    s.clear [a] [d] [] [] = true → s.Reads [a] [base] t →
    let ea : Word := base + BitVec.ofInt 64 (imm * size)
    let x := u.numberAt locs
    let w : La := if t.touchesSC .load ea size then 0 else la
    let strict : La := if t.me.status.getLsbD 2 then 0 else w
    locate .load ea size t = .ok (locs, u) → u.unshared locs → u.landed locs →
    (size = 1 → exec (.ldb d a imm la) s = .next (u.later w d ((BitVec.ofNat 8 x).signExtend 64)).done ∧
      exec (.ldbn d a imm la) s = .next (u.later w d (BitVec.ofNat 64 x)).done) ∧
    (size = 2 → exec (.ldh d a imm la) s = .next (u.later w d ((BitVec.ofNat 16 x).signExtend 64)).done ∧
      exec (.ldhn d a imm la) s = .next (u.later w d (BitVec.ofNat 64 x)).done) ∧
    (size = 4 → exec (.ldw d a imm la) s = .next (u.later w d ((BitVec.ofNat 32 x).signExtend 64)).done ∧
      exec (.ldwn d a imm la) s = .next (u.later w d (BitVec.ofNat 64 x)).done) ∧
    (size = 8 → exec (.ldd d a imm la) s = .next (u.later w d (BitVec.ofNat 64 x)).done) ∧
    (size = 2 ^ (3 - q.val) → ea.toNat % size = 0 → u.unmixed locs → ∀ v, observe locs u = .ok ((), v) →
      exec (.lda d a imm q la) s = .next ((v.setMe v.me.acquire).later strict d (BitVec.ofNat 64 x)).done) ∧
    u.mem = s.mem ∧ s.keepsOthers u s.cur ∧ t.keepsRegisters u [] [] []

/-- R127, R132, R140 and R205: a store outside the aperture, with no trail to log to, stores the low bytes of its register at its address
and changes no other byte of memory and no register; the line's home drops every copy but the storing core's (R204) and advances its
write generation, which the core awaits in an egress entry with its k.GEN (R420); with all entries in use the oldest is acknowledged first.
The model's own choices in it: log 57. -/
def Obligations.StoreResults : Prop :=
  ∀ (s t u : State) (i : Instr) (d a : GReg) (imm : Int) (q : QType) (base x : Word) (locs : List Nat) (size : Nat),
    (i, size) ∈ [(Instr.stb d a imm none, 1), (.sth d a imm none, 2), (.stw d a imm none, 4), (.std d a imm none, 8),
      (.stl d a imm q none, 2 ^ (3 - q.val))] →
    s.clear [a, d] [] [] [] = true → s.Reads [a, d] [base, x] t →
    let ea : Word := base + BitVec.ofInt 64 (imm * size)
    let part := if isService (coreOf s.cur) then s.partAt (locs.headD 0) else s.me.part
    isAperture ea = false → (i = .stl d a imm q none → ea.toNat % size = 0 ∧ t.quiet = true ∧ u.unmixed locs) →
    locate .store ea size t = .ok (locs, u) → u.unshared locs → u.landed locs → u.me.logging = false →
    ∃ v, exec i s = .next v ∧
      v.mem = (locs.zip (leBytes size x.toNat)).foldl (fun m p => m.write p.1 p.2) s.mem ∧
      (locs.Nodup → v.numberAt locs = x.toNat % 256 ^ size) ∧
      s.keepsMemory v locs ∧ s.keepsOthers v s.cur ∧ t.keepsRegisters v [] [] [] ∧ v.packets = s.packets ∧ v.me.pc = s.me.npc ∧
      (∀ line, linesOf locs = [line] → (∀ l, l ∈ locs → l < hbmTop) →
        let k := if 64 ≤ s.myCore.egress.length then (s.receiveAck (coreOf s.cur)).myCore else s.myCore
        ∃ h g, h = s.homeSlice part (line * 128) ∧ g = s.homeGens.get (fun _ => 0) h + 1 ∧
          v.homeGens.get (fun _ => 0) h = g ∧ v.myCore.acks = k.acks ++ [(h, g)] ∧
          v.myCore.egress = k.egress ++ [s.myCore.gens.get (fun _ => 0) s.me.part] ∧
          (∀ c, c ≠ coreOf s.cur → c ∉ (v.dir line).cores) ∧ (v.dir line).proxies = [])

/-- R131, R277, R281 and R286: a store through the aperture is a packet of its stream: it takes the next sequence number of its (context,
stream, target core), names the stream's counter, counts in k.UNACK, and changes no byte of memory until it commits; a class 2 one takes its
stream and epoch from the request of its handler, one in a fabric region is recorded there, and one to another core pushes an irrevocable mark
where the context is logging (R132). Class 3, class 2 misused, a malformed counter, a broken stream and the region's limits trap, in this order.
The model's own choices in it: log 21. -/
def Obligations.ApertureStoreResults : Prop :=
  ∀ (s t : State) (i : Instr) (op : Nat) (d a : GReg) (imm : Int) (q : QType) (xs : Option XS) (base x : Word) (size : Nat) (c : CoreId) (v : Served),
    (i, op, size) ∈ [(Instr.stb d a imm xs, 33, 1), (.sth d a imm xs, 34, 2), (.stw d a imm xs, 35, 4), (.std d a imm xs, 36, 8),
      (.stl d a imm q xs, 39, 2 ^ (3 - q.val))] →
    s.clear [a, d] [] [] [] = true → s.Reads [a, d] [base, x] t →
    let ea : Word := base + BitVec.ofInt 64 (imm * size)
    let sid : Nat := (xs.map (fun x => x.sid.val)).getD 0
    let cls : Nat := (xs.map (fun x => x.cls.val)).getD 0
    let raises (cls detail : Nat) : Prop := exec i s = .next (s.trapped (s.me.withDetail { cls, detail }))
    let stream : Option (Nat × Nat) :=
      if cls = 2 then (if sid = 0 then t.me.event.bind Event.tag else none) else some (sid, (s.part s.me.part).fepoch)
    let far := decide (c ≠ coreOf s.cur) && t.me.logging
    (i = .stl d a imm q xs → ea.toNat % size = 0 ∧ t.quiet = true) → isAperture ea = true →
    (cls = 3 → raises 0 9) ∧
    (cls ≠ 3 → aperture ea size t = .ok ((c, v), t) → (far = true → t.me.speculates = false ∧ t.me.trailTop.toNat + 16 ≤ t.me.trailLim.toNat) →
     (c = coreOf s.cur → t.me.logging = false ∧ (t.me.task.isSome = true → ∃ t', meet true (run (v.base + field ea 20 0) size) t = .ok ((), t'))) →
     (stream = none → raises 3 2) ∧
     (∀ st ep, stream = some (st, ep) →
       let w := (t.me.strc[st]?).getD 0
       let e := t.me.sender st (.core c)
       let formed := isAperture w && decide (w.toNat % 8 = 0) && decide (field w 63 57 = 0) && decide (field w 37 21 = 0)
       (cls ≠ 2 → w ≠ 0 → formed = false → raises 3 11) ∧
       (cls = 2 ∨ w = 0 ∨ formed = true →
         (e.broken = true → raises 3 9) ∧
         (e.broken = false → (∃ r, t.me.region = some r ∧ r.use st (.core c) e.next false = none) → raises 3 3) ∧
         (e.broken = false → ∀ region, (t.me.region = none ∧ region = none) ∨ (∃ r, t.me.region = some r ∧ region = r.use st (.core c) e.next false ∧ region ≠ none) →
           ∃ u p, exec i s = .next u ∧ u.packets = s.packets ++ [p] ∧ p.body = .store ea (leBytes size x.toNat) ∧ p.dest = .core c ∧
             p.sid = st ∧ p.cls = cls ∧ p.seq = e.next ∧ p.state = .sent ∧ p.src = some s.cur ∧ p.owner = s.me.source ∧ p.part = s.me.part ∧
             p.epoch = ep ∧ p.counter = (if cls = 2 then 0 else w) ∧ p.region = t.me.region.isSome ∧ u.me.region = region ∧
             p.gen = s.myCore.gens.get (fun _ => 0) s.me.part ∧ u.me.unack = s.me.unack + 1 ∧ (u.me.sender st (.core c)).next = (e.next + 1) % 2 ^ 24 ∧
             (far = false → u.mem = s.mem ∧ u.me.trailTop = s.me.trailTop) ∧
             (far = true → u.mem = (t.storeWords (t.myLoc t.me.trailTop.toNat) [BitVec.ofNat 64 (op % 16 * 16 + 6), s.me.pc]).mem ∧
               u.me.trailTop = s.me.trailTop + 16) ∧
             s.keepsOthers u s.cur ∧ t.keepsRegisters u [] [] [32, 48]))))

/-- R129 to R131, R134 and R141: an access that its address forbids has no effect but the cause it raises, in this order: XS on an address
outside the aperture, a misaligned strong access, then the aperture's own checks or the translation's fault; that a class of 3 comes before
those checks is the model's choice (log 21). -/
def Obligations.AddressCauses : Prop :=
  ∀ (s t : State) (d a : GReg) (imm : Int) (la : La) (q : QType) (xs : XS) (base x : Word) (size : Nat) (c : Trap),
    let ea : Word := base + BitVec.ofInt 64 (imm * size)
    let raises (i : Instr) (t : Trap) : Prop := exec i s = .next (s.trapped (s.me.withDetail t))
    (s.clear [a] [d] [] [] = true → s.Reads [a] [base] t → locate .load ea size t = .error (.trap c) →
      (size = 1 → raises (.ldb d a imm la) c ∧ raises (.ldbn d a imm la) c) ∧
      (size = 2 → raises (.ldh d a imm la) c ∧ raises (.ldhn d a imm la) c) ∧
      (size = 4 → raises (.ldw d a imm la) c ∧ raises (.ldwn d a imm la) c) ∧
      (size = 8 → raises (.ldd d a imm la) c) ∧
      (size = 2 ^ (3 - q.val) → ea.toNat % size = 0 → raises (.lda d a imm q la) c)) ∧
    (s.clear [a] [d] [] [] = true → s.Reads [a] [base] t → size = 2 ^ (3 - q.val) → ea.toNat % size ≠ 0 →
      raises (.lda d a imm q la) { cls := 2, detail := 6, addr := ea }) ∧
    (s.clear [a, d] [] [] [] = true → s.Reads [a, d] [base, x] t →
      (isAperture ea = false → locate .store ea size t = .error (.trap c) →
        (size = 1 → raises (.stb d a imm none) c) ∧ (size = 2 → raises (.sth d a imm none) c) ∧
        (size = 4 → raises (.stw d a imm none) c) ∧ (size = 8 → raises (.std d a imm none) c)) ∧
      (isAperture ea = false → (size = 1 → raises (.stb d a imm (some xs)) { cls := 0, detail := 4 }) ∧
        (size = 8 → raises (.std d a imm (some xs)) { cls := 0, detail := 4 }) ∧
        (size = 2 ^ (3 - q.val) → raises (.stl d a imm q (some xs)) { cls := 0, detail := 4 })) ∧
      (size = 2 ^ (3 - q.val) → ea.toNat % size ≠ 0 → raises (.stl d a imm q none) { cls := 2, detail := 6, addr := ea }) ∧
      (isAperture ea = true → aperture ea size t = .error (.trap c) → size = 8 → raises (.std d a imm none) c ∧
        raises (.std d a imm (some xs)) (if xs.cls = 3 then { cls := 0, detail := 9 } else c))) ∧
    (∀ n : Nat, isAperture ea = true →
      let far := s.absCore s.me.part (field ea 47 38)
      (field ea 63 57 ≠ 0 ∨ field ea 37 21 ≠ 0 ∨ far = none →
        aperture ea n s = .error (.trap { cls := 2, detail := 5, addr := ea })) ∧
      (∀ k, field ea 63 57 = 0 → field ea 37 21 = 0 → far = some k →
        (s.served s.me.part k = none → aperture ea n s = .error (.trap { cls := 2, detail := 9, addr := ea })) ∧
        (∀ v, s.served s.me.part k = some v → v.size < field ea 20 0 + n → aperture ea n s = .error (.trap { cls := 2, detail := 4, addr := ea })) ∧
        (∀ v, s.served s.me.part k = some v → field ea 20 0 + n ≤ v.size → s.moving k v = true → aperture ea n s = .error (.wait .other)) ∧
        (∀ v, s.served s.me.part k = some v → field ea 20 0 + n ≤ v.size → s.moving k v = false →
          locate .load ea n s = .ok ((List.range n).map (v.base + field ea 20 0 + ·), s))))

/-- R414 to R418, R423 and R475: a walk descends through valid table entries to the leaf that maps the address; it answers the leaf's page
and physical address, or the class 1 cause of the entry where it stops: not present, then attribute conflict, then permission. -/
def Obligations.PageWalk : Prop :=
  ∀ (s : State) (part va level : Nat) (acc : Acc) (tables : Nat → Nat) (pte : Word),
    let entry (k : Nat) : Nat := tables k + va / 2 ^ (12 + 9 * k) % 512 * 8
    let cause (reason : Nat) : Trap := { cls := 1, detail := acc.code * 16 + level * 4 + reason, addr := BitVec.ofNat 64 va, word := pte }
    let size := if level = 0 then (if pte.getLsbD 47 then 2 ^ 16 else 2 ^ 12) else if level = 1 then 2 ^ 21 else 2 ^ 30
    let base := field pte 46 12 * 4096
    let reserved := decide (field pte 55 48 ≠ 0) || (pte.getLsbD 47 && decide (level ≠ 0)) || decide (base % size ≠ 0)
    let outside := decide (base < (s.part part).hbase) || decide ((s.part part).hbase + (s.part part).hsize < base + size) || s.protects base size
    va < 2 ^ 48 → level ≤ 3 → tables 3 = (s.part part).ptroot → pte = s.word (entry level) →
    (∀ k, level ≤ k → k ≤ 3 → lineOf (entry k) ∉ s.poison) →
    (∀ k, level < k → k ≤ 3 → (s.word (entry k)).getLsbD 0 = true ∧ (s.word (entry k)).getLsbD 1 = false ∧ field (s.word (entry k)) 11 2 = 0 ∧
      field (s.word (entry k)) 55 47 = 0 ∧ tables (k - 1) = field (s.word (entry k)) 46 12 * 4096) →
    (pte.getLsbD 0 = false → s.walk part acc va = .error (cause 0)) ∧
    (pte.getLsbD 0 = true → pte.getLsbD 1 = false → level = 0 → s.walk part acc va = .error (cause 2)) ∧
    (pte.getLsbD 0 = true → pte.getLsbD 1 = true → level = 3 → s.walk part acc va = .error (cause 2)) ∧
    (pte.getLsbD 0 = true → pte.getLsbD 1 = true → level < 3 → pte.getLsbD 11 = false →
      (reserved = true ∨ outside = true → s.walk part acc va = .error (cause 2)) ∧
      (reserved = false → outside = false → acc.needs.all pte.getLsbD = false → s.walk part acc va = .error (cause 1)) ∧
      (reserved = false → outside = false → acc.needs.all pte.getLsbD = true →
        ∃ l, s.walk part acc va = .ok l ∧ l.page = va / size * size ∧ l.size = size ∧ l.isRemote = false ∧ l.pa va = base + va % size)) ∧
    (pte.getLsbD 0 = true → pte.getLsbD 1 = true → pte.getLsbD 11 = true → acc = .fetch → s.walk part acc va = .error (cause 2)) ∧
    (∀ va', 2 ^ 48 ≤ va' → s.walk part acc va' =
      .error (.mk 1 (acc.code * 16 + 12) (BitVec.ofNat 64 va') 0 0 true))

/-- R136, R419: a translated access within one page uses a live covering pin, which it ends, before the cache, and the cache before a walk,
whose leaf the cache keeps and whose entries wait as loads do (R414); a remote page refuses a plain access with trap(3, 0) (R274), and an SC page lets it wait until the
context's earlier accesses are done (R133).
The model's own choices in it: log 23. -/
def Obligations.TranslatedAccess : Prop :=
  ∀ (s : State) (acc : Acc) (ea : Word) (n : Nat) (l : Leaf), isAperture ea = false → isService (coreOf s.cur) = false → 0 < n →
    ea.toNat % 4096 + n ≤ 4096 → (l.isSC = true → s.quiet = true) →
    let marks (l : Leaf) : Bool := l.isSC && (acc == .store || acc == .atomic)
    let sc : Ctx := { s.me with strict := true, owes := [], owed := [] }
    (∀ p, s.me.livePins.find? (fun p => acc.covers p.kind && decide (p.page ≤ ea.toNat) && decide (ea.toNat < p.page + p.size)) = some p →
      l = ⟨p.page, p.size, p.level, p.pte⟩ → l.isRemote = false →
      ∃ u, locate acc ea n s = .ok ((List.range n).map (l.pa ea.toNat + ·), u) ∧ u.me.pins = s.me.pins.erase p ∧ u.mem = s.mem ∧ u.cores = s.cores) ∧
    (s.me.livePins.find? (fun p => acc.covers p.kind && decide (p.page ≤ ea.toNat) && decide (ea.toNat < p.page + p.size)) = none →
      (∀ e, s.myCore.cached s.me.part ea.toNat = some e → s.checkLeaf s.me.part acc e.level ea.toNat e.pte = .ok l → l.isRemote = false →
        ∃ u, locate acc ea n s = .ok ((List.range n).map (l.pa ea.toNat + ·), u) ∧ u.me = (if marks l then sc else s.me) ∧ u.mem = s.mem ∧
          u.myCore = { s.myCore with tlb := (e :: s.myCore.tlb.erase e).take 256 }) ∧
      (∀ c e, s.myCore.cached s.me.part ea.toNat = some e → s.checkLeaf s.me.part acc e.level ea.toNat e.pte = .error c →
        locate acc ea n s = .error (.trap c)) ∧
      (s.myCore.cached s.me.part ea.toNat = none → s.walkFree s.me.part ea.toNat = false → locate acc ea n s = .error (.wait .other)) ∧
      (s.myCore.cached s.me.part ea.toNat = none → s.walkFree s.me.part ea.toNat = true → s.walk s.me.part acc ea.toNat = .ok l →
        (l.isRemote = true → locate acc ea n s = .error (.trap { cls := 3, detail := 0, addr := ea })) ∧
        (l.isRemote = false → ∃ u, locate acc ea n s = .ok ((List.range n).map (l.pa ea.toNat + ·), u) ∧
          u.me = (if marks l then sc else s.me) ∧ u.mem = s.mem ∧ ∃ e, u.myCore.tlb.head? = some e ∧ e.part = s.me.part ∧ e.page = l.page ∧ e.size = l.size ∧ e.pte = l.pte)) ∧
      (∀ c, s.myCore.cached s.me.part ea.toNat = none → s.walkFree s.me.part ea.toNat = true → s.walk s.me.part acc ea.toNat = .error c → locate acc ea n s = .error (.trap c)))

/-- R135 to R138: tch pins the page it translates for the kind's accesses, for 64 bundles after it; a seventeenth pin raises pin overflow,
and a tch of the aperture pins nothing.
The model's own choices in it: log 23. -/
def Obligations.TouchResults : Prop :=
  ∀ (s t : State) (kind : Fin 8) (a : GReg) (imm : Int) (la : La) (base : Word) (l : Leaf), kind.val < 5 → s.clear [a] [] [] [] = true → s.Reads [a] [base] t →
    let ea : Word := base + BitVec.ofInt 64 (imm * 8)
    let acc : Acc := match kind.val with | 0 => .load | 1 => .store | 2 => .atomic | 3 => .copyRead | _ => .copyWrite
    (isAperture ea = true → ∀ r, aperture ea 8 t = .ok (r, t) → exec (.tch kind a imm la) s = .next t.done) ∧
    (isAperture ea = false → isService (coreOf s.cur) = false → t.myCore.cached t.me.part ea.toNat = none →
      t.walkFree t.me.part ea.toNat = true →
      (t.me.livePins.length < 16 → t.walk t.me.part acc ea.toNat = .ok l → l.isRemote = false →
        ∃ u p, exec (.tch kind a imm la) s = .next u ∧ u.me.pins = tickPins t.me.pins ++ [p] ∧ p.page = l.page ∧ p.size = l.size ∧ p.pte = l.pte ∧
          p.kind = kind.val ∧ p.count = 64 ∧ u.mem = s.mem ∧ s.keepsOthers u s.cur ∧ t.keepsRegisters u [] [] []) ∧
      (16 ≤ t.me.livePins.length → exec (.tch kind a imm la) s =
        .next (s.trapped { cls := 1, detail := acc.code * 16 + 3, addr := ea })) ∧
      (t.me.livePins.length < 16 → t.walk t.me.part acc ea.toNat = .ok l → l.isRemote = true → kind ≠ 1 →
        exec (.tch kind a imm la) s = .next (s.trapped { cls := 3, detail := 0, addr := ea })) ∧
      (∀ c, t.me.livePins.length < 16 → t.walk t.me.part acc ea.toNat = .error c →
        exec (.tch kind a imm la) s = .next (s.trapped (s.me.withDetail c))))

/-! ### Vector memory, gathers and slice atomics -/

/-- R160 to R162: a vector load gives each lane the bytes at that lane's address, and a vector store stores each lane's bytes, the highest lane
last; a lane in the aperture goes as a packet of stream 0, class 0, in lane order. The addresses are a run, a strided or an indexed
sequence. -/
def Obligations.VectorMemoryResults : Prop :=
  ∀ (s t u : State) (d b : VReg) (a g : GReg) (q : QType) (la : La) (imm : Int) (base stride : Word) (locs : List (List Nat)),
    let w := laneWidth q
    let n := laneCount q
    let bytes := if q = 7 then 1 else w / 8
    let lanes := 512 / bytes
    let runs := (List.range lanes).map (fun i => base + BitVec.ofInt 64 (imm * 512) + BitVec.ofNat 64 (i * bytes))
    let strides := (List.range n).map (fun i => base + BitVec.ofNat 64 i * stride)
    let indexes := (List.range n).map (fun i => base + BitVec.ofInt 64 ((BitVec.ofNat w (laneAt w s.me.v[b.val] i)).toInt * bytes))
    let loads (i : La → Instr) (eas : List Word) : Prop :=
      locateAll .load (eas.map (fun ea => (ea, bytes))) t = .ok (locs, u) → u.unshared locs.flatten →
      u.landed locs.flatten →
      ∃ r, exec (i la) s = .next (u.laterV (if eas.any (fun ea => t.touchesSC .load ea bytes) then 0 else la) d r).done ∧
        (∀ j, j < lanes → laneAt (8 * bytes) r j = u.numberAt (locs.getD j []) % 2 ^ (8 * bytes)) ∧ u.mem = s.mem
    let stores (i : Instr) (eas : List Word) : Prop :=
      locateAll .store (eas.map (fun ea => (ea, bytes))) t = .ok (locs, u) →
      let data (j : Nat) := leBytes bytes (laneAt (8 * bytes) s.me.v[d.val] j)
      let near := ((eas.zip locs).zip (List.range lanes)).filter (fun p => !isAperture p.1.1)
      let far := (eas.zip (List.range lanes)).filter (fun p => isAperture p.1)
      let locs := near.flatMap (fun p => p.1.2)
      u.unshared locs → u.landed locs → u.me.logging = false → u.me.region = none → (u.me.strc[0]?).getD 0 = 0 →
      (∀ c, (u.me.sender 0 (.core c)).broken = false) →
      ∃ v ps, exec i s = .next v ∧ v.packets = s.packets ++ ps ∧
        v.mem = near.foldl (fun m p => (p.1.2.zip (data p.2)).foldl (fun m c => m.write c.1 c.2) m) s.mem ∧
        s.keepsMemory v locs ∧ s.keepsOthers v s.cur ∧ t.keepsRegisters v [] [] [48] ∧
        ps.map Packet.body = far.map (fun p => .store p.1 (data p.2)) ∧
        ps.map (fun p => some p.dest) = far.map (fun p => (s.apertureCore s.me.part p.1).map Dest.core) ∧
        (∀ k p, ps[k]? = some p → p.sid = 0 ∧ p.cls = 0 ∧ p.state = .sent ∧ p.src = some s.cur ∧
          p.seq = ((u.me.sender 0 p.dest).next + ((ps.take k).filter (fun r => r.dest == p.dest)).length) % 2 ^ 24) ∧
        v.me.unack = s.me.unack + BitVec.ofNat 64 ps.length
    (s.clear [a] [] [] [d] = true → s.Reads [a] [base] t → loads (.vld d a imm q) runs) ∧
    (s.clear [a] [] [d] [] = true → s.Reads [a] [base] t → stores (.vst d a imm q) runs) ∧
    (s.clear [a, g] [] [] [d] = true → s.Reads [a, g] [base, stride] t → q.val < 7 → loads (.vlds d a g q) strides) ∧
    (s.clear [a, g] [] [d] [] = true → s.Reads [a, g] [base, stride] t → q.val < 7 → stores (.vsts d a g q) strides) ∧
    (s.clear [a] [] [b] [d] = true → s.Reads [a] [base] t → q.val < 7 → loads (.vldx d a b q) indexes) ∧
    (s.clear [a] [] [b, d] [] = true → s.Reads [a] [base] t → q.val < 7 → stores (.vstx d a b q) indexes)

/-- R208 and R247: sgath reads up to 128 elements named by signed 32-bit indexes; an index of −2^31 skips its lane, which is zero.
And R206, R248 and R249: a slice atomic reads a naturally aligned number, stores the new one, and gives the old one to its register; a
misaligned address raises trap(2, 6), and the aperture trap(2, 8).
The model's own choices in it: log 85. -/
def Obligations.SliceResults : Prop :=
  (∀ (s t u : State) (d b : VReg) (a : GReg) (q : QType) (la : La) (base : Word) (locs : List (Option (List Nat))),
     let w := laneWidth q
     let index (i : Nat) : Int := (s.me.v[b.val].extractLsb' (32 * i) 32).toInt
     let xs := (List.range 128).map index
     let ea (x : Int) : Word := base + BitVec.ofInt 64 (x * (w / 8 : Nat))
     q.val < 7 → s.clear [a] [] [b] [d] = true → s.Reads [a] [base] t →
     (underPins (gatherLocs base (w / 8)) xs t = .ok (locs, u) → u.unshared (locs.flatMap (·.getD [])) → u.landed (locs.flatMap (·.getD [])) →
       ∃ r, exec (.sgath d a b q la) s =
           .next (u.laterV (if xs.any (fun x => x != -2 ^ 31 && t.touchesSC .load (ea x) (w / 8)) then 0 else la) d r).done ∧
         (∀ j, j < laneCount q → laneAt w r j = match locs.getD j none with | some l => u.numberAt l % 2 ^ w | none => 0) ∧
         (∀ j, j < 128 → index j = -2 ^ 31 → locs.getD j none = none) ∧ u.mem = s.mem ∧ s.keepsOthers u s.cur) ∧
     (index 0 ≠ -2 ^ 31 → isAperture (ea (index 0)) = true →
       exec (.sgath d a b q la) s = .next (s.trapped { cls := 2, detail := 8, addr := ea (index 0) }))) ∧
  (∀ (s t u : State) (d a b : GReg) (q : QType) (la : La) (ea x y : Word) (locs : List Nat),
     let size := 2 ^ (3 - q.val)
     let w := 8 * size
     let lo (v : Word) : Nat := v.toNat % 2 ^ w
     let int (n : Nat) : Int := (BitVec.ofNat w n).toInt
     let old := u.numberAt locs
     let runs (i : Instr) (size : Nat) (new : Nat) (result : Word) : Prop :=
       ea.toNat % size = 0 → isAperture ea = false → locate .atomic ea size t = .ok (locs, u) → u.unshared locs → u.unmixed locs → u.landed locs → u.me.logging = false →
       ∃ v, exec i s = .next (v.later (if t.me.status.getLsbD 2 || t.touchesSC .atomic ea size then 0 else la) d result).done ∧
         v.mem = (locs.zip (leBytes size new)).foldl (fun m p => m.write p.1 p.2) s.mem ∧
         s.keepsMemory v locs ∧ s.keepsOthers v s.cur ∧ t.keepsRegisters v [] [] []
     (q.val < 4 → s.clear [a, b] [d] [] [] = true → s.Reads [a, b] [ea, x] t →
       runs (.aadd d a b q la) size ((old + x.toNat) % 2 ^ w) (BitVec.ofNat 64 old) ∧
       runs (.aand d a b q la) size (old &&& lo x) (BitVec.ofNat 64 old) ∧
       runs (.aor d a b q la) size (old ||| lo x) (BitVec.ofNat 64 old) ∧
       runs (.amin d a b q la) size (if int (lo x) < int old then lo x else old) ((BitVec.ofNat w old).signExtend 64) ∧
       runs (.amax d a b q la) size (if int old < int (lo x) then lo x else old) ((BitVec.ofNat w old).signExtend 64) ∧
       runs (.axchg d a b q la) size (lo x) (BitVec.ofNat 64 old) ∧
       (ea.toNat % size ≠ 0 → exec (.aadd d a b q la) s = .next (s.trapped { cls := 2, detail := 6, addr := ea }) ∧
         exec (.axchg d a b q la) s = .next (s.trapped { cls := 2, detail := 6, addr := ea })) ∧
       (ea.toNat % size = 0 → isAperture ea = true → exec (.aadd d a b q la) s = .next (s.trapped { cls := 2, detail := 8, addr := ea }))) ∧
     (s.clear [a, b] [d] [] [] = true → s.Reads [a, b] [ea, x] t →
       runs (.afadd d a b 0 la) 4 (Fmt.f32.encode .rne ((Fmt.f32.decode (old % 2 ^ 32)).add (Fmt.f32.decode (x.toNat % 2 ^ 32)))) (BitVec.ofNat 64 old) ∧
       (q ≠ 0 → exec (.afadd d a b q la) s = .next (s.trapped (s.me.withDetail { cls := 0, detail := 19 })))) ∧
     (q.val < 4 → s.clear [a, d, d + 1] [d] [] [] = true → s.Reads [a, d, d + 1] [ea, x, y] t →
       runs (.acas d a q la) size (if old = lo x then lo y else old) (BitVec.ofNat 64 old)))
/-! ### The copy unit and the matrix arrays -/

/-- R239 and R243 to R246: cpput loads the shadow registers and drops their reserved bits; the launching instructions are accepted with the
core's next transfer id, or raise trap(4, 5) for counts out of range; cpwait waits for its transfer and then orders later accesses as an acquire does, and raises trap(4, 5) or
trap(4, 7) for an id that is malformed or not yet issued.
And R242: a copy that completes has moved its bytes; it writes k.XFER, then pushes its DONE word, then leaves its interrupt, which is taken
between bundles as trap(4, 6); a DONE word that found the port full enters it once there is a place (R180).
The model's own choices in it: log 31. -/
def Obligations.CopyEngine : Prop :=
  (∀ (s t u : State) (a d : GReg) (b : VReg) (x : Word) (locs : List Nat) (srcs dsts : List (List Nat)),
     let id : Word := (s.myCore.xferNewest + 1).setWidth 64
     let word (i : Nat) : Word := BitVec.ofNat 64 (u.numberAt ((locs.drop (8 * i)).take 8))
     let free (v : State) : Prop := v.unshared (srcs.flatten ++ dsts.flatten) ∧ v.me.choice = 0 ∧ v.me.region = none
     let cp (i : Nat) : Word := (s.me.cp[i]?).getD 0
     let rows (src dst : Nat → Word) (n len : Nat) (v w : State) : Prop :=
       ∃ m, locateAll .copyRead ((List.range n).map (fun r => (src r, len))) v = .ok (srcs, m) ∧
         locateAll .copyWrite ((List.range n).map (fun r => (dst r, len))) m = .ok (dsts, w) ∧
         (∀ r, r < n → isAperture (dst r) = false) ∧ w.landed (srcs.flatten ++ dsts.flatten)
     let held (src : Nat → Word) (n len : Nat) (w : State) : List Nat := w.heldSources .copyRead ((List.range n).map (fun r => (src r, len))) srcs
     (s.clear [a] [] [] [] = true → s.Reads [a] [x] t → x.toNat % 64 = 0 → locate .load x 64 t = .ok (locs, u) → u.unshared locs → u.landed locs →
       ∃ v, exec (.cpput a) s = .next v.done ∧ v.mem = s.mem ∧ s.keepsOthers v s.cur ∧ t.keepsRegisters v [] [] [16, 17, 18, 19, 20, 21, 22] ∧
         v.me.cp.toList = [word 0, word 1, word 2 &&& 0x1FFFF, word 3 &&& 0x1FFFFFF, word 4, word 5, word 6 &&& 0xFF03]) ∧
     (s.clear [] [d] [] [] = true →
       let n := field (cp 2) 16 0
       let len := field (cp 3) 24 0
       (n = 0 ∨ 65536 < n ∨ len = 0 ∨ 2 ^ 24 < len →
         exec (.cplaunch d) s = .next (s.trapped { cls := 4, detail := 5 }) ∧ exec (.cpLaunchRead d) s = .next (s.trapped { cls := 4, detail := 5 })) ∧
       (1 ≤ n → n ≤ 65536 → 1 ≤ len → len ≤ 2 ^ 24 →
         rows (fun r => cp 0 + BitVec.ofNat 64 r * cp 4) (fun r => cp 1 + BitVec.ofNat 64 r * cp 5) n len s u → free u →
         ∃ v, s.copyAccepted v ((cp 6).getLsbD 0) ((cp 6).getLsbD 1) srcs dsts (held (fun r => cp 0 + BitVec.ofNat 64 r * cp 4) n len u) ∧
           exec (.cplaunch d) s = .next (v.put d id).done ∧ exec (.cpLaunchRead d) s = .next (v.put d id).done)) ∧
     (∀ v w : State, s.clear [a] [d] [b] [] = true → s.Reads [a] [x] t → x.toNat % 64 = 0 → locate .load x 64 t = .ok (locs, u) → u.unshared locs →
       u.landed locs → word 2 = word 2 &&& 0x1FFFF → word 3 = word 3 &&& 0x1FFFFFF → word 6 = word 6 &&& 0xFF03 →
       let n := (word 2).toNat
       let len := (word 3).toNat
       let lane (r : Nat) : Word := (s.me.v[b.val].extractLsb' (32 * r) 32).signExtend 64
       (n = 0 ∨ 32 < n ∨ len = 0 ∨ 2 ^ 24 < len → exec (.cpgath d a b) s = .next (s.trapped { cls := 4, detail := 5 }) ∧
         exec (.cpscat d a b) s = .next (s.trapped { cls := 4, detail := 5 })) ∧
       (1 ≤ n → n ≤ 32 → 1 ≤ len → len ≤ 2 ^ 24 →
         (rows (fun r => word 0 + lane r * word 4) (fun r => word 1 + BitVec.ofNat 64 r * word 5) n len u v → free v →
           ∃ z, s.copyAccepted z ((word 6).getLsbD 0) ((word 6).getLsbD 1) srcs dsts (held (fun r => word 0 + lane r * word 4) n len v) ∧
             exec (.cpgath d a b) s = .next (z.put d id).done) ∧
         (rows (fun r => word 0 + BitVec.ofNat 64 r * word 4) (fun r => word 1 + lane r * word 5) n len u w → free w →
           ∃ z, s.copyAccepted z ((word 6).getLsbD 0) ((word 6).getLsbD 1) srcs dsts
               (held (fun r => word 0 + BitVec.ofNat 64 r * word 4) n len w) ∧
             exec (.cpscat d a b) s = .next (z.put d id).done))) ∧
     (s.clear [a] [] [] [] = true → s.Reads [a] [x] t →
       (65536 ≤ x.toNat → exec (.cpwait a) s = .next (s.trapped { cls := 4, detail := 5 })) ∧
       (x.toNat < 65536 → 32768 ≤ (s.myCore.xferNewest.toNat + 65536 - x.toNat) % 65536 → exec (.cpwait a) s = .next (s.trapped { cls := 4, detail := 7 })) ∧
       (x.toNat < 65536 → (s.myCore.xferNewest.toNat + 65536 - x.toNat) % 65536 < 32768 →
         exec (.cpwait a) s = .next (if (jobStatus s.myCore.xfers x.toNat).done then (t.setMe t.me.acquire).done else s.noteStall .other)))) ∧
  (∀ (s : State) (n : Nat) (c : Copy) (w : Word) (rest : List Word) (tr : Trap) (more : List Trap),
     let r := ridgeOf s.focus
     ((s.ridge r).copies.find? (fun c => coreOf c.ctx == s.focus && c.id == n) = some c → s.packets.any (carries s.focus n) = false →
       (∀ m, m ∈ c.moves → m.1 ∉ c.dests ∧ m.2 ∉ c.sources) → (∀ m, m ∈ c.moves → lineOf m.1 ∉ s.poison ∧ s.marksOf (lineOf m.1) = ⟨[], []⟩) →
       (jobStatus (s.core s.focus).xfers n) = ⟨n, false, false, false⟩ → (s.ctx c.ctx).doneHeld = [] → (s.ctx c.ctx).done.length < 16 →
       (s.ctx c.ctx).source = c.source →
       ∃ t, exec (.copyComplete n) s = .next t ∧
         t.mem = (c.moves.map (fun m => (m.2, s.mem.read m.1))).foldl (fun m p => m.write p.1 p.2) s.mem ∧
         (t.ridge r).copies = (s.ridge r).copies.erase c ∧ (t.ctx c.ctx).xfer = BitVec.ofNat 64 (n + 2 ^ 17) ∧
         (jobStatus (t.core s.focus).xfers n).done = true ∧
         (t.ctx c.ctx).done = (s.ctx c.ctx).done ++ (if c.notify then [BitVec.ofNat 64 (n + 2 ^ 17)] else []) ∧
         (t.ctx c.ctx).intr = (s.ctx c.ctx).intr ++ (if c.intr then [⟨4, 6, 0, 0, BitVec.ofNat 64 (n + 2 ^ 17), false⟩] else []) ∧
         s.keepsOthers t c.ctx) ∧
     (s.me.status.getLsbD 3 = false → s.me.handling = false → s.isActive s.cur = true → s.me.run = .running ∨ s.me.run = .waiting →
       s.me.yielded = false → s.halted s.cur = false → s.me.intr = tr :: more →
       exec .copyInterrupt s = .next ((s.setMe { s.me with intr := more }).takeTrap s.cur tr).stepped) ∧
     (s.me.doneHeld = w :: rest → s.me.done.length < 16 →
       exec .doneWordPush s = .next (s.setMe { s.me with done := s.me.done ++ [w], doneHeld := rest }).stepped))

/-- R56, R177, R190, R410: mlease gives what is left of a lease already held, else waits, and gives 64 once the arbiter's grant has come;
mfree ends the lease; a grant goes to a waiting context of the core that the arbiter chooses, and ends 50 µs later.
And R176, R179, R191 and R197: mfmt loads the core's format context from an aligned word that names a pair of the ridge, and clears ovf;
mwait and mpoll read the status of a job that has been issued. -/
def Obligations.MatrixControl : Prop :=
  (∀ (s : State) (d : GReg) (l : Lease) (i : Nat) (credit : Table Int) (c : CtxId) (more : List CtxId),
     let r := ridgeOf s.focus
     let g := s.ridge r
     (s.clear [] [d] [] [] = true →
       ((s.ridge s.myRidge).lease = some l → l.ctx = s.cur →
         exec (.mlease d) s = .next (s.put d (if s.me.wait = .lease then 64 else BitVec.ofNat 64 (0x80 ||| l.left))).done) ∧
       (s.myLease = none → exec (.mlease d) s = .next (s.noteStall .lease))) ∧
     ((s.ridge s.myRidge).lease = some l → l.ctx = s.cur →
       exec .mfree s = .next (s.setRidge s.myRidge { s.ridge s.myRidge with lease := none }).done) ∧
     ((∀ m, (s.ridge s.myRidge).lease = some m → m.ctx ≠ s.cur) → exec .mfree s = .next s.done) ∧
     (g.lease = none → g.flips = [] → weigh g.credit g.contenders g.lastGrant (s.leaseContenders r) = some (i, credit) →
       s.leaseWaiters (r * 8 + i) = c :: more →
       ∃ t, exec .leaseGrant s = .next t ∧ (t.ridge r).lease = some ⟨c, 64, s.time⟩ ∧ (t.ridge r).credit = credit ∧ (t.ridge r).lastGrant = i ∧
         t.mem = s.mem ∧ t.ctxs = s.ctxs) ∧
     (g.lease = some l → l.since + 50000 ≤ s.time → exec .leaseTimeout s = .next (s.setRidge r { g with lease := none }).stepped)) ∧
  (∀ (s t u : State) (a d : GReg) (q : QType) (x : Word) (locs : List Nat),
     (s.clear [a] [] [] [] = true → s.Reads [a] [x] t → q ≠ 0 → q ≠ 4 → q ≠ 5 → x.toNat % 8 = 0 → locate .load x 8 t = .ok (locs, u) →
       u.unshared locs → u.landed locs →
       let w := u.numberAt locs
       let valid := if broadCore (coreOf s.cur) then [(1, 1), (2, 2), (2, 3), (3, 2), (3, 3), (6, 6)] else [(7, 7)]
       (64 ≤ w → exec (.mfmt a q) s = .next (s.trapped { cls := 4, detail := 0 })) ∧
       (w < 64 → (w % 8, w / 8) ∉ valid ∨ w / 8 ≠ q.val → exec (.mfmt a q) s = .next (s.trapped { cls := 4, detail := 3 })) ∧
       (w < 64 → (w % 8, w / 8) ∈ valid → w / 8 = q.val →
         ∃ v, exec (.mfmt a q) s = .next v ∧ v.myCore.ta.val = w % 8 ∧ v.myCore.tb = q ∧ v.myCore.ovf = false ∧ v.mem = s.mem ∧
           s.keepsOthers v s.cur ∧ t.keepsRegisters v [] [] [])) ∧
     (s.clear [a] [d] [] [] = true → s.Reads [a] [x] t → x.toNat < 65536 →
       let job := jobStatus s.myCore.jobs x.toNat
       (32768 ≤ (s.myCore.jobNewest.toNat + 65536 - x.toNat) % 65536 →
         exec (.mwait a) s = .next (s.trapped { cls := 4, detail := 4 }) ∧ exec (.mpoll d a) s = .next (s.trapped { cls := 4, detail := 4 })) ∧
       ((s.myCore.jobNewest.toNat + 65536 - x.toNat) % 65536 < 32768 →
         exec (.mwait a) s = .next (if job.done then t.done else s.noteStall .other) ∧
         exec (.mpoll d a) s = .next (t.put d (if job.done then BitVec.ofNat 64 (1 + job.fault.toNat * 2 + job.ovf.toNat * 4) else 0)).done)))

/-- R177 to R179 and R182 to R184, R192 to R196: a command whose operands pass every check is accepted in one step and gives its job id; the
engine's work is left to its completion.
The model's own choices in it: log 31. -/
def Obligations.MatrixCommands : Prop :=
  ∀ (s t u v w : State) (d a b : GReg) (q : QType) (k : Nat) (ea mod : Word) (desc : MDesc) (list held : List Nat) (ls ss : List (List Nat)),
    let id : Word := (s.myCore.jobNewest + 1).setWidth 64
    let leased := t.myLease.isSome = true
    let fits (t : QType) : Prop := 1 ≤ desc.kn ∧ desc.kn ≤ 114688 ∧ (t ≠ 7 → desc.scales = 0) ∧ (t = 7 → desc.kn % 32 = 0 ∧ desc.k0 % 32 = 0) ∧
      desc.row0 + desc.mm1 + 1 ≤ 512 ∧ desc.col0 + desc.nm1 + 1 ≤ 256 ∧ desc.k0 + desc.kn ≤ sliceCapacity t
    let reads (v : State) : Prop := v.unshared (ls.flatten ++ ss.flatten)
    (s.clear [] [d] [] [] = true → k < 16 → s.myLease.isSome = true →
      ∃ z, s.accepted z false false (.zero k) [] [] ∧ exec (.mzero d k) s = .next (z.put d id).done) ∧
    (s.clear [] [d] [] [] = true → k < 16 → s.myLease = none → exec (.mzero d k) s = .next (s.noteStall .lease)) ∧
    (s.clear [a, b] [d] [] [] = true → s.Reads [a, b] [ea, mod] t → q ≠ 0 → q ≠ 4 → q ≠ 5 → leased → t.myCore.tb = q → loadDesc ea t = .ok (desc, u) → fits q →
      (mod &&& ~~~0x40#64 = 0 → desc.mm1 = 0 → desc.row0 = 0 →
        (desc.list = 0 → rowLocs q desc (List.range (desc.nm1 + 1)) u = .ok ((ls, ss, held), v) → reads v →
          ∃ z, s.accepted z false (mod.getLsbD 6) (.load ls ss q desc.col0 desc.k0) [] held ∧ exec (.mbld d a b q) s = .next (z.put d id).done) ∧
        (loadList desc.list (desc.nm1 + 1) 4 u = .ok (list, v) → rowLocs q desc list v = .ok ((ls, ss, held), w) → reads w →
          ∃ z, s.accepted z false (mod.getLsbD 6) (.load ls ss q desc.col0 desc.k0) [] held ∧ exec (.mbldg d a b q) s = .next (z.put d id).done)) ∧
      (mod &&& ~~~0x7F#64 = 0 →
        let cmd := Cmd.multiply ls ss s.myCore.ta q (field mod 3 0) desc.row0 desc.col0 (desc.nm1 + 1) desc.kn desc.k0 (mod.getLsbD 5) (mod.getLsbD 4)
        (desc.list = 0 → rowLocs s.myCore.ta desc (List.range (desc.mm1 + 1)) u = .ok ((ls, ss, held), v) → reads v →
          ∃ z, s.accepted z false (mod.getLsbD 6) cmd [] held ∧ exec (.mmul d a b q) s = .next (z.put d id).done) ∧
        (loadList desc.list (desc.mm1 + 1) 4 u = .ok (list, v) → rowLocs s.myCore.ta desc list v = .ok ((ls, ss, held), w) → reads w →
          ∃ z, s.accepted z false (mod.getLsbD 6) cmd [] held ∧ exec (.mgath d a b q) s = .next (z.put d id).done))) ∧
    (s.clear [a, b] [d] [] [] = true → s.Reads [a, b] [ea, mod] t → q ≠ 0 → q ≠ 4 → q ≠ 5 → leased → t.myCore.tb ≠ q →
      exec (.mbld d a b q) s = .next (s.trapped { cls := 4, detail := 1 }) ∧ exec (.mbldg d a b q) s = .next (s.trapped { cls := 4, detail := 1 }) ∧
      exec (.mmul d a b q) s = .next (s.trapped { cls := 4, detail := 1 }) ∧ exec (.mgath d a b q) s = .next (s.trapped { cls := 4, detail := 1 })) ∧
    (s.clear [a, b] [d] [] [] = true → s.Reads [a, b] [ea, mod] t → leased → mod &&& ~~~0x27CF#64 = 0 →
      field mod 10 8 ≠ 5 → field mod 10 8 ≠ 7 → loadDesc ea t = .ok (desc, u) → desc.k0 = 0 → desc.scales = 0 → desc.kn = 0 → desc.list = 0 →
      desc.row0 + desc.mm1 + 1 ≤ 512 → desc.col0 + desc.nm1 + 1 ≤ 256 →
      let dt : QType := ⟨field mod 10 8 % 8, Nat.mod_lt _ (by decide)⟩
      destParts ((List.range (desc.mm1 + 1)).map (fun m =>
        (desc.addr + BitVec.ofNat 64 m * desc.stride, (desc.nm1 + 1) * (laneWidth dt / 8)))) u = .ok (ls, v) → v.unshared ls.flatten →
      ∃ z, s.accepted z false (mod.getLsbD 6) (.drain (field mod 3 0)
          ((List.range (desc.mm1 + 1)).flatMap (fun m => (List.range (desc.nm1 + 1)).map (fun n => (desc.row0 + m, desc.col0 + n)))) ls.flatten
          (s.myCore.ta == 6 && s.myCore.tb == 6) dt (mod.getLsbD 7) false (mod.getLsbD 13) s.me.rng) ls.flatten [] ∧
        z.me.rng = (if mod.getLsbD 7 then advanceBy ((desc.mm1 + 1) * (desc.nm1 + 1)) s.me.rng else s.me.rng) ∧
        exec (.mdrain d a b) s = .next (z.put d id).done) ∧
    (s.clear [a, b] [d] [] [] = true → s.Reads [a, b] [ea, mod] t → leased → mod &&& ~~~0x3FCF#64 = 0 → mod.getLsbD 12 = true →
      field mod 10 8 ≠ 5 → field mod 10 8 ≠ 7 → loadDesc ea t = .ok (desc, u) → desc.k0 = 0 → desc.scales = 0 → desc.stride = 0 → desc.mm1 = 0 →
      desc.nm1 = 0 → 1 ≤ desc.kn → desc.kn ≤ 4096 → loadList desc.list desc.kn 2 u = .ok (list, v) →
      let dt : QType := ⟨field mod 10 8 % 8, Nat.mod_lt _ (by decide)⟩
      let elems := list.map (fun e => (desc.row0 + e / 256, desc.col0 + e % 256))
      let cmd (dests : List Nat) (port : Bool) := Cmd.drain (field mod 3 0) elems dests (s.myCore.ta == 6 && s.myCore.tb == 6) dt (mod.getLsbD 7) port
        (mod.getLsbD 13) s.me.rng
      let rng := if mod.getLsbD 7 then advanceBy desc.kn s.me.rng else s.me.rng
      (∀ e, e ∈ elems → e.1 < 512 ∧ e.2 < 256) →
      (mod.getLsbD 11 = false → destParts [(desc.addr, desc.kn * (laneWidth dt / 8))] v = .ok (ls, w) → w.unshared ls.flatten →
        ∃ z, s.accepted z false (mod.getLsbD 6) (cmd ls.flatten false) ls.flatten [] ∧ z.me.rng = rng ∧ exec (.mdrain d a b) s = .next (z.put d id).done) ∧
      (mod.getLsbD 11 = true → desc.kn ≤ 64 → t.me.mres.length + t.me.mresHeld + desc.kn ≤ 64 →
        ∃ z, s.accepted z false (mod.getLsbD 6) (cmd [] true) [] [] ∧ z.me.rng = rng ∧ z.me.mresHeld = t.me.mresHeld + desc.kn ∧
          exec (.mdrain d a b) s = .next (z.put d id).done)) ∧
    (s.clear [a, b] [d] [] [] = true → s.Reads [a, b] [ea, mod] t → mod &&& ~~~0x40#64 = 0 → loadDesc ea t = .ok (desc, u) → desc.stride = 0 →
      desc.mm1 = 0 → desc.nm1 = 0 → desc.row0 = 0 → desc.col0 = 0 → desc.k0 = 0 → desc.scales = 0 → 1 ≤ desc.kn → desc.kn ≤ 65535 →
      sourceLocs [(desc.addr, 4 * desc.kn)] u = .ok ((ss, held), v) → destParts [(desc.list, 64 + 256 * desc.kn)] v = .ok (ls, w) →
      w.unshared (ss.flatten ++ ls.flatten) →
      ∃ z, s.accepted z true (mod.getLsbD 6) (.walk (listOf desc.kn 4 (w.loadAt ss.flatten)) false ls.flatten) ls.flatten [] ∧ exec (.mwalk d a b) s = .next (z.put d id).done)

/-- R107, R108, R173 to R175, R180 and R192 to R197: the oldest command of an array, or of an index engine, completes with its effect on the
tiles, the B store and memory, its status and its DONE word. A load copies each row, and for q4 its scale bytes, to its slice; a multiply adds
to each element of its window the sum of its products, as R107 and R108 round it, and leaves the others or zeroes them; a drain converts its
elements in order, by chance or to nearest even, stores them or pushes them into MRES, and zeroes them where asked; a walk cuts its
coordinates into the longest runs that R196 allows and writes a record for each.
The model's own choices in it: log 31. -/
def Obligations.MatrixCompletion : Prop :=
  ∀ (s : State) (j : Job) (rest : List Job),
    let r := ridgeOf s.focus
    let x := s.ctx j.ctx
    let bad (ls : List Nat) : Bool := ls.any (fun l => s.poison.contains (lineOf l))
    let finished (t : State) (fault : Bool) : Prop :=
      (jobStatus (t.core (coreOf j.ctx)).jobs j.id).done = true ∧ (jobStatus (t.core (coreOf j.ctx)).jobs j.id).fault = fault ∧ s.keepsOthers t j.ctx ∧
      (t.ctx j.ctx).done = x.done ++ (if j.notify then [BitVec.ofNat 64 (j.id + 2 ^ 16)] else [])
    let space := x.doneHeld = [] ∧ x.done.length < 16 ∧ jobStatus (s.core (coreOf j.ctx)).jobs j.id = ⟨j.id, false, false, false⟩ ∧ j.id < 65536 ∧ x.source = j.source
    let outside (ls : List Nat) : Prop := ∀ l, l ∈ ls → s.marksOf (lineOf l) = ⟨[], []⟩ ∧ ¬(ridgeLoc r 0 ≤ l ∧ l < ridgeLoc r (2 ^ 25))
    (∀ tile, (s.ridge r).jobs = j :: rest → j.cmd = .zero tile → space →
      ∃ t, exec .matrixJobComplete s = .next t ∧ (t.ridge r).jobs = rest ∧ finished t false ∧
        (∀ i c, i < 512 → c < 256 → t.load (tileLoc r tile i c) 4 = 0) ∧
        (∀ l, (l < tileLoc r tile 0 0 ∨ tileLoc r tile 0 0 + 2 ^ 19 ≤ l) → t.mem.read l = s.mem.read l)) ∧
    (∀ rows scales t8 col0 k0 k, (s.ridge r).jobs = j :: rest → j.cmd = .load rows scales t8 col0 k0 → space → outside (rows ++ scales).flatten →
      k0 + k ≤ sliceCapacity t8 → (t8 = 7 → k % 32 = 0 ∧ k0 % 32 = 0) → col0 + rows.length ≤ 256 → (∀ row, row ∈ rows → row.length = elemRun t8 k) →
      scales.length = (if t8 = 7 then rows.length else 0) → (∀ row, row ∈ scales → row.length = k / 32) →
      ∃ t, exec .matrixJobComplete s = .next t ∧ (t.ridge r).jobs = rest ∧ finished t (bad (rows ++ scales).flatten) ∧
        (∀ n, n < rows.length → t.loadAt (sliceLocs r (col0 + n) t8 k0 k) = s.loadAt (rows.getD n []) ∧
          t.loadAt (sliceScales r (col0 + n) t8 k0 k) = s.loadAt (scales.getD n [])) ∧
        s.keepsMemory t ((List.range rows.length).flatMap (fun n => sliceLocs r (col0 + n) t8 k0 k ++ sliceScales r (col0 + n) t8 k0 k))) ∧
    (∀ rows scales ta tb tile row0 col0 n k k0 fresh clear, (s.ridge r).jobs = j :: rest →
      j.cmd = .multiply rows scales ta tb tile row0 col0 n k k0 fresh clear → space → tile < 16 → row0 + rows.length ≤ 512 → col0 + n ≤ 256 → s.poison = [] →
      outside (rows ++ scales).flatten → k0 + k ≤ sliceCapacity tb → (tb = 7 → k % 32 = 0 ∧ k0 % 32 = 0) →
      ∃ t, exec .matrixJobComplete s = .next t ∧ (t.ridge r).jobs = rest ∧ finished t false ∧
        (∀ m c, m < rows.length → c < n →
          let old := if fresh then 0 else s.load (tileLoc r tile (row0 + m) (col0 + c)) 4
          let row := rows.getD m []
          let col := sliceLocs r (col0 + c) tb k0 k
          let ints (ls : List Nat) : List Int := ls.map (fun l => (s.mem.read l).toInt)
          t.load (tileLoc r tile (row0 + m) (col0 + c)) 4 =
            if ta = 6 then (accumulateS32 old (ints row) (ints col)).1
            else accumulateF32 old (s.values ta k row (scales.getD m [])) (s.values tb k col (sliceScales r (col0 + c) tb k0 k))) ∧
        (∀ i c, i < 512 → c < 256 → ¬(row0 ≤ i ∧ i < row0 + rows.length ∧ col0 ≤ c ∧ c < col0 + n) →
          t.load (tileLoc r tile i c) 4 = if clear then 0 else s.load (tileLoc r tile i c) 4)) ∧
    (∀ tile elems dests s32 dt sr port clear rng, (s.ridge r).jobs = j :: rest → j.cmd = .drain tile elems dests s32 dt sr port clear rng → space →
      (clear = true → elems.Nodup ∧ ∀ e, e ∈ elems → e.2 < 256) →
      let out (i : Nat) (e : Nat × Nat) : Nat := (elemOf dt).ofVal (if sr then .sr (rngDraw (rngNext^[i + 1] rng)) else .rne)
        (if s32 then Val.ofInt (BitVec.ofNat 32 (s.load (tileLoc r tile e.1 e.2) 4)).toInt else Fmt.f32.decode (s.load (tileLoc r tile e.1 e.2) 4))
      let outs := (elems.zip (List.range elems.length)).map (fun p => out p.2 p.1)
      let cleared := if clear then elems.foldl (fun m e => m.writes (tileLoc r tile e.1 e.2) (leBytes 4 0)) s.mem else s.mem
      ∃ t, exec .matrixJobComplete s = .next t ∧ (t.ridge r).jobs = rest ∧ finished t (bad (elems.map (fun e => tileLoc r tile e.1 e.2))) ∧
        (port = false → t.mem = (dests.zip (outs.flatMap (leBytes (laneWidth dt / 8)))).foldl (fun m p => m.write p.1 p.2) cleared) ∧
        (port = true → t.mem = cleared ∧ (t.ctx j.ctx).mres = x.mres ++ outs.map (BitVec.ofNat 64))) ∧
    (∀ coords fault dests, (s.ridge r).walks = j :: rest → j.cmd = .walk coords fault dests → space →
      coords ≠ [] → (∀ e, e ∈ coords → e < 2 ^ 32) → coords.length < 65536 → dests.length = 64 + 256 * coords.length → dests.Nodup →
      ∃ (t : State) (runs : List (List Nat)), exec .indexWalkComplete s = .next t ∧ (t.ridge r).walks = rest ∧ finished t fault ∧
        let rowsOf (run : List Nat) := ((run.map (· / 2 ^ 16)).reverse.dedup).reverse
        let colsOf (run : List Nat) := ((run.map (· % 2 ^ 16)).reverse.dedup).reverse
        let fits (run : List Nat) : Prop := (rowsOf run).length ≤ 32 ∧ (colsOf run).length ≤ 32 ∧ run.length ≤ 56
        let at_ (o n : Nat) : Nat := t.numberAt ((dests.drop o).take n)
        runs.flatten = coords ∧ (∀ run, run ∈ runs → run ≠ [] ∧ fits run) ∧
        (∀ (i : Nat) (run next : List Nat), runs[i]? = some run → runs[i + 1]? = some next → ¬fits (run ++ next.take 1)) ∧
        at_ 0 8 = runs.length ∧ at_ 8 56 = 0 ∧
        (∀ i run, runs[i]? = some run →
          let o := 64 + 256 * i
          at_ o 8 = run.length * 2 ^ 16 + (colsOf run).length * 2 ^ 8 + (rowsOf run).length ∧ at_ (o + 8) 8 = ((runs.take i).map List.length).sum ∧
          (∀ n, n < 32 → at_ (o + 16 + 2 * n) 2 = (rowsOf run).getD n 0 ∧ at_ (o + 80 + 2 * n) 2 = (colsOf run).getD n 0) ∧
          (∀ n, n < 56 → at_ (o + 144 + 2 * n) 2 = match run[n]? with
            | some e => (rowsOf run).idxOf (e / 2 ^ 16) * 2 ^ 8 + (colsOf run).idxOf (e % 2 ^ 16)
            | none => 0)) ∧
        s.keepsMemory t (dests.take (64 + 256 * runs.length)))
/-! ### Control registers -/

/-- R23, R152, R373 to R378, R387 and R437: kget completes for every control register with its value, and with zero for an unassigned number
(k23, which launches a copy, is in CopyEngine); a number of 512 or above needs supervisor mode, and one above 1,023 raises trap(0, 9); skget
outside supervisor mode raises trap(0, 6), is a kget where k.SSEL does not redirect it, and else reads the staged context of the slot that
k.SSEL names.
The model's own choices in it: logs 19, 33, 35 and 52 (log 33: a redirected skget in single mode raises trap(7, 3)). -/
def Obligations.ControlRegisterReads : Prop :=
  ∀ (s : State) (d : GReg) (n : Nat) (w : Word) (c : CtxId), s.clear [] [d] [] [] = true →
    let k := s.myCore
    let r := s.ridge s.myRidge
    let team := match s.myBank.team with | some t => (s.team t).id | none => 0
    let bias := if r.hold.isSome then 3 else if r.leaseLeft ≠ 0 then 2 else if r.trim ≠ 0 then 1 else 0
    let assigned : List Nat := [0, 1, 2, 3, 4, 5, 8, 9, 10, 11, 16, 17, 18, 19, 20, 21, 22, 23, 24, 25, 32, 33, 34, 35, 40, 41, 48, 49, 50]
    let user : List (Nat × Word) :=
      [(0, BitVec.ofNat 64 s.time), (1, BitVec.ofNat 64 s.cyc), (2, BitVec.ofNat 64 ((s.pod * 1024 + s.accel) * 2 ^ 16 + placeOf (coreOf s.cur))),
       (4, if 1024 ≤ coreOf s.cur then 0x4073 else if 24 ≤ coreOf s.cur / 8 % 32 then 0x1E43FF else 0x143FF),
       (8, s.me.utvec), (9, s.me.uepc), (10, s.me.ucause), (11, s.me.uinfo), (24, s.me.xfer), (25, s.me.rng), (32, s.me.trailTop),
       (33, s.me.choice), (34, s.me.trailBase), (35, s.me.trailLim), (40, BitVec.ofNat 64 (s.melt / 2 ^ 32)), (41, BitVec.ofNat 64 r.leaseLeft),
       (3, BitVec.ofNat 64 (team * 2 ^ 16 + k.active * 8 + ctxNum s.cur)), (5, BitVec.ofNat 64 (k.cc * 256 + k.staged.toNat * 128 + k.tc)),
       (48, s.me.unack), (49, s.me.rfail), (50, BitVec.ofNat 64 (min (k.horizonFor s.myTeam) (s.horizonOf s.myTeam)))] ++
      (List.range 7).map (fun i => (16 + i, (s.me.cp[i]?).getD 0)) ++ (List.range 64).map (fun i => (64 + i, (s.me.strc[i]?).getD 0))
    let system : List (Nat × Word) :=
      [(512, if 1024 ≤ coreOf s.cur then s.me.status ||| 1 else s.me.status), (513, s.me.sepc), (514, s.me.scause), (515, BitVec.ofNat 64 s.me.part),
       (516, k.svec), (517, k.fvec), (518, k.ssel), (519, BitVec.ofNat 64 (k.staged.toNat * 2 ^ 31 + k.valid.toNat * 2 ^ 16 + k.busy.toNat)),
       (521, k.swapt), (522, s.me.yreq), (523, s.me.rcba), (524, BitVec.ofNat 64 (s.part s.me.part).ptroot), (525, s.regbase), (526, s.regsize),
       (527, s.ptab), (528, s.pload), (529, s.heart), (530, s.me.incarn), (531, BitVec.ofNat 64 k.staged.toNat), (532, r.rsout), (533, r.rsin), (535, r.temp), (536, BitVec.ofNat 64 s.pwr),
       (520, (k.gens.get (fun _ => 0) s.me.part).setWidth 64), (534, BitVec.ofNat 64 (r.trim * 256 + bias))]
    let privileged := decide (1024 ≤ coreOf s.cur) || s.me.status.getLsbD 0
    ((n, w) ∈ user → exec (.kget d n) s = .next (s.put d w).done) ∧
    (n < 512 → n ∉ assigned → ¬(64 ≤ n ∧ n < 128) → exec (.kget d n) s = .next (s.put d 0).done) ∧
    ((n, w) ∈ system → privileged = true → exec (.kget d n) s = .next (s.put d w).done) ∧
    (537 ≤ n → n < 1024 → privileged = true → exec (.kget d n) s = .next (s.put d 0).done) ∧
    (512 ≤ n → n < 1024 → privileged = false → exec (.kget d n) s = .next (s.trapped (s.me.withDetail { cls := 0, detail := 6 }))) ∧
    (1024 ≤ n → exec (.kget d n) s = .next (s.trapped (s.me.withDetail { cls := 0, detail := 9 }))) ∧
    (privileged = false → exec (.skget d n) s = .next (s.trapped (s.me.withDetail { cls := 0, detail := 6 }))) ∧
    ((n, w) ∈ user ++ system → privileged = true → k.ssel.getLsbD 4 = false → exec (.skget d n) s = .next (s.put d w).done) ∧
    (privileged = true → k.ssel.getLsbD 4 = true → ((n, w) ∈ user ∧ n ∈ [0, 1, 2, 4, 5, 40, 41]) ∨ ((n, w) ∈ system ∧ 516 ≤ n ∧ n ∉ [522, 523, 530]) →
      exec (.skget d n) s = .next (s.put d w).done) ∧
    (privileged = true → k.ssel.getLsbD 4 = true → n ∈ [8, 9, 10, 11, 24, 25, 32, 33, 34, 35, 48, 49, 513, 514, 515, 522, 523, 530] →
      let slot := field k.ssel 2 0
      (k.staged = false ∨ k.valid.getLsbD slot = false → exec (.skget d n) s = .next (s.trapped (s.me.withDetail { cls := 7, detail := 3 }))) ∧
      (k.staged = true → k.valid.getLsbD slot = true → k.busy.getLsbD slot = true → exec (.skget d n) s = .next (s.noteStall .other)) ∧
      (k.staged = true → k.valid.getLsbD slot = true → k.busy.getLsbD slot = false → c = ctxIn (s.shadowBank (coreOf s.cur)) slot →
        exec (.skget d n) s = .next (s.put d ((s.slotCtx c).kImage n)).done))

/-- R23, R239, R305, R375 to R378, R387 and R437: what a kput changes, and nothing else: each user register it may write, with its register
entry first while the context logs; STATUS's debug and umask only; the system registers in supervisor mode; and the cause of every number
that it may not write. skput is a kput where k.SSEL does not redirect it, and otherwise writes the staged context that it names.
The model's own choices in it: logs 33 and 34. -/
def Obligations.ControlRegisterWrites : Prop :=
  ∀ (s t : State) (d : GReg) (n : Nat) (w : Word), s.clear [d] [] [] [] = true → s.Reads [d] [w] t →
    let x := t.me
    let k := t.myCore
    let privileged := decide (1024 ≤ coreOf s.cur) || s.me.status.getLsbD 0
    let service := decide (1024 ≤ coreOf s.cur)
    let user : List (Nat × Ctx) :=
      [(8, { x with utvec := w }), (9, { x with uepc := w }), (10, { x with ucause := w }), (11, { x with uinfo := w }), (25, { x with rng := w }),
       (49, { x with rfail := w }), (23, x), (16, { x with cp := x.cp.set 0 w }), (17, { x with cp := x.cp.set 1 w }),
       (18, { x with cp := x.cp.set 2 (w &&& 0x1FFFF) }), (19, { x with cp := x.cp.set 3 (w &&& 0x1FFFFFF) }), (20, { x with cp := x.cp.set 4 w }),
       (21, { x with cp := x.cp.set 5 w }), (22, { x with cp := x.cp.set 6 (w &&& 0xFF03) })] ++
      (List.finRange 64).map (fun i => (64 + i.val, { x with strc := x.strc.set i w }))
    let system : List (Nat × State) :=
      [(512, t.setMe { x with status := (x.status &&& ~~~12#64) ||| (w &&& 12#64) }), (513, t.setMe { x with sepc := w }),
       (514, t.setMe { x with scause := w &&& (if w.getLsbD 63 then 0x80000000000001FF else 0x3FF) }), (523, t.setMe { x with rcba := w }),
       (516, t.setCore (coreOf t.cur) { k with svec := w }), (518, t.setCore (coreOf t.cur) { k with ssel := w &&& 0x17 }),
       (521, t.setCore (coreOf t.cur) { k with swapt := w }), (522, t.requestYield t.cur w),
       (532, t.setRidge t.myRidge { t.ridge t.myRidge with rsout := w }), (533, t.setRidge t.myRidge { t.ridge t.myRidge with rsin := w })]
    let package : List (Nat × State) :=
      [(517, t.setCore (coreOf t.cur) { k with fvec := w }), (525, { t with regbase := w }), (526, { t with regsize := w }), (527, { t with ptab := w }),
       (529, t.beat w)]
    let assigned : List Nat := [0, 1, 2, 3, 4, 5, 8, 9, 10, 11, 16, 17, 18, 19, 20, 21, 22, 23, 24, 25, 32, 33, 34, 35, 40, 41, 48, 49, 50]
    let raises (i : Instr) (c dt : Nat) : Prop := exec i s = .next (s.trapped (s.me.withDetail { cls := c, detail := dt }))
    (s.me.logging = false → ∀ y, (n, y) ∈ user → exec (.kput d n) s = .next (t.setMe y).done ∧
      (privileged = true → s.myCore.ssel.getLsbD 4 = false → exec (.skput d n) s = .next (t.setMe y).done)) ∧
    (s.me.logging = true → n ≠ 23 → s.me.trailTop.toNat + 16 ≤ s.me.trailLim.toNat → ∀ y, (n, y) ∈ user →
      let item := s.myLoc s.me.trailTop.toNat
      ∃ v, exec (.kput d n) s = .next v ∧ v.me.kImage n = y.kImage n ∧ v.me.trailTop = s.me.trailTop + 16 ∧
        v.word item = BitVec.ofNat 64 (n * 8 + 1) ∧ v.word (item + 8) = s.me.kImage n ∧ s.keepsMemory v (run item 16) ∧
        t.keepsRegisters v [] [] [n, 32]) ∧
    (s.me.logging = true → n ≠ 23 → s.me.trailLim.toNat < s.me.trailTop.toNat + 16 → s.me.speculates = false → ∀ y, (n, y) ∈ user →
      exec (.kput d n) s = .next (s.trapped { cls := 5, detail := 2, info := BitVec.ofNat 64 n })) ∧
    (privileged = true → ∀ u, (n, u) ∈ system → exec (.kput d n) s = .next u.done ∧
      (s.myCore.ssel.getLsbD 4 = false → exec (.skput d n) s = .next u.done)) ∧
    (service = true → ∀ u, (n, u) ∈ package → exec (.kput d n) s = .next u.done) ∧
    (service = true → ∀ u, ploadOp w t = .ok ((), u) → exec (.kput d 528) s = .next u.done) ∧
    (privileged = true → ∀ u, stagectlOp w t = .ok ((), u) → exec (.kput d 531) s = .next u.done) ∧
    (n ∈ [0, 1, 2, 3, 4, 5, 24, 32, 33, 34, 35, 40, 41, 48, 50] → raises (.kput d n) 0 15) ∧
    (n < 512 → n ∉ assigned → ¬(64 ≤ n ∧ n < 128) → raises (.kput d n) 0 14) ∧
    (512 ≤ n → n < 1024 → privileged = false → raises (.kput d n) 0 6) ∧
    (privileged = false → raises (.skput d n) 0 6) ∧
    (1024 ≤ n → raises (.kput d n) 0 9) ∧
    (privileged = true → n ∈ [515, 519, 520, 524, 530, 534, 535, 536] → raises (.kput d n) 7 1) ∧
    (privileged = true → service = false → 525 ≤ n → n ≤ 529 → raises (.kput d n) 7 1) ∧
    (privileged = true → 537 ≤ n → n < 1024 → raises (.kput d n) 7 0) ∧
    (∀ c : CtxId, privileged = true → s.myCore.ssel.getLsbD 4 = true → n = 513 →
      (s.myCore.staged = false ∨ s.myCore.valid.getLsbD (field s.myCore.ssel 2 0) = false → raises (.skput d n) 7 3) ∧
      (s.myCore.staged = true → s.myCore.valid.getLsbD (field s.myCore.ssel 2 0) = true → s.myCore.busy.getLsbD (field s.myCore.ssel 2 0) = false →
        c = s.shadowBank (coreOf s.cur) * 8 + field s.myCore.ssel 2 0 → (s.saved.map Prod.fst).contains (s.ctx c).record = false →
        exec (.skput d n) s = .next (t.setCtx c { t.ctx c with sepc := w }).done))

/-- R379, R380, R433, R438, R446 and R468: the package's writes as steps. A PLOAD of a descriptor that is not refused loads its fields for the
partition, and ends a partition whose valid bit it clears; a refused one, and a number of 8 or more, raises trap(7, 4); a
write of HEART restarts the watchdog where it beats or gives a period; STAGECTL changes the staged mode of a core without banks; a yield
request sets the deadline and puts the notice into S7 where the team has a handler 255.
The model's own choices in it: logs 36 and 95 (log 95: the cause for a number of 8 or more). -/
def Obligations.PackageWrites : Prop :=
  ∀ (s : State) (n w : Word),
    (n.toNat < 8 → s.descriptorRefused n.toNat (s.descriptor n.toNat) = false →
      let d := s.ptab.toNat + 128 * n.toNat
      ∃ t p, exec (.ploadWrite n) s = .next t ∧ t.pload = n ∧ p = t.part n.toNat ∧ p.hbase = s.load d 8 ∧ p.hsize = s.load (d + 8) 8 ∧
        p.ptroot = s.load (d + 16) 8 ∧ p.valid = (s.load (d + 32) 8).testBit 16 ∧ p.fepoch = s.load (d + 32) 8 / 2 ^ 24 % 256 ∧
        p.ridges = s.load (d + 40) 16 ∧ p.rqto = s.load (d + 60) 4 ∧ p.rgto = s.load (d + 56) 4 ∧ p.rootrcb = s.load (d + 64) 8 ∧
        p.slices.length = s.load (d + 32) 8 % 1024 ∧ (∀ m, m ≠ n.toNat → t.part m = s.part m) ∧
        ((s.part n.toNat).valid = false ∨ p.valid = true → t.mem = s.mem ∧ t.ctxs = s.ctxs ∧ t.teams = s.teams) ∧
        ((s.part n.toNat).valid = true → p.valid = false →
          (∀ k, (s.team k).part = n.toNat → (t.team k).state = .none ∨ (t.team k).state = .ended) ∧
          (∀ b k, (s.bank b).team = some k → (s.team k).part = n.toNat → (t.bank b).team = none) ∧
          (∀ e, e ∈ t.dies → ∀ g, g ∈ e.2.queue ++ e.2.grids → g.part ≠ n.toNat))) ∧
    (8 ≤ n.toNat ∨ s.descriptorRefused n.toNat (s.descriptor n.toNat) = true →
      exec (.ploadWrite n) s = .next (s.takeTrap s.cur { cls := 7, detail := 4 }).stepped) ∧
    (∃ t, exec (.heartWrite w) s = .next t ∧ t.heart = w ∧
      t.heartAt = (if field w 31 0 ≠ field s.heart 31 0 ∨ field w 63 32 ≠ 0 then s.time else s.heartAt) ∧
      t.crashed = (s.crashed && field w 63 32 == 0) ∧ t.mem = s.mem ∧ t.ctxs = s.ctxs) ∧
    (let c := coreOf s.cur
     (s.bank (c * 2)).team = none → (s.bank (c * 2 + 1)).team = none → s.myCore.valid = 0 → s.myCore.busy = 0 →
      exec (.stagectlWrite w) s = .next (s.setCore c { s.myCore with staged := w.getLsbD 0 }).stepped) ∧
    ((s.bank (coreOf s.cur * 2)).team.isSome = true → exec (.stagectlWrite w) s = .next (s.takeTrap s.cur { cls := 6, detail := 17 }).stepped) ∧
    (∃ t, exec (.yieldRequest w) s = .next t ∧ t.me.yreq = w ∧ t.mem = s.mem ∧
      (∀ team, s.myBank.team = some team → (s.team team).handlers.get (fun _ => 0) 255 ≠ 0 → w ≠ BitVec.allOnes 64 → s.myBank.exited = false →
        t.myBank.s7 = s.myBank.s7 ++ [⟨some 255, 4, [w]⟩]) ∧
      (w = BitVec.allOnes 64 → t.myBank.s7 = s.myBank.s7))

/-! ### Messages, tasks and the percolator -/

/-- R41, R42, R251: msend sends the pushed words as one message of eight words: the header, six payload words padded with zeros, and the
reply token; a bad destination or header raises trap(4, 9), and a full outbox stalls it, as does a place of the buffer that a pending result has reserved.
The model's own choices in it: logs 18 and 74. -/
def Obligations.MessageSend : Prop :=
  ∀ (s t : State) (a b : GReg) (dst h : Word), s.clear [a, b] [] [] [] = true → s.Reads [a, b] [dst, h] t →
    let gid := field dst 36 16
    let place := field dst 9 0
    let own := s.pod * 1024 + s.accel
    let bad := field dst 63 37 ≠ 0 ∨ field dst 15 10 ≠ 0 ∨ 65536 ≤ h.toNat ∨ (gid = own ∧ s.inPart s.me.part place = false) ∨
      (gid ≠ own ∧ gid ∉ s.podMap.map Prod.fst)
    (bad → exec (.msend a b) s = .next (s.trapped { cls := 4, detail := 9 })) ∧
    (¬bad → s.myBank.outbox.length = 4 ∨ (∃ n, .held n ∈ s.me.asm) → exec (.msend a b) s = .next (s.noteStall .other)) ∧
    (∀ ws : List Word, ¬bad → s.myBank.outbox.length < 4 → s.me.asm = ws.map .word → s.me.task = none → s.me.choice = 0 →
      ∃ u m head, exec (.msend a b) s = .next u ∧ u.myBank.outbox = s.myBank.outbox ++ [m] ∧ u.me.asm = [] ∧
        m.words = head :: (List.range 6).map (fun i => ws.getD i 0) ++ [ws.getD 6 0] ∧
        (own < 2 ^ 21 → coreOf s.cur < 1032 → field head 63 56 = field h 15 8 ∧ field head 55 48 = min ws.length 6 ∧ field head 46 26 = own ∧
          field head 25 16 = placeOf (coreOf s.cur) ∧ field head 7 0 = field h 7 0) ∧
        m.dest = (if gid = own then .core place else .package gid) ∧ m.team = s.myTeam ∧ m.part = s.me.part ∧ m.src = some s.cur ∧
        (u.myCore.count s.me.part).sent = (s.myCore.count s.me.part).sent + 1 ∧
        u.mem = s.mem ∧ s.keepsOthers u s.cur ∧ t.keepsRegisters u [] [] [])

/-- R40, R43, R44, R47, R252 and R253: hset notes its entry for every member; spawn pushes the packet at the head of the core's deque, and
past 64 entries the oldest spills; a malformed packet raises trap(4, 22), a closed deque trap(4, 21), and full ones stall it.
The model's own choices in it: logs 7 and 18. -/
def Obligations.HandlersAndSpawns : Prop :=
  ∀ (s t u : State) (a : GReg) (n team : Nat) (x : Word) (p : List Byte), s.clear [a] [] [] [] = true → s.Reads [a] [x] t →
    (256 ≤ n → exec (.hset a n) s = .next (s.trapped (s.me.withDetail { cls := 0, detail := 9 }))) ∧
    (n < 256 → s.myBank.team = some team → (s.banksOf team).Nodup →
      ∃ v, exec (.hset a n) s = .next v ∧ (v.team team).handlers.get (fun _ => 0) n = x &&& ~~~1#64 ∧
        (∀ b, b ∈ s.banksOf team → (v.bank b).hsets = (s.bank b).hsets ++ [(n, x &&& ~~~1#64)]) ∧
        v.mem = s.mem ∧ s.keepsOthers v s.cur ∧ t.keepsRegisters v [] [] []) ∧
    (x.toNat % 16 ≠ 0 → exec (.spawn a) s = .next (s.trapped { cls := 2, detail := 6, addr := x })) ∧
    (∀ header, x.toNat % 16 = 0 → keepPins (loadWord .load x) t = .ok (header, u) → packetBad header.toNat = true →
      exec (.spawn a) s = .next (s.trapped { cls := 4, detail := 22 })) ∧
    (loadPacket x t = .ok (p, u) → s.myBank.closed = true → exec (.spawn a) s = .next (s.trapped { cls := 4, detail := 21 })) ∧
    (loadPacket x t = .ok (p, u) → s.myBank.closed = false → s.orphaned (bankOf s.cur) = false →
      let b := bankOf s.cur
      let cap := (s.team s.myTeam).spillSize / 256
      (64 ≤ s.myBank.deque.length → cap ≤ s.myBank.spillCount → exec (.spawn a) s = .next (s.noteStall .other)) ∧
      (s.me.task = none → s.me.choice = 0 → s.myBank.exited = false → s.myBank.deque.length < 64 →
        ∃ v, exec (.spawn a) s = .next v ∧ v.myBank.deque = p :: s.myBank.deque ∧ v.myBank.spillCount = s.myBank.spillCount ∧ v.mem = s.mem ∧
          t.keepsRegisters v [] [] [] ∧ ∀ c, c ≠ s.cur → c ≠ ctxIn b 0 → v.ctx c = s.ctx c) ∧
      (s.me.task = none → s.me.choice = 0 → s.myBank.exited = false → 64 ≤ s.myBank.deque.length → s.myBank.spillCount < cap →
        u.openTo none (run (u.spillLoc b (s.myBank.spillHead + s.myBank.spillCount)) 256) = true →
        ∀ old, s.myBank.deque.getLast? = some old → ∃ v, exec (.spawn a) s = .next v ∧ v.myBank.deque = p :: s.myBank.deque.dropLast ∧ v.myBank.spillCount = s.myBank.spillCount + 1 ∧
          v.mem = s.mem.writes (s.spillLoc b (s.myBank.spillHead + s.myBank.spillCount)) (old ++ List.replicate (256 - old.length) 0)))

/-- R48 to R51, R254 and R255: arming and decrementing codelets and joins as indivisible steps at the record's owner: a codelet whose count
reaches zero goes onto its owner's ready ring, and jwait waits for a join's count, gives its status word and orders later accesses as an
acquire does.
The model's own choices in it: log 27. -/
def Obligations.CodeletsAndJoins : Prop :=
  ∀ (s t : State) (d a b : GReg) (h n : Word) (v : Served) (loc : Nat),
    let join := h.getLsbD 0
    let settled := s.quiet = true ∧ lineOf loc ∉ s.claims
    (s.clear [a, b] [] [] [] = true → s.Reads [a, b] [h, n] t →
      (2 ^ 32 ≤ n.toNat → exec (.cdarm a b) s = .next (s.trapped (s.me.withDetail { cls := 0, detail := 9 })) ∧
        exec (.cddec a b) s = .next (s.trapped (s.me.withDetail { cls := 0, detail := 9 }))) ∧
      (n.toNat < 2 ^ 32 → t.recordOf s.me.part h = none → exec (.cdarm a b) s = .next (s.trapped { cls := 4, detail := 8, addr := h }) ∧
        exec (.cddec a b) s = .next (s.trapped { cls := 4, detail := 8, addr := h })) ∧
      (n.toNat < 2 ^ 32 → ∀ c, t.recordOf s.me.part h = some (c, v, loc) → c = coreOf s.cur ∨ (s.me.task = none ∧ s.me.choice = 0) → settled → t.claims = s.claims → n ≠ 0 →
        (∃ u, exec (.cdarm a b) s = .next u ∧ t.keepsRegisters u [] [] [] ∧
          (join = true → u.load loc 4 = n.toNat ∧ u.load (loc + 8) 8 = 0 ∧ u.load (loc + 16) 8 = (s.contextWord s.cur).toNat ∧
            s.keepsMemory u ((List.range 24).map (loc + ·))) ∧
          (join = false → u.load (loc + 8) 4 = n.toNat ∧ u.load (loc + 24) 8 = 0 ∧ s.keepsMemory u ((List.range 24).map (loc + 8 + ·)))) ∧
        (∃ u, exec (.cddec a b) s = .next u ∧
          let at_ := if join then loc else loc + 8
          let count := s.load at_ 4
          (count ≠ 0 → n.toNat < count → u.load at_ 4 = count - n.toNat ∧ u.banks = t.banks) ∧
          (count ≠ 0 → n.toNat = count → join = false → v.image = 0 → (t.bank v.bank).open = true → (t.bank v.bank).readyHeld = [] →
            (t.bank v.bank).ready.length < 256 → u.load at_ 4 = 0 ∧ (u.bank v.bank).ready = (t.bank v.bank).ready ++ [h]) ∧
          (count = 0 → u.load at_ 4 = 0)))) ∧
    (s.clear [a] [d] [] [] = true → s.Reads [a] [h] t →
      (join = false → exec (.jwait d a) s = .next (s.trapped { cls := 4, detail := 8, addr := h })) ∧
      (∀ c, join = true → t.recordOf s.me.part h = some (c, v, loc) → t.claims = s.claims → lineOf loc ∉ s.claims → t.landed (run loc 16) →
        (s.load loc 4 ≠ 0 → exec (.jwait d a) s = .next (s.noteStall .other)) ∧
        (s.load loc 4 = 0 → s.poison = [] → exec (.jwait d a) s = .next ((t.setMe t.me.acquire).put d (s.word (loc + 8))).done)))

/-- R16, R32 and R37 to R40: the percolator serves the next source after the one last served, its oldest event first: it starts the lowest
free handler context at the table's address with the event's four words, hands a message to a context that waits for one, lets a wake-up end
context 0's wait, applies a noted table entry, and discards an event that finds no handler; with no free handler a message or a wake-up that
needs none is served, and anything else waits.
The model's own choices in it: logs 28 and 79. -/
def Obligations.HandlerStart : Prop :=
  ∀ (s : State) (e : Start) (x' : Bank) (c : CtxId) (m : List Word) (rest : List (List Word)) (n : Nat) (code : Word) (more : List (Nat × Word)),
    let b := s.activeBank s.focus
    let x := s.bank b
    let order := (List.range 8).map (fun i => (x.lastSrc + 1 + i) % 8)
    (x.hsets = (n, code) :: more → exec .handlerTableApply s = .next (s.setBank b { x with hsets := more, handlers := x.handlers.put n code }).stepped) ∧
    (s.percolates b = true → order.findSome? (s.nextEvent b) = some (e, x') →
      (e.src = 0 → s.messageWaiter b = some c → x.inbox = m :: rest →
        ∃ t, exec .handlerStart s = .next t ∧ (t.bank b).inbox = rest ∧ (t.ctx c).msg = m ∧ (t.ctx c).wait = .none ∧ (t.bank b).lastSrc = 0 ∧
          t.mem = s.mem ∧ s.keepsOthers t c) ∧
      (e.src ≠ 0 → e.wakes = true → (s.ctx (ctxIn b 0)).run ≠ .waiting →
        exec .handlerStart s = .next (s.setBank b { x' with lastSrc := 7, wake := true }).stepped) ∧
      (e.src ≠ 0 → e.wakes = true → (s.ctx (ctxIn b 0)).run = .waiting → ∃ t, exec .handlerStart s = .next t ∧ (t.bank b).lastSrc = 7 ∧ (t.ctx (ctxIn b 0)).run = .running ∧
        (t.ctx (ctxIn b 0)).pc = (s.ctx (ctxIn b 0)).npc ∧ t.mem = s.mem ∧ s.keepsOthers t (ctxIn b 0)) ∧
      (e.src ≠ 0 ∨ s.messageWaiter b = none → e.wakes = false → s.freeHandler b = none →
        (∀ w m', s.messageWaiter b = some w → x.inbox = m' :: rest →
          ∃ t, exec .handlerStart s = .next t ∧ (t.bank b).inbox = rest ∧ (t.ctx w).msg = m' ∧ (t.bank b).lastSrc = 0 ∧ t.mem = s.mem ∧ s.keepsOthers t w) ∧
        (∀ w y, s.messageWaiter b = none → s.nextEvent b 7 = some (w, y) → w.wakes = true → (s.ctx (ctxIn b 0)).run = .waiting →
          ∃ t, exec .handlerStart s = .next t ∧ (t.bank b).lastSrc = 7 ∧ (t.bank b).s7 = y.s7 ∧ (t.ctx (ctxIn b 0)).run = .running ∧ t.mem = s.mem) ∧
        (s.messageWaiter b = none → (∀ w y, s.nextEvent b 7 = some (w, y) → w.wakes = false) → exec .handlerStart s = .next s)) ∧
      (e.src ≠ 0 ∨ s.messageWaiter b = none → e.wakes = false → s.freeHandler b = some c → s.startFree c e = false → exec .handlerStart s = .next s) ∧
      (e.src ≠ 0 ∨ s.messageWaiter b = none → e.wakes = false → s.freeHandler b = some c → s.startFree c e = true → s.orphanPop b e.src = false →
        let words := if e.slot then
            BitVec.ofNat 64 (0x01FF000000000000 + s.relCore (s.ctx c).part (coreOf c) * 2 ^ 38 + (s.scratchSize b - 256 * (8 - c % 8))) ::
              (match e.task with | some t => if t.crossing then [t.time] else [] | none => [])
          else e.words
        let entry := x'.handlers.get (fun _ => 0) e.hid
        let fallback := x'.handlers.get (fun _ => 0) 0
        let starts (code : Word) (cause : Nat) : Prop :=
          ∃ t, exec .handlerStart s = .next t ∧ (t.ctx c).run = .running ∧ (t.ctx c).pc = code &&& ~~~1#64 ∧ (t.bank b).lastSrc = e.src ∧
            (t.ctx c).evt = [BitVec.ofNat 64 (cause * 2 ^ 16 + e.hid * 2 ^ 8 + e.src), words.getD 0 0, words.getD 1 0, words.getD 2 0] ∧
            (t.ctx c).event = some ⟨e.src, e.succ, e.tag⟩ ∧ s.keepsOthers t c ∧
            (e.task = none → t.mem = if e.slot then s.mem.writes (bankLoc b (s.scratchSize b - 256 * (8 - c % 8))) e.packet else s.mem)
        (∀ a, e.code = some a → starts a e.cause) ∧
        (e.code = none → entry ≠ 0 → starts entry e.cause) ∧
        (e.code = none → entry = 0 → fallback ≠ 0 → starts fallback 1) ∧
        (e.code = none → entry = 0 → fallback = 0 →
          ∃ t, exec .handlerStart s = .next t ∧ t.ctxs = s.ctxs ∧ (t.bank b).lastSrc = e.src ∧ ∃ f, t.faults = s.faults ++ [f])))

/-- R42, R49, R264 and R419: a message enters its team's inbox at the core it names; a held decrement enters the ready ring; a due timer
delivers its event; a pending result enters its register or the
port place it reserved; a dead pin goes; and a fetch miss ends with the walk's leaf in the cache.
And R46, R310 and R409: an idle core draws a victim of its team on its die; the victim answers with its deque's oldest entry, else with
an alternative of a record that may be stolen, else with nothing; the thief keeps what it got for its source S2, or backs off.
The model's own choices in it: logs 28, 65, 74 and 80. -/
def Obligations.ArrivalAndStealing : Prop :=
  (∀ (s : State) (n b : Nat) (c : CoreId) (m : Message) (rest : List Message) (v : Served) (tm : Timer) (p : Pending) (ea a : Word) (l : Leaf) (as : List Word) (tr : Trap),
     let f := s.activeBank s.focus
     ((s.bank b).outbox = m :: rest → m.dest = .core c → m.crossing = none → s.teamAt c m.team = some v → v.image = 0 → (s.bank v.bank).open = true →
       (s.bank v.bank).inbox.length < 16 → v.bank ≠ b →
       ∃ t, exec (.messageArrive (some b)) s = .next t ∧ (t.bank b).outbox = rest ∧ (t.bank v.bank).inbox = (s.bank v.bank).inbox ++ [m.words] ∧
         ((t.core c).count m.part).recv = ((s.core c).count m.part).recv + 1 ∧ t.mem = s.mem) ∧
     ((s.bank f).readyHeld = a :: as → (s.bank f).ready.length < 256 →
       ∃ t, exec .readyRingPush s = .next t ∧ (t.bank f).ready = (s.bank f).ready ++ [a] ∧ (t.bank f).readyHeld = as ∧ t.mem = s.mem) ∧
     ((s.core s.focus).timers.get (fun _ => none) n = some tm → tm.time ≤ s.time → s.teamAt s.focus tm.team = some v → v.image = 0 →
       (s.bank v.bank).open = true →
       let waits := (s.ctx (ctxIn v.bank 0)).run = .waiting ∧ s.halted (ctxIn v.bank 0) = false
       ∃ t, exec (.timerFire n) s = .next t ∧ (t.core s.focus).timers.get (fun _ => none) n = none ∧ t.mem = s.mem ∧
         (tm.hid.isSome = true ∨ ¬waits →
           (t.bank v.bank).s7 = (s.bank v.bank).s7 ++ [⟨tm.hid, 0, if tm.hid.isSome then [BitVec.ofNat 64 tm.time] else []⟩]) ∧
         (tm.hid = none → waits → (t.bank v.bank).s7 = (s.bank v.bank).s7 ∧ (t.bank v.bank).lastSrc = 7 ∧ (t.ctx (ctxIn v.bank 0)).run = .running)) ∧
     (s.me.pend[n]? = some p → p.place = none →
       let v := s.setMe { s.me with pend := s.me.pend.eraseIdx n }
       (∀ d, p.target = .g d → isPort d = false → exec (.longLatencyComplete n) s = .next (v.put d p.gval).stepped) ∧
       (∀ d, p.target = .v d → exec (.longLatencyComplete n) s = .next (v.wroteV d p.vval).stepped)) ∧
     (∀ b d k, s.me.pend[n]? = some p → p.place = some (.link (.bank b) k) → p.target = .g d → 60 ≤ d.val →
       ∃ t, exec (.longLatencyComplete n) s = .next t ∧ t.mem = s.mem ∧ t.me.pend = s.me.pend.eraseIdx n ∧
         ((t.bank b).links[d.val - 60]?).getD [] = (((s.bank b).links[d.val - 60]?).getD []).map (fun q => if q = .held k then .word p.gval else q)) ∧
     (∀ k, s.me.pend[n]? = some p → p.place = some (.buffer k) → p.target = .g 56 →
       ∃ t, exec (.longLatencyComplete n) s = .next t ∧ t.mem = s.mem ∧ t.me.pend = s.me.pend.eraseIdx n ∧
         t.me.asm = s.me.asm.map (fun q => if q = .held k then .word p.gval else q)) ∧
     ((∃ q, q ∈ s.me.pins ∧ q.count = 0) → exec .pinExpire s = .next (s.setMe { s.me with pins := s.me.pins.filter (fun q => q.count != 0) }).stepped) ∧
     (s.me.miss = some ea → s.me.run = .running → s.walkFree s.me.part ea.toNat = false → exec .translationWalk s = .next s) ∧
     (s.me.miss = some ea → s.me.run = .running → s.walkFree s.me.part ea.toNat = true →
       (s.walk s.me.part .fetch ea.toNat = .ok l → ∃ t e, exec .translationWalk s = .next t ∧ t.me.miss = none ∧ t.myCore.tlb.head? = some e ∧
         e.part = s.me.part ∧ e.page = l.page ∧ e.size = l.size ∧ e.pte = l.pte ∧ t.mem = s.mem) ∧
       (s.walk s.me.part .fetch ea.toNat = .error tr →
         exec .translationWalk s = .next ((s.setMe { s.me with miss := none, ir := [] }).takeTrap s.cur tr).stepped))) ∧
  (∀ (s : State) (team : Nat) (thief v : CoreId) (w : Served) (p : List Byte) (st : Stolen),
     let k := s.core s.focus
     let b := s.activeBank s.focus
     let asked := s.cores.findSome? (fun e => match e.2.steal with | some (.sent u t) => if u = s.focus then some (e.1, t) else none | _ => none)
     let g0 := k.stealGen ^^^ k.stealGen <<< 13
     let g1 := g0 ^^^ g0 >>> 17
     let g2 := g1 ^^^ g1 <<< 5
     ((s.bank b).team = some team → s.idle s.focus = true → k.steal = none → k.stealDue ≤ s.cyc → s.held (s.team team).rcb = false → s.percolates b = true →
       (s.victims team s.focus)[g2.toNat * (s.victims team s.focus).length / 2 ^ 32]? = some v →
       exec .stealRequest s = .next (s.setCore s.focus { k with stealGen := g2, steal := some (.sent v team) }).stepped ∧
       v ≠ s.focus ∧ v / 256 = s.focus / 256 ∧ v ∈ (s.team team).members) ∧
     ((s.bank b).team = some team → s.idle s.focus = true → k.steal = none → k.stealDue ≤ s.cyc → s.held (s.team team).rcb = false → s.percolates b = true →
       s.victims team s.focus = [] → exec .stealRequest s = .next (s.setCore s.focus { k with
         stealGen := g2, stealFails := k.stealFails + 1, stealDue := s.cyc + 64 * 2 ^ min (k.stealFails + 1) 6 }).stepped) ∧
     (asked = some (thief, team) →
       (s.bank b).team = some team → (s.bank b).exited = false → (s.team team).state = .resident → (s.bank b).spillCount = 0 →
       (s.bank b).deque.getLast? = some p →
       ∃ t, exec .stealAnswer s = .next t ∧ (t.bank b).deque = (s.bank b).deque.dropLast ∧ (t.core thief).steal = some (.answered team (some (.packet p))) ∧
         t.mem = s.mem ∧ t.ctxs = s.ctxs) ∧
     (asked = some (thief, team) →
       (s.bank b).team = some team → (s.bank b).exited = false → (s.team team).state = .resident → (s.bank b).spillCount = 0 → (s.bank b).deque = [] →
       let found := ((List.range 8).map (ctxIn b)).findSome? (fun c => (s.stealable c).map (fun r => (c, r)))
       (found = none → ∃ t, exec .stealAnswer s = .next t ∧ (t.core thief).steal = some (.answered team none) ∧ t.mem = s.mem) ∧
       (∀ c r s', found = some (c, r) → s.takeAlternative c r = some (s', some st) →
         let loc := bankLoc (bankOf c) r
         let left := s.load (loc + 8) 4
         ∃ t w, exec .stealAnswer s = .next t ∧ (t.core thief).steal = some (.answered team (some st)) ∧ t.load (loc + 8) 4 = left - 1 ∧
           st = .alternative (s.snapshot loc) w (BitVec.ofNat 64 (ctxNum c * 1024 + placeOf (coreOf c))) (BitVec.ofNat 64 (s.load (loc + 12) 4 - left)))) ∧
     (k.steal = some (.answered team (some st)) → s.teamAt s.focus team = some w → w.image = 0 → (s.bank w.bank).open = true →
       ∃ t, exec .stealReplyReceive s = .next t ∧ (t.bank w.bank).stolen = some st ∧ (t.core s.focus).steal = none ∧ t.mem = s.mem ∧
         ((s.bank b).team = some team → (t.core s.focus).stealFails = 0)) ∧
     (k.steal = some (.answered team none) → exec .stealReplyReceive s = .next (s.setCore s.focus (if (s.bank b).team = some team then
       { k with steal := none, stealFails := k.stealFails + 1, stealDue := s.cyc + 64 * 2 ^ min (k.stealFails + 1) 6 } else { k with steal := none })).stepped))
/-! ### Fences, barriers, context flow, services (page 5) -/

/-- R80, R218, R257 and R258: a fence of scope q completes once no packet of the context to that scope, nor its core's stores, is
outstanding, and offers its code to the scope; fencea waits for atomics alone, and acquires; sfence waits for the packets of one stream;
waitge completes, and acquires, once the word at its address has reached its bound.
And R259, R260: barr arrives at a phase and goes on; barw arrives, waits, and completes with the phase; barx waits for the phase of the
member's own arrival; the phase completes when every member has arrived or departed, and its waiters then receive a barrier word if any
departed during it.
The model's own choices in it: log 49. -/
def Obligations.Synchronization : Prop :=
  (∀ (s t u : State) (q : QType) (sid : Fin 64) (a b : GReg) (ea bound : Word) (locs : List Nat),
     let inside (p : Packet) : Bool := s.isMine p && s.packetIn q.val p
     (6 ≤ q.val → ∀ i, i ∈ [Instr.fence q, .fencea q, .fencer q] → exec i s = .next (s.trapped (s.me.withDetail { cls := 0, detail := 19 }))) ∧
     (q.val < 6 → ((∀ p, p ∈ s.packets → inside p = false) ∧ (2 ≤ q.val → s.myCore.acks = []) →
         exec (.fence q) s = .next (s.fenceCode q.val).done ∧
         exec (.fencer q) s = .next s.done) ∧
       ((∃ p, p ∈ s.packets ∧ inside p = true) ∨ (2 ≤ q.val ∧ s.myCore.acks ≠ []) →
         exec (.fence q) s = .next (s.noteStall .other) ∧ exec (.fencer q) s = .next (s.noteStall .other)) ∧
       ((∀ p, p ∈ s.packets → inside p = true → isAtomicBody p.body = false) → exec (.fencea q) s = .next (s.setMe s.me.acquire).done) ∧
       ((∃ p, p ∈ s.packets ∧ inside p = true ∧ isAtomicBody p.body = true) → exec (.fencea q) s = .next (s.noteStall .other))) ∧
     ((∀ p, p ∈ s.packets → s.isMine p = true → p.sid ≠ sid.val) → exec (.sfence sid) s = .next s.done) ∧
     ((∃ p, p ∈ s.packets ∧ s.isMine p = true ∧ p.sid = sid.val) → exec (.sfence sid) s = .next (s.noteStall .other)) ∧
     (s.clear [a, b] [] [] [] = true → s.Reads [a, b] [ea, bound] t →
       (ea.toNat % 8 ≠ 0 → exec (.waitge a b) s = .next (s.trapped { cls := 2, detail := 6, addr := ea })) ∧
       (ea.toNat % 8 = 0 → locate .load ea 8 t = .ok (locs, u) → u.unshared locs → u.landed locs → u.me.faulted = none → u.numberAt locs < 2 ^ 64 →
         (bound.toNat ≤ u.numberAt locs → ∀ v, observe locs u = .ok ((), v) → exec (.waitge a b) s = .next (v.setMe v.me.acquire).done) ∧
         (u.numberAt locs < bound.toNat → exec (.waitge a b) s = .next (s.noteStall .other))))) ∧
  (∀ (s : State) (i team : Nat),
     let t := s.team s.myTeam
     let b := t.barriers.get Barrier.idle i
     let here := coreOf s.cur ∈ b.here
     let arrived := s.setTeam s.myTeam { t with barriers := t.barriers.put i { b with here := b.here ++ [coreOf s.cur] } }
     let waiting (t : State) : State := { t.setMe { s.me with barrier := ⟨i, b.phase, s.me.pc, s.me.handling.toNat⟩ :: s.me.barrier, wait := .other } with stalled := [] }
     (16 ≤ i → ∀ op, op ∈ [Instr.barr i, .barw i, .barx i] → exec op s = .next (s.trapped (s.me.withDetail { cls := 0, detail := 9 }))) ∧
     (i < 16 →
       (¬here → exec (.barr i) s = .next arrived.done) ∧
       (here → exec (.barr i) s = .next (s.noteStall .other)) ∧
       (s.me.waitsAt i = none →
         (¬here → exec (.barw i) s = .next (waiting arrived)) ∧
         (here → exec (.barw i) s = .next (s.noteStall .other)) ∧
         (here → exec (.barx i) s = .next (waiting s)) ∧
         (¬here → exec (.barx i) s = .next s.done)) ∧
       (∀ phase, s.me.waitsAt i = some phase →
         (phase < b.phase → exec (.barw i) s = .next s.done ∧ exec (.barx i) s = .next s.done) ∧
         (b.phase ≤ phase → exec (.barw i) s = .next (s.noteStall .other) ∧ exec (.barx i) s = .next (s.noteStall .other)))) ∧
     (let t := s.team team
      let b := t.barriers.get Barrier.idle i
      b.here ≠ [] → (∀ m, m ∈ t.members → m ∈ b.here ∨ m ∈ t.departed) →
       ∃ u, exec (.barrierPhaseComplete team i) s = .next u ∧
         (u.team team).barriers.get Barrier.idle i = ⟨b.phase + 1, [], 0⟩ ∧ u.mem = s.mem ∧
         (b.departed = 0 → u.ctxs = s.ctxs) ∧
         (b.departed ≠ 0 → ∀ c, u.ctx c =
           if (s.ctx c).team = some team ∧ (∃ w, w ∈ (s.ctx c).barrier ∧ w.id = i ∧ w.phase = b.phase) then
             (s.ctx c).pushDone (BitVec.ofNat 64 (b.departed % 2 ^ 16 * 2 ^ 48 + 2 ^ 18 + i))
           else s.ctx c)))

/-- R45, R261 to R263, R318: evwait waits in context 0, ends a handler's event and makes its context dormant, and in an ordered task acts
as oend; yield makes the context yielded when a request is pending; uret goes back to k.UEPC with user traps unmasked, and outside a user
trap handler raises trap(0, 21).
And R33, R47, R264 and R373: scall 0 ends the member of context 0; 1 arms the lowest free timer, 2 disarms one, 3 closes the core's
deque; a call that is refused answers all ones in g1. Each call leaves its return address in k.SEPC and its number in k.SCAUSE, and scall 0
ends in supervisor mode at k.SVEC.
The model's own choices in it: logs 24, 28 and 32. -/
def Obligations.ContextsAndServices : Prop :=
  (∀ (s : State),
     (ctxNum s.cur = 0 → s.myBank.wake = false →
       exec .evwait s = .next { (s.setMe { s.me with run := .waiting, wait := .other }).noteIssue with stalled := [] }) ∧
     (ctxNum s.cur = 0 → s.myBank.wake = true → exec .evwait s = .next (s.setBank (bankOf s.cur) { s.myBank with wake := false }).done) ∧
     (ctxNum s.cur ≠ 0 → s.me.task.isSome = true → exec .evwait s = exec .oend s) ∧
     (∀ team m src tag, ctxNum s.cur ≠ 0 → s.me.task = none → s.myBank.team = some team → m ∈ (s.team team).members → m ∉ (s.team team).departed →
       (s.me.event = some ⟨src, [], tag⟩ → ∃ u, exec .evwait s = .next u ∧ u.me.run = .dormant ∧ u.me.event = none ∧ u.me.choice = 0 ∧
         u.me.trailTop = s.me.trailBase ∧ u.me.pc = s.me.npc ∧ u.mem = s.mem ∧ s.keepsOthers u s.cur ∧ s.keepsRegisters u [] [] [32, 33]) ∧
       (∀ h c v loc n, s.me.event = some ⟨src, [h], tag⟩ → h.getLsbD 0 = true → s.recordOf s.me.part h = some (c, v, loc) → s.load loc 4 = n + 1 →
         s.quiet = true → lineOf loc ∉ s.claims →
         ∃ u, exec .evwait s = .next u ∧ u.me.run = .dormant ∧ u.load loc 4 = n ∧ u.load (loc + 8) 4 = s.load (loc + 8) 4 ∧
           s.keepsMemory u ((List.range 4).map (loc + ·)))) ∧
     exec .yield s = .next (s.setMe { s.me with yielded := s.me.yreq != BitVec.allOnes 64 }).done ∧
     (s.me.handling = true → exec .uret s =
       .next (s.setMe { s.me with
         npc := s.me.uepc, status := s.me.status &&& ~~~8, handling := false
         barrier := s.me.barrier.map (fun w => if w.level = 0 then { w with level := 2 } else { w with level := 0 }) }).done) ∧
     (s.me.handling = false → exec .uret s = .next (s.trapped (s.me.withDetail { cls := 0, detail := 21 })))) ∧
  (∀ (s : State) (n m team imm : Nat),
     let answer (v : State) (call : Nat) (w : Word) : Host.Outcome State Fault Refusal :=
       .next ((v.setMe { v.me with
         sepc := s.me.npc, scause := BitVec.ofNat 64 call
         status := if isService (coreOf s.cur) then s.me.status ||| 1 else s.me.status &&& ~~~1 }).wrote 1 w).done
     let free := (List.range 8).find? (fun i => (s.myCore.timers.get (fun _ => none) i).isNone)
     s.clear [1, 2] [1] [] [] = true →
     (ctxNum s.cur ≠ 0 → exec .scallExit s = answer s 0 (BitVec.allOnes 64)) ∧
     (ctxNum s.cur = 0 → s.myBank.team = some team → m ∈ (s.team team).members → m ∉ (s.team team).departed → m ≠ coreOf s.cur →
       coreOf s.cur ∉ (s.team team).departed →
       ∃ u, exec .scallExit s = .next u ∧ u.me.run = .exited ∧ u.me.sepc = s.me.npc ∧ u.me.scause = 0 ∧ u.me.status = s.me.status ||| 1 ∧
         u.me.pc = s.myCore.svec &&& ~~~1 ∧ u.me.choice = 0 ∧
         u.myBank.exited = true ∧ u.myBank.queued = 0 ∧ (u.team team).departed = (s.team team).departed ++ [coreOf s.cur]) ∧
     ((s.me.rd 2).toNat < 256 ∨ s.me.rd 2 = BitVec.allOnes 64 → free = some n →
       exec .scallTimerArm s = answer (s.setCore (coreOf s.cur) { s.myCore with timers := s.myCore.timers.put n (some
         ⟨(s.me.rd 1).toNat, s.myTeam, if (s.me.rd 2).toNat < 256 then some (s.me.rd 2).toNat else none⟩) }) 1 (BitVec.ofNat 64 n)) ∧
     (256 ≤ (s.me.rd 2).toNat → s.me.rd 2 ≠ BitVec.allOnes 64 → exec .scallTimerArm s = answer s 1 (BitVec.allOnes 64)) ∧
     (free = none → exec .scallTimerArm s = answer s 1 (BitVec.allOnes 64)) ∧
     (let k := (s.me.rd 1).toNat
      (k < 8 → (s.myCore.timers.get (fun _ => none) k).isSome = true → exec .scallTimerCancel s =
         answer (s.setCore (coreOf s.cur) { s.myCore with timers := s.myCore.timers.put k none }) 2 0) ∧
      (8 ≤ k ∨ s.myCore.timers.get (fun _ => none) k = none → exec .scallTimerCancel s = answer s 2 (BitVec.allOnes 64))) ∧
     exec .scallDestroyDeque s = answer (s.setBank (bankOf s.cur) { s.myBank with closed := true }) 3 0 ∧
     (imm < 1024 → exec (.scallRefused imm) s = answer s imm (BitVec.allOnes 64)) ∧
     (1024 ≤ imm → exec (.scallRefused imm) s = .next (s.trapped (s.me.withDetail { cls := 0, detail := 9 }))))

/-- R265: carve waits until every member of its team has arrived; where their values agree and none refuses, each member's scratch and trail
have their new sizes, scratch keeps its bytes below the lesser size, and every trail is empty at its new place, and
else every member takes trap(4, 11), as a handler context does.
And R266, R267 and R453: sprint ends a lease that has run out, with its last extender's interrupt, then adds the granted cycles to its
ridge's lease, whose first taker, by its identity, may end it with a request of zero; the grant is zero in a refreeze, for a held region, and where a fresh
lease would exceed the package's power; sprintq gives the state, which is 3 for any held region.
The model's own choices in it: logs 37 and 38. -/
def Obligations.CarvingAndSprint : Prop :=
  (∀ (s t : State) (a : GReg) (w : Word),
     let team := s.team s.myTeam
     let arrived (m : CoreId) : Prop := m ∈ team.carves.map Prod.fst ∨ m ∈ team.departed
     (ctxNum s.cur ≠ 0 → exec (.carve a) s = .next (s.trapped { cls := 4, detail := 11 })) ∧
     (ctxNum s.cur = 0 →
       (s.me.carve = .none → s.clear [a] [] [] [] = true → s.Reads [a] [w] t →
         ∃ u, exec (.carve a) s = .next u ∧ u.me.carve = .waiting ∧ u.me.pc = s.me.pc ∧ u.mem = s.mem ∧
           (u.team s.myTeam).carves = team.carves ++ [(coreOf s.cur, w)] ∧ s.keepsOthers u s.cur ∧ t.keepsRegisters u [] [] []) ∧
       (s.me.carve = .waiting → (∃ m, m ∈ team.members ∧ ¬arrived m) → exec (.carve a) s = .next (s.noteStall .other)) ∧
       (s.me.carve = .done → exec (.carve a) s = .next (s.setMe { s.me with carve := .none }).done) ∧
       (s.me.carve = .refused → exec (.carve a) s = .next ((s.setMe { s.me with carve := .none }).trapped { cls := 4, detail := 11 })) ∧
       (s.me.carve = .waiting → (∀ m, m ∈ team.members → arrived m) → s.myBanks.Nodup → bankOf s.cur ∈ s.myBanks →
         let same := team.carves ≠ [] ∧ ∀ e, e ∈ team.carves → e.2 = w
         let scratch := scratchBytes (field w 9 8) (field w 3 0) false
         ((∃ e f, e ∈ team.carves ∧ f ∈ team.carves ∧ e.2 ≠ f.2) ∨ (same ∧ (field w 63 10 ≠ 0 ∨ field w 7 4 ≠ 0 ∨ s.unfinished s.myTeam ≠ [] ∨
             ∃ b, b ∈ s.myBanks ∧ s.refusesCarve team scratch b = true)) →
           ∃ u : State, exec (.carve a) s = .next (u.trapped { cls := 4, detail := 11 }) ∧ u.me = { s.me with carve := .none } ∧ u.cores = s.cores ∧ u.mem = s.mem ∧
             (u.team s.myTeam).carves = [] ∧ (∀ b, b ∈ s.myBanks → b ≠ bankOf s.cur → (s.ctx (ctxIn b 0)).carve = .waiting →
               (u.ctx (ctxIn b 0)).carve = .refused)) ∧
         (same → field w 63 10 = 0 → field w 7 4 = 0 → s.unfinished s.myTeam = [] → (∀ b, b ∈ s.myBanks → s.refusesCarve team scratch b = false) →
           ∃ u, exec (.carve a) s = .next u ∧ u.me.carve = .none ∧ u.me.pc = s.me.npc ∧ (u.team s.myTeam).carves = [] ∧
             ∀ b, b ∈ s.myBanks → (u.core (b / 2)).cc = field w 9 8 ∧ (u.core (b / 2)).tc = field w 3 0 ∧ u.scratchSize b = scratch ∧
               (∀ off, off < s.scratchSize b → off < scratch → u.mem.read (bankLoc b off) = s.mem.read (bankLoc b off)) ∧
               (∀ n, n < 8 → (u.ctx (ctxIn b n)).trailBase = BitVec.ofNat 64 (scratch + n * (trailBytes (field w 3 0) / 8)) ∧
                 (u.ctx (ctxIn b n)).trailTop = (u.ctx (ctxIn b n)).trailBase ∧
                 (u.ctx (ctxIn b n)).trailLim = BitVec.ofNat 64 (scratch + (n + 1) * (trailBytes (field w 3 0) / 8))))))) ∧
  (∀ (s t : State) (d a : GReg) (request : Word),
     let g := ridgeOf (coreOf s.cur)
     let held := s.held s.me.rcba.toNat
     (s.clear [a] [d] [] [] = true → s.Reads [a] [request] t →
       let ended := { s.ridge g with leaseLeft := 0, taker := none, extender := none }
       let v := if (s.ridge g).leaseLeft = 0 then
           (match (s.ridge g).extender with
            | some c => (t.setRidge g ended).setCtx c { t.ctx c with intr := (t.ctx c).intr ++ [{ cls := 6, detail := 16, precise := false }] }
            | none => t)
         else t
       let r := v.ridge g
       let grant := if s.refreeze ∨ held then 0 else if r.leaseLeft = 0 ∧ 4300000 < s.pwr + 10000 then 0
         else min request.toNat (min (2 ^ 31 - r.leaseLeft) (175000 * s.room 4 s.me.rcba.toNat))
       (request = 0 → r.taker = some s.me.source → exec (.sprint d a) s = .next ((v.setRidge g ended).put d 0).done) ∧
       (request = 0 → r.taker ≠ some s.me.source → exec (.sprint d a) s = .next (v.put d 0).done) ∧
       (request ≠ 0 → grant = 0 → exec (.sprint d a) s = .next (v.put d 0).done) ∧
       (request ≠ 0 → grant ≠ 0 → exec (.sprint d a) s =
         .next ((v.setRidge g { r with
           leaseLeft := r.leaseLeft + grant, taker := if r.leaseLeft = 0 then some s.me.source else r.taker, extender := some s.cur
           }).put d (BitVec.ofNat 64 grant)).done)) ∧
     (s.clear [] [d] [] [] = true →
       let left := (s.ridge g).leaseLeft
       let state := if held then 3 else if s.refreeze then 2 else if left ≠ 0 then 1 else 0
       exec (.sprintq d) s = .next (s.put d (BitVec.ofNat 64 (state * 2 ^ 62 + s.melt / 2 ^ 32 * 2 ^ 32 + min left (2 ^ 32 - 1)))).done))
/-! ### Choice points and ordered tasks (page 7) -/

/-- R304, R306, R307 and R311: try and trys push a choice point of 512 bytes with the table's address, the number of alternatives twice, where it
stands, the record before it, its flags and place, and g1 to g55; a bad operand raises trap(5, 4), and a trail with no room trap(5, 2) (a
speculative task waits); mark reads the top of the trail.
And R308, R309: fail waits for pending results and stores in flight; it restores the newest choice point with an alternative left: the
control registers that the trail logged since get back their oldest logged values, and a memory entry below those is written back (fail then
waits for the home's acknowledgement); with all undone, and the core's stores acknowledged, g1 to g55 read as the record holds them, one
alternative fewer is left, and the next bundle is the alternative's; with none left it raises trap(5, 0), past an irrevocable mark trap(5, 1),
and past an open region's record trap(5, 7). cut discards the newest record from a valid mark on.
The model's own choices in it: log 30. -/
def Obligations.Backtracking : Prop :=
  (∀ (s t : State) (a b d : GReg) (table total : Word) (i : Instr), (i = .tryChoice a b ∨ i = .trySteal a b) →
     (s.clear ([a, b] ++ snapshotRegs) [] [] [] = true → s.Reads [a, b] [table, total] t →
       (table.toNat % 8 ≠ 0 ∨ total = 0 ∨ 65535 < total.toNat → exec i s = .next (s.trapped { cls := 5, detail := 4 })) ∧
       (table.toNat % 8 = 0 → total ≠ 0 → total.toNat ≤ 65535 →
         let top := s.me.trailTop.toNat
         let loc := bankLoc (bankOf s.cur) top
         let stealable := i = .trySteal a b ∧ s.me.task = none ∧ s.me.region = none
         (s.me.trailLim.toNat < top + 512 → s.me.speculates = false → exec i s = .next (s.trapped { cls := 5, detail := 2 })) ∧
         (s.me.trailLim.toNat < top + 512 → s.me.speculates = true → exec i s = .next (s.noteStall .earliest)) ∧
         (top + 512 ≤ s.me.trailLim.toNat →
           ∃ u, exec i s = .next u ∧ u.me.choice = s.me.trailTop ∧ u.me.trailTop = s.me.trailTop + 512 ∧ u.me.pc = s.me.npc ∧
             u.word loc = table ||| 3 ∧ u.load (loc + 8) 4 = total.toNat ∧ u.load (loc + 12) 4 = total.toNat ∧
             u.word (loc + 16) = s.me.trailTop + 64 ∧ u.word (loc + 24) = s.me.trailTop ∧ u.word (loc + 32) = s.me.choice ∧
             (stealable → u.word (loc + 40) = 1) ∧
             (¬stealable → u.word (loc + 40) = BitVec.ofNat 64 (s.me.region.isSome.toNat * 8 + s.me.task.isSome.toNat * 4)) ∧
             u.word (loc + 48) = BitVec.ofNat 64 (ctxNum s.cur * 1024 + placeOf (coreOf s.cur)) ∧
             (∀ r : GReg, 1 ≤ r.val → r.val ≤ 55 → u.word (loc + 56 + 8 * r.val) = t.me.rd r) ∧
             s.keepsMemory u ((List.range 512).map (loc + ·)) ∧ s.keepsOthers u s.cur ∧ t.keepsRegisters u [] [] [32, 33]))) ∧
     (s.clear [] [d] [] [] = true → exec (.mark d) s = .next (s.put d s.me.trailTop).done)) ∧
  (∀ (s t u : State) (a : GReg) (m : Word) (c : Nat) (locs : List Nat),
     let at_ := bankLoc (bankOf s.cur) c
     let above := s.myItems.filter (fun i => decide (c + 512 ≤ i.1))
     let table := s.word at_ &&& ~~~7
     let next := s.load (at_ + 12) 4 - s.load (at_ + 8) 4
     let plain (items : List (Nat × Word)) : Prop := ∀ i, i ∈ items → i.2.toNat % 8 ≠ 2 ∧ i.2.toNat % 8 ≠ 6 ∧ isOpenRegion i.2 = false
     let old (i : Nat × Word) : Word := s.word (bankLoc (bankOf s.cur) (i.1 + 8))
     let number (i : Nat × Word) : Nat := i.2.toNat / 8 % 1024
     let undone (items : List (Nat × Word)) (x : Ctx) : Ctx := items.reverse.foldl (fun x i =>
       { (if i.2.toNat % 8 = 1 then x.setLogged (number i) (old i) else x) with trailTop := BitVec.ofNat 64 i.1 }) x
     let logged (items : List (Nat × Word)) (v : State) : Prop := ∀ i, i ∈ items → i.2.toNat % 8 = 1 →
       number i ∈ [8, 9, 10, 11, 16, 17, 18, 19, 20, 21, 22, 25, 49, 64, 127] →
       items.find? (fun j => decide (j.2.toNat % 8 = 1 ∧ number j = number i)) = some i → v.me.kImage (number i) = old i
     (s.me.pend ≠ [] ∨ s.settled s.me = false → exec .fail s = .next (s.noteStall .other)) ∧
     (s.me.pend = [] → s.settled s.me = true → s.liveChoice s.me.choice.toNat = none →
       exec .fail s = .next (s.trapped { cls := 5, detail := 0 })) ∧
     (s.me.pend = [] → s.settled s.me = true → s.liveChoice s.me.choice.toNat = some c →
       (∀ off w, (above.filter (fun i => decide (i.2.toNat % 8 = 6))).getLast? = some (off, w) →
         exec .fail s = .next (s.trapped { cls := 5, detail := 1, info := s.word (bankLoc (bankOf s.cur) (off + 8)) })) ∧
       (∀ off w, above.all (fun i => decide (i.2.toNat % 8 ≠ 6)) = true → (above.filter (fun i => isOpenRegion i.2)).getLast? = some (off, w) →
         exec .fail s = .next (s.trapped { cls := 5, detail := 7, info := BitVec.ofNat 64 off })) ∧
       (∀ off w rest, above = (off, w) :: rest → w.toNat % 8 = 2 → plain rest →
         locate .store (w &&& ~~~7) 8 (s.setMe (undone rest s.me)) = .ok (locs, u) → u.unshared locs → locs.Nodup →
         locs.length = 8 → (∀ l, l ∈ locs → l < hbmTop) →
         ∃ v, exec .fail s = .next v ∧ v.numberAt locs = (s.word (bankLoc (bankOf s.cur) (off + 8))).toNat ∧
           v.me.trailTop = BitVec.ofNat 64 off ∧ v.me.pc = s.me.pc ∧ v.me.wait = .other ∧ logged rest v) ∧
       (above = [] → s.myCore.acks = [] → locate .load (table + BitVec.ofNat 64 (8 * next)) 8 (s.setMe { s.me with choice := BitVec.ofNat 64 c }) = .ok (locs, u) →
         u.unshared locs → u.landed locs →
         ∃ v, exec .fail s = .next v ∧ v.me.pc = BitVec.ofNat 64 (s.numberAt locs) &&& ~~~1 ∧ v.me.choice = BitVec.ofNat 64 c ∧
           v.me.trailTop = s.me.trailTop ∧ (∀ r : GReg, 1 ≤ r.val → r.val ≤ 55 → v.me.rd r = s.word (at_ + 56 + 8 * r.val)) ∧
           v.load (at_ + 8) 4 = s.load (at_ + 8) 4 - 1 ∧ s.keepsMemory v ((List.range 4).map (at_ + 8 + ·)) ∧ s.keepsOthers v s.cur) ∧
       (∀ off w rest, above = (off, w) :: rest → plain above → s.myCore.acks = [] →
         locate .load (table + BitVec.ofNat 64 (8 * next)) 8 (s.setMe { undone above s.me with choice := BitVec.ofNat 64 c }) = .ok (locs, u) →
         u.unshared locs → u.landed locs →
         ∃ v, exec .fail s = .next v ∧ logged above v ∧ v.me.choice = BitVec.ofNat 64 c ∧ v.me.trailTop = BitVec.ofNat 64 off ∧
           v.load (at_ + 8) 4 = s.load (at_ + 8) 4 - 1)) ∧
     (s.clear [a] [] [] [] = true → s.Reads [a] [m] t →
       (s.markValid m.toNat = false → exec (.cut a) s = .next (s.trapped { cls := 5, detail := 3 })) ∧
       (s.markValid m.toNat = true →
         let c := s.me.choice.toNat
         let flag := bankLoc (bankOf s.cur) (c + 40)
         let prev := s.word (bankLoc (bankOf s.cur) (c + 32))
         (c ≠ 0 → c < m.toNat → exec (.cut a) s = .next t.done) ∧
         (c ≠ 0 → m.toNat ≤ c → prev ≠ 0 → prev.toNat < m.toNat →
           ∃ u, exec (.cut a) s = .next u ∧ u.me.choice = prev ∧ u.me.trailTop = s.me.trailTop ∧ u.load flag 1 = s.load flag 1 ||| 16 ∧
             s.keepsMemory u [flag] ∧ s.keepsOthers u s.cur ∧ t.keepsRegisters u [] [] [33]) ∧
         (c ≠ 0 → m.toNat ≤ c → prev = 0 → s.me.task = none → s.me.region = none →
           ∃ u, exec (.cut a) s = .next u ∧ u.me.choice = 0 ∧ u.me.trailTop = s.me.trailBase ∧ u.load flag 1 = s.load flag 1 ||| 16 ∧
             s.keepsMemory u [flag]))))

/-- R303, R313 to R320 and R324: otask queues an ordered task with its timestamp; oend waits, its task ended, for the commit; the earliest
ended task commits once its stores have landed, frees its context and advances its domain's newest timestamp; a task that must abort is
unwound and queued again, at a member that has not exited; oabort ends a task with its stores undone, once no engine has claimed their
lines and no later task has written them; ohoriz reads the horizon.
The model's own choices in it: logs 52 and 53. -/
def Obligations.OrderedTasks : Prop :=
  ∀ (s t u : State) (d a : GReg) (ea time tie : Word) (p : List Byte) (r : TaskRun) (k : Task),
    let h := time.toNat * 2 ^ 32 + tie.toNat
    let held := min (s.myCore.horizonFor s.myTeam) (s.horizonOf s.myTeam)
    let mine := s.team s.myTeam
    (s.clear [a, d, d + 1] [] [] [] = true → s.Reads [a, d, d + 1] [ea, time, tie] t → loadPacket ea t = .ok (p, u) → s.me.task = none →
      (2 ^ 32 ≤ tie.toNat ∨ h < (s.team s.myTeam).newest → exec (.otask d a) s = .next (s.trapped { cls := 5, detail := 5 })) ∧
      (tie.toNat < 2 ^ 32 → (s.team s.myTeam).newest ≤ h → 64 ≤ s.myBank.s3.length → exec (.otask d a) s = .next (s.noteStall .other)) ∧
      (tie.toNat < 2 ^ 32 → (s.team s.myTeam).newest ≤ h → s.myBank.s3.length < 64 → s.me.choice = 0 → s.myBank.exited = false →
        ∃ v k, exec (.otask d a) s = .next v ∧ v.myBank.s3 = s.myBank.s3 ++ [k] ∧ k.h = h ∧ k.packet = p ∧ k.team = s.myTeam ∧ k.id = s.taskNext ∧
          k.crossing = false ∧ k.parent = none ∧ v.taskNext = s.taskNext + 1 ∧ v.mem = s.mem ∧ t.keepsRegisters v [] [] [])) ∧
    (s.me.task = none → exec .oend s = .next (s.trapped { cls := 5, detail := 6 }) ∧ exec .oabort s = .next (s.trapped { cls := 5, detail := 6 })) ∧
    (s.clear [] [d, d + 1] [] [] = true → exec (.ohoriz d) s =
      .next ((s.put d (BitVec.ofNat 64 (held / 2 ^ 32))).put (d + 1) (BitVec.ofNat 64 (held % 2 ^ 32))).done) ∧
    (s.me.task = some r →
      let restored := s.restores (s.myLoc 0) s.me s.me.trailBase.toNat
      let undoes := s.landedTask r.task = true ∧ s.entriesFree (s.myLoc 0) s.me s.me.trailBase.toNat = true ∧ (∀ q, q ∈ restored → lineOf q.1 ∉ s.claims) ∧
        s.laterWriters r.task (s.undoneLines (s.myLoc 0) s.me) = []
      exec .oend s = .next { (s.setMe { s.me with
        task := some { r with ended := true }, run := .waiting, wait := .other }).noteIssue with stalled := [] } ∧
      (s.landedTask r.task = false → exec .oabort s = .next (s.noteStall .other)) ∧
      (undoes → s.myBank.team = some r.task.team →
        ∃ v, exec .oabort s = .next v ∧ v.me.run = .dormant ∧ v.me.task = none ∧ v.me.choice = 0 ∧ v.me.trailTop = s.me.trailBase ∧
          v.me.pc = s.me.npc ∧
          (v.team r.task.team).oaborted = (s.team r.task.team).oaborted.filter (fun q => q.parent != some r.task.id) ++ [r.task] ∧
          (restored = [] → v.mem = s.mem) ∧ (∀ l w, restored = [(l, w)] → v.word l = w)) ∧
      (r.ended = true → s.me.run = .waiting → r.aborted = false →
        (s.earliest r.task = false ∨ s.landedTask r.task = false → exec .otaskCommit s = .next s) ∧
        (s.earliest r.task = true → s.landedTask r.task = true → packetSuccessors r.task.packet = [] →
          ∃ v, exec .otaskCommit s = .next v ∧ v.me.run = .dormant ∧ v.me.task = none ∧ v.me.pc = s.me.npc ∧
            (v.team r.task.team).newest = max (s.team r.task.team).newest r.task.h ∧ (∀ l, r.task.id ∉ (v.marksOf l).writers) ∧
            ((∃ m, m ∈ mine.members ∧ m ∉ mine.departed) → v.mem = s.mem))) ∧
      (r.aborted = true → r.speculative = true → undoes → s.myBank.team = some r.task.team → bankOf s.cur = s.activeBank (coreOf s.cur) →
        s.myBank.exited = false → (∃ m, m ∈ mine.members ∧ m ∉ mine.departed) →
        ∃ v, exec .taskAbort s = .next v ∧ v.me.run = .dormant ∧ v.me.task = none ∧ v.me.trailTop = s.me.trailBase ∧
          (restored = [] → v.mem = s.mem) ∧ (∀ l w, restored = [(l, w)] → v.word l = w) ∧
          (r.discarded = false → r.task.crossing = false →
            v.myBank.s3 = s.myBank.s3.filter (fun q => q.parent != some r.task.id) ++ [r.task]))) ∧
    (s.me.task = none → mine.oaborted = [k] → s.earliest k = true → packetSuccessors k.packet = [] →
      ∃ v, exec .otaskCommit s = .next v ∧ (v.team s.myTeam).oaborted = [] ∧
        ((∃ m, m ∈ mine.members ∧ m ∉ mine.departed) → v.mem = s.mem))

/-! ### Ropes and residency (page 9) -/

/-- R52 to R54, R268 and R269: rlead starts a rope that its context leads, and leaves an earlier one, which ends if its context led it; rfollow takes a free position that the
mask names; rdetach ends a leader's rope and detaches a follower; a detached follower's rrejoin waits, and the leader's re-attaches the
followers that wait at the same bundle. A bad mask, rope or position raises trap(4, 10).
And R270 to R272: thset takes the lowest free handle for a tensor of whole lines; thprio, thdemote and thevict act on a live handle of the
current team; any other handle raises trap(4, 13), and a table with none free trap(4, 12); xprobe reads a feature.
The model's own choices in it: logs 45 and 88. -/
def Obligations.RopesAndHandles : Prop :=
  (∀ (s t : State) (d a b : GReg) (mask id pos : Word) (p : RopePlace) (r : Rope) (i : Nat),
     let die := dieOf (coreOf s.cur)
     let k := s.die die
     (s.clear [a] [d] [] [] = true → s.Reads [a] [mask] t →
       (2 ^ 16 ≤ mask.toNat ∨ mask.toNat.testBit (coreOf s.cur % 8) = false → exec (.rlead d a) s = .next (s.trapped { cls := 4, detail := 10 })) ∧
       (mask.toNat < 2 ^ 16 → mask.toNat.testBit (coreOf s.cur % 8) = true →
         (s.me.rope = none →
           exec (.rlead d a) s = .next ((((t.setDie die { k with
             ropes := k.ropes ++ [⟨k.ropeNext, coreOf s.cur, mask.toNat, [coreOf s.cur], [(s.cur, 0)], [], 0⟩], ropeNext := k.ropeNext + 1 }).setMe
               { t.me with rope := some ⟨die, k.ropeNext, 0, true, true, false⟩ }).put d (BitVec.ofNat 64 k.ropeNext))).done) ∧
         (s.me.rope = some p → ∃ u, exec (.rlead d a) s = .next u ∧ u.me.rope = some ⟨die, k.ropeNext, 0, true, true, false⟩ ∧ u.mem = s.mem ∧
           (p.pos = 0 → p.id ≠ k.ropeNext → ∀ r, r ∈ (u.die p.die).ropes → r.id ≠ p.id)))) ∧
     (s.clear [a, b] [] [] [] = true → s.Reads [a, b] [id, pos] t →
       (k.ropes.find? (fun r => r.id == id.toNat) = none → exec (.rfollow a b) s = .next (s.trapped { cls := 4, detail := 10 })) ∧
       (k.ropes.find? (fun r => r.id == id.toNat) = some r → r.id = id.toNat →
         (pos = 0 ∨ 15 < pos.toNat ∨ ropeBit r.core (coreOf s.cur) = none ∨
             (ropeBit r.core (coreOf s.cur) = some i ∧ r.mask.testBit i = false) ∨ (∃ m, m ∈ r.members ∧ (m.2 = pos.toNat ∨ coreOf m.1 = coreOf s.cur)) →
           exec (.rfollow a b) s = .next (s.trapped { cls := 4, detail := 10 })) ∧
         (pos ≠ 0 → pos.toNat ≤ 15 → ropeBit r.core (coreOf s.cur) = some i → r.mask.testBit i = true →
           (∀ m, m ∈ r.members → m.2 ≠ pos.toNat ∧ coreOf m.1 ≠ coreOf s.cur) → s.me.rope = none →
           ∃ u, exec (.rfollow a b) s = .next u ∧ u.me.rope = some ⟨die, r.id, pos.toNat, true, false, false⟩ ∧
             (u.die die).ropes.find? (fun r => r.id == id.toNat) = some { r with
               joined := coreOf s.cur :: r.joined, members := r.members ++ [(s.cur, pos.toNat)], buffers := r.buffers.put pos.toNat [] } ∧
             u.mem = s.mem ∧ s.keepsOthers u s.cur ∧ t.keepsRegisters u [] [] []))) ∧
     (s.me.rope = none → exec .rdetach s = .next s.done ∧ exec .rrejoin s = .next s.done) ∧
     (s.me.rope = some p → p.pos ≠ 0 →
       exec .rdetach s = .next (s.setMe { s.me with rope := some { p with attached := false } }).done) ∧
     (s.me.rope = some p → p.pos = 0 → ∃ u, exec .rdetach s = .next u ∧ u.me.rope = none ∧
       (u.die p.die).ropes = (s.die p.die).ropes.filter (fun r => r.id != p.id) ∧ u.mem = s.mem) ∧
     (s.me.rope = some p → s.ropeOf p = none → exec .rrejoin s = .next s.done) ∧
     (s.me.rope = some p → s.ropeOf p = some r →
       (p.pos ≠ 0 → p.attached = true → exec .rrejoin s = .next s.done) ∧
       (p.pos ≠ 0 → p.attached = false → p.waits = false →
         exec .rrejoin s = .next { s.setMe { s.me with rope := some { p with waits := true }, wait := .other } with stalled := [s.cur] }) ∧
       (p.pos ≠ 0 → p.attached = false → p.waits = true → exec .rrejoin s = .next (s.noteStall .other)) ∧
       (p.pos = 0 → ∃ u, exec .rrejoin s = .next u ∧ u.mem = s.mem ∧
         ∀ m q, m ∈ r.members → m.1 ≠ s.cur → (s.ctx m.1).rope = some q → q.die = p.die → q.id = p.id → q.waits = true → q.attached = false →
           (s.ctx m.1).pc = s.me.pc → (s.ctx m.1).run = .running →
           (u.ctx m.1).rope = some { q with attached := true, waits := false } ∧ (u.ctx m.1).pc = (s.ctx m.1).pc))) ∧
  (∀ (s t u : State) (d a b : GReg) (ea prio n : Word) (bytes : List Byte) (h : Handle) (slot : Nat),
     let part := s.me.part
     let handles := (s.part part).handles
     let live (k : Nat) : Option Handle := handles.get (fun _ => none) k
     let with_ (v : State) (k : Nat) (x : Option Handle) : State := v.setPart part { v.part part with handles := handles.put k x }
     (s.clear [a, b] [d] [] [] = true → s.Reads [a, b] [ea, prio] t → loadBytes .load ea 16 t = .ok (bytes, u) →
       let base := leNat (bytes.take 8)
       let length := leNat (bytes.drop 8)
       let good := base % 128 = 0 ∧ length % 128 = 0 ∧ 128 ≤ length ∧ length ≤ 2 ^ 40 ∧ prio.toNat ≤ 7
       (¬good → exec (.thset d a b) s = .next (s.trapped (s.me.withDetail { cls := 0, detail := 9 }))) ∧
       (good → (∀ k, k < 256 → (live k).isSome = true) → exec (.thset d a b) s = .next (s.trapped { cls := 4, detail := 12 })) ∧
       (good → slot < 256 → live slot = none → (∀ k, k < slot → (live k).isSome = true) →
         exec (.thset d a b) s = .next ((with_ u slot (some ⟨base, length, prio.toNat, s.myTeam⟩)).put d (BitVec.ofNat 64 slot)).done)) ∧
     (s.clear [a, b] [] [] [] = true → s.Reads [a, b] [n, prio] t →
       (256 ≤ n.toNat ∨ live n.toNat = none ∨ (live n.toNat = some h ∧ h.team ≠ s.myTeam) →
         exec (.thprio a b) s = .next (s.trapped { cls := 4, detail := 13 })) ∧
       (n.toNat < 256 → live n.toNat = some h → h.team = s.myTeam →
         (prio.toNat ≤ 7 → exec (.thprio a b) s = .next (with_ t n.toNat (some { h with prio := prio.toNat })).done) ∧
         (7 < prio.toNat → exec (.thprio a b) s = .next (s.trapped (s.me.withDetail { cls := 0, detail := 9 }))))) ∧
     (s.clear [a] [] [] [] = true → s.Reads [a] [n] t →
       (256 ≤ n.toNat ∨ live n.toNat = none ∨ (live n.toNat = some h ∧ h.team ≠ s.myTeam) →
         exec (.thevict a) s = .next (s.trapped { cls := 4, detail := 13 }) ∧ exec (.thdemote a) s = .next (s.trapped { cls := 4, detail := 13 })) ∧
       (n.toNat < 256 → live n.toNat = some h → h.team = s.myTeam →
         exec (.thdemote a) s = .next (with_ t n.toNat (some { h with prio := 0 })).done ∧
         (t.tensorBusy h = false → exec (.thevict a) s = .next (with_ (t.evictTensor part h) n.toNat none).done) ∧
         (t.tensorBusy h = true → exec (.thevict a) s = .next (s.noteStall .other)))) ∧
     (s.clear [a] [d] [] [] = true → s.Reads [a] [n] t →
       let value := match n.toNat with
         | 0 => if isService (coreOf s.cur) then 0x4073 else if broadCore (coreOf s.cur) then 0x1E43FF else 0x143FF
         | 1 => 0x30001
         | 2 => 8 * ((List.range 128).filter (fun r => (s.part part).ridges.testBit r)).length
         | 3 => (s.part part).slices.length
         | 4 => (s.team s.myTeam).members.length
         | 5 => s.eff 6 s.me.rcba.toNat * 1000
         | 6 => 16
         | 7 => 256 - ((List.range 256).filter (fun k => (live k).isSome)).length
         | _ => 0
       exec (.xprobe d a) s = .next (t.put d (BitVec.ofNat 64 value)).done))
/-! ### Streams, remote atomics, regions, requests (page 6) -/

/-- R273, R274, R276, R277, R280, R284 and R296: a stream store sends its bytes as packets of at most 256, in address order, to the one package or
core that its addresses name; each takes the next sequence number and counts in k.UNACK, and no byte of memory changes. A bad address, class or
stream raises its cause.
The model's own choices in it: logs 18, 21, 42 and 94. -/
def Obligations.StreamStores : Prop :=
  ∀ (s t u v w : State) (d a b : GReg) (vd : VReg) (imm : Int) (sid : Fin 64) (cls : Fin 4) (base x : Word) (desc data : List Byte) (dest : Dest)
    (addr : Word) (l : Leaf) (n : Nat) (c : Trap),
    let ready (u : State) : Prop := u.me.task = none ∧ u.me.choice = 0 ∧ u.me.region = none ∧ cls.val < 2 ∧
      (u.me.sender sid.val dest).broken = false ∧ (u.me.strc[sid.val]?).getD 0 = 0
    let sends (u v : State) (data : List Byte) : Prop :=
      let k := (data.length + 255) / 256
      v.packets.take s.packets.length = s.packets ∧
      (v.packets.drop s.packets.length).map Packet.body =
        (List.range k).map (fun i => .store (addr + BitVec.ofNat 64 (256 * i)) ((data.drop (256 * i)).take 256)) ∧
      (∀ p, p ∈ v.packets.drop s.packets.length → p.sid = sid.val ∧ p.cls = cls.val ∧ p.dest = dest ∧ p.state = .sent ∧ p.src = some s.cur ∧
        p.epoch = (s.part s.me.part).fepoch) ∧
      v.me.unack = s.me.unack + BitVec.ofNat 64 k ∧ (v.me.sender sid.val dest).next = ((u.me.sender sid.val dest).next + k) % 2 ^ 24 ∧
      v.mem = s.mem ∧ s.keepsOthers v s.cur ∧ t.keepsRegisters v [] [] [48]
    (s.clear [a, d] [] [] [] = true → s.Reads [a, d] [base, x] t →
      let ea : Word := base + BitVec.ofInt 64 (imm * 8)
      (cls.val = 3 → exec (.rst d a imm sid cls) s = .next (s.trapped (s.me.withDetail { cls := 0, detail := 9 }))) ∧
      (cls.val ≠ 3 → ea.toNat % 8 ≠ 0 → exec (.rst d a imm sid cls) s = .next (s.trapped { cls := 2, detail := 6, addr := ea })) ∧
      (cls.val ≠ 3 → ea.toNat % 8 = 0 → spans ea 8 t = .error (.trap c) → exec (.rst d a imm sid cls) s = .next (s.trapped (s.me.withDetail c))) ∧
      (ea.toNat % 8 = 0 → spans ea 8 t = .ok ([⟨dest, addr, 0, 8⟩], u) →
        (ready u → ∃ v, exec (.rst d a imm sid cls) s = .next v ∧ sends u v (leBytes 8 x.toNat)) ∧
        (u.me.task = none → u.me.choice = 0 →
          (cls.val = 2 → s.me.event = none → exec (.rst d a imm sid cls) s = .next (s.trapped { cls := 3, detail := 2 })) ∧
          (cls.val < 2 → (u.me.strc[sid.val]?).getD 0 = 0 → (u.me.sender sid.val dest).broken = true →
            exec (.rst d a imm sid cls) s = .next (s.trapped { cls := 3, detail := 9 }))))) ∧
    (s.clear [a] [] [vd] [] = true → s.Reads [a] [base] t →
      let ea : Word := base + BitVec.ofInt 64 (imm * 512)
      ea.toNat % 8 = 0 → spans ea 512 t = .ok ([⟨dest, addr, 0, 512⟩], u) → ready u →
      ∃ v, exec (.rstv vd a imm sid cls) s = .next v ∧ sends u v (leBytes 512 s.me.v[vd.val].toNat)) ∧
    (s.clear [a, b] [] [] [] = true → s.Reads [a, b] [base, x] t → base.toNat % 8 = 0 → loadBytes .load x 16 t = .ok (desc, u) →
      n = leNat (desc.drop 8) →
      (cls.val ≠ 3 → n < 8 ∨ 65536 < n ∨ n % 8 ≠ 0 → exec (.rstm a b sid cls) s = .next (s.trapped { cls := 4, detail := 5 })) ∧
      (8 ≤ n → n ≤ 65536 → n % 8 = 0 → spans base n u = .ok ([⟨dest, addr, 0, n⟩], v) →
        loadBytes .load (BitVec.ofNat 64 (leNat (desc.take 8))) n v = .ok (data, w) → data.length = n → ready w →
        ∃ z, exec (.rstm a b sid cls) s = .next z ∧ sends w z data)) ∧
    (∀ ea : Word,
      (isAperture ea = true → t.apertureCore t.me.part ea = none → spans ea n t = .error (.trap { cls := 2, detail := 5, addr := ea })) ∧
      (∀ core, isAperture ea = true → t.apertureCore t.me.part ea = some core →
        (t.served t.me.part core = none → spans ea n t = .ok ([⟨.core core, ea, 0, n⟩], t)) ∧
        (∀ v, t.served t.me.part core = some v →
          (field ea 20 0 + n ≤ v.size → spans ea n t = .ok ([⟨.core core, ea, 0, n⟩], t)) ∧
          (v.size < field ea 20 0 + n → spans ea n t = .error (.trap { cls := 2, detail := 4, addr := ea })))) ∧
      (isAperture ea = false → isService (coreOf t.cur) = false → 0 < n → translate .store ea.toNat t = .ok (l, u) →
        (l.isRemote = false → spans ea n t = .error (.trap { cls := 3, detail := 1 })) ∧
        (l.isRemote = true → l.gid ∉ t.podMap.map Prod.fst → spans ea n t = .error (.trap { cls := 3, detail := 8 })) ∧
        (l.isRemote = true → l.gid ∈ t.podMap.map Prod.fst → ea.toNat + n ≤ l.page + l.size →
          spans ea n t = .ok ([⟨.package l.gid, l.dest ea.toNat, 0, n⟩], u))))

/-- R280, R281, R297 and R301: a remote atomic sends one packet and its register waits for the result, which its return writes, leaving k.UNACK;
rsetc and rclose send a packet to the counter of their stream, and a stream with no counter raises trap(3, 10).
The model's own choices in it: logs 18 and 21. -/
def Obligations.RemoteAtomics : Prop :=
  ∀ (s t u : State) (i : Instr) (d a b : GReg) (la : La) (sid : Fin 64) (cls : Fin 4) (ea x new w : Word) (dest : Dest) (addr : Word)
    (size id : Nat) (body : PacketBody) (p : Packet) (q : Pending) (c : CtxId),
    let counter := (t.me.strc[sid.val]?).getD 0
    let plain (u : State) : Prop := u.me.task = none ∧ u.me.choice = 0 ∧ u.me.region = none ∧ cls.val < 2 ∧
      (u.me.sender sid.val dest).broken = false
    let sends (u v : State) (body : PacketBody) (counter : Word) : Prop :=
      ∃ p, v.packets = s.packets ++ [p] ∧ p.body = body ∧ p.id = s.packetNext ∧ p.dest = dest ∧ p.sid = sid.val ∧ p.cls = cls.val ∧
        p.seq = (u.me.sender sid.val dest).next ∧ p.counter = counter ∧ p.state = .sent ∧ p.src = some s.cur ∧
        v.me.unack = s.me.unack + 1 ∧ v.mem = s.mem ∧ s.keepsOthers v s.cur
    let issues (i : Instr) (body : PacketBody) : Prop :=
      spans ea size t = .ok ([⟨dest, addr, 0, size⟩], u) → plain u → (u.me.strc[sid.val]?).getD 0 = 0 →
      ∃ v, exec i s = .next v ∧ sends u v body 0 ∧
        v.me.pend = u.me.pend.map Pending.tick ++ [⟨.remote d s.packetNext, 0, 0, if u.me.status.getLsbD 2 then 0 else la.val, s.me.pc, if isPort d then some (u.reservePlace u.cur d).2 else none⟩]
    (s.clear [a, b] [d] [] [] = true → s.Reads [a, b] [ea, x] t →
      (i, size, body) ∈ [(Instr.raadd d a b la sid cls, 8, PacketBody.atomAdd addr x), (.rafadd d a b la sid cls, 4, .atomFadd addr x),
        (.raxchg d a b la sid cls, 8, .atomXchg addr x)] →
      (cls.val ≠ 3 → ea.toNat % size ≠ 0 → exec i s = .next (s.trapped { cls := 2, detail := 6, addr := ea })) ∧ (ea.toNat % size = 0 → issues i body)) ∧
    (s.clear [a, d, d + 1] [d] [] [] = true → s.Reads [a, d, d + 1] [ea, x, new] t → size = 8 → ea.toNat % 8 = 0 →
      issues (.racas d a la sid cls) (.atomCas addr x new)) ∧
    (s.packet id = some p → p.state = .committed → isAtomicBody p.body = true → p.src = some c → (s.ctx c).source = p.owner →
      (s.ctx c).awaiting id = some q → q.target = .remote d id → q.place = none → isPort d = false → d ≠ 0 →
      ∃ v, exec (.remoteAtomicResult id) s = .next v ∧ (v.ctx c).rd d = p.result ∧ (v.ctx c).unack = (s.ctx c).unack - 1 ∧
        (v.ctx c).awaiting id = none ∧ v.packet id = none ∧ v.mem = s.mem ∧ s.keepsOthers v c) ∧
    (s.clear [a, b] [] [] [] = true → s.Reads [a, b] [w, x] t → destOf w false t = .ok (dest, t) →
      (cls.val < 2 → counter = 0 → exec (.rsetc a b sid cls) s = .next (s.trapped { cls := 3, detail := 10 })) ∧
      (512 ≤ x.toNat → exec (.rclose a b sid cls) s = .next (s.trapped (s.me.withDetail { cls := 0, detail := 9 }))) ∧
      (plain t → isAperture counter = true → counter.toNat % 8 = 0 → field counter 63 57 = 0 → field counter 37 21 = 0 →
        (∃ v, exec (.rsetc a b sid cls) s = .next v ∧ sends t v (.setCounter x) counter) ∧
        (x.toNat < 512 → ∃ v, exec (.rclose a b sid cls) s = .next v ∧ sends t v (.close (x.getLsbD 8) (field x 7 0)) counter))) ∧
    (let gid := field w 36 16
     let own := s.pod * 1024 + s.accel
     (field w 63 37 ≠ 0 ∨ field w 15 10 ≠ 0 → destOf w false s = .error (.trap { cls := 0, detail := 9 })) ∧
     (field w 63 37 = 0 → field w 15 10 = 0 →
       (gid = own → s.inPart s.me.part (field w 9 0) = true → destOf w false s = .ok (.core (field w 9 0), s)) ∧
       (gid = own → s.inPart s.me.part (field w 9 0) = false → destOf w false s = .error (.trap { cls := 3, detail := 8 })) ∧
       (gid ≠ own → field w 9 0 ≠ 0 → destOf w false s = .error (.trap { cls := 0, detail := 9 })) ∧
       (gid ≠ own → field w 9 0 = 0 → gid ∈ s.podMap.map Prod.fst → destOf w false s = .ok (.package gid, s)) ∧
       (gid ≠ own → field w 9 0 = 0 → gid ∉ s.podMap.map Prod.fst → destOf w false s = .error (.trap { cls := 3, detail := 8 }))))

/-- R287 to R289, R298 and R323: rbegin opens a region with a record of its choice point, trail and g1 to g55; rcommit ends it once everything it
sent is acknowledged; a region whose time has passed has failed, and the failure undoes the attempt, counts it in k.RFAIL and goes back to the
bundle after rbegin.
The model's own choices in it: log 44. -/
def Obligations.FabricRegions : Prop :=
  ∀ (s : State) (r : Region) (w : Word),
    let top := s.me.trailTop.toNat
    let loc := bankLoc (bankOf s.cur) top
    (s.clear snapshotRegs [] [] [] = true → s.me.speculates = false →
      (s.me.region = some r → exec .rbegin s = .next (s.trapped { cls := 3, detail := 4 })) ∧
      (s.me.region = none → s.me.trailLim.toNat < top + 512 → exec .rbegin s = .next (s.trapped { cls := 5, detail := 2 })) ∧
      (s.me.region = none → top + 512 ≤ s.me.trailLim.toNat →
        ∃ u, exec .rbegin s = .next u ∧ u.me.region = some ⟨top, s.me.npc, [], 0, none, (s.part s.me.part).clock⟩ ∧ u.me.rfail = 0 ∧
          u.me.trailTop = s.me.trailTop + 512 ∧ u.me.pc = s.me.npc ∧ u.word loc = 5 ∧ u.word (loc + 8) = s.me.choice ∧
          u.word (loc + 16) = s.me.trailTop ∧ (∀ r : GReg, 1 ≤ r.val → r.val ≤ 55 → u.word (loc + 56 + 8 * r.val) = s.me.rd r) ∧
          s.keepsMemory u ((List.range 512).map (loc + ·)) ∧ s.keepsOthers u s.cur ∧ s.keepsRegisters u [] [] [32, 49])) ∧
    (s.clear snapshotRegs [] [] [] = true → s.me.speculates = true → exec .rbegin s = .next (s.noteStall .earliest)) ∧
    (s.me.speculates = true → exec .rcommit s = .next (s.noteStall .earliest)) ∧
    (s.me.speculates = false → s.me.region = none → exec .rcommit s = .next (s.trapped { cls := 3, detail := 5 })) ∧
    (s.me.speculates = false → s.me.region = some r →
      (r.failed ≠ none ∨ s.regionOwes = true → exec .rcommit s = .next (s.noteStall .other)) ∧
      (r.failed = none → s.regionOwes = false →
        (s.me.task = none → s.me.choice = 0 →
          exec .rcommit s = .next (s.setMe { s.me with trailTop := s.me.trailBase, region := none }).done) ∧
        (s.me.task ≠ none ∨ s.me.choice ≠ 0 → r.uses = [] →
          ∃ u, exec .rcommit s = .next u ∧ u.me.region = none ∧ u.me.trailTop = s.me.trailTop ∧ u.load (bankLoc (bankOf s.cur) r.record) 1 = 13 ∧
            s.keepsMemory u [bankLoc (bankOf s.cur) r.record] ∧ s.keepsOthers u s.cur)) ∧
      (r.failed = none → bankOf s.cur = s.activeBank (coreOf s.cur) →
        (s.part s.me.part).rgto * 1000 ≤ (s.part s.me.part).clock - r.started →
        exec .regionTimeout s = .next (s.setMe { s.me with region := some { r with failed := some 3 } }).stepped) ∧
      (r.failed = some w → s.me.run = .running → s.isActive s.cur = true → s.halted s.cur = false → s.me.pend = [] →
        s.entriesFree (s.myLoc 0) s.me (r.record + 512) = true → s.restores (s.myLoc 0) s.me (r.record + 512) = [] →
        ∃ u r', exec .regionFailure s = .next u ∧ u.me.pc = r.resume ∧ u.me.run = .running ∧ u.me.wait = .none ∧
          u.me.rfail = w ||| BitVec.ofNat 64 (min 255 (r.tries + 1) * 256) ∧ u.me.region = some r' ∧ r'.failed = none ∧
          r'.tries = min 255 (r.tries + 1) ∧ r'.record = r.record ∧ r'.resume = r.resume ∧
          u.me.choice = s.word (bankLoc (bankOf s.cur) (r.record + 8)) ∧ u.me.trailTop = BitVec.ofNat 64 (r.record + 512) ∧
          (∀ g : GReg, 1 ≤ g.val → g.val ≤ 55 → u.me.rd g = s.word (bankLoc (bankOf s.cur) (r.record + 56 + 8 * g.val))) ∧
          (∀ x, r.uses = [x] → (u.me.sender x.sid x.dest).next = x.start) ∧ u.mem = s.mem))

/-- R285, R286, R291, R292, R299 and R300: rreq takes the lowest free tag and sends a record with its tag, epoch and source; the record enters S6 of
its core; a tag whose reply does not come in time is freed and its epoch advances. rsl adds a checked entry to the die's send list, and rslgo
sends the context's entries, each behind its header, and empties its list.
The model's own choices in it: logs 42, 93 and 94. -/
def Obligations.RequestsAndSends : Prop :=
  ∀ (s t u v : State) (d a b : GReg) (w ea : Word) (dest : Dest) (ws : List Word) (n : Nat) (r : Request) (c : CoreId) (at_ : Served) (bytes : List Byte)
    (e : SendEntry) (ps : List Span) (addr : Word) (i : Nat),
    let core := coreOf s.cur
    let k := s.myCore
    let die := dieOf core
    (s.clear [a, b] [d] [] [] = true → s.Reads [a, b] [w, ea] t → destOf w true t = .ok (dest, t) → s.me.task = none → loadBlock ea t = .ok (ws, u) →
      let w0 := ws.getD 0 0
      (w0 &&& ~~~0xFF0000000000#64 ≠ 0 → exec (.rreq d a b) s = .next (s.trapped { cls := 3, detail := 7 })) ∧
      (w0 &&& ~~~0xFF0000000000#64 = 0 → (∀ j, j < 64 → (k.tag j).busy = true) → exec (.rreq d a b) s = .next (s.noteStall .other)) ∧
      (w0 &&& ~~~0xFF0000000000#64 = 0 → n < 64 → (k.tag n).busy = false → (∀ j, j < n → (k.tag j).busy = true) → s.me.choice = 0 →
        ∃ v r, exec (.rreq d a b) s = .next v ∧ v.requests = s.requests ++ [r] ∧ r.dest = dest ∧ r.src = some s.cur ∧ r.team = s.myTeam ∧
          r.words = (BitVec.ofNat 64 ((k.tag n).epoch * 2 ^ 56 + n * 2 ^ 48 + ctxNum s.cur * 2 ^ 37 + (s.pod * 1024 + s.accel) * 2 ^ 16 + placeOf core)
            ||| w0) :: ws.drop 1 ∧
          (v.core core).tag n = ⟨true, (k.tag n).epoch, ws.getD 2 0, s.me.source, s.me.part, s.me.region.isSome, (s.part s.me.part).clock⟩ ∧
          (isPort d = false → d ≠ 0 → v.me.rd d = BitVec.ofNat 64 ((k.tag n).epoch * 256 + n)) ∧ v.mem = s.mem ∧ s.keepsOthers v s.cur)) ∧
    (s.requests[n]? = some r → r.dest = .core c → s.teamAt c r.team = some at_ → at_.image = 0 → (s.bank at_.bank).open = true →
      s.behindRequest n r = false →
      (16 ≤ (s.bank at_.bank).s6.length → exec (.requestArrive n) s = .next s) ∧
      ((s.bank at_.bank).s6.length < 16 → ∃ t, exec (.requestArrive n) s = .next t ∧ (t.bank at_.bank).s6 = (s.bank at_.bank).s6 ++ [r.words] ∧
        t.requests = s.requests.eraseIdx n ∧ t.mem = s.mem)) ∧
    (let x := (s.core s.focus).tag n
     x.busy = true → (s.part x.part).rqto * 1000 ≤ (s.part x.part).clock - x.taken →
     ∃ t, exec (.requestTimeout n) s = .next t ∧ ((t.core s.focus).tag n).busy = false ∧ ((t.core s.focus).tag n).epoch = (x.epoch + 1) % 256 ∧
       t.mem = s.mem ∧ t.ctxs = s.ctxs) ∧
    (s.clear [a, b] [] [] [] = true → s.Reads [a, b] [w, ea] t →
      (s.me.region ≠ none → exec (.rsl a b) s = .next (s.trapped { cls := 3, detail := 6 })) ∧
      (s.me.region = none → destOf w false t = .ok (dest, t) → field w 36 16 / 1024 = s.pod → ea.toNat % 32 = 0 →
        loadBytes .load ea 32 t = .ok (bytes, u) →
        let ws := (List.range 4).map (fun i => BitVec.ofNat 64 (leNat ((bytes.drop (8 * i)).take 8)))
        (sendEntry (field w 36 16 % 1024) s.me.source ws = none → exec (.rsl a b) s = .next (s.trapped { cls := 3, detail := 7 })) ∧
        (sendEntry (field w 36 16 % 1024) s.me.source ws = some e → isAperture e.dst = true →
          exec (.rsl a b) s = .next (s.trapped { cls := 3, detail := 7 })) ∧
        (sendEntry (field w 36 16 % 1024) s.me.source ws = some e → keepPins (entrySpans e.dst (16 + e.len)) u = .ok (ps, v) →
          (∀ p, p ∈ ps → p.dest = dest ∨ (p.dest = .package s.gid ∧ field w 36 16 = s.gid)) →
          s.me.task = none → s.me.choice = 0 →
          (8192 ≤ (s.die die).sends.length → exec (.rsl a b) s = .next (s.noteStall .other)) ∧
          ((s.die die).sends.length < 8192 → ∃ z, exec (.rsl a b) s = .next z ∧ (z.die die).sends = (s.die die).sends ++ [e] ∧
            z.packets = s.packets ∧ z.mem = s.mem ∧ s.keepsOthers z s.cur)))) ∧
    (s.me.region ≠ none → exec .rslgo s = .next (s.trapped { cls := 3, detail := 6 })) ∧
    (s.me.region = none → s.me.task = none → s.me.choice = 0 →
      (s.mySends = [] → ∃ z, exec .rslgo s = .next z ∧ z.packets = s.packets ∧ z.mem = s.mem ∧ s.keepsOthers z s.cur) ∧
      (s.mySends = [(e, i)] → loadBytes .engineRead e.src e.len s = .ok (bytes, t) → bytes.length = e.len →
        spans e.dst (16 + e.len) t = .ok ([⟨dest, addr, 0, 16 + e.len⟩], u) → e.cls < 2 → (u.me.sender e.sid dest).broken = false →
        (u.me.strc[e.sid]?).getD 0 = 0 →
        let data := leBytes 8 (e.tag * 2 ^ 32 + e.len * 2 ^ 16 + i) ++
          leBytes 8 (ctxNum s.cur * 2 ^ 37 + (s.pod * 1024 + s.accel) * 2 ^ 16 + placeOf core) ++ bytes
        ∃ z, exec .rslgo s = .next z ∧ z.packets.take s.packets.length = s.packets ∧
          (z.packets.drop s.packets.length).map Packet.body =
            (List.range ((data.length + 255) / 256)).map (fun i => .routed (addr + BitVec.ofNat 64 (256 * i)) ((data.drop (256 * i)).take 256)) ∧
          (z.die die).sends = (s.die die).sends.filter (fun e => e.source != s.me.source) ∧ z.mem = s.mem))

/-- R278 to R281, R284, R286 and R297: a packet commits in the order of its numbers: one with a stale epoch is dropped and counted, one already
committed has no effect, one above the next waits, and the next performs its store or atomic and adds its bytes to its counter; a reply's
counter is its tag's, its close marker frees the tag, and a reply whose tag is gone is dropped and counted as late. An acknowledgement leaves
k.UNACK; a dropped atomic is never acknowledged; a failure breaks its stream and gives its context trap(3, 9), or is noted by its region, in which
it still counts in k.UNACK; a packet above a gap is dropped, and counted as stale, once the partition's region timeout has passed.
The model's own choices in it: logs 39, 41, 78, 91 and 92. -/
def Obligations.StreamCommits : Prop :=
  ∀ (s : State) (id : Nat) (p : Packet) (c : CtxId) (addr x : Word) (data : List Byte) (locs : List Nat) (core : CoreId) (loc : Nat) (r : Region)
    (sid : Nat) (dest : Dest),
    let part := s.part p.part
    let next := (s.receiver p).next
    let ahead := (p.seq + 2 ^ 24 - next) % 2 ^ 24
    let stateOf (t : State) : Option PacketState := (t.packet id).map Packet.state
    let counts (t : State) (off : Nat) : Prop :=
      let a := s.ptab.toNat + 128 * p.part + off
      stateOf t = some .dropped ∧ t.load a 8 = (s.load a 8 + 1) % 2 ^ 64 ∧ s.keepsMemory t ((List.range 8).map (a + ·)) ∧
        (t.receiver p).next = next
    let free (locs : List Nat) : Prop := ∀ l, l ∈ linesOf locs → l ∉ s.claims ∧ s.marksOf l = ⟨[], []⟩
    (isAtomicBody p.body = false →
      (p.cls ≠ 2 → s.counterAddr p = p.counter) ∧
      (p.cls = 2 → s.tagCore p = some core → s.counterAddr p = ((s.core core).tag p.sid).rcnt)) ∧
    (p.dest = .core core → ((s.core core).tag p.sid).busy = true → ((s.core core).tag p.sid).epoch = p.epoch → s.tagCore p = some core) ∧
    (s.packet id = some p → ofStream p = true → p.state = .sent → s.isHere p = true → part.valid = true →
      (p.cls ≠ 2 → p.epoch ≠ part.fepoch → ∃ t, exec (.streamCommit id) s = .next t ∧ counts t 72) ∧
      (p.cls = 2 → ahead < 2 ^ 23 → s.tagCore p = none → ∃ t, exec (.streamCommit id) s = .next t ∧ counts t 80) ∧
      (p.cls = 2 → s.tagCore p = some core → ahead = 0 → s.commitMoves p = false → s.behindOwn p = false → ∀ hid, p.body = .close false hid →
        s.counterAddr p ≠ 0 → s.counterLoc p.part (s.counterAddr p) = some (c, loc) → free (run loc 8) →
        ∃ t, exec (.streamCommit id) s = .next t ∧ stateOf t = some .committed ∧ t.load loc 8 = (s.load loc 8 + 2 ^ 48) % 2 ^ 64 ∧
          ((t.core core).tag p.sid).busy = false ∧ ((t.core core).tag p.sid).epoch = (p.epoch + 1) % 256 ∧ s.keepsMemory t (run loc 8)) ∧
      ((p.cls = 2 ∧ s.tagCore p ≠ none) ∨ (p.cls ≠ 2 ∧ p.epoch = part.fepoch) →
        (2 ^ 23 ≤ ahead → isAtomicBody p.body = false → ∃ t, exec (.streamCommit id) s = .next t ∧ stateOf t = some .committed ∧ t.mem = s.mem) ∧
        (0 < ahead → ahead < 2 ^ 23 → exec (.streamCommit id) s = .next s) ∧
        (ahead = 0 → s.commitMoves p = false → s.behindOwn p = false → free locs → (p.strong = true → s.mixedFor p.owner locs = []) →
          (p.body = .store addr data → s.destLocs p addr data.length = some locs → s.counterAddr p = 0 →
            ∃ t, exec (.streamCommit id) s = .next t ∧ stateOf t = some .committed ∧ (t.receiver p).next = (next + 1) % 2 ^ 24 ∧
              t.mem = (locs.zip data).foldl (fun m q => m.write q.1 q.2) s.mem) ∧
          (p.body = .store addr data → s.destLocs p addr data.length = some locs → s.counterAddr p ≠ 0 →
            s.counterLoc p.part (s.counterAddr p) = some (c, loc) → free (run loc 8) → (∀ l, l ∈ run loc 8 → l ∉ locs) →
            ∃ t, exec (.streamCommit id) s = .next t ∧ stateOf t = some .committed ∧ t.load loc 8 = (s.load loc 8 + data.length) % 2 ^ 64 ∧
              s.keepsMemory t (locs ++ run loc 8)) ∧
          (p.body = .atomAdd addr x → s.destLocs p addr 8 = some locs → locs.Nodup →
            ∃ t, exec (.streamCommit id) s = .next t ∧ (t.packet id).map Packet.result = some (BitVec.ofNat 64 (s.numberAt locs)) ∧
              stateOf t = some .committed ∧ t.numberAt locs = (s.numberAt locs + x.toNat) % 2 ^ 64 ∧ s.keepsMemory t locs)) ∧
        (ahead = 0 → s.commitMoves p = false → s.behindOwn p = false → p.body = .store addr data → s.counterAddr p = 0 → s.destLocs p addr data.length = none →
          ∃ t, exec (.streamCommit id) s = .next t ∧ stateOf t = some .refused ∧ t.mem = s.mem))) ∧
    (s.packet id = some p → ofStream p = true → p.src = some c → (s.ctx c).source = p.owner → (s.ctx c).awaiting id = none →
      (isAtomicBody p.body = false → p.state = .dropped ∨ p.state = .committed →
        ∃ t, exec (.streamAck id) s = .next t ∧ (t.ctx c).unack = (s.ctx c).unack - 1 ∧ t.packet id = none ∧ t.mem = s.mem ∧ s.keepsOthers t c) ∧
      (isAtomicBody p.body = true → exec (.streamAck id) s = .next s) ∧
      (p.region = false → ∃ t, exec (.fabricFailure id) s = .next t ∧ (t.ctx c).unack = (s.ctx c).unack - 1 ∧ t.packet id = none ∧
        ((t.ctx c).sender p.sid p.dest).broken = true ∧ ((s.ctx c).faulted = none → (t.ctx c).faulted = some { cls := 3, detail := 9, precise := false }) ∧
        t.mem = s.mem ∧ s.keepsOthers t c) ∧
      (∀ g, p.region = true → (s.ctx c).region = some r → r.failed = none → p.dest = .package g → p.state = .sent →
        ∃ t, exec (.fabricFailure id) s = .next t ∧ stateOf t = some .failed ∧ (t.ctx c).unack = (s.ctx c).unack ∧
          (t.ctx c).region = some { r with failed := some (BitVec.ofNat 64 (p.sid * 2 ^ 52 + g * 2 ^ 31 + 1)) } ∧ t.mem = s.mem)) ∧
    (s.packet id = some p → p.state = .sent → ofStream p = true → s.isHere p = true → 0 < ahead → ahead < 2 ^ 23 → s.gapFilled p = false →
      part.rgto * 1000 ≤ part.clock - p.sentAt → ∃ t, exec (.streamGapTimeout id) s = .next t ∧ counts t 72) ∧
    exec (.brokenStreamClear sid dest) s = .next (s.setMe (s.me.setSender { s.me.sender sid dest with broken := false })).stepped

/-! ### Contours (page 8) -/

/-- R321, R326 to R328, R337, R340 and R346 to R352: a contour write waits while its task is speculative, checks its slot word and fields, and
then its slot alone changes: cvdef defines an undefined or stopped slot from its block, cvslope, cvquant, cvfan and cvguard install their
fields, cvrun starts and cvstop stops it; an ordered task's cvslope, cvquant, cvrun and cvstop advance the slot to the task's time first.
cvread reads a field, and a speculative task's marks the slot. A bad slot, state, quantum, list or guard raises its class 6 cause.
The model's own choices in it: log 47. -/
def Obligations.ContourInstructions : Prop :=
  ∀ (s t u : State) (a b d : GReg) (idx x : Word) (bytes : List Byte) (n : Nat) (r : TaskRun),
    let k := s.myBank.slot n
    let word (i : Nat) : Nat := leNat ((bytes.drop (8 * i)).take 8)
    let goes := s.me.speculates = false ∧ ∀ q v, s.me.task = some q → s.myCore.survey = some v → q.task.time.toNat ≤ v.time.toNat
    let becomes (i : Instr) (k' : Slot) : Prop := ∃ v, exec i s = .next v ∧ v.myBank.slot n = k' ∧
      (∀ m, m ≠ n → v.myBank.slot m = s.myBank.slot m) ∧ v.mem = s.mem ∧ t.keepsRegisters v [] [] []
    let raises (i : Instr) (detail : Nat) : Prop := exec i s = .next (s.trapped { cls := 6, detail := detail })
    let now := match s.me.task with | some r => r.task.time | none => k.t
    let k0 := if s.me.task.isSome then k.advance now else k
    let v32 : BitVec 32 := x.setWidth 32
    let closed := k.state = .undefined ∨ (k.state = .running ∧ s.me.task = none)
    (s.clear [a, b] [] [] [] = true → s.Reads [a, b] [idx, x] t → s.me.speculates = true →
      ∀ i, i ∈ [Instr.cvdef a b, .cvslope a b, .cvquant a b, .cvfan a b, .cvguard a b, .cvrun a, .cvstop a] →
        exec i s = .next (s.noteStall .earliest)) ∧
    (s.clear [a, b] [] [] [] = true → s.Reads [a, b] [idx, x] t → goes →
      (1024 ≤ idx.toNat → ∀ i, i ∈ [Instr.cvdef a b, .cvslope a b, .cvquant a b, .cvfan a b, .cvguard a b] → raises i 0) ∧
      (idx.toNat = n → n < 1024 →
        (k.state = .running ∨ k.state = .parked → raises (.cvdef a b) 1) ∧
        (k.state = .undefined ∨ k.state = .stopped → x.toNat % 32 = 0 → loadBytes .load x 32 t = .ok (bytes, u) →
          let delta : BitVec 32 := BitVec.ofNat 32 (word 0 / 2 ^ 32)
          (2 ^ 32 ≤ word 1 ∨ word 3 ≠ 0 → raises (.cvdef a b) 7) ∧
          (word 1 < 2 ^ 32 → word 3 = 0 → delta = 0 ∨ 0x7F800000 ≤ delta.toNat → raises (.cvdef a b) 2) ∧
          (word 1 < 2 ^ 32 → word 3 = 0 → delta ≠ 0 → delta.toNat < 0x7F800000 → s.me.choice = 0 →
            becomes (.cvdef a b) { k with
              state := .stopped, q := BitVec.ofNat 32 (word 0), x := BitVec.ofNat 32 (word 0), slope := BitVec.ofNat 32 (word 1), delta := delta
              t := BitVec.ofNat 64 (word 2), tn := BitVec.allOnes 64, fcount := 0, limit := 0, gcount := 0, window := 0
              wstart := BitVec.ofNat 64 (word 2) })) ∧
        (x.toNat < 2 ^ 32 → closed → raises (.cvslope a b) 1 ∧ raises (.cvquant a b) 1) ∧
        (2 ^ 32 ≤ x.toNat → raises (.cvslope a b) 0 ∧ raises (.cvquant a b) 0) ∧
        (x.toNat < 2 ^ 32 → ¬closed → (v32 = 0 ∨ 0x7F800000 ≤ v32.toNat → raises (.cvquant a b) 2)) ∧
        (x.toNat < 2 ^ 32 → ¬closed → s.me.choice = 0 →
          let due (k : Slot) : Slot := if k.state = .running then k.schedule else k
          becomes (.cvslope a b) (due { k0 with slope := v32 }) ∧
          (v32 ≠ 0 → v32.toNat < 0x7F800000 → becomes (.cvquant a b) (due { k0 with delta := v32 }))) ∧
        (closed → raises (.cvfan a b) 1 ∧ raises (.cvguard a b) 1) ∧
        (¬closed →
          let off := field x 20 0
          let count := field x 39 32
          let fits := field x 63 40 = 0 ∧ field x 31 21 = 0 ∧ off % 8 = 0 ∧ off + 8 * count ≤ s.scratchSize (bankOf s.cur)
          let unclaimed := s.fanoutFree (bankOf s.cur) off count
          let listed := ∀ i, i < count → s.fanoutOk s.myTeam (s.load (bankLoc (bankOf s.cur) (off + 8 * i)) 8) = true
          (¬fits → raises (.cvfan a b) 4) ∧
          (fits → unclaimed = false → exec (.cvfan a b) s = .next (s.noteStall .other)) ∧
          (fits → unclaimed = true → ¬listed → raises (.cvfan a b) 4) ∧
          (fits → unclaimed = true → listed → s.me.choice = 0 → becomes (.cvfan a b) { k with fcount := count, fanout := off }) ∧
          (field x 63 48 ≠ 0 ∨ (field x 39 32 ≠ 0 ∧ field x 31 0 = 0) → raises (.cvguard a b) 5) ∧
          (field x 63 48 = 0 → field x 39 32 = 0 ∨ field x 31 0 ≠ 0 → s.me.choice = 0 → becomes (.cvguard a b) { k with
            ghid := field x 47 40, limit := field x 39 32, window := field x 31 0, gcount := 0, wstart := k.t })))) ∧
    (s.clear [a] [] [] [] = true → s.Reads [a] [idx] t → goes →
      (1024 ≤ idx.toNat → raises (.cvrun a) 0 ∧ raises (.cvstop a) 0) ∧
      (idx.toNat = n → n < 1024 →
        let started : Slot := match k.state with
          | .stopped => ({ k0 with state := .running } : Slot).schedule
          | .parked =>
            let k' := ({ k with state := .running, gcount := 0, wstart := k.tn } : Slot).schedule
            { k' with tn := BitVec.ofNat 64 (max k'.tn.toNat k.tn.toNat) }
          | _ => k
        let ended : Slot := match k.state with
          | .running => { k0 with slope := 0, tn := BitVec.allOnes 64, state := .stopped }
          | .parked => { k with slope := 0, tn := BitVec.allOnes 64, state := .stopped }
          | _ => k
        (closed → raises (.cvrun a) 1 ∧ raises (.cvstop a) 1) ∧
        (¬closed → k.state ≠ .running → s.stale n started = true → raises (.cvrun a) 3) ∧
        (¬closed → k.state = .running ∨ s.stale n started = false → s.me.choice = 0 → becomes (.cvrun a) started) ∧
        (¬closed → s.me.choice = 0 → becomes (.cvstop a) ended))) ∧
    (s.clear [a] [d] [] [] = true → s.Reads [a] [idx] t →
      (field idx 63 19 ≠ 0 ∨ field idx 15 10 ≠ 0 → raises (.cvread d a) 0) ∧
      (field idx 63 19 = 0 → field idx 15 10 = 0 → n = field idx 9 0 →
        let value : Word := if k.state = .undefined then 0 else
          match field idx 18 16 with
          | 0 => k.q.setWidth 64
          | 1 => k.x.setWidth 64
          | 2 => k.slope.setWidth 64
          | 3 => k.delta.setWidth 64
          | 4 => k.t
          | 5 => k.tn
          | 6 => (k.xAt now).setWidth 64
          | _ => k.control
        (s.me.speculates = false → exec (.cvread d a) s = .next (t.put d value).done) ∧
        (s.me.task = some r → r.speculative = true → exec (.cvread d a) s = .next ((t.setBank (bankOf s.cur) { t.bank (bankOf s.cur) with
          slots := (t.bank (bankOf s.cur)).slots.put n { k with marks := (r.task.id :: k.marks).dedup } }).put d value).done)))

/-- R317, R332 to R343 and R353: cvsurvey claims its block and arms its core's survey, or leaves it waiting behind an armed one, until it has fired, and is then an acquire; a
survey fires once the horizon has passed its time, storing every slot's x at that time, and the core's next one is armed; the earliest crossing of a core advances its slot by a quantum and queues its fanout's tasks, or parks at its
limit; a horizon reduction gives the domain's horizon to its cores and frees a waiting earliest task from speculation.
The model's own choices in it: logs 52, 53, 66, 77, 82 and 94. -/
def Obligations.ContourSteps : Prop :=
  ∀ (s t u : State) (a b : GReg) (time ea : Word) (locs : List Nat) (v : Survey) (team n : Nat) (k : Slot) (at_ : Served) (place hid tslot : Nat)
    (c : CtxId) (r : TaskRun),
    let bank := s.activeBank s.focus
    let x := s.bank bank
    let part := (s.team team).part
    let running := (s.part part).stopped = false ∧ part ∉ (s.core s.focus).stopped
    let horizon := min ((s.core s.focus).horizonFor team) (s.horizonOf team)
    (s.me.survey = .armed → exec (.cvsurvey a b) s = .next (s.noteStall .other)) ∧
    (s.me.survey = .fired → exec (.cvsurvey a b) s = .next (s.setMe { s.me.acquire with survey := .none }).done) ∧
    (s.me.survey = .none → s.clear [a, b] [] [] [] = true → s.Reads [a, b] [time, ea] t →
      (s.me.task ≠ none → exec (.cvsurvey a b) s = .next (s.trapped { cls := 6, detail := 8 })) ∧
      (s.me.task = none → ea.toNat % 4096 ≠ 0 → exec (.cvsurvey a b) s = .next (s.trapped { cls := 6, detail := 6 })) ∧
      (s.me.task = none → ea.toNat % 4096 = 0 → locate .store ea 4096 t = .ok (locs, u) → u.unshared locs →
        ∃ w, exec (.cvsurvey a b) s = .next w ∧ w.me.survey = .armed ∧ w.me.pc = s.me.pc ∧ w.mem = s.mem ∧ s.keepsOthers w s.cur ∧
          (coreOf s.cur ∈ w.cores.map Prod.fst → ∀ i, i < 32 → lineOf (locs.headD 0) + i ∈ w.claims) ∧
          (let v : Survey := ⟨time, locs.headD 0, s.myTeam, s.cur, s.me.source, s.myCore.gens.get (fun _ => 0) s.me.part⟩
           (s.myCore.survey ≠ none → w.myCore.survey = s.myCore.survey ∧ w.myCore.waitingSurveys = s.myCore.waitingSurveys ++ [v]) ∧
           (s.myCore.survey = none → s.myCore.waitingSurveys = [] → w.myCore.survey = some v ∧ w.myCore.waitingSurveys = [])))) ∧
    ((s.core s.focus).survey = some v → v.team = team →
      (horizon / 2 ^ 32 ≤ v.time.toNat ∨ (s.team team).sentMsgs ≠ (s.team team).recvMsgs → exec .surveyFire s = .next s) ∧
      (v.time.toNat < horizon / 2 ^ 32 → (s.team team).sentMsgs = (s.team team).recvMsgs → running → s.teamAt s.focus team = some at_ →
        (s.servedBank at_).slots.wf = true → (s.ctx v.ctx).source = v.source → (s.ctx v.ctx).survey = .armed →
        let slots := (s.servedBank at_).slots
        ∃ w, exec .surveyFire s = .next w ∧ (w.core s.focus).survey = (s.core s.focus).waitingSurveys.head? ∧
          (w.core s.focus).waitingSurveys = (s.core s.focus).waitingSurveys.tail ∧ (w.ctx v.ctx).survey = .fired ∧ s.keepsOthers w v.ctx ∧
          (∀ n, ((s.servedBank at_).slot n).state ≠ .undefined →
            w.load (v.dest + 4 * n) 4 = (((s.servedBank at_).slot n).xAt v.time).toNat) ∧
          s.keepsMemory w (slots.flatMap (fun e => run (v.dest + 4 * e.1) 4)))) ∧
    (x.firstRunning = some (n, k) → x.team = some team → k.tn ≠ BitVec.allOnes 64 → (s.core s.focus).survey = none → running →
      (s.core s.focus).active < 2 →
      let h := k.tn.toNat * 2 ^ 32 + s.globalIndex s.focus n
      let level := if k.rising then toF32 ((f32 k.q).add (f32 k.delta)) else toF32 ((f32 k.q).add (f32 k.delta).neg)
      let crossed : Slot := { k with x := level, q := level, t := k.tn }
      (horizon < h → exec .contourCrossing s = .next s) ∧
      (h ≤ horizon →
        (k.limit = 0 → k.fcount = 0 → ∃ w, exec .contourCrossing s = .next w ∧ (w.bank bank).slot n = crossed.schedule ∧
          (∀ m, m ≠ n → (w.bank bank).slot m = x.slot m) ∧ (w.bank bank).s4 = x.s4 ∧ w.mem = s.mem) ∧
        (k.limit = 0 → k.fcount = 1 → fanoutFields (s.load (bankLoc bank k.fanout) 8) = some (s.accel, place, hid, tslot) →
          s.fanoutFree bank k.fanout 1 = true → place ∈ (s.team team).members → s.teamAt place team = some at_ → at_.image = 0 → (s.bank at_.bank).open = true →
          (s.bank at_.bank).s4.length < 64 →
          ∃ w task, exec .contourCrossing s = .next w ∧ (w.bank bank).slot n = crossed.schedule ∧
            (w.bank at_.bank).s4 = (s.bank at_.bank).s4 ++ [.task task] ∧ task.h = h ∧ task.time = k.tn ∧ task.crossing = true ∧ task.team = team ∧
            task.packet = leBytes 8 (s.globalIndex s.focus n * 2 ^ 32 + hid * 256 + 1) ++ leBytes 8 k.tn.toNat ++
              leBytes 8 (k.rising.toNat * 2 ^ 32 + level.toNat) ++ leBytes 8 tslot ∧ w.mem = s.mem) ∧
        (k.limit ≠ 0 → k.tn.toNat < k.wstart.toNat + k.window → k.gcount < k.limit → k.fcount = 0 →
          ∃ w, exec .contourCrossing s = .next w ∧ (w.bank bank).slot n = ({ crossed with gcount := k.gcount + 1 } : Slot).schedule ∧ w.mem = s.mem) ∧
        (k.limit ≠ 0 → k.wstart.toNat + k.window ≤ k.tn.toNat → k.fcount = 0 →
          ∃ w, exec .contourCrossing s = .next w ∧ (w.bank bank).slot n = ({ crossed with wstart := k.tn, gcount := 1 } : Slot).schedule ∧
            w.mem = s.mem) ∧
        (k.limit ≠ 0 → k.tn.toNat < k.wstart.toNat + k.window → k.gcount = k.limit → x.s4.length < 64 →
          ∃ w, exec .contourCrossing s = .next w ∧ (w.bank bank).slot n = { k with state := .parked } ∧
            (w.bank bank).s4 = x.s4 ++ [.avalanche k.ghid [BitVec.ofNat 64 n, k.tn, BitVec.ofNat 64 k.gcount]] ∧ w.mem = s.mem))) ∧
    (∃ w, exec (.horizonReduction team) s = .next w ∧ (∀ m, m ∈ (s.team team).members → (w.core m).horizonFor team = s.horizonOf team) ∧
      ((s.ctx c).task = some r → r.task.team = team → (s.ctx c).wait = .earliest → r.aborted = false → s.earliest r.task = true →
        (w.ctx c).task = some { r with speculative := false }) ∧
      ((s.ctx c).task = some r → s.earliest r.task = false ∨ (s.ctx c).wait ≠ .earliest → w.ctx c = s.ctx c) ∧ w.mem = s.mem ∧ w.banks = s.banks)

/-! ### Page 14, banks and scheduling -/

/-- R373, R374, R386, R388 to R396, R421 and R431: page 14 needs supervisor mode (trap(0, 6)), and some of it a compute or a service core
(trap(7, 10)); tret goes back to k.SEPC in user mode; stage and spill are accepted in staged mode; swapgo exchanges the banks; tlbinv drops
translations and advances the generation; pinrel ends pins; gstop stops or releases a partition; gresume resolves a parked fault; adopt takes a
frozen context.
The model's own choices in it: logs 50, 51, 55 and 57. -/
def Obligations.PrivilegedOperations : Prop :=
  ∀ (s t : State) (a b d : GReg) (x y : Word) (p : Nat) (c : CtxId) (status : Nat),
    let super := s.supervisor s.cur
    let service := isService (coreOf s.cur)
    let core := coreOf s.cur
    let k := s.myCore
    let raises (i : Instr) (cls detail : Nat) : Prop := exec i s = .next (s.trapped (s.me.withDetail { cls := cls, detail := detail }))
    let bit : BitVec 9 := 1#9 <<< x.toNat
    let bit' : BitVec 9 := 1#9 <<< y.toNat
    let unclaimed (r : Word) : Bool := !s.claims.contains (lineOf r.toNat)
    (super = false → ∀ i, i ∈ [Instr.tret, .stage a b, .spill a b, .swapgo, .tlbinv a b, .pinrel a, .gstop a, .gresume a, .adopt d a] → raises i 0 6) ∧
    (service = true → ∀ i, i ∈ [Instr.tret, .stage a b, .spill a b, .swapgo] → raises i 7 10) ∧
    (super = true → service = false → raises (.adopt d a) 7 10 ∧
      exec .tret s = .next (s.setMe { s.me with npc := s.me.sepc, status := s.me.status &&& ~~~1 }).done ∧
      (k.staged = false → raises .swapgo 7 2) ∧
      (k.staged = true → k.valid.getLsbD 8 = false → raises .swapgo 7 5) ∧
      (k.staged = true → k.valid.getLsbD 8 = true →
        (k.busy ≠ 0 → exec .swapgo s = .next (s.noteStall .other)) ∧
        (k.busy = 0 → ∃ u, exec .swapgo s = .next u ∧ (u.core core).active = 1 - k.active ∧ (u.core core).valid = 0x1FF ∧
          ∀ n, n < 8 → s.activeBank core ≠ s.shadowBank core → (u.ctx (ctxIn (s.activeBank core) n)).yreq = BitVec.allOnes 64)) ∧
      (s.clear [a, b] [] [] [] = true → s.Reads [a, b] [x, y] t →
        (k.staged = false → raises (.stage a b) 7 2 ∧ raises (.spill a b) 7 2) ∧
        (k.staged = true →
          (8 < y.toNat → raises (.stage a b) 7 3) ∧
          (y.toNat < 8 → unclaimed x = false → exec (.stage a b) s = .next (s.noteStall .other)) ∧
          (y.toNat ≤ 8 → y.toNat = 8 ∨ unclaimed x → s.stageable x.toNat y.toNat = false → raises (.stage a b) 7 4) ∧
          (y.toNat ≤ 8 → y.toNat = 8 ∨ unclaimed x → s.stageable x.toNat y.toNat = true → k.busy.getLsbD y.toNat = true →
            exec (.stage a b) s = .next (s.noteStall .other)) ∧
          (y.toNat ≤ 8 → y.toNat = 8 ∨ unclaimed x → s.stageable x.toNat y.toNat = true → k.busy.getLsbD y.toNat = false →
            exec (.stage a b) s = .next (t.setCore core { k with
              busy := k.busy ||| bit', valid := k.valid &&& ~~~bit', ops := k.ops ++ [.stage y.toNat x.toNat] }).done) ∧
          (8 < x.toNat ∨ k.valid.getLsbD x.toNat = false → raises (.spill a b) 7 3) ∧
          (x.toNat ≤ 8 → k.valid.getLsbD x.toNat = true → y.toNat % 65536 ≠ 0 → raises (.spill a b) 7 4) ∧
          (x.toNat ≤ 8 → k.valid.getLsbD x.toNat = true → y.toNat % 65536 = 0 → k.busy.getLsbD x.toNat = false →
            exec (.spill a b) s = .next (t.setCore core { k with busy := k.busy ||| bit, ops := k.ops ++ [.spill x.toNat y.toNat] }).done)))) ∧
    (super = true → s.clear [a, b] [] [] [] = true → s.Reads [a, b] [x, y] t →
      let good := field x 11 2 = 0 ∧ field x 1 0 < 2 ∧ (x.getLsbD 0 = true → field x 63 12 = 0) ∧ field y 63 32 = 0
      let gen : BitVec 32 := y.setWidth 32
      let ahead := (gen - k.gens.get (fun _ => 0) s.me.part).toNat
      (¬good → raises (.tlbinv a b) 0 9) ∧
      (good → 2 ^ 31 ≤ ahead → raises (.tlbinv a b) 7 6) ∧
      (good → ahead < 2 ^ 31 → ∃ u, exec (.tlbinv a b) s = .next u ∧ (u.core core).gens.get (fun _ => 0) s.me.part = gen ∧ u.mem = s.mem ∧
        (∀ c e, c = core ∨ c ∈ s.partCores s.me.part → e ∈ (u.core c).tlb → e.part = s.me.part → pageHit x e.page e.size = false) ∧
        (s.retired s.me.part x gen = true → u.me.pc = s.me.npc) ∧ (s.retired s.me.part x gen = false → u.me.pc = s.me.pc))) ∧
    (super = true → s.clear [a] [] [] [] = true → s.Reads [a] [x] t →
      (s.contextAt s.me.part x = none → raises (.pinrel a) 7 3) ∧
      (s.contextAt s.me.part x = some c → s.recordsAt s.me.part x = [] →
        ((s.ctx c).out = false → exec (.pinrel a) s = .next (t.setCtx c { t.ctx c with pins := [] }).done) ∧
        ((s.ctx c).out = true → (s.ctx c).record ∈ s.saved.map Prod.fst → s.cur ≠ c → ∃ u, exec (.pinrel a) s = .next u ∧
          (u.saved.get Ctx.reset (s.ctx c).record).pins = [] ∧ (∀ i, i < 64 → u.word ((s.ctx c).record + 3072 + 8 * i) = 0) ∧
          s.keepsMemory u ((List.range 512).map ((s.ctx c).record + 3072 + ·)))) ∧
      (treeWord x = none ∨ (((∃ release, treeWord x = some (p, release)) ∧ service = false ∧ s.me.part ≠ p)) → raises (.gstop a) 7 7) ∧
      (service = true ∨ s.me.part = p →
        let halted (u : State) : Prop := ∀ c, c ∈ s.partCores p → p ∈ (u.core c).stopped
        (treeWord x = some (p, true) → (s.part p).stopped = false → exec (.gstop a) s = .next t.done) ∧
        (treeWord x = some (p, true) → (s.part p).stopped = true → ∃ u, exec (.gstop a) s = .next u ∧ (u.part p).stopped = false ∧
          u.mem = s.mem ∧ ∀ c, c ∈ s.partCores p → p ∉ (u.core c).stopped) ∧
        (treeWord x = some (p, false) → (s.part p).stopped = true → exec (.gstop a) s = .next t.done) ∧
        (treeWord x = some (p, false) → (s.part p).stopped = false → (s.part p).stopper = none →
          (s.drained p = false → ∃ u, exec (.gstop a) s = .next u ∧ halted u ∧ u.me.pc = s.me.pc ∧ u.mem = s.mem) ∧
          (s.drained p = true → ∃ u, exec (.gstop a) s = .next u ∧ halted u ∧ (u.part p).stopped = true ∧ u.me.pc = s.me.npc ∧
            u.mem = (s.partCores p).foldl (fun m c => m.writes ((s.part p).stoparea + 32 * s.relCore p c)
              ([((s.core c).count p).icount, ((s.core c).count p).sent, ((s.core c).count p).recv, BitVec.ofNat 64 s.time].flatMap
                (fun w => leBytes 8 w.toNat))) s.mem)) ∧
        (treeWord x = some (p, false) → (s.part p).stopped = false → (s.part p).stopper = some s.cur →
          (s.drained p = false → exec (.gstop a) s = .next (s.noteStall .other)) ∧
          (s.drained p = true → ∃ u, exec (.gstop a) s = .next u ∧ (u.part p).stopped = true ∧ u.me.pc = s.me.npc))) ∧
      (let r := x.toNat
       let action := (s.word (r + 24)).toNat
       let part := if service then field (s.word (r + 8)) 18 16 else s.me.part
       (r % 64 ≠ 0 ∨ hbmTop < r + 64 → raises (.gresume a) 7 8) ∧
       (r % 64 = 0 → r + 64 ≤ hbmTop → (4 ≤ action ∨ s.contextAt part (s.word r) = none) → raises (.gresume a) 7 8) ∧
       (r % 64 = 0 → r + 64 ≤ hbmTop → s.contextAt part (s.word r) = some c → (s.ctx c).run = .parked → c ≠ s.cur →
         let was := s.ctx c
         let cause := was.cause.getD { cls := 0, detail := 0 }
         let resumes (pc : Word) : Prop := ∃ u, exec (.gresume a) s = .next u ∧ (u.ctx c).run = .running ∧ (u.ctx c).cause = none ∧ (u.ctx c).pc = pc
         (action = 0 → resumes was.pc) ∧
         (action = 1 → was.admits 1 = true → resumes (was.pc + BitVec.ofNat 64 (2 * was.ir.length))) ∧
         (action = 1 → was.admits 1 = false → raises (.gresume a) 7 8) ∧
         (action = 2 → was.utvec ≠ 0 → was.status.getLsbD 3 = false → was.status.getLsbD 0 = false → ∃ u, exec (.gresume a) s = .next u ∧ (u.ctx c).run = .running ∧
           (u.ctx c).pc = was.utvec &&& ~~~1 ∧ (u.ctx c).uepc = was.pc ∧ (u.ctx c).ucause = cause.code ∧ (u.ctx c).uinfo = cause.addr ∧
           (u.ctx c).status.getLsbD 3 = true) ∧
         (action = 3 → ctxNum c = 0 → ∃ u, exec (.gresume a) s = .next u ∧ ((u.bank (bankOf c)).exited = true ∨
           (u.bank (bankOf c)).team = none))))) ∧
    (service = true → s.clear [a] [d] [] [] = true → s.Reads [a] [x] t →
      (x.toNat % 65536 ≠ 0 → exec (.adopt d a) s = .next (s.trapped { cls := 2, detail := 6, addr := x })) ∧
      (x.toNat % 65536 = 0 → unclaimed x = false → exec (.adopt d a) s = .next (s.noteStall .other)) ∧
      (x.toNat % 65536 = 0 → unclaimed x = true → s.adoption x.toNat = (status, c) →
        (status ≠ 0 → exec (.adopt d a) s = .next (t.put d (BitVec.ofNat 64 status)).done) ∧
        (status = 0 → isPort d = false → ∃ u, exec (.adopt d a) s = .next u ∧ (u.ctx c).status.getLsbD 4 = false ∧
          (d ≠ 0 → u.me.rd d = 0) ∧ s.keepsMemory u [x.toNat + 6])))

/-- R58, R384, R385, R389, R391, R440 and R442: a stage fills its slot from its record or image and a spill writes its slot out, each in issue order; at its
armed time a core exchanges its banks, or the swap is missed; the ridge's state goes to its areas with the last of its cores; a context whose
bundle needs an extension moves to the nearest core that lists it.
The model's own choices in it: logs 7, 20, 29 and 56. -/
def Obligations.BankSteps : Prop :=
  ∀ (s : State) (slot src : Nat) (rest : List SlotOp) (new : CtxId) (dest : CoreId),
    let c := s.focus
    let k := s.core c
    let b := s.shadowBank c
    let x := s.ctx (ctxIn b slot)
    let ended (t : State) (valid : BitVec 9) : Prop :=
      (t.core c).ops = rest ∧ (t.core c).busy = k.busy &&& ~~~(1#9 <<< slot) ∧ (t.core c).valid = valid
    (k.ops = .stage slot src :: rest → (s.setCore c { k with ops := [] }).claims = [] →
      (slot < 8 → src ≠ 0 → k.valid.getLsbD 8 = false →
        ∃ t, exec .stageComplete s = .next t ∧ ended t (k.valid ||| 1#9 <<< slot) ∧ (t.ctx (ctxIn b slot)).pc = s.word (src + 24) ∧
          (∀ r : GReg, 1 ≤ r.val → r.val ≤ 55 → (t.ctx (ctxIn b slot)).rd r = s.word (src + 256 + 8 * r.val)) ∧
          (∀ r : VReg, (t.ctx (ctxIn b slot)).v[r.val] = BitVec.ofNat 4096 (s.load (src + 4096 + 512 * r.val) 512)) ∧
          t.load (src + 6) 1 = s.load (src + 6) 1 / 16 * 16 + 2 ∧ s.keepsMemory t [src + 6] ∧ s.keepsOthers t (ctxIn b slot)) ∧
      (slot = 8 → s.Inv → (∀ n, n < 8 → (s.ctx (ctxIn b n)).action = none) →
        let kept := s.images.get Bank.reset (s.load src 8)
        ∃ t, exec .stageComplete s = .next t ∧ ended t (k.valid ||| 1#9 <<< 8) ∧ (t.bank b).team = kept.team ∧ (t.bank b).inbox = kept.inbox ∧
          (t.bank b).deque = kept.deque ∧ (t.bank b).image = 0 ∧
          ∀ i, i < s.bankData b → t.mem.read (bankLoc b i) = s.mem.read (src + 131072 + i))) ∧
    (k.ops = .spill slot src :: rest →
      (slot < 8 → src ≠ 0 → x.out = false → s.hasWork (ctxIn b slot) = false → x.pend = [] →
        ∃ t, exec .spillComplete s = .next t ∧ ended t k.valid ∧ (t.ctx (ctxIn b slot)).run = .exited ∧ (t.saved.get Ctx.reset src).g = x.g ∧
          t.word (src + 24) = x.pc ∧ t.load (src + 6) 1 % 16 = 3 ∧
          (∀ r : GReg, r ≠ 0 → t.word (src + 256 + 8 * r.val) = x.rd r) ∧ s.keepsOthers t (ctxIn b slot)) ∧
      (slot < 8 → s.hasWork (ctxIn b slot) = true → exec .spillComplete s = .next s) ∧
      (slot = 8 → s.Inv → src + 131072 ≤ 2 ^ 47 → (s.bank b).image = 0 →
        ∃ t, exec .spillComplete s = .next t ∧ ended t k.valid ∧ (t.bank b).team = none ∧ (t.bank b).image = src ∧
          t.images.get Bank.reset src = { s.bank b with size := s.scratchSize b } ∧ t.load src 8 = src ∧
          ∀ i, i < s.bankData b → t.mem.read (src + 131072 + i) = s.mem.read (bankLoc b i))) ∧
    (let due := k.swapt ≠ BitVec.allOnes 64 ∧ k.swapt.toNat ≤ s.time
     (¬due → exec .swapTimeDue s = .next s) ∧
     (due → s.timeLock = false ∨ k.valid.getLsbD 8 = false → ∃ t f, exec .swapTimeDue s = .next t ∧ (t.core c).swapt = BitVec.allOnes 64 ∧
       (t.core c).active = k.active ∧ t.faults = s.faults ++ [f]) ∧
     (due → s.timeLock = true → k.valid.getLsbD 8 = true → k.busy ≠ 0 → exec .swapTimeDue s = .next s) ∧
     (due → s.timeLock = true → k.valid.getLsbD 8 = true → k.busy = 0 → ∃ t, exec .swapTimeDue s = .next t ∧ (t.core c).active = 1 - k.active ∧
       (t.core c).swapt = BitVec.allOnes 64 ∧ (t.ridge (ridgeOf c)).flips = (s.ridge (ridgeOf c)).flips ++ [c])) ∧
    (let r := ridgeOf c
     let g := s.ridge r
     (g.flips = [] ∨ g.jobs ≠ [] → exec .ridgeFlip s = .next s) ∧
     (g.flips ≠ [] → g.jobs = [] → (∀ i, i < 8 → (s.core (r * 8 + i)).swapt = BitVec.allOnes 64) → s.Inv →
       ∃ t, exec .ridgeFlip s = .next t ∧ (t.ridge r).flips = [] ∧
         (g.rsin = 0 → ∀ i, i < 24 * 2 ^ 20 → t.mem.read (ridgeLoc r i) = 0) ∧
         (g.rsout ≠ 0 → g.rsin = 0 → g.rsout.toNat + 24 * 2 ^ 20 ≤ 2 ^ 47 →
           ∀ i, i < 24 * 2 ^ 20 → t.mem.read (g.rsout.toNat + i) = s.mem.read (ridgeLoc r i)) ∧
         (g.rsout = 0 → g.rsin ≠ 0 → ∀ i, i < 24 * 2 ^ 20 → t.mem.read (ridgeLoc r i) = s.mem.read (g.rsin.toNat + i)))) ∧
    (let place := (s.wantedExt s.cur).bind (s.refuge s.cur)
     (s.me.migrating = false ∨ s.hasWork s.cur = true ∨ s.hasMail s.cur = true → exec .contextMigrate s = .next s) ∧
     (s.me.migrating = true → s.hasWork s.cur = false → s.hasMail s.cur = false →
       (place = none → exec .contextMigrate s = .next (s.setMe { s.me with migrating := false, wait := .none }).stepped) ∧
       (place = some dest → s.freeHandler (s.activeBank dest) = some new → s.me.run = .running →
         ∃ t, exec .contextMigrate s = .next t ∧ t.cur = new ∧ t.focus = coreOf new ∧ (t.ctx new).pc = s.me.pc ∧ (t.ctx new).run = .running ∧
           (t.ctx new).migrating = false ∧ (t.ctx new).team = s.me.team ∧ (∀ r, (t.ctx new).rd r = s.me.rd r) ∧
           (∀ r : VReg, (t.ctx new).v[r.val] = s.me.v[r.val]) ∧ (t.ctx s.cur).run = .dormant)))

/-- R31, R34, R398 to R407, R446 and R447: a die's dispenser takes launch records, refuses a malformed or unplaceable one, and admits a head record: its
region is charged and its first teams take their cores; a member's context 0 starts at its team's entry with its arguments; a team whose quantum
has passed while another waits gets a yield request, or in a held region defers it; contexts that do not yield are taken at the deadline, and the team is swapped out whole.
The model's own choices in it: logs 54, 63, 64 and 68. -/
def Obligations.Scheduling : Prop :=
  ∀ (s : State) (team d : Nat) (g : Grid) (members : List CoreId) (c : CoreId),
    let die := dieOf s.focus
    let ring := s.regbase.toNat + 0x40000000 + die * 0x200000
    let head := s.load (ring + 8) 4
    let loc := ring + 4096 + 256 * (head % 4096)
    let taken := s.gridOf head loc
    let s1 := s.store (ring + 8) 4 ((head + 1) % 2 ^ 32)
    (s.crashed = true ∨ s.load ring 4 = head → exec .launchRecordTake s = .next s) ∧
    (s.crashed = false → s.load ring 4 ≠ head → die < 4 →
      (s.openTo none (run loc 256) && s.partFree (field (s.word loc) 2 0) (s.word (loc + 8)).toNat 128) = true →
      taken.part = field (s.word loc) 2 0 ∧ taken.nteams = field (s.word loc) 39 16 ∧ taken.dies = field (s.word loc) 15 12 ∧
      taken.desc = s.word (loc + 8) ∧ taken.rcb = (s.word (loc + 16)).toNat ∧ taken.team0 = field (s.word (loc + 24)) 63 32 ∧
      ∃ t, exec .launchRecordTake s = .next t ∧ t.load (ring + 8) 4 = (head + 1) % 2 ^ 32 ∧
        (s1.recordRefused loc taken = true ∨ s1.neverFits taken = true → t.dies = s.dies ∧ ∃ f, t.faults = s.faults ++ [f]) ∧
        (s1.recordRefused loc taken = false → s1.neverFits taken = false → (t.die die).queue = (s.die die).queue ++ [taken] ∧ t.faults = s.faults)) ∧
    (s.crashed = true ∨ 1024 ≤ s.focus → exec .dispenserDecision s = .next s) ∧
    (s.crashed = false → s.focus < 1024 → s.tablesFree die = true → (s.die die).grids = [] →
      ((s.die die).queue = [] → ∃ t, exec .dispenserDecision s = .next t ∧ t.teams = s.teams ∧ t.mem = s.mem ∧ t.banks = s.banks) ∧
      ((s.die die).queue = [g] → g.prio = s.eff 0 g.rcb → g.queue < 128 → s.admission g = [members] →
        let key := teamKey g.part s.incarnNext
        ∃ t, exec .dispenserDecision s = .next t ∧ (t.team key).state = .resident ∧ (t.team key).members = members ∧ (t.team key).desc = g.desc ∧
          (t.team key).rcb = g.rcb ∧ (t.die die).queue = [] ∧ (t.die die).grids.map Grid.id = [g.id] ∧
          ∀ m, m ∈ members → (t.bank (s.activeBank m)).team = some key)) ∧
    (let k := s.team team
     let x := s.ctx (ctxIn (s.activeBank c) 0)
     k.state = .resident → c ∈ k.members → c ∉ k.started → c ∉ k.departed → s.bankTeam (s.activeBank c) = some team →
     k.startAt + s.phase c ≤ s.cyc → (∀ m, (s.core m).active < 2) →
     ∃ t, exec (.teamStart team) s = .next t ∧ c ∈ (t.team team).started ∧
       let y := t.ctx (ctxIn (s.activeBank c) 0)
       y.run = .running ∧ y.pc = k.entry &&& ~~~1 ∧ y.utvec = k.utvec ∧ y.rng = k.rng ∧
       (∀ r : GReg, 1 ≤ r.val → r.val ≤ 8 → r.val ≠ k.selfbase → y.rd r = k.args.getD (r.val - 1) 0) ∧
       (∀ r : GReg, 1 ≤ r.val → r.val ≤ 8 → r.val = k.selfbase → y.rd r = BitVec.ofNat 64 (0x01FF000000000000 + s.relCore k.part c * 2 ^ 38)) ∧
       (∀ r : GReg, 9 ≤ r.val → y.rd r = x.rd r)) ∧
    (let k := s.team team
     let deadline := BitVec.ofNat 64 (s.time - ((s.part k.part).quanta - k.quantum) + 64000)
     s.gridOfTeam team = some (d, g) → k.state = .resident →
     ((s.part k.part).quanta < k.quantum → exec (.quantumExpire team) s = .next s) ∧
     (k.quantum ≤ (s.part k.part).quanta → s.waiting d g = true → k.deferred = false → s.decides k.part = true → s.held k.rcb = true →
       exec (.quantumExpire team) s = .next (s.setTeam team { k with deferred := true }).stepped) ∧
     (k.quantum ≤ (s.part k.part).quanta → s.waiting d g = true → k.deferred = false → s.decides k.part = true → s.held k.rcb = false →
       ∃ t, exec (.quantumExpire team) s = .next t ∧ (t.team team).state = .leaving ∧ t.mem = s.mem ∧
         ∀ m n, m ∈ k.members → n < 8 → (t.ctx (ctxIn (s.activeBank m) n)).yreq = deadline)) ∧
    (let settled (x : Ctx) : Prop := x.yielded = true ∨ x.run = .dormant ∨ x.run = .exited ∨ x.run = .parked
     let b := bankOf s.cur
     (s.me.yreq = BitVec.allOnes 64 ∨ s.time < s.me.yreq.toNat → exec .yieldDeadline s = .next s) ∧
     (s.me.yreq ≠ BitVec.allOnes 64 → s.me.yreq.toNat ≤ s.time → (s.part s.me.part).out = false → s.crashed = false →
       (∃ n, n < 8 ∧ ¬settled (s.ctx (ctxIn b n))) →
       ∃ t, exec .yieldDeadline s = .next t ∧ t.mem = s.mem ∧ ∀ n, n < 8 → settled (t.ctx (ctxIn b n)))) ∧
    ((s.team team).state = .leaving → s.swappable team = true → s.gridOfTeam team = some (d, g) → s.tablesFree d = true →
      let x := s.swapOut team
      (x.team team).state = .out ∧ (∀ m, m ∈ (s.team team).members → (x.bank (s.activeBank m)).team = none) ∧
      (x.fillSlot d g = none → exec (.teamSwap team) s = .next x.stepped) ∧
      (∀ y, x.fillSlot d g = some y → exec (.teamSwap team) s = .next y.stepped)) ∧
    ((s.team team).state ≠ .leaving ∨ s.swappable team = false → exec (.teamSwap team) s = .next s)

/-! ### Power, temperature and the service -/

/-- R448 to R455: the icefield account follows the package's power and begins and ends a refreeze; the bias controller steps its trim; a sprint
lease that has run out ends with trap(6, 16) to its last extender, and a leased ridge charges its region's energy; a region's hot bit follows its
ridges' temperature after the dwell.
The model's own choices in it: logs 59, 60 and 69. -/
def Obligations.PowerSteps : Prop :=
  ∀ (s : State) (mw events since : Nat) (c : CtxId) (rcb : Nat) (w : Word) (on : Bool) (h : Heat),
    let r := ridgeOf s.focus
    let g := s.ridge r
    let full := 2 ^ 48
    let melt := min ((s.melt : Int) + ((mw : Int) - 3000000) * (2 ^ 48 : Int) / 150000000000).toNat full
    let dwelt (s : State) : Prop := ∀ e, s.heats.find? (fun e => e.1 == rcb) = some e → e.2.changed + 1000000 ≤ s.time
    (∃ t, exec (.icefieldUpdate mw) s = .next t ∧ t.melt = melt ∧ t.pwr = mw ∧ t.mem = s.mem ∧
      (melt = full → t.refreeze = true ∧ ∀ i, (t.ridge i).extender = none) ∧
      (melt / 2 ^ 32 < 13107 → t.refreeze = false) ∧ (melt ≠ full → 13107 ≤ melt / 2 ^ 32 → t.refreeze = s.refreeze)) ∧
    (s.bringUp < 3 → exec (.biasWindow events) s = .next s) ∧
    (3 ≤ s.bringUp →
      (events = 0 → g.hold = none → g.trim < 31 → exec (.biasWindow events) s = .next (s.setRidge r { g with trim := g.trim + 1 }).stepped) ∧
      (4 ≤ events → exec (.biasWindow events) s = .next (s.setRidge r { g with trim := g.trim - 4 }).stepped) ∧
      (1 ≤ events → events < 4 → exec (.biasWindow events) s = .next (s.setRidge r g).stepped)) ∧
    (g.hold = none → exec .biasHoldExpire s = .next s) ∧
    (g.hold = some since → (s.time < since + 1000000000 → exec .biasHoldExpire s = .next s) ∧
      (since + 1000000000 ≤ s.time → exec .biasHoldExpire s = .next (s.setRidge r { g with hold := none, trim := 0 }).stepped)) ∧
    (g.leaseLeft ≠ 0 ∨ g.extender = none → exec .sprintLeaseExpire s = .next s) ∧
    (g.leaseLeft = 0 → g.extender = some c → exec .sprintLeaseExpire s =
      .next ((s.setRidge r { g with leaseLeft := 0, taker := none, extender := none }).setCtx c
        { s.ctx c with intr := (s.ctx c).intr ++ [{ cls := 6, detail := 16, precise := false }] }).stepped) ∧
    (g.leaseLeft = 0 ∨ g.extender = none → exec .sprintEnergyCharge s = .next s) ∧
    (g.leaseLeft ≠ 0 → g.extender = some c → s.region (s.ctx c).rcba.toNat = [rcb] → rcb = (s.ctx c).rcba.toNat →
      let use := (s.load (rcb + 64) 8 + 10) % 2 ^ 64
      ∃ t, exec .sprintEnergyCharge s = .next t ∧ t.load (rcb + 64) 8 = use ∧
        (use < s.load (rcb + 32) 8 → s.keepsMemory t ((List.range 8).map (rcb + 64 + ·)) ∧ t.ridges = s.ridges) ∧
        (s.load (rcb + 32) 8 ≤ use → t.rcbSpent rcb = true) ∧
        (s.load (rcb + 32) 8 ≤ use → s.rcbSpent rcb = false → (t.ridge r).extender = none)) ∧
    (let t := s.setRidge r { g with temp := w &&& 0xFFFF }
     let limit := (s.eff 7 rcb : Int) * 16
     t.regionRidges rcb = [r] →
     ∃ u, exec (.temperatureSample rcb [(r, w)]) s = .next u ∧ (u.ridge r).temp = w &&& 0xFFFF ∧
       (limit ≤ (w.setWidth 16).toInt → s.rcbHot rcb = false → dwelt s → u.rcbHot rcb = true) ∧
       ((w.setWidth 16).toInt < limit - 32 → s.rcbHot rcb = true → dwelt s → u.rcbHot rcb = false) ∧
       (limit - 32 ≤ (w.setWidth 16).toInt → (w.setWidth 16).toInt < limit → u.rcbHot rcb = s.rcbHot rcb) ∧
       (¬dwelt s → u.rcbHot rcb = s.rcbHot rcb)) ∧
    (s.heats.find? (fun e => e.1 == rcb) = some (rcb, h) →
      (h.due = none ∨ s.time < h.changed + 1000000 → exec (.hotDwellExpire rcb) s = .next s) ∧
      (h.due ≠ none → h.changed + 1000000 ≤ s.time → s.hotWanted rcb = some on →
        ∃ u, exec (.hotDwellExpire rcb) s = .next u ∧ u.rcbHot rcb = on ∧ u.heats.get (fun _ => h) rcb = ⟨s.time, none⟩))

/-- R204, R205, R211, R424, R426 to R428, R433 to R435, R450, R460 to R462, R468 and R469: an uncorrectable error poisons its line or fails its
context, whose cause is taken at the next boundary; queued fault records are posted in turn; a missed heartbeat freezes the package, and the service
restarts, with a new image where it gets one; links and time lock follow their events; a ridge drains, and its new map is a record in force.
The model's own choices in it: logs 5, 9, 57, 61 and 62. -/
def Obligations.ServiceSteps : Prop :=
  ∀ (s : State) (loc n : Nat) (c : CtxId) (t : Trap) (f : FaultRecord) (rest : List FaultRecord) (acks : List (Nat × BitVec 32)) (home : Nat)
    (gen : BitVec 32) (up : Bool),
    let k := s.core s.focus
    let r := ridgeOf s.focus
    let g := s.ridge r
    let trimmed : Bool := !(decide (g.trim = 0) && decide (g.leaseLeft = 0))
    let posts (i : Nat) : Nat := s.regbase.toNat + 0x41000000 + 4096 + 64 * (i % 4096)
    let taken := s.load (s.regbase.toNat + 0x41000008) 4
    let noted (u : State) : Prop :=
      u.newMap = none ∧ (s.newMap = none → u.flash = s.flash) ∧
      (∀ f, s.newMap = some f → u.mapsRidges f.content = false → u.flash = s.flash) ∧
      (∀ f key, s.newMap = some f → u.mapsRidges f.content = true → operatorKey s.flash = some key → recordSigned f key = true →
        (∀ q, q ∈ s.flash → recordKind q = 3 → recordSeq q < recordSeq f) → u.configOf 3 = some f.content)
    (loc < 2 ^ 47 → exec (.uncorrectableError (.line loc)) s = .next ({ s with poison := (loc / 128 :: s.poison).dedup } : State).stepped) ∧
    (trimmed = false → (∃ e, e ∈ s.l1 s.focus ∧ e.line = loc / 128) →
      exec (.uncorrectableError (.cache s.focus loc)) s = .next ({ s with poison := (loc / 128 :: s.poison).dedup } : State).stepped) ∧
    (trimmed = false → (∀ e, e ∈ s.l1 s.focus → e.line ≠ loc / 128) → exec (.uncorrectableError (.cache s.focus loc)) s = .next s.stepped) ∧
    exec (.uncorrectableError (.registers c)) s = .next (s.setCtx c { s.ctx c with
      faulted := some ((s.ctx c).faulted.getD { cls := 2, detail := 2, precise := false }) }).stepped ∧
    (∃ u, exec (.uncorrectableError (.carve c)) s = .next u ∧ ((s.ctx c).faulted = none →
      (u.ctx c).faulted = some { cls := 2, detail := 2, precise := false }) ∧
      ((s.ridge (ridgeOf (coreOf c))).trim ≠ 0 → (u.ridge (ridgeOf (coreOf c))).trim = 0 ∧ (u.ridge (ridgeOf (coreOf c))).hold = some s.time)) ∧
    (s.me.faulted = none → exec .systemFault s = .next s) ∧
    (s.me.faulted = some t → isService (coreOf s.cur) = false → t.isUser = false →
      ∃ u x, exec .systemFault s = .next u ∧ u.me.run = .parked ∧ u.me.cause = some t ∧ u.me.faulted = none ∧ u.faults = s.faults ++ [x]) ∧
    (s.faults = [] → exec .faultRecordPost s = .next s) ∧
    (s.faults = f :: rest → f.slot = some n →
      ((n + 2 ^ 32 - taken) % 2 ^ 32 < 4096 → exec .faultRecordPost s = .next ({ s with
        mem := s.mem.writes (posts n) (f.words.flatMap (fun w => leBytes 8 w.toNat)), faults := rest } : State).stepped) ∧
      (4096 ≤ (n + 2 ^ 32 - taken) % 2 ^ 32 → exec .faultRecordPost s = .next s)) ∧
    (k.acks = [] → exec .storeAcknowledgement s = .next s) ∧
    (k.acks = (home, gen) :: acks → exec .storeAcknowledgement s =
      .next ({ s.setCore s.focus { k with acks := acks, egress := k.egress.tail, homeGens := k.homeGens.put home gen } with
        strong := s.strong.put s.focus ((s.strong.get (fun _ => []) s.focus).filter (fun p => !(p.home == home && p.gen == gen))) }).stepped) ∧
    (let period := field s.heart 63 32
     (period = 0 ∨ s.crashed = true ∨ s.time < s.heartAt + period * 1000 → exec .watchdogExpire s = .next s) ∧
     (period ≠ 0 → s.crashed = false → s.heartAt + period * 1000 ≤ s.time →
       ∃ u, exec .watchdogExpire s = .next u ∧ u.crashed = true ∧ (∀ i, (u.core i).swapt = BitVec.allOnes 64) ∧
         (c ∈ s.ctxs.map Prod.fst → isService (coreOf c) = false → (s.ctx c).run ≠ .parked → (s.ctx c).run ≠ .exited → (s.ctx c).faulted = none →
           (u.ctx c).status = (s.ctx c).status ||| 16))) ∧
    (∃ u, exec .serviceWarmRestart s = .next u ∧ u.crashed = true ∧ u.bootImage = s.newImage.getD s.bootImage ∧ u.newImage = none ∧
      (n < 8 → (s.core (1024 + n)).removed = false → (∀ m, (s.core m).active < 2) →
        let x := u.ctx (ctxIn (s.activeBank (1024 + n)) 0)
        x.run = .running ∧ x.pc = Config.serviceEntry (1024 + n))) ∧
    (let left := (List.range 8).filter (fun n => !(s.core (1024 + n)).removed)
     (n ∉ left ∨ left.length < 2 → exec (.serviceCoreRemoval n) s = .next s) ∧
     (n ∈ left → 2 ≤ left.length → exec (.serviceCoreRemoval n) s =
       .next (s.setCore (1024 + n) { s.core (1024 + n) with removed := true }).stepped)) ∧
    (s.timeLock = false → exec .timeLockLost s = .next s) ∧
    (s.timeLock = true → ∃ u x, exec .timeLockLost s = .next u ∧ u.timeLock = false ∧ u.faults = s.faults ++ [x]) ∧
    exec .timeLockRegained s = .next ({ s with timeLock := true } : State).stepped ∧
    (g.draining = false → exec .ridgeDrain s = .next (s.setRidge r { g with draining := true }).stepped) ∧
    (g.draining = true →
      (s.ridgeEmpty r = false ∨ g.retired = true → exec .ridgeDrain s = .next s) ∧
      (∀ p spares, s.ridgeEmpty r = true → g.retired = false → (s.die (r / 32)).spares = p :: spares →
        ∃ u, exec .ridgeDrain s = .next u ∧ u.ridge r = { Ridge.reset r with physical := p } ∧ (u.die (r / 32)).spares = spares ∧
          (∀ i, i < 24 * 2 ^ 20 → u.mem.read (ridgeLoc r i) = 0) ∧ noted u) ∧
      (s.ridgeEmpty r = true → g.retired = false → (s.die (r / 32)).spares = [] →
        ∃ u, exec .ridgeDrain s = .next u ∧ (u.ridge r).retired = true ∧ (∀ p, p < 8 → (u.part p).ridges.testBit r = false ∨ 128 ≤ r) ∧
          noted u)) ∧
    exec (.ualinkReadRequest n) s = .next ({ s with replies := s.replies ++ [.unsupported n] } : State).stepped ∧
    (∃ u, exec (.stationLinkDown n) s = .next u ∧ ∀ i, u.stations.getLsbD i = (s.stations.getLsbD i && i != n)) ∧
    (n < 32 → ∃ u, exec (.stationLinkUp n) s = .next u ∧ ∀ i, u.stations.getLsbD i = (s.stations.getLsbD i || i == n)) ∧
    (n < 4 → ∃ u, exec (.portLinkChange n up) s = .next u ∧ ∀ i, u.ports.getLsbD i = if i = n then up else s.ports.getLsbD i)

/-- R463, R466 and R467: power-good brings the package up from reset step by step, up to a step that fails, as the first does where the image is
not the operator's; an attestation request is answered with a
signed report of the nonce, the image, the records, the key, the package and its time; a job is checked, placed, and answered with its status, and
only status 0 changes the machine.
The model's own choices in it: logs 8, 9, 58, 70 and 96. -/
def Obligations.BringUpAndJobs : Prop :=
  ∀ (s : State) (config : BootConfig) (nonce : List Byte) (job : JobMessage) (n : Nat),
    let genuine : Bool := match operatorKey (recordsInForce config.rootKey config.records) with
      | some key => Config.signatureValid key config.image config.imageSignature
      | none => false
    (∃ t, exec (.powerGood config) s = .next t ∧ t.identity = leBytes 64 (Config.sha512 config.seed).toNat ∧
      (genuine = false → t.bringUp = 0 ∧ t.attestOnly = true) ∧
      (genuine = true → config.failedStep = none → t.bringUp = 5 ∧ t.attestOnly = false ∧ t.bootImage = config.image ∧ t.flash = recordsInForce config.rootKey config.records ∧
        t.timeLock = true ∧ t.stations = BitVec.allOnes 32 ∧ t.ports = BitVec.allOnes 4 ∧
        (n < 8 → (t.ctx (ctxIn (2 * (1024 + n)) 0)).run = .running ∧ (t.ctx (ctxIn (2 * (1024 + n)) 0)).pc = Config.serviceEntry (1024 + n))) ∧
      (genuine = true → 1 ≤ n → n ≤ 5 → config.failedStep = some n → t.bringUp = n - 1 ∧ t.attestOnly = true)) ∧
    (let report := (nonce ++ List.replicate 32 0).take 32 ++ leBytes 64 (Config.sha512 s.bootImage).toNat ++
       leBytes 64 (Config.sha512 (s.flash.flatMap FlashRecord.bytes)).toNat ++ leBytes 32 (Config.publicKey s.identity).toNat ++
       leBytes 8 (s.pod * 1024 + s.accel) ++ leBytes 8 s.time
     report.length = 208 ∧ exec (.attestationRequest nonce) s =
       .next ({ s with replies := s.replies ++ [.attestation (report ++ leBytes 64 (Config.sign s.identity report).toNat)] } : State).stepped) ∧
    (s.bringUp ≠ 5 → exec (.jobMessage job) s = .next s) ∧
    (s.bringUp = 5 →
      let room := s.hasRoom (job.header.getD 2 0).toNat
      let answered (t : State) (status : Nat) : State := { t with replies := s.replies ++ [.job [job.header.getD 1 0, BitVec.ofNat 64 status,
        Config.linkLatency false, Config.linkLatency true]] }
      (s.jobValid job = false → exec (.jobMessage job) s = .next (answered s 1).stepped) ∧
      (s.jobValid job = true → room = false → exec (.jobMessage job) s = .next (answered s 2).stepped) ∧
      (s.jobValid job = true → room = true → jobRefused job = true → exec (.jobMessage job) s = .next (answered s 3).stepped) ∧
      (s.jobValid job = true → room = true → jobRefused job = false → s.jobFits job = false → exec (.jobMessage job) s = .next s) ∧
      (s.jobValid job = true → room = true → jobRefused job = false → s.jobFits job = true →
        ∃ t, exec (.jobMessage job) s = .next t ∧ (t.part job.plan.partition).valid = true ∧ t.pload = BitVec.ofNat 64 job.plan.partition ∧
          (t.part job.plan.partition).streams = imageStreams job.image job.plan.descs ∧ (t.part job.plan.partition).scratch = imageScratch job.image ∧
          t.replies = s.replies ++ [.job [job.header.getD 1 0, BitVec.ofNat 64 (job.plan.partition * 256), Config.linkLatency false,
            Config.linkLatency true]]))


/-! ### Decoding, stepping, trapping and logging -/

/-- R71 to R87: words that the spec's tables write out are the instructions that they encode, with every word format and prefix kind among
them, and bundles that R86 forbids are refused with their detail, the prefix word at fault and R88's position and count.
The model's own choices in it: log 21. -/
def Obligations.DecodeSpecWords : Prop :=
  (∀ p ∈ ([([0x0194], .add 3 1 2 false), ([0xF018, 0x82C2], .ldd 5 4 2 3), ([0xE168, 0xE83E, 0x3C18], .addi 40 41 1000),
      ([0xF8A0, 0xE008, 0x9390], .std 7 9 0 (some ⟨5, 0⟩)), ([0xA48A], .bne 1 0 (-6)), ([0xF101, 0x1994], .vadd 3 1 2 1),
      ([0xE040, 0xEB3C, 0xEA6A, 0xEF9B, 0x5CEF], .li 9 0x6789ABCDEF), ([0xE030, 0xC070], .jr 0 55), ([0xF283, 0x0000], .fence 3),
      ([0xF080, 0xE049, 0x3939], .fma 10 11 12 true), ([0xF108, 0xE040, 0x5408], .vpack4 8 0 4 0 1), ([0xF200, 0x4EA0], .jwait 5 2),
      ([0xF180, 0xE0C0, 0x0280], .mlease 29), ([0xF300, 0xF860, 0x344A], .rclose 4 5 3 0), ([0xF380, 0xE010, 0x0C50], .cut 21)]
      : List (List IWord × Instr)), decode Env.all p.1 = .ok (p.2, [])) ∧
  (∀ p ∈ ([([0xF018, 0xF101, 0x1994], ⟨2, 1, 2, 0xF101, 0x1994, none⟩), ([0xC402], ⟨0, 0, 0, 0, 0xC402, none⟩),
      ([0xE000, 0xE800, 0xE800, 0xE800, 0xF000], ⟨1, 0, 5, 0, 0xF000, none⟩), ([0xE800, 0xE800, 0xE800, 0xE800, 0x3C18], ⟨3, 3, 4, 0xE800, 0x3C18, none⟩),
      ([0xF8A0, 0x0194], ⟨4, 0, 1, 0xF8A0, 0x0194, none⟩), ([0xE800, 0x0194], ⟨8, 0, 1, 0xE800, 0x0194, none⟩)]
      : List (List IWord × BadBundle)), decode Env.all p.1 = .error p.2)

/-- R58, R59, R86 to R88 and R96: a bundle that is no instruction takes its class 0 cause with the words of R88; one whose page or
family the core does not list migrates its context, or takes trap(0, 18) where R59 or R374 forbids the move.
The model's own choices in it: logs 20 and 21. -/
def Obligations.UnassignedBundles : Prop :=
  ∀ (s : State) (bad : BadBundle) (f : Nat),
    let word : Word := BitVec.ofNat 64 (bad.pos * 2 ^ 35 + bad.npre * 2 ^ 32 + bad.pre.toNat * 2 ^ 16 + bad.word.toNat)
    let x := s.me
    let info : Word := BitVec.ofNat 64 ((if f < 16 then f else (f - 16) * 16 + 256) +
      if (x.choice != 0) || (x.trailTop != x.trailBase) || x.task.isSome || x.region.isSome then 512 else 0)
    let refused : Bool := (x.choice != 0) || (x.trailTop != x.trailBase) || x.task.isSome || x.region.isSome
    (bad.ext = none → exec (.unassignedOpcode bad) s =
      .next (s.trapped (x.withDetail { cls := 0, detail := bad.detail, word := word }))) ∧
    (bad.ext = some f → refused = true ∨ isService (coreOf s.cur) = true ∨ s.refuge s.cur f = none →
      exec (.unassignedOpcode bad) s = .next (s.trapped (x.withDetail { cls := 0, detail := 18, info := info }))) ∧
    (bad.ext = some f → refused = false → isService (coreOf s.cur) = false → s.refuge s.cur f ≠ none →
      exec (.unassignedOpcode bad) s = .next { s.setMe { x with migrating := true, wait := .other } with stalled := [] })

/-- Every well-formed instruction with an encoding is what the decoder reads from its encoding, whatever words follow. -/
def Obligations.RoundTrip : Prop :=
  ∀ (i : Instr) (rest : List IWord), i.wf = true → i.fields.isSome = true → decode Env.all (encode i ++ rest) = .ok (i, rest)

/-- R76 to R80, R411: where the agenda is empty and it is a context's turn, a step runs the instruction at that context's pc, and time passes: the words from the
pc on are read through the translation cache (or from the aperture, or physically), latched with the address after them, and executed; words
that are no instruction run as UNASSIGNED_OPCODE.
The model's own choices in it: logs 2, 4 and 26. -/
def Obligations.StepRunsDecoded : Prop :=
  ∀ (s : State) (c : CtxId) (ws : List IWord),
    let x := s.ctx c
    let runs (v : State) : Prop :=
      (∀ i, decode (s.env c) ws = .ok (i, []) → step s = ticked (exec i v)) ∧
      (∀ bad, decode (s.env c) ws = .error bad → step s = ticked (exec (.unassignedOpcode bad) v))
    s.agenda = [] → s.turnNow = .bundle c → x.faulted = none → x.regionFails = false → x.interruptible = false → x.rope = none →
    (∀ u, fetchWords x.pc 5 (s.select c) = .ok (ws, u) → (u.ctx c).faulted = none → runs (u.setMe (u.me.latch ws))) ∧
    (∀ (pre : List IWord) (b : IWord) (e : TlbEntry) (l : Leaf), ws = pre ++ [b] → pre.all isPrefix = true → isPrefix b = false → pre.length ≤ 4 →
      isAperture x.pc = false → isService (coreOf c) = false → (s.core (coreOf c)).cached x.part x.pc.toNat = some e →
      s.checkLeaf x.part .fetch e.level x.pc.toNat e.pte = .ok l → l.isSC = false →
      x.pc.toNat % l.size + 2 * ws.length ≤ l.size → x.pc.toNat + 2 * ws.length ≤ e.page + e.size →
      (∀ a ∈ run (l.pa x.pc.toNat) (2 * ws.length), lineOf a ∉ s.claims ∧ lineOf a ∉ s.poison ∧ (s.select c).readable (lineOf a) = true ∧ s.oldByte c a = none) →
      s.mem.bytes (l.pa x.pc.toNat) (2 * ws.length) = ws.flatMap (fun w => leBytes 2 w.toNat) →
      ∃ v, runs v ∧ v.cur = c ∧ v.focus = coreOf c ∧
        v.ctx c = { x with ir := ws, npc := x.pc + BitVec.ofNat 64 (2 * ws.length) } ∧ s.keepsOthers v c ∧ s.keepsPackage v ∧
        v.banks = s.banks ∧ (∀ k, k ≠ coreOf c → v.core k = s.core k) ∧
        ∃ tlb, v.core (coreOf c) = { s.core (coreOf c) with tlb := tlb })

/-- Every step keeps the memory's canonical form. -/
def Obligations.InvKept : Prop := ∀ s t : State, s.Inv → step s = .next t → t.Inv

/-- What reset leaves: the canonical form; every bank in single mode with the 640 KiB carve and the 64 KiB trail (R27) and every context's trail
registers at its eighth of it (R302); no job or transfer issued (R179, R240); the format contexts of R176; and R456's icefield account and
refreeze, with every trim at zero. That a register with no stated reset value holds zero, that k.YREQ and k.SWAPT hold all ones, and that no
context runs is the model's choice (log 1). -/
def Obligations.ResetState : Prop :=
  let s := State.reset
  s.Inv ∧ s.melt = 65536 * 2 ^ 32 ∧ s.refreeze = true ∧
  (∀ r, (s.ridge r).trim = 0 ∧ (s.ridge r).lease = none ∧ (s.ridge r).leaseLeft = 0) ∧
  (∀ b, (s.bank b).team = none ∧ s.scratchSize b = 1216 * 1024) ∧
  (∀ k, (s.core k).cc = 0 ∧ (s.core k).tc = 3 ∧ (s.core k).staged = false ∧ (s.core k).jobNewest = 0xFFFF ∧ (s.core k).xferNewest = 0xFFFF ∧ (s.core k).ovf = false ∧
    (s.core k).swapt = BitVec.allOnes 64 ∧ (s.core k).ta = (if k < 1024 ∧ 24 ≤ k / 8 % 32 then 1 else 7) ∧ (s.core k).tb = (s.core k).ta ∧
    (∀ j, 0x8000 ≤ j → j < 0x10000 → Machine.jobStatus (s.core k).jobs j = ⟨j, true, false, false⟩)) ∧
  (∀ c, (s.ctx c).trailBase = BitVec.ofNat 64 (0x130000 + c % 8 * 0x2000) ∧ (s.ctx c).trailTop = (s.ctx c).trailBase ∧
    (s.ctx c).trailLim = (s.ctx c).trailBase + 0x2000 ∧ (s.ctx c).choice = 0 ∧ (s.ctx c).run = .dormant ∧
    (∀ r, (s.ctx c).rd r = 0) ∧ (∀ v : VReg, (s.ctx c).v[v.val] = 0) ∧ (s.ctx c).pc = 0 ∧ (s.ctx c).status = 0 ∧
    (s.ctx c).yreq = BitVec.allOnes 64)

/-- R374, R375, R422 and R425 to R428: where a cause goes. On a service core it enters k.FVEC; a user trap that is not masked enters a
user-mode context's k.UTVEC with user traps masked; any other cause parks the context: its lease ends, its record holds state 4, its pc and its fault
word, and a fault record takes the ring's next number and waits to be posted.
The model's own choices in it: logs 6, 71 and 72. -/
def Obligations.TrapEntry : Prop :=
  ∀ (s : State) (c : CtxId) (t : Trap),
    let x := s.ctx c
    let u := s.takeTrap c t
    let y := u.ctx c
    let code := t.cls * 64 + t.detail
    let user := (t.cls, t.detail) ∈ [(0, 16), (0, 18), (4, 6), (5, 0), (5, 1), (5, 2), (5, 7), (6, 16)]
    let vectored := user ∧ x.status.getLsbD 0 = false ∧ x.status.getLsbD 3 = false ∧ x.utvec ≠ 0
    let n := u.load s.ring 4
    s.keepsOthers u c ∧
    (isService (coreOf c) = true → y.pc = (s.core (coreOf c)).fvec ∧ y.sepc = x.npc ∧ y.scause = BitVec.ofNat 64 code ||| 0x8000000000000000 ∧
      y.g = x.g ∧ y.v = x.v ∧ y.status = x.status ∧ y.run = .running ∧ s.keepsPackage u) ∧
    (isService (coreOf c) = false → vectored → y.pc = x.utvec &&& ~~~(1 : Word) ∧ y.uepc = x.pc ∧ y.ucause = BitVec.ofNat 64 code ∧
      y.uinfo = t.info ∧ y.status = x.status ||| 8 ∧ y.run = .running ∧ y.g = x.g ∧ y.v = x.v ∧ y.trailTop = x.trailTop ∧
      y.choice = x.choice ∧ s.keepsPackage u) ∧
    (isService (coreOf c) = false → ¬ vectored →
      y.run = .parked ∧ y.cause = some t ∧ y.pc = x.pc ∧ y.status = x.status ∧ y.pend = x.pend.filter (fun p => !p.isLocal) ∧
      (x.pend = [] → y.g = x.g ∧ y.v = x.v) ∧ (∀ l, (u.ridge (ridgeOf (coreOf c))).lease = some l → l.ctx ≠ c) ∧
      (∀ p, y.rope = some p → p.pos = 0 ∨ p.attached = false) ∧
      (x.record = 0 ∨ x.record + 65536 ≤ s.ring ∨ s.ring + 4 ≤ x.record →
        let m := s.load s.ring 4
        let slot := s.ring + 4096 + 64 * (m % 4096)
        n = (m + 1) % 2 ^ 32 ∧
        (∃ r, u.faults = s.faults ++ [r] ∧ r.slot = some m ∧ r.words =
          [ s.contextWord c, BitVec.ofNat 64 (x.incarn.toNat % 2 ^ 32 * 2 ^ 32 + 2 ^ 31 + t.precise.toNat * 2 ^ 29 + (x.status.getLsbD 0).toNat * 2 ^ 28 +
              x.part % 8 * 2 ^ 16 + code), x.pc, 0, t.addr, t.word, BitVec.ofNat 64 s.time, BitVec.ofNat 64 x.record ]) ∧
        (x.record ≠ 0 → u.load (x.record + 6) 1 % 16 = 4 ∧ u.word (x.record + 24) = x.pc ∧ u.load (x.record + 40) 8 = slot % 2 ^ 64) ∧
        (∀ a, (x.record = 0 ∨ a < x.record ∨ x.record + 65536 ≤ a) → (a < s.ring ∨ s.ring + 4 ≤ a) → u.mem.read a = s.mem.read a)))

/-- R132, R303, R305 to R307: while a choice point is open, an aligned store outside the aperture first pushes a memory entry with the
address and the old contents of the aligned word that it lies in, and clears the open record's steal bit; at the trail's limit it has no effect
but trap(5, 2) with its address. A kput of a user control register that the trail logs first pushes a register entry with the old value; at the
limit trap(5, 2) carries the register's number. The stores are shown with one open choice point whose record and the entry lie clear of the stored
word. -/
def Obligations.LoggedStores : Prop :=
  (∀ (s t u : State) (i : Instr) (size : Nat) (d a : GReg) (imm : Int) (base x : Word) (loc : Nat) (kind : Word),
    (i, size) ∈ [(Instr.stb d a imm none, 1), (.sth d a imm none, 2), (.stw d a imm none, 4), (.std d a imm none, 8)] →
    s.clear [a, d] [] [] [] = true → s.Reads [a, d] [base, x] t →
    let ea : Word := base + BitVec.ofInt 64 (imm * size)
    let part := ea.toNat % 8
    let top := u.me.trailTop.toNat
    let record := u.me.choice.toNat
    let item := u.myLoc top
    let locs := (List.range size).map (loc + part + ·)
    isAperture ea = false → ea.toNat % size = 0 → locate .store ea size t = .ok (locs, u) → u.unshared locs → u.landed locs →
    u.me.choice ≠ 0 → u.me.speculates = false →
    (u.me.trailLim.toNat < top + 16 → exec i s = .next (s.trapped { cls := 5, detail := 2, info := ea })) ∧
    (top + 16 ≤ u.me.trailLim.toNat → u.myItems = [(record, kind)] → kind.toNat % 8 = 3 → record + 512 = top →
      (loc + 8 ≤ u.myLoc record ∨ item + 16 ≤ loc) →
      ∃ v, exec i s = .next v ∧ v.word item = BitVec.ofNat 64 (ea.toNat / 8 * 8 + 2) ∧ v.word (item + 8) = u.word loc ∧
        v.load (loc + part) size = x.toNat % 256 ^ size ∧ v.me.trailTop = u.me.trailTop + 16 ∧ v.me.choice = u.me.choice ∧
        v.load (u.myLoc (record + 40)) 1 = u.load (u.myLoc (record + 40)) 1 / 2 * 2 ∧
        (∀ b, (b < loc + part ∨ loc + part + size ≤ b) → (b < item ∨ item + 16 ≤ b) → b ≠ u.myLoc (record + 40) → v.mem.read b = s.mem.read b) ∧
        s.keepsOthers v s.cur ∧ t.keepsRegisters v [] [] [32] ∧ v.me.pc = s.me.npc)) ∧
  (∀ (s t : State) (d : GReg) (n : Nat) (x : Word), n ∈ [8, 9, 10, 11, 16, 22, 25, 64, 127] →
    s.clear [d] [] [] [] = true → s.Reads [d] [x] t → t.me.choice ≠ 0 → t.me.speculates = false →
    let top := t.me.trailTop.toNat
    let item := t.myLoc top
    (t.me.trailLim.toNat < top + 16 → exec (.kput d n) s = .next (s.trapped { cls := 5, detail := 2, info := BitVec.ofNat 64 n })) ∧
    (top + 16 ≤ t.me.trailLim.toNat →
      ∃ v, exec (.kput d n) s = .next v ∧ v.word item = BitVec.ofNat 64 (n * 8 + 1) ∧ v.word (item + 8) = t.me.kImage n ∧
        v.me.trailTop = t.me.trailTop + 16 ∧ s.keepsMemory v (run item 16) ∧ s.keepsOthers v s.cur ∧ t.keepsRegisters v [] [] [32, n] ∧
        v.me.pc = s.me.npc))
end

