-- ==== Sys2Proof/Laws/Sparse.lean ====
section
/-! SUPPORT. The laws of tables and of the byte memory: a read after a write, and that every operation keeps the canonical form. -/

namespace Sys2Proof.Machine

/-! ### Tables -/

theorem Table.get_put_same {α : Type} (d : Nat → α) (t : Table α) (k : Nat) (x : α) : Table.get d (Table.put t k x) k = x := by
  induction t with
  | nil => simp [Table.put, Table.get]
  | cons e t ih =>
    unfold Table.put
    split
    · simp [Table.get]
    · split
      · simp [Table.get]
      · rename_i h; simp [Table.get, h, ih]

theorem Table.get_put_other {α : Type} (d : Nat → α) (t : Table α) (k j : Nat) (x : α) (h : j ≠ k) :
    Table.get d (Table.put t k x) j = Table.get d t j := by
  induction t with
  | nil => simp [Table.put, Table.get, Ne.symm h]
  | cons e t ih =>
    unfold Table.put
    split
    · simp [Table.get, Ne.symm h]
    · split
      · rename_i h1 h2; subst h2; simp [Table.get, Ne.symm h]
      · simp [Table.get, ih]

theorem Table.get_put {α : Type} (d : Nat → α) (t : Table α) (k j : Nat) (x : α) :
    Table.get d (Table.put t k x) j = if j = k then x else Table.get d t j := by
  split
  · rename_i h; subst h; exact Table.get_put_same d t j x
  · rename_i h; exact Table.get_put_other d t k j x h

theorem Table.put_put_same {α : Type} (t : Table α) (k : Nat) (x y : α) : Table.put (Table.put t k x) k y = Table.put t k y := by
  induction t with
  | nil => simp [Table.put]
  | cons e t ih =>
    obtain ⟨j, z⟩ := e
    by_cases h1 : k < j
    · simp [Table.put, h1]
    · by_cases h2 : j = k
      · subst h2; simp [Table.put]
      · simp [Table.put, h1, h2, ih]

theorem rising_mono {α : Type} {lo lo' : Nat} {t : List (Nat × α)} (h : lo' ≤ lo) (ht : risingFrom lo t = true) : risingFrom lo' t = true := by
  cases t with
  | nil => rfl
  | cons e t =>
    simp only [risingFrom, Bool.and_eq_true, decide_eq_true_eq] at *
    exact ⟨by omega, ht.2⟩

theorem rising_put {α : Type} {lo k : Nat} {t : Table α} (x : α) (h : lo ≤ k) (ht : risingFrom lo t = true) :
    risingFrom lo (Table.put t k x) = true := by
  induction t generalizing lo with
  | nil => simp [Table.put, risingFrom, h]
  | cons e t ih =>
    simp only [risingFrom, Bool.and_eq_true, decide_eq_true_eq] at ht
    unfold Table.put
    split
    · simp only [risingFrom, Bool.and_eq_true, decide_eq_true_eq]; exact ⟨h, by omega, ht.2⟩
    · split
      · rename_i h1 h2; subst h2; simp [risingFrom, ht]
      · simp only [risingFrom, Bool.and_eq_true, decide_eq_true_eq]
        exact ⟨ht.1, ih (by omega) ht.2⟩

theorem rising_filter {α : Type} (p : Nat × α → Bool) {lo : Nat} {t : List (Nat × α)} (ht : risingFrom lo t = true) :
    risingFrom lo (t.filter p) = true := by
  induction t generalizing lo with
  | nil => rfl
  | cons e t ih =>
    simp only [risingFrom, Bool.and_eq_true, decide_eq_true_eq] at ht
    by_cases hp : p e
    · simp only [List.filter, hp, risingFrom, Bool.and_eq_true, decide_eq_true_eq]; exact ⟨ht.1, ih ht.2⟩
    · simp only [List.filter, hp]; exact ih (rising_mono (by omega) ht.2)

theorem rising_map {α β : Type} (f : Nat × α → β) {lo : Nat} {t : List (Nat × α)} (ht : risingFrom lo t = true) :
    risingFrom lo (t.map (fun e => (e.1, f e))) = true := by
  induction t generalizing lo with
  | nil => rfl
  | cons e t ih =>
    simp only [List.map, risingFrom, Bool.and_eq_true, decide_eq_true_eq] at ht ⊢
    exact ⟨ht.1, ih ht.2⟩

theorem Table.wf_put {α : Type} {t : Table α} (k : Nat) (x : α) (h : t.wf = true) : (Table.put t k x).wf = true :=
  rising_put x (Nat.zero_le k) h

theorem Table.wf_drop {α : Type} {t : Table α} (k : Nat) (h : t.wf = true) : (Table.drop t k).wf = true := rising_filter _ h

/-! ### The byte memory -/

theorem Memory.read_erase (m : Memory) (a b : Nat) : (Memory.erase m a).read b = if b = a then Memory.unlisted else m.read b := by
  induction m with
  | nil => simp [Memory.erase, Memory.read]
  | cons e m ih =>
    obtain ⟨j, x⟩ := e
    by_cases h : j = a
    · subst h
      by_cases hb : b = j
      · subst hb; simp [Memory.erase, ih]
      · simp [Memory.erase, Memory.read, ih, hb, Ne.symm hb]
    · by_cases hb : b = a
      · subst hb; simp [Memory.erase, Memory.read, h, ih]
      · simp [Memory.erase, Memory.read, h, ih, hb]

theorem Memory.read_put (m : Memory) (a b : Nat) (x : Byte) : Memory.read (Table.put m a x) b = if b = a then x else m.read b := by
  induction m with
  | nil =>
    by_cases h : b = a
    · subst h; simp [Table.put, Memory.read]
    · simp [Table.put, Memory.read, h, Ne.symm h]
  | cons e m ih =>
    obtain ⟨j, y⟩ := e
    by_cases h1 : a < j
    · by_cases hb : b = a
      · subst hb; simp [Table.put, Memory.read, h1]
      · simp [Table.put, Memory.read, h1, hb, Ne.symm hb]
    · by_cases h2 : j = a
      · subst h2
        by_cases hb : b = j
        · subst hb; simp [Table.put, Memory.read]
        · simp [Table.put, Memory.read, hb, Ne.symm hb]
      · by_cases hb : b = a
        · subst hb; simp [Table.put, Memory.read, h1, h2, ih]
        · simp [Table.put, Memory.read, h1, h2, ih, hb]

/-- A byte after a write (R2). -/
theorem Memory.read_write (m : Memory) (a b : Nat) (x : Byte) : (m.write a x).read b = if b = a then x else m.read b := by
  unfold Memory.write
  split
  · rename_i h; subst h; exact Memory.read_erase m a b
  · exact Memory.read_put m a b x

theorem Memory.read_writes_other (m : Memory) (a b : Nat) (xs : List Byte) (h : b < a ∨ a + xs.length ≤ b) :
    (m.writes a xs).read b = m.read b := by
  induction xs generalizing m a with
  | nil => rfl
  | cons x xs ih =>
    simp only [List.length_cons] at h
    rw [Memory.writes, ih _ _ (by omega), Memory.read_write, if_neg (by omega)]

theorem Memory.bytes_writes_same (m : Memory) (a : Nat) (xs : List Byte) : (m.writes a xs).bytes a xs.length = xs := by
  induction xs generalizing m a with
  | nil => rfl
  | cons x xs ih =>
    simp only [Memory.writes, List.length_cons, Memory.bytes, ih]
    rw [Memory.read_writes_other _ _ _ _ (Or.inl (Nat.lt_succ_self a)), Memory.read_write, if_pos rfl]

theorem Memory.listed_put {m : Memory} {a : Nat} {x : Byte} (hx : x ≠ Memory.unlisted) (h : Memory.listed m = true) :
    Memory.listed (Table.put m a x) = true := by
  induction m with
  | nil => simp [Table.put, Memory.listed, hx]
  | cons e m ih =>
    simp only [Memory.listed, List.all_cons, Bool.and_eq_true, decide_eq_true_eq] at h ih
    unfold Table.put
    split
    · simp only [Memory.listed, List.all_cons, Bool.and_eq_true, decide_eq_true_eq]; exact ⟨hx, h⟩
    · split
      · simp only [Memory.listed, List.all_cons, Bool.and_eq_true, decide_eq_true_eq]; exact ⟨hx, h.2⟩
      · simp only [Memory.listed, List.all_cons, Bool.and_eq_true, decide_eq_true_eq]; exact ⟨h.1, ih h.2⟩

theorem Memory.erase_eq_filter (m : Memory) (a : Nat) : Memory.erase m a = m.filter (fun c => c.1 != a) := by
  induction m with
  | nil => rfl
  | cons e m ih =>
    obtain ⟨j, x⟩ := e
    by_cases h : j = a <;> simp [Memory.erase, h, ih]

theorem Memory.wf_filter (p : Host.Cell → Bool) {m : Memory} (h : m.wf = true) : Memory.wf (m.filter p) = true := by
  simp only [Memory.wf, Bool.and_eq_true] at *
  refine ⟨rising_filter p h.1, ?_⟩
  have h2 := h.2
  simp only [Memory.listed, List.all_eq_true, List.mem_filter] at *
  exact fun c hc => h2 c hc.1

/-- A write keeps the canonical form. -/
theorem Memory.wf_write {m : Memory} (a : Nat) (x : Byte) (h : m.wf = true) : (m.write a x).wf = true := by
  unfold Memory.write
  split
  · rw [Memory.erase_eq_filter]; exact Memory.wf_filter _ h
  · rename_i hx
    simp only [Memory.wf, Bool.and_eq_true] at *
    exact ⟨rising_put x (Nat.zero_le a) h.1, Memory.listed_put hx h.2⟩

theorem Memory.wf_writes {m : Memory} (a : Nat) (xs : List Byte) (h : m.wf = true) : (m.writes a xs).wf = true := by
  induction xs generalizing m a with
  | nil => exact h
  | cons x xs ih => exact ih (a + 1) (Memory.wf_write a x h)

theorem Memory.wf_foldl_write {α : Type} (f : α → Nat × Byte) (l : List α) {m : Memory} (h : m.wf = true) :
    Memory.wf (l.foldl (fun m e => m.write (f e).1 (f e).2) m) = true := by
  induction l generalizing m with
  | nil => exact h
  | cons e l ih => exact ih (Memory.wf_write _ _ h)

theorem Memory.wf_foldl_writes {α : Type} (f : α → Nat × List Byte) (l : List α) {m : Memory} (h : m.wf = true) :
    Memory.wf (l.foldl (fun m e => m.writes (f e).1 (f e).2) m) = true := by
  induction l generalizing m with
  | nil => exact h
  | cons e l ih => exact ih (Memory.wf_writes _ _ h)

/-! ### Little-endian numbers (R2) -/

theorem leBytes_length (n x : Nat) : (leBytes n x).length = n := by
  induction n generalizing x with
  | zero => rfl
  | succ n ih => simp [leBytes, ih]

theorem leNat_leBytes (n x : Nat) : leNat (leBytes n x) = x % 256 ^ n := by
  induction n generalizing x with
  | zero => simp [leBytes, leNat, Nat.mod_one]
  | succ n ih =>
    rw [leBytes, leNat, ih, BitVec.toNat_ofNat, show (256 : Nat) ^ (n + 1) = 256 * 256 ^ n from Nat.pow_succ', Nat.mod_mul]

theorem Memory.bytes_length (m : Memory) (a n : Nat) : (m.bytes a n).length = n := by
  induction n generalizing a with
  | zero => rfl
  | succ n ih => simp [Memory.bytes, ih]

end Sys2Proof.Machine
end

