-- ==== Sys2Proof/Laws/State.lean ====
section
/-! SUPPORT. What each update of the state leaves and gives, one lemma for each field. -/

namespace Sys2Proof.Machine

/-! ### setCtx -/

@[simp] theorem State.setCtx_mem (s : State) (c : Nat) (x : Ctx) : (s.setCtx c x).mem = s.mem := rfl
@[simp] theorem State.setCtx_banks (s : State) (c : Nat) (x : Ctx) : (s.setCtx c x).banks = s.banks := rfl
@[simp] theorem State.setCtx_cores (s : State) (c : Nat) (x : Ctx) : (s.setCtx c x).cores = s.cores := rfl
@[simp] theorem State.setCtx_ridges (s : State) (c : Nat) (x : Ctx) : (s.setCtx c x).ridges = s.ridges := rfl
@[simp] theorem State.setCtx_dies (s : State) (c : Nat) (x : Ctx) : (s.setCtx c x).dies = s.dies := rfl
@[simp] theorem State.setCtx_teams (s : State) (c : Nat) (x : Ctx) : (s.setCtx c x).teams = s.teams := rfl
@[simp] theorem State.setCtx_parts (s : State) (c : Nat) (x : Ctx) : (s.setCtx c x).parts = s.parts := rfl
@[simp] theorem State.setCtx_saved (s : State) (c : Nat) (x : Ctx) : (s.setCtx c x).saved = s.saved := rfl
@[simp] theorem State.setCtx_images (s : State) (c : Nat) (x : Ctx) : (s.setCtx c x).images = s.images := rfl
@[simp] theorem State.setCtx_packets (s : State) (c : Nat) (x : Ctx) : (s.setCtx c x).packets = s.packets := rfl
@[simp] theorem State.setCtx_packetNext (s : State) (c : Nat) (x : Ctx) : (s.setCtx c x).packetNext = s.packetNext := rfl
@[simp] theorem State.setCtx_taskNext (s : State) (c : Nat) (x : Ctx) : (s.setCtx c x).taskNext = s.taskNext := rfl
@[simp] theorem State.setCtx_messages (s : State) (c : Nat) (x : Ctx) : (s.setCtx c x).messages = s.messages := rfl
@[simp] theorem State.setCtx_requests (s : State) (c : Nat) (x : Ctx) : (s.setCtx c x).requests = s.requests := rfl
@[simp] theorem State.setCtx_poison (s : State) (c : Nat) (x : Ctx) : (s.setCtx c x).poison = s.poison := rfl
@[simp] theorem State.setCtx_marks (s : State) (c : Nat) (x : Ctx) : (s.setCtx c x).marks = s.marks := rfl
@[simp] theorem State.setCtx_homeGens (s : State) (c : Nat) (x : Ctx) : (s.setCtx c x).homeGens = s.homeGens := rfl
@[simp] theorem State.setCtx_l1s (s : State) (c : Nat) (x : Ctx) : (s.setCtx c x).l1s = s.l1s := rfl
@[simp] theorem State.setCtx_l2s (s : State) (c : Nat) (x : Ctx) : (s.setCtx c x).l2s = s.l2s := rfl
@[simp] theorem State.setCtx_dirs (s : State) (c : Nat) (x : Ctx) : (s.setCtx c x).dirs = s.dirs := rfl
@[simp] theorem State.setCtx_rws (s : State) (c : Nat) (x : Ctx) : (s.setCtx c x).rws = s.rws := rfl
@[simp] theorem State.setCtx_strong (s : State) (c : Nat) (x : Ctx) : (s.setCtx c x).strong = s.strong := rfl
@[simp] theorem State.setCtx_faults (s : State) (c : Nat) (x : Ctx) : (s.setCtx c x).faults = s.faults := rfl
@[simp] theorem State.setCtx_heats (s : State) (c : Nat) (x : Ctx) : (s.setCtx c x).heats = s.heats := rfl
@[simp] theorem State.setCtx_time (s : State) (c : Nat) (x : Ctx) : (s.setCtx c x).time = s.time := rfl
@[simp] theorem State.setCtx_cyc (s : State) (c : Nat) (x : Ctx) : (s.setCtx c x).cyc = s.cyc := rfl
@[simp] theorem State.setCtx_melt (s : State) (c : Nat) (x : Ctx) : (s.setCtx c x).melt = s.melt := rfl
@[simp] theorem State.setCtx_refreeze (s : State) (c : Nat) (x : Ctx) : (s.setCtx c x).refreeze = s.refreeze := rfl
@[simp] theorem State.setCtx_pwr (s : State) (c : Nat) (x : Ctx) : (s.setCtx c x).pwr = s.pwr := rfl
@[simp] theorem State.setCtx_regbase (s : State) (c : Nat) (x : Ctx) : (s.setCtx c x).regbase = s.regbase := rfl
@[simp] theorem State.setCtx_regsize (s : State) (c : Nat) (x : Ctx) : (s.setCtx c x).regsize = s.regsize := rfl
@[simp] theorem State.setCtx_ptab (s : State) (c : Nat) (x : Ctx) : (s.setCtx c x).ptab = s.ptab := rfl
@[simp] theorem State.setCtx_pload (s : State) (c : Nat) (x : Ctx) : (s.setCtx c x).pload = s.pload := rfl
@[simp] theorem State.setCtx_heart (s : State) (c : Nat) (x : Ctx) : (s.setCtx c x).heart = s.heart := rfl
@[simp] theorem State.setCtx_heartAt (s : State) (c : Nat) (x : Ctx) : (s.setCtx c x).heartAt = s.heartAt := rfl
@[simp] theorem State.setCtx_crashed (s : State) (c : Nat) (x : Ctx) : (s.setCtx c x).crashed = s.crashed := rfl
@[simp] theorem State.setCtx_incarnNext (s : State) (c : Nat) (x : Ctx) : (s.setCtx c x).incarnNext = s.incarnNext := rfl
@[simp] theorem State.setCtx_pod (s : State) (c : Nat) (x : Ctx) : (s.setCtx c x).pod = s.pod := rfl
@[simp] theorem State.setCtx_accel (s : State) (c : Nat) (x : Ctx) : (s.setCtx c x).accel = s.accel := rfl
@[simp] theorem State.setCtx_planes (s : State) (c : Nat) (x : Ctx) : (s.setCtx c x).planes = s.planes := rfl
@[simp] theorem State.setCtx_podMap (s : State) (c : Nat) (x : Ctx) : (s.setCtx c x).podMap = s.podMap := rfl
@[simp] theorem State.setCtx_timeMaster (s : State) (c : Nat) (x : Ctx) : (s.setCtx c x).timeMaster = s.timeMaster := rfl
@[simp] theorem State.setCtx_stations (s : State) (c : Nat) (x : Ctx) : (s.setCtx c x).stations = s.stations := rfl
@[simp] theorem State.setCtx_ports (s : State) (c : Nat) (x : Ctx) : (s.setCtx c x).ports = s.ports := rfl
@[simp] theorem State.setCtx_nextStation (s : State) (c : Nat) (x : Ctx) : (s.setCtx c x).nextStation = s.nextStation := rfl
@[simp] theorem State.setCtx_nextPort (s : State) (c : Nat) (x : Ctx) : (s.setCtx c x).nextPort = s.nextPort := rfl
@[simp] theorem State.setCtx_timeLock (s : State) (c : Nat) (x : Ctx) : (s.setCtx c x).timeLock = s.timeLock := rfl
@[simp] theorem State.setCtx_bringUp (s : State) (c : Nat) (x : Ctx) : (s.setCtx c x).bringUp = s.bringUp := rfl
@[simp] theorem State.setCtx_attestOnly (s : State) (c : Nat) (x : Ctx) : (s.setCtx c x).attestOnly = s.attestOnly := rfl
@[simp] theorem State.setCtx_bootImage (s : State) (c : Nat) (x : Ctx) : (s.setCtx c x).bootImage = s.bootImage := rfl
@[simp] theorem State.setCtx_identity (s : State) (c : Nat) (x : Ctx) : (s.setCtx c x).identity = s.identity := rfl
@[simp] theorem State.setCtx_flash (s : State) (c : Nat) (x : Ctx) : (s.setCtx c x).flash = s.flash := rfl
@[simp] theorem State.setCtx_newImage (s : State) (c : Nat) (x : Ctx) : (s.setCtx c x).newImage = s.newImage := rfl
@[simp] theorem State.setCtx_newMap (s : State) (c : Nat) (x : Ctx) : (s.setCtx c x).newMap = s.newMap := rfl
@[simp] theorem State.setCtx_replies (s : State) (c : Nat) (x : Ctx) : (s.setCtx c x).replies = s.replies := rfl
@[simp] theorem State.setCtx_agenda (s : State) (c : Nat) (x : Ctx) : (s.setCtx c x).agenda = s.agenda := rfl
@[simp] theorem State.setCtx_focus (s : State) (c : Nat) (x : Ctx) : (s.setCtx c x).focus = s.focus := rfl
@[simp] theorem State.setCtx_cur (s : State) (c : Nat) (x : Ctx) : (s.setCtx c x).cur = s.cur := rfl
@[simp] theorem State.setCtx_stalled (s : State) (c : Nat) (x : Ctx) : (s.setCtx c x).stalled = s.stalled := rfl
@[simp] theorem State.setCtx_issued (s : State) (c : Nat) (x : Ctx) : (s.setCtx c x).issued = s.issued := rfl
@[simp] theorem State.setCtx_free (s : State) (c : Nat) (x : Ctx) : (s.setCtx c x).free = s.free := rfl

@[simp] theorem State.setCtx_ctx (s : State) (c : Nat) (x : Ctx) : (s.setCtx c x).ctx c = x := Table.get_put_same _ _ _ _
theorem State.setCtx_ctx_other (s : State) (c j : Nat) (x : Ctx) (h : j ≠ c) : (s.setCtx c x).ctx j = s.ctx j :=
  Table.get_put_other _ _ _ _ _ h
@[simp] theorem State.setCtx_setCtx (s : State) (c : Nat) (x y : Ctx) : (s.setCtx c x).setCtx c y = s.setCtx c y := by
  simp only [State.setCtx, Table.put_put_same]
@[simp] theorem State.setCtx_bank (s : State) (c n : Nat) (x : Ctx) : (s.setCtx c x).bank n = s.bank n := rfl
@[simp] theorem State.setCtx_core (s : State) (c n : Nat) (x : Ctx) : (s.setCtx c x).core n = s.core n := rfl
@[simp] theorem State.setCtx_ridge (s : State) (c n : Nat) (x : Ctx) : (s.setCtx c x).ridge n = s.ridge n := rfl
@[simp] theorem State.setCtx_die (s : State) (c n : Nat) (x : Ctx) : (s.setCtx c x).die n = s.die n := rfl
@[simp] theorem State.setCtx_team (s : State) (c n : Nat) (x : Ctx) : (s.setCtx c x).team n = s.team n := rfl
@[simp] theorem State.setCtx_part (s : State) (c n : Nat) (x : Ctx) : (s.setCtx c x).part n = s.part n := rfl
@[simp] theorem State.setMe_me (s : State) (x : Ctx) : (s.setMe x).me = x := Table.get_put_same _ _ _ _
@[simp] theorem State.setMe_cur (s : State) (x : Ctx) : (s.setMe x).cur = s.cur := rfl
@[simp] theorem State.setMe_setMe (s : State) (x y : Ctx) : (s.setMe x).setMe y = s.setMe y := by
  simp only [State.setMe, State.setCtx_cur, State.setCtx_setCtx]
@[simp] theorem State.setMe_mem (s : State) (x : Ctx) : (s.setMe x).mem = s.mem := rfl
@[simp] theorem State.setMe_banks (s : State) (x : Ctx) : (s.setMe x).banks = s.banks := rfl
@[simp] theorem State.setMe_cores (s : State) (x : Ctx) : (s.setMe x).cores = s.cores := rfl
@[simp] theorem State.setMe_ridges (s : State) (x : Ctx) : (s.setMe x).ridges = s.ridges := rfl
@[simp] theorem State.setMe_dies (s : State) (x : Ctx) : (s.setMe x).dies = s.dies := rfl
@[simp] theorem State.setMe_teams (s : State) (x : Ctx) : (s.setMe x).teams = s.teams := rfl
@[simp] theorem State.setMe_parts (s : State) (x : Ctx) : (s.setMe x).parts = s.parts := rfl
@[simp] theorem State.setMe_saved (s : State) (x : Ctx) : (s.setMe x).saved = s.saved := rfl
@[simp] theorem State.setMe_images (s : State) (x : Ctx) : (s.setMe x).images = s.images := rfl
@[simp] theorem State.setMe_packets (s : State) (x : Ctx) : (s.setMe x).packets = s.packets := rfl
@[simp] theorem State.setMe_packetNext (s : State) (x : Ctx) : (s.setMe x).packetNext = s.packetNext := rfl
@[simp] theorem State.setMe_taskNext (s : State) (x : Ctx) : (s.setMe x).taskNext = s.taskNext := rfl
@[simp] theorem State.setMe_messages (s : State) (x : Ctx) : (s.setMe x).messages = s.messages := rfl
@[simp] theorem State.setMe_requests (s : State) (x : Ctx) : (s.setMe x).requests = s.requests := rfl
@[simp] theorem State.setMe_poison (s : State) (x : Ctx) : (s.setMe x).poison = s.poison := rfl
@[simp] theorem State.setMe_marks (s : State) (x : Ctx) : (s.setMe x).marks = s.marks := rfl
@[simp] theorem State.setMe_homeGens (s : State) (x : Ctx) : (s.setMe x).homeGens = s.homeGens := rfl
@[simp] theorem State.setMe_l1s (s : State) (x : Ctx) : (s.setMe x).l1s = s.l1s := rfl
@[simp] theorem State.setMe_l2s (s : State) (x : Ctx) : (s.setMe x).l2s = s.l2s := rfl
@[simp] theorem State.setMe_dirs (s : State) (x : Ctx) : (s.setMe x).dirs = s.dirs := rfl
@[simp] theorem State.setMe_rws (s : State) (x : Ctx) : (s.setMe x).rws = s.rws := rfl
@[simp] theorem State.setMe_strong (s : State) (x : Ctx) : (s.setMe x).strong = s.strong := rfl
@[simp] theorem State.setMe_faults (s : State) (x : Ctx) : (s.setMe x).faults = s.faults := rfl
@[simp] theorem State.setMe_heats (s : State) (x : Ctx) : (s.setMe x).heats = s.heats := rfl
@[simp] theorem State.setMe_time (s : State) (x : Ctx) : (s.setMe x).time = s.time := rfl
@[simp] theorem State.setMe_cyc (s : State) (x : Ctx) : (s.setMe x).cyc = s.cyc := rfl
@[simp] theorem State.setMe_melt (s : State) (x : Ctx) : (s.setMe x).melt = s.melt := rfl
@[simp] theorem State.setMe_refreeze (s : State) (x : Ctx) : (s.setMe x).refreeze = s.refreeze := rfl
@[simp] theorem State.setMe_pwr (s : State) (x : Ctx) : (s.setMe x).pwr = s.pwr := rfl
@[simp] theorem State.setMe_regbase (s : State) (x : Ctx) : (s.setMe x).regbase = s.regbase := rfl
@[simp] theorem State.setMe_regsize (s : State) (x : Ctx) : (s.setMe x).regsize = s.regsize := rfl
@[simp] theorem State.setMe_ptab (s : State) (x : Ctx) : (s.setMe x).ptab = s.ptab := rfl
@[simp] theorem State.setMe_pload (s : State) (x : Ctx) : (s.setMe x).pload = s.pload := rfl
@[simp] theorem State.setMe_heart (s : State) (x : Ctx) : (s.setMe x).heart = s.heart := rfl
@[simp] theorem State.setMe_heartAt (s : State) (x : Ctx) : (s.setMe x).heartAt = s.heartAt := rfl
@[simp] theorem State.setMe_crashed (s : State) (x : Ctx) : (s.setMe x).crashed = s.crashed := rfl
@[simp] theorem State.setMe_incarnNext (s : State) (x : Ctx) : (s.setMe x).incarnNext = s.incarnNext := rfl
@[simp] theorem State.setMe_pod (s : State) (x : Ctx) : (s.setMe x).pod = s.pod := rfl
@[simp] theorem State.setMe_accel (s : State) (x : Ctx) : (s.setMe x).accel = s.accel := rfl
@[simp] theorem State.setMe_planes (s : State) (x : Ctx) : (s.setMe x).planes = s.planes := rfl
@[simp] theorem State.setMe_podMap (s : State) (x : Ctx) : (s.setMe x).podMap = s.podMap := rfl
@[simp] theorem State.setMe_timeMaster (s : State) (x : Ctx) : (s.setMe x).timeMaster = s.timeMaster := rfl
@[simp] theorem State.setMe_stations (s : State) (x : Ctx) : (s.setMe x).stations = s.stations := rfl
@[simp] theorem State.setMe_ports (s : State) (x : Ctx) : (s.setMe x).ports = s.ports := rfl
@[simp] theorem State.setMe_nextStation (s : State) (x : Ctx) : (s.setMe x).nextStation = s.nextStation := rfl
@[simp] theorem State.setMe_nextPort (s : State) (x : Ctx) : (s.setMe x).nextPort = s.nextPort := rfl
@[simp] theorem State.setMe_timeLock (s : State) (x : Ctx) : (s.setMe x).timeLock = s.timeLock := rfl
@[simp] theorem State.setMe_bringUp (s : State) (x : Ctx) : (s.setMe x).bringUp = s.bringUp := rfl
@[simp] theorem State.setMe_attestOnly (s : State) (x : Ctx) : (s.setMe x).attestOnly = s.attestOnly := rfl
@[simp] theorem State.setMe_bootImage (s : State) (x : Ctx) : (s.setMe x).bootImage = s.bootImage := rfl
@[simp] theorem State.setMe_identity (s : State) (x : Ctx) : (s.setMe x).identity = s.identity := rfl
@[simp] theorem State.setMe_flash (s : State) (x : Ctx) : (s.setMe x).flash = s.flash := rfl
@[simp] theorem State.setMe_newImage (s : State) (x : Ctx) : (s.setMe x).newImage = s.newImage := rfl
@[simp] theorem State.setMe_newMap (s : State) (x : Ctx) : (s.setMe x).newMap = s.newMap := rfl
@[simp] theorem State.setMe_replies (s : State) (x : Ctx) : (s.setMe x).replies = s.replies := rfl
@[simp] theorem State.setMe_agenda (s : State) (x : Ctx) : (s.setMe x).agenda = s.agenda := rfl
@[simp] theorem State.setMe_focus (s : State) (x : Ctx) : (s.setMe x).focus = s.focus := rfl
@[simp] theorem State.setMe_stalled (s : State) (x : Ctx) : (s.setMe x).stalled = s.stalled := rfl
@[simp] theorem State.setMe_issued (s : State) (x : Ctx) : (s.setMe x).issued = s.issued := rfl
@[simp] theorem State.setMe_free (s : State) (x : Ctx) : (s.setMe x).free = s.free := rfl

/-! ### setBank -/

@[simp] theorem State.setBank_mem (s : State) (b : Nat) (x : Bank) : (s.setBank b x).mem = s.mem := rfl
@[simp] theorem State.setBank_ctxs (s : State) (b : Nat) (x : Bank) : (s.setBank b x).ctxs = s.ctxs := rfl
@[simp] theorem State.setBank_cores (s : State) (b : Nat) (x : Bank) : (s.setBank b x).cores = s.cores := rfl
@[simp] theorem State.setBank_ridges (s : State) (b : Nat) (x : Bank) : (s.setBank b x).ridges = s.ridges := rfl
@[simp] theorem State.setBank_dies (s : State) (b : Nat) (x : Bank) : (s.setBank b x).dies = s.dies := rfl
@[simp] theorem State.setBank_teams (s : State) (b : Nat) (x : Bank) : (s.setBank b x).teams = s.teams := rfl
@[simp] theorem State.setBank_parts (s : State) (b : Nat) (x : Bank) : (s.setBank b x).parts = s.parts := rfl
@[simp] theorem State.setBank_saved (s : State) (b : Nat) (x : Bank) : (s.setBank b x).saved = s.saved := rfl
@[simp] theorem State.setBank_images (s : State) (b : Nat) (x : Bank) : (s.setBank b x).images = s.images := rfl
@[simp] theorem State.setBank_packets (s : State) (b : Nat) (x : Bank) : (s.setBank b x).packets = s.packets := rfl
@[simp] theorem State.setBank_packetNext (s : State) (b : Nat) (x : Bank) : (s.setBank b x).packetNext = s.packetNext := rfl
@[simp] theorem State.setBank_taskNext (s : State) (b : Nat) (x : Bank) : (s.setBank b x).taskNext = s.taskNext := rfl
@[simp] theorem State.setBank_messages (s : State) (b : Nat) (x : Bank) : (s.setBank b x).messages = s.messages := rfl
@[simp] theorem State.setBank_requests (s : State) (b : Nat) (x : Bank) : (s.setBank b x).requests = s.requests := rfl
@[simp] theorem State.setBank_poison (s : State) (b : Nat) (x : Bank) : (s.setBank b x).poison = s.poison := rfl
@[simp] theorem State.setBank_marks (s : State) (b : Nat) (x : Bank) : (s.setBank b x).marks = s.marks := rfl
@[simp] theorem State.setBank_homeGens (s : State) (b : Nat) (x : Bank) : (s.setBank b x).homeGens = s.homeGens := rfl
@[simp] theorem State.setBank_l1s (s : State) (b : Nat) (x : Bank) : (s.setBank b x).l1s = s.l1s := rfl
@[simp] theorem State.setBank_l2s (s : State) (b : Nat) (x : Bank) : (s.setBank b x).l2s = s.l2s := rfl
@[simp] theorem State.setBank_dirs (s : State) (b : Nat) (x : Bank) : (s.setBank b x).dirs = s.dirs := rfl
@[simp] theorem State.setBank_rws (s : State) (b : Nat) (x : Bank) : (s.setBank b x).rws = s.rws := rfl
@[simp] theorem State.setBank_strong (s : State) (b : Nat) (x : Bank) : (s.setBank b x).strong = s.strong := rfl
@[simp] theorem State.setBank_faults (s : State) (b : Nat) (x : Bank) : (s.setBank b x).faults = s.faults := rfl
@[simp] theorem State.setBank_heats (s : State) (b : Nat) (x : Bank) : (s.setBank b x).heats = s.heats := rfl
@[simp] theorem State.setBank_time (s : State) (b : Nat) (x : Bank) : (s.setBank b x).time = s.time := rfl
@[simp] theorem State.setBank_cyc (s : State) (b : Nat) (x : Bank) : (s.setBank b x).cyc = s.cyc := rfl
@[simp] theorem State.setBank_melt (s : State) (b : Nat) (x : Bank) : (s.setBank b x).melt = s.melt := rfl
@[simp] theorem State.setBank_refreeze (s : State) (b : Nat) (x : Bank) : (s.setBank b x).refreeze = s.refreeze := rfl
@[simp] theorem State.setBank_pwr (s : State) (b : Nat) (x : Bank) : (s.setBank b x).pwr = s.pwr := rfl
@[simp] theorem State.setBank_regbase (s : State) (b : Nat) (x : Bank) : (s.setBank b x).regbase = s.regbase := rfl
@[simp] theorem State.setBank_regsize (s : State) (b : Nat) (x : Bank) : (s.setBank b x).regsize = s.regsize := rfl
@[simp] theorem State.setBank_ptab (s : State) (b : Nat) (x : Bank) : (s.setBank b x).ptab = s.ptab := rfl
@[simp] theorem State.setBank_pload (s : State) (b : Nat) (x : Bank) : (s.setBank b x).pload = s.pload := rfl
@[simp] theorem State.setBank_heart (s : State) (b : Nat) (x : Bank) : (s.setBank b x).heart = s.heart := rfl
@[simp] theorem State.setBank_heartAt (s : State) (b : Nat) (x : Bank) : (s.setBank b x).heartAt = s.heartAt := rfl
@[simp] theorem State.setBank_crashed (s : State) (b : Nat) (x : Bank) : (s.setBank b x).crashed = s.crashed := rfl
@[simp] theorem State.setBank_incarnNext (s : State) (b : Nat) (x : Bank) : (s.setBank b x).incarnNext = s.incarnNext := rfl
@[simp] theorem State.setBank_pod (s : State) (b : Nat) (x : Bank) : (s.setBank b x).pod = s.pod := rfl
@[simp] theorem State.setBank_accel (s : State) (b : Nat) (x : Bank) : (s.setBank b x).accel = s.accel := rfl
@[simp] theorem State.setBank_planes (s : State) (b : Nat) (x : Bank) : (s.setBank b x).planes = s.planes := rfl
@[simp] theorem State.setBank_podMap (s : State) (b : Nat) (x : Bank) : (s.setBank b x).podMap = s.podMap := rfl
@[simp] theorem State.setBank_timeMaster (s : State) (b : Nat) (x : Bank) : (s.setBank b x).timeMaster = s.timeMaster := rfl
@[simp] theorem State.setBank_stations (s : State) (b : Nat) (x : Bank) : (s.setBank b x).stations = s.stations := rfl
@[simp] theorem State.setBank_ports (s : State) (b : Nat) (x : Bank) : (s.setBank b x).ports = s.ports := rfl
@[simp] theorem State.setBank_nextStation (s : State) (b : Nat) (x : Bank) : (s.setBank b x).nextStation = s.nextStation := rfl
@[simp] theorem State.setBank_nextPort (s : State) (b : Nat) (x : Bank) : (s.setBank b x).nextPort = s.nextPort := rfl
@[simp] theorem State.setBank_timeLock (s : State) (b : Nat) (x : Bank) : (s.setBank b x).timeLock = s.timeLock := rfl
@[simp] theorem State.setBank_bringUp (s : State) (b : Nat) (x : Bank) : (s.setBank b x).bringUp = s.bringUp := rfl
@[simp] theorem State.setBank_attestOnly (s : State) (b : Nat) (x : Bank) : (s.setBank b x).attestOnly = s.attestOnly := rfl
@[simp] theorem State.setBank_bootImage (s : State) (b : Nat) (x : Bank) : (s.setBank b x).bootImage = s.bootImage := rfl
@[simp] theorem State.setBank_identity (s : State) (b : Nat) (x : Bank) : (s.setBank b x).identity = s.identity := rfl
@[simp] theorem State.setBank_flash (s : State) (b : Nat) (x : Bank) : (s.setBank b x).flash = s.flash := rfl
@[simp] theorem State.setBank_newImage (s : State) (b : Nat) (x : Bank) : (s.setBank b x).newImage = s.newImage := rfl
@[simp] theorem State.setBank_newMap (s : State) (b : Nat) (x : Bank) : (s.setBank b x).newMap = s.newMap := rfl
@[simp] theorem State.setBank_replies (s : State) (b : Nat) (x : Bank) : (s.setBank b x).replies = s.replies := rfl
@[simp] theorem State.setBank_agenda (s : State) (b : Nat) (x : Bank) : (s.setBank b x).agenda = s.agenda := rfl
@[simp] theorem State.setBank_focus (s : State) (b : Nat) (x : Bank) : (s.setBank b x).focus = s.focus := rfl
@[simp] theorem State.setBank_cur (s : State) (b : Nat) (x : Bank) : (s.setBank b x).cur = s.cur := rfl
@[simp] theorem State.setBank_stalled (s : State) (b : Nat) (x : Bank) : (s.setBank b x).stalled = s.stalled := rfl
@[simp] theorem State.setBank_issued (s : State) (b : Nat) (x : Bank) : (s.setBank b x).issued = s.issued := rfl
@[simp] theorem State.setBank_free (s : State) (b : Nat) (x : Bank) : (s.setBank b x).free = s.free := rfl

@[simp] theorem State.setBank_bank (s : State) (b : Nat) (x : Bank) : (s.setBank b x).bank b = x := Table.get_put_same _ _ _ _
theorem State.setBank_bank_other (s : State) (b j : Nat) (x : Bank) (h : j ≠ b) : (s.setBank b x).bank j = s.bank j :=
  Table.get_put_other _ _ _ _ _ h
@[simp] theorem State.setBank_setBank (s : State) (b : Nat) (x y : Bank) : (s.setBank b x).setBank b y = s.setBank b y := by
  simp only [State.setBank, Table.put_put_same]
@[simp] theorem State.setBank_ctx (s : State) (b n : Nat) (x : Bank) : (s.setBank b x).ctx n = s.ctx n := rfl
@[simp] theorem State.setBank_core (s : State) (b n : Nat) (x : Bank) : (s.setBank b x).core n = s.core n := rfl
@[simp] theorem State.setBank_ridge (s : State) (b n : Nat) (x : Bank) : (s.setBank b x).ridge n = s.ridge n := rfl
@[simp] theorem State.setBank_die (s : State) (b n : Nat) (x : Bank) : (s.setBank b x).die n = s.die n := rfl
@[simp] theorem State.setBank_team (s : State) (b n : Nat) (x : Bank) : (s.setBank b x).team n = s.team n := rfl
@[simp] theorem State.setBank_part (s : State) (b n : Nat) (x : Bank) : (s.setBank b x).part n = s.part n := rfl

/-! ### setCore -/

@[simp] theorem State.setCore_mem (s : State) (c : Nat) (x : Core) : (s.setCore c x).mem = s.mem := rfl
@[simp] theorem State.setCore_ctxs (s : State) (c : Nat) (x : Core) : (s.setCore c x).ctxs = s.ctxs := rfl
@[simp] theorem State.setCore_banks (s : State) (c : Nat) (x : Core) : (s.setCore c x).banks = s.banks := rfl
@[simp] theorem State.setCore_ridges (s : State) (c : Nat) (x : Core) : (s.setCore c x).ridges = s.ridges := rfl
@[simp] theorem State.setCore_dies (s : State) (c : Nat) (x : Core) : (s.setCore c x).dies = s.dies := rfl
@[simp] theorem State.setCore_teams (s : State) (c : Nat) (x : Core) : (s.setCore c x).teams = s.teams := rfl
@[simp] theorem State.setCore_parts (s : State) (c : Nat) (x : Core) : (s.setCore c x).parts = s.parts := rfl
@[simp] theorem State.setCore_saved (s : State) (c : Nat) (x : Core) : (s.setCore c x).saved = s.saved := rfl
@[simp] theorem State.setCore_images (s : State) (c : Nat) (x : Core) : (s.setCore c x).images = s.images := rfl
@[simp] theorem State.setCore_packets (s : State) (c : Nat) (x : Core) : (s.setCore c x).packets = s.packets := rfl
@[simp] theorem State.setCore_packetNext (s : State) (c : Nat) (x : Core) : (s.setCore c x).packetNext = s.packetNext := rfl
@[simp] theorem State.setCore_taskNext (s : State) (c : Nat) (x : Core) : (s.setCore c x).taskNext = s.taskNext := rfl
@[simp] theorem State.setCore_messages (s : State) (c : Nat) (x : Core) : (s.setCore c x).messages = s.messages := rfl
@[simp] theorem State.setCore_requests (s : State) (c : Nat) (x : Core) : (s.setCore c x).requests = s.requests := rfl
@[simp] theorem State.setCore_poison (s : State) (c : Nat) (x : Core) : (s.setCore c x).poison = s.poison := rfl
@[simp] theorem State.setCore_marks (s : State) (c : Nat) (x : Core) : (s.setCore c x).marks = s.marks := rfl
@[simp] theorem State.setCore_homeGens (s : State) (c : Nat) (x : Core) : (s.setCore c x).homeGens = s.homeGens := rfl
@[simp] theorem State.setCore_l1s (s : State) (c : Nat) (x : Core) : (s.setCore c x).l1s = s.l1s := rfl
@[simp] theorem State.setCore_l2s (s : State) (c : Nat) (x : Core) : (s.setCore c x).l2s = s.l2s := rfl
@[simp] theorem State.setCore_dirs (s : State) (c : Nat) (x : Core) : (s.setCore c x).dirs = s.dirs := rfl
@[simp] theorem State.setCore_rws (s : State) (c : Nat) (x : Core) : (s.setCore c x).rws = s.rws := rfl
@[simp] theorem State.setCore_strong (s : State) (c : Nat) (x : Core) : (s.setCore c x).strong = s.strong := rfl
@[simp] theorem State.setCore_faults (s : State) (c : Nat) (x : Core) : (s.setCore c x).faults = s.faults := rfl
@[simp] theorem State.setCore_heats (s : State) (c : Nat) (x : Core) : (s.setCore c x).heats = s.heats := rfl
@[simp] theorem State.setCore_time (s : State) (c : Nat) (x : Core) : (s.setCore c x).time = s.time := rfl
@[simp] theorem State.setCore_cyc (s : State) (c : Nat) (x : Core) : (s.setCore c x).cyc = s.cyc := rfl
@[simp] theorem State.setCore_melt (s : State) (c : Nat) (x : Core) : (s.setCore c x).melt = s.melt := rfl
@[simp] theorem State.setCore_refreeze (s : State) (c : Nat) (x : Core) : (s.setCore c x).refreeze = s.refreeze := rfl
@[simp] theorem State.setCore_pwr (s : State) (c : Nat) (x : Core) : (s.setCore c x).pwr = s.pwr := rfl
@[simp] theorem State.setCore_regbase (s : State) (c : Nat) (x : Core) : (s.setCore c x).regbase = s.regbase := rfl
@[simp] theorem State.setCore_regsize (s : State) (c : Nat) (x : Core) : (s.setCore c x).regsize = s.regsize := rfl
@[simp] theorem State.setCore_ptab (s : State) (c : Nat) (x : Core) : (s.setCore c x).ptab = s.ptab := rfl
@[simp] theorem State.setCore_pload (s : State) (c : Nat) (x : Core) : (s.setCore c x).pload = s.pload := rfl
@[simp] theorem State.setCore_heart (s : State) (c : Nat) (x : Core) : (s.setCore c x).heart = s.heart := rfl
@[simp] theorem State.setCore_heartAt (s : State) (c : Nat) (x : Core) : (s.setCore c x).heartAt = s.heartAt := rfl
@[simp] theorem State.setCore_crashed (s : State) (c : Nat) (x : Core) : (s.setCore c x).crashed = s.crashed := rfl
@[simp] theorem State.setCore_incarnNext (s : State) (c : Nat) (x : Core) : (s.setCore c x).incarnNext = s.incarnNext := rfl
@[simp] theorem State.setCore_pod (s : State) (c : Nat) (x : Core) : (s.setCore c x).pod = s.pod := rfl
@[simp] theorem State.setCore_accel (s : State) (c : Nat) (x : Core) : (s.setCore c x).accel = s.accel := rfl
@[simp] theorem State.setCore_planes (s : State) (c : Nat) (x : Core) : (s.setCore c x).planes = s.planes := rfl
@[simp] theorem State.setCore_podMap (s : State) (c : Nat) (x : Core) : (s.setCore c x).podMap = s.podMap := rfl
@[simp] theorem State.setCore_timeMaster (s : State) (c : Nat) (x : Core) : (s.setCore c x).timeMaster = s.timeMaster := rfl
@[simp] theorem State.setCore_stations (s : State) (c : Nat) (x : Core) : (s.setCore c x).stations = s.stations := rfl
@[simp] theorem State.setCore_ports (s : State) (c : Nat) (x : Core) : (s.setCore c x).ports = s.ports := rfl
@[simp] theorem State.setCore_nextStation (s : State) (c : Nat) (x : Core) : (s.setCore c x).nextStation = s.nextStation := rfl
@[simp] theorem State.setCore_nextPort (s : State) (c : Nat) (x : Core) : (s.setCore c x).nextPort = s.nextPort := rfl
@[simp] theorem State.setCore_timeLock (s : State) (c : Nat) (x : Core) : (s.setCore c x).timeLock = s.timeLock := rfl
@[simp] theorem State.setCore_bringUp (s : State) (c : Nat) (x : Core) : (s.setCore c x).bringUp = s.bringUp := rfl
@[simp] theorem State.setCore_attestOnly (s : State) (c : Nat) (x : Core) : (s.setCore c x).attestOnly = s.attestOnly := rfl
@[simp] theorem State.setCore_bootImage (s : State) (c : Nat) (x : Core) : (s.setCore c x).bootImage = s.bootImage := rfl
@[simp] theorem State.setCore_identity (s : State) (c : Nat) (x : Core) : (s.setCore c x).identity = s.identity := rfl
@[simp] theorem State.setCore_flash (s : State) (c : Nat) (x : Core) : (s.setCore c x).flash = s.flash := rfl
@[simp] theorem State.setCore_newImage (s : State) (c : Nat) (x : Core) : (s.setCore c x).newImage = s.newImage := rfl
@[simp] theorem State.setCore_newMap (s : State) (c : Nat) (x : Core) : (s.setCore c x).newMap = s.newMap := rfl
@[simp] theorem State.setCore_replies (s : State) (c : Nat) (x : Core) : (s.setCore c x).replies = s.replies := rfl
@[simp] theorem State.setCore_agenda (s : State) (c : Nat) (x : Core) : (s.setCore c x).agenda = s.agenda := rfl
@[simp] theorem State.setCore_focus (s : State) (c : Nat) (x : Core) : (s.setCore c x).focus = s.focus := rfl
@[simp] theorem State.setCore_cur (s : State) (c : Nat) (x : Core) : (s.setCore c x).cur = s.cur := rfl
@[simp] theorem State.setCore_stalled (s : State) (c : Nat) (x : Core) : (s.setCore c x).stalled = s.stalled := rfl
@[simp] theorem State.setCore_issued (s : State) (c : Nat) (x : Core) : (s.setCore c x).issued = s.issued := rfl
@[simp] theorem State.setCore_free (s : State) (c : Nat) (x : Core) : (s.setCore c x).free = s.free := rfl

@[simp] theorem State.setCore_core (s : State) (c : Nat) (x : Core) : (s.setCore c x).core c = x := Table.get_put_same _ _ _ _
theorem State.setCore_core_other (s : State) (c j : Nat) (x : Core) (h : j ≠ c) : (s.setCore c x).core j = s.core j :=
  Table.get_put_other _ _ _ _ _ h
@[simp] theorem State.setCore_setCore (s : State) (c : Nat) (x y : Core) : (s.setCore c x).setCore c y = s.setCore c y := by
  simp only [State.setCore, Table.put_put_same]
@[simp] theorem State.setCore_ctx (s : State) (c n : Nat) (x : Core) : (s.setCore c x).ctx n = s.ctx n := rfl
@[simp] theorem State.setCore_bank (s : State) (c n : Nat) (x : Core) : (s.setCore c x).bank n = s.bank n := rfl
@[simp] theorem State.setCore_ridge (s : State) (c n : Nat) (x : Core) : (s.setCore c x).ridge n = s.ridge n := rfl
@[simp] theorem State.setCore_die (s : State) (c n : Nat) (x : Core) : (s.setCore c x).die n = s.die n := rfl
@[simp] theorem State.setCore_team (s : State) (c n : Nat) (x : Core) : (s.setCore c x).team n = s.team n := rfl
@[simp] theorem State.setCore_part (s : State) (c n : Nat) (x : Core) : (s.setCore c x).part n = s.part n := rfl

/-! ### setRidge -/

@[simp] theorem State.setRidge_mem (s : State) (r : Nat) (x : Ridge) : (s.setRidge r x).mem = s.mem := rfl
@[simp] theorem State.setRidge_ctxs (s : State) (r : Nat) (x : Ridge) : (s.setRidge r x).ctxs = s.ctxs := rfl
@[simp] theorem State.setRidge_banks (s : State) (r : Nat) (x : Ridge) : (s.setRidge r x).banks = s.banks := rfl
@[simp] theorem State.setRidge_cores (s : State) (r : Nat) (x : Ridge) : (s.setRidge r x).cores = s.cores := rfl
@[simp] theorem State.setRidge_dies (s : State) (r : Nat) (x : Ridge) : (s.setRidge r x).dies = s.dies := rfl
@[simp] theorem State.setRidge_teams (s : State) (r : Nat) (x : Ridge) : (s.setRidge r x).teams = s.teams := rfl
@[simp] theorem State.setRidge_parts (s : State) (r : Nat) (x : Ridge) : (s.setRidge r x).parts = s.parts := rfl
@[simp] theorem State.setRidge_saved (s : State) (r : Nat) (x : Ridge) : (s.setRidge r x).saved = s.saved := rfl
@[simp] theorem State.setRidge_images (s : State) (r : Nat) (x : Ridge) : (s.setRidge r x).images = s.images := rfl
@[simp] theorem State.setRidge_packets (s : State) (r : Nat) (x : Ridge) : (s.setRidge r x).packets = s.packets := rfl
@[simp] theorem State.setRidge_packetNext (s : State) (r : Nat) (x : Ridge) : (s.setRidge r x).packetNext = s.packetNext := rfl
@[simp] theorem State.setRidge_taskNext (s : State) (r : Nat) (x : Ridge) : (s.setRidge r x).taskNext = s.taskNext := rfl
@[simp] theorem State.setRidge_messages (s : State) (r : Nat) (x : Ridge) : (s.setRidge r x).messages = s.messages := rfl
@[simp] theorem State.setRidge_requests (s : State) (r : Nat) (x : Ridge) : (s.setRidge r x).requests = s.requests := rfl
@[simp] theorem State.setRidge_poison (s : State) (r : Nat) (x : Ridge) : (s.setRidge r x).poison = s.poison := rfl
@[simp] theorem State.setRidge_marks (s : State) (r : Nat) (x : Ridge) : (s.setRidge r x).marks = s.marks := rfl
@[simp] theorem State.setRidge_homeGens (s : State) (r : Nat) (x : Ridge) : (s.setRidge r x).homeGens = s.homeGens := rfl
@[simp] theorem State.setRidge_l1s (s : State) (r : Nat) (x : Ridge) : (s.setRidge r x).l1s = s.l1s := rfl
@[simp] theorem State.setRidge_l2s (s : State) (r : Nat) (x : Ridge) : (s.setRidge r x).l2s = s.l2s := rfl
@[simp] theorem State.setRidge_dirs (s : State) (r : Nat) (x : Ridge) : (s.setRidge r x).dirs = s.dirs := rfl
@[simp] theorem State.setRidge_rws (s : State) (r : Nat) (x : Ridge) : (s.setRidge r x).rws = s.rws := rfl
@[simp] theorem State.setRidge_strong (s : State) (r : Nat) (x : Ridge) : (s.setRidge r x).strong = s.strong := rfl
@[simp] theorem State.setRidge_faults (s : State) (r : Nat) (x : Ridge) : (s.setRidge r x).faults = s.faults := rfl
@[simp] theorem State.setRidge_heats (s : State) (r : Nat) (x : Ridge) : (s.setRidge r x).heats = s.heats := rfl
@[simp] theorem State.setRidge_time (s : State) (r : Nat) (x : Ridge) : (s.setRidge r x).time = s.time := rfl
@[simp] theorem State.setRidge_cyc (s : State) (r : Nat) (x : Ridge) : (s.setRidge r x).cyc = s.cyc := rfl
@[simp] theorem State.setRidge_melt (s : State) (r : Nat) (x : Ridge) : (s.setRidge r x).melt = s.melt := rfl
@[simp] theorem State.setRidge_refreeze (s : State) (r : Nat) (x : Ridge) : (s.setRidge r x).refreeze = s.refreeze := rfl
@[simp] theorem State.setRidge_pwr (s : State) (r : Nat) (x : Ridge) : (s.setRidge r x).pwr = s.pwr := rfl
@[simp] theorem State.setRidge_regbase (s : State) (r : Nat) (x : Ridge) : (s.setRidge r x).regbase = s.regbase := rfl
@[simp] theorem State.setRidge_regsize (s : State) (r : Nat) (x : Ridge) : (s.setRidge r x).regsize = s.regsize := rfl
@[simp] theorem State.setRidge_ptab (s : State) (r : Nat) (x : Ridge) : (s.setRidge r x).ptab = s.ptab := rfl
@[simp] theorem State.setRidge_pload (s : State) (r : Nat) (x : Ridge) : (s.setRidge r x).pload = s.pload := rfl
@[simp] theorem State.setRidge_heart (s : State) (r : Nat) (x : Ridge) : (s.setRidge r x).heart = s.heart := rfl
@[simp] theorem State.setRidge_heartAt (s : State) (r : Nat) (x : Ridge) : (s.setRidge r x).heartAt = s.heartAt := rfl
@[simp] theorem State.setRidge_crashed (s : State) (r : Nat) (x : Ridge) : (s.setRidge r x).crashed = s.crashed := rfl
@[simp] theorem State.setRidge_incarnNext (s : State) (r : Nat) (x : Ridge) : (s.setRidge r x).incarnNext = s.incarnNext := rfl
@[simp] theorem State.setRidge_pod (s : State) (r : Nat) (x : Ridge) : (s.setRidge r x).pod = s.pod := rfl
@[simp] theorem State.setRidge_accel (s : State) (r : Nat) (x : Ridge) : (s.setRidge r x).accel = s.accel := rfl
@[simp] theorem State.setRidge_planes (s : State) (r : Nat) (x : Ridge) : (s.setRidge r x).planes = s.planes := rfl
@[simp] theorem State.setRidge_podMap (s : State) (r : Nat) (x : Ridge) : (s.setRidge r x).podMap = s.podMap := rfl
@[simp] theorem State.setRidge_timeMaster (s : State) (r : Nat) (x : Ridge) : (s.setRidge r x).timeMaster = s.timeMaster := rfl
@[simp] theorem State.setRidge_stations (s : State) (r : Nat) (x : Ridge) : (s.setRidge r x).stations = s.stations := rfl
@[simp] theorem State.setRidge_ports (s : State) (r : Nat) (x : Ridge) : (s.setRidge r x).ports = s.ports := rfl
@[simp] theorem State.setRidge_nextStation (s : State) (r : Nat) (x : Ridge) : (s.setRidge r x).nextStation = s.nextStation := rfl
@[simp] theorem State.setRidge_nextPort (s : State) (r : Nat) (x : Ridge) : (s.setRidge r x).nextPort = s.nextPort := rfl
@[simp] theorem State.setRidge_timeLock (s : State) (r : Nat) (x : Ridge) : (s.setRidge r x).timeLock = s.timeLock := rfl
@[simp] theorem State.setRidge_bringUp (s : State) (r : Nat) (x : Ridge) : (s.setRidge r x).bringUp = s.bringUp := rfl
@[simp] theorem State.setRidge_attestOnly (s : State) (r : Nat) (x : Ridge) : (s.setRidge r x).attestOnly = s.attestOnly := rfl
@[simp] theorem State.setRidge_bootImage (s : State) (r : Nat) (x : Ridge) : (s.setRidge r x).bootImage = s.bootImage := rfl
@[simp] theorem State.setRidge_identity (s : State) (r : Nat) (x : Ridge) : (s.setRidge r x).identity = s.identity := rfl
@[simp] theorem State.setRidge_flash (s : State) (r : Nat) (x : Ridge) : (s.setRidge r x).flash = s.flash := rfl
@[simp] theorem State.setRidge_newImage (s : State) (r : Nat) (x : Ridge) : (s.setRidge r x).newImage = s.newImage := rfl
@[simp] theorem State.setRidge_newMap (s : State) (r : Nat) (x : Ridge) : (s.setRidge r x).newMap = s.newMap := rfl
@[simp] theorem State.setRidge_replies (s : State) (r : Nat) (x : Ridge) : (s.setRidge r x).replies = s.replies := rfl
@[simp] theorem State.setRidge_agenda (s : State) (r : Nat) (x : Ridge) : (s.setRidge r x).agenda = s.agenda := rfl
@[simp] theorem State.setRidge_focus (s : State) (r : Nat) (x : Ridge) : (s.setRidge r x).focus = s.focus := rfl
@[simp] theorem State.setRidge_cur (s : State) (r : Nat) (x : Ridge) : (s.setRidge r x).cur = s.cur := rfl
@[simp] theorem State.setRidge_stalled (s : State) (r : Nat) (x : Ridge) : (s.setRidge r x).stalled = s.stalled := rfl
@[simp] theorem State.setRidge_issued (s : State) (r : Nat) (x : Ridge) : (s.setRidge r x).issued = s.issued := rfl
@[simp] theorem State.setRidge_free (s : State) (r : Nat) (x : Ridge) : (s.setRidge r x).free = s.free := rfl

@[simp] theorem State.setRidge_ridge (s : State) (r : Nat) (x : Ridge) : (s.setRidge r x).ridge r = x := Table.get_put_same _ _ _ _
theorem State.setRidge_ridge_other (s : State) (r j : Nat) (x : Ridge) (h : j ≠ r) : (s.setRidge r x).ridge j = s.ridge j :=
  Table.get_put_other _ _ _ _ _ h
@[simp] theorem State.setRidge_setRidge (s : State) (r : Nat) (x y : Ridge) : (s.setRidge r x).setRidge r y = s.setRidge r y := by
  simp only [State.setRidge, Table.put_put_same]
@[simp] theorem State.setRidge_ctx (s : State) (r n : Nat) (x : Ridge) : (s.setRidge r x).ctx n = s.ctx n := rfl
@[simp] theorem State.setRidge_bank (s : State) (r n : Nat) (x : Ridge) : (s.setRidge r x).bank n = s.bank n := rfl
@[simp] theorem State.setRidge_core (s : State) (r n : Nat) (x : Ridge) : (s.setRidge r x).core n = s.core n := rfl
@[simp] theorem State.setRidge_die (s : State) (r n : Nat) (x : Ridge) : (s.setRidge r x).die n = s.die n := rfl
@[simp] theorem State.setRidge_team (s : State) (r n : Nat) (x : Ridge) : (s.setRidge r x).team n = s.team n := rfl
@[simp] theorem State.setRidge_part (s : State) (r n : Nat) (x : Ridge) : (s.setRidge r x).part n = s.part n := rfl

/-! ### setDie -/

@[simp] theorem State.setDie_mem (s : State) (d : Nat) (x : Die) : (s.setDie d x).mem = s.mem := rfl
@[simp] theorem State.setDie_ctxs (s : State) (d : Nat) (x : Die) : (s.setDie d x).ctxs = s.ctxs := rfl
@[simp] theorem State.setDie_banks (s : State) (d : Nat) (x : Die) : (s.setDie d x).banks = s.banks := rfl
@[simp] theorem State.setDie_cores (s : State) (d : Nat) (x : Die) : (s.setDie d x).cores = s.cores := rfl
@[simp] theorem State.setDie_ridges (s : State) (d : Nat) (x : Die) : (s.setDie d x).ridges = s.ridges := rfl
@[simp] theorem State.setDie_teams (s : State) (d : Nat) (x : Die) : (s.setDie d x).teams = s.teams := rfl
@[simp] theorem State.setDie_parts (s : State) (d : Nat) (x : Die) : (s.setDie d x).parts = s.parts := rfl
@[simp] theorem State.setDie_saved (s : State) (d : Nat) (x : Die) : (s.setDie d x).saved = s.saved := rfl
@[simp] theorem State.setDie_images (s : State) (d : Nat) (x : Die) : (s.setDie d x).images = s.images := rfl
@[simp] theorem State.setDie_packets (s : State) (d : Nat) (x : Die) : (s.setDie d x).packets = s.packets := rfl
@[simp] theorem State.setDie_packetNext (s : State) (d : Nat) (x : Die) : (s.setDie d x).packetNext = s.packetNext := rfl
@[simp] theorem State.setDie_taskNext (s : State) (d : Nat) (x : Die) : (s.setDie d x).taskNext = s.taskNext := rfl
@[simp] theorem State.setDie_messages (s : State) (d : Nat) (x : Die) : (s.setDie d x).messages = s.messages := rfl
@[simp] theorem State.setDie_requests (s : State) (d : Nat) (x : Die) : (s.setDie d x).requests = s.requests := rfl
@[simp] theorem State.setDie_poison (s : State) (d : Nat) (x : Die) : (s.setDie d x).poison = s.poison := rfl
@[simp] theorem State.setDie_marks (s : State) (d : Nat) (x : Die) : (s.setDie d x).marks = s.marks := rfl
@[simp] theorem State.setDie_homeGens (s : State) (d : Nat) (x : Die) : (s.setDie d x).homeGens = s.homeGens := rfl
@[simp] theorem State.setDie_l1s (s : State) (d : Nat) (x : Die) : (s.setDie d x).l1s = s.l1s := rfl
@[simp] theorem State.setDie_l2s (s : State) (d : Nat) (x : Die) : (s.setDie d x).l2s = s.l2s := rfl
@[simp] theorem State.setDie_dirs (s : State) (d : Nat) (x : Die) : (s.setDie d x).dirs = s.dirs := rfl
@[simp] theorem State.setDie_rws (s : State) (d : Nat) (x : Die) : (s.setDie d x).rws = s.rws := rfl
@[simp] theorem State.setDie_strong (s : State) (d : Nat) (x : Die) : (s.setDie d x).strong = s.strong := rfl
@[simp] theorem State.setDie_faults (s : State) (d : Nat) (x : Die) : (s.setDie d x).faults = s.faults := rfl
@[simp] theorem State.setDie_heats (s : State) (d : Nat) (x : Die) : (s.setDie d x).heats = s.heats := rfl
@[simp] theorem State.setDie_time (s : State) (d : Nat) (x : Die) : (s.setDie d x).time = s.time := rfl
@[simp] theorem State.setDie_cyc (s : State) (d : Nat) (x : Die) : (s.setDie d x).cyc = s.cyc := rfl
@[simp] theorem State.setDie_melt (s : State) (d : Nat) (x : Die) : (s.setDie d x).melt = s.melt := rfl
@[simp] theorem State.setDie_refreeze (s : State) (d : Nat) (x : Die) : (s.setDie d x).refreeze = s.refreeze := rfl
@[simp] theorem State.setDie_pwr (s : State) (d : Nat) (x : Die) : (s.setDie d x).pwr = s.pwr := rfl
@[simp] theorem State.setDie_regbase (s : State) (d : Nat) (x : Die) : (s.setDie d x).regbase = s.regbase := rfl
@[simp] theorem State.setDie_regsize (s : State) (d : Nat) (x : Die) : (s.setDie d x).regsize = s.regsize := rfl
@[simp] theorem State.setDie_ptab (s : State) (d : Nat) (x : Die) : (s.setDie d x).ptab = s.ptab := rfl
@[simp] theorem State.setDie_pload (s : State) (d : Nat) (x : Die) : (s.setDie d x).pload = s.pload := rfl
@[simp] theorem State.setDie_heart (s : State) (d : Nat) (x : Die) : (s.setDie d x).heart = s.heart := rfl
@[simp] theorem State.setDie_heartAt (s : State) (d : Nat) (x : Die) : (s.setDie d x).heartAt = s.heartAt := rfl
@[simp] theorem State.setDie_crashed (s : State) (d : Nat) (x : Die) : (s.setDie d x).crashed = s.crashed := rfl
@[simp] theorem State.setDie_incarnNext (s : State) (d : Nat) (x : Die) : (s.setDie d x).incarnNext = s.incarnNext := rfl
@[simp] theorem State.setDie_pod (s : State) (d : Nat) (x : Die) : (s.setDie d x).pod = s.pod := rfl
@[simp] theorem State.setDie_accel (s : State) (d : Nat) (x : Die) : (s.setDie d x).accel = s.accel := rfl
@[simp] theorem State.setDie_planes (s : State) (d : Nat) (x : Die) : (s.setDie d x).planes = s.planes := rfl
@[simp] theorem State.setDie_podMap (s : State) (d : Nat) (x : Die) : (s.setDie d x).podMap = s.podMap := rfl
@[simp] theorem State.setDie_timeMaster (s : State) (d : Nat) (x : Die) : (s.setDie d x).timeMaster = s.timeMaster := rfl
@[simp] theorem State.setDie_stations (s : State) (d : Nat) (x : Die) : (s.setDie d x).stations = s.stations := rfl
@[simp] theorem State.setDie_ports (s : State) (d : Nat) (x : Die) : (s.setDie d x).ports = s.ports := rfl
@[simp] theorem State.setDie_nextStation (s : State) (d : Nat) (x : Die) : (s.setDie d x).nextStation = s.nextStation := rfl
@[simp] theorem State.setDie_nextPort (s : State) (d : Nat) (x : Die) : (s.setDie d x).nextPort = s.nextPort := rfl
@[simp] theorem State.setDie_timeLock (s : State) (d : Nat) (x : Die) : (s.setDie d x).timeLock = s.timeLock := rfl
@[simp] theorem State.setDie_bringUp (s : State) (d : Nat) (x : Die) : (s.setDie d x).bringUp = s.bringUp := rfl
@[simp] theorem State.setDie_attestOnly (s : State) (d : Nat) (x : Die) : (s.setDie d x).attestOnly = s.attestOnly := rfl
@[simp] theorem State.setDie_bootImage (s : State) (d : Nat) (x : Die) : (s.setDie d x).bootImage = s.bootImage := rfl
@[simp] theorem State.setDie_identity (s : State) (d : Nat) (x : Die) : (s.setDie d x).identity = s.identity := rfl
@[simp] theorem State.setDie_flash (s : State) (d : Nat) (x : Die) : (s.setDie d x).flash = s.flash := rfl
@[simp] theorem State.setDie_newImage (s : State) (d : Nat) (x : Die) : (s.setDie d x).newImage = s.newImage := rfl
@[simp] theorem State.setDie_newMap (s : State) (d : Nat) (x : Die) : (s.setDie d x).newMap = s.newMap := rfl
@[simp] theorem State.setDie_replies (s : State) (d : Nat) (x : Die) : (s.setDie d x).replies = s.replies := rfl
@[simp] theorem State.setDie_agenda (s : State) (d : Nat) (x : Die) : (s.setDie d x).agenda = s.agenda := rfl
@[simp] theorem State.setDie_focus (s : State) (d : Nat) (x : Die) : (s.setDie d x).focus = s.focus := rfl
@[simp] theorem State.setDie_cur (s : State) (d : Nat) (x : Die) : (s.setDie d x).cur = s.cur := rfl
@[simp] theorem State.setDie_stalled (s : State) (d : Nat) (x : Die) : (s.setDie d x).stalled = s.stalled := rfl
@[simp] theorem State.setDie_issued (s : State) (d : Nat) (x : Die) : (s.setDie d x).issued = s.issued := rfl
@[simp] theorem State.setDie_free (s : State) (d : Nat) (x : Die) : (s.setDie d x).free = s.free := rfl

@[simp] theorem State.setDie_die (s : State) (d : Nat) (x : Die) : (s.setDie d x).die d = x := Table.get_put_same _ _ _ _
theorem State.setDie_die_other (s : State) (d j : Nat) (x : Die) (h : j ≠ d) : (s.setDie d x).die j = s.die j :=
  Table.get_put_other _ _ _ _ _ h
@[simp] theorem State.setDie_setDie (s : State) (d : Nat) (x y : Die) : (s.setDie d x).setDie d y = s.setDie d y := by
  simp only [State.setDie, Table.put_put_same]
@[simp] theorem State.setDie_ctx (s : State) (d n : Nat) (x : Die) : (s.setDie d x).ctx n = s.ctx n := rfl
@[simp] theorem State.setDie_bank (s : State) (d n : Nat) (x : Die) : (s.setDie d x).bank n = s.bank n := rfl
@[simp] theorem State.setDie_core (s : State) (d n : Nat) (x : Die) : (s.setDie d x).core n = s.core n := rfl
@[simp] theorem State.setDie_ridge (s : State) (d n : Nat) (x : Die) : (s.setDie d x).ridge n = s.ridge n := rfl
@[simp] theorem State.setDie_team (s : State) (d n : Nat) (x : Die) : (s.setDie d x).team n = s.team n := rfl
@[simp] theorem State.setDie_part (s : State) (d n : Nat) (x : Die) : (s.setDie d x).part n = s.part n := rfl

/-! ### setTeam -/

@[simp] theorem State.setTeam_mem (s : State) (t : Nat) (x : Team) : (s.setTeam t x).mem = s.mem := rfl
@[simp] theorem State.setTeam_ctxs (s : State) (t : Nat) (x : Team) : (s.setTeam t x).ctxs = s.ctxs := rfl
@[simp] theorem State.setTeam_banks (s : State) (t : Nat) (x : Team) : (s.setTeam t x).banks = s.banks := rfl
@[simp] theorem State.setTeam_cores (s : State) (t : Nat) (x : Team) : (s.setTeam t x).cores = s.cores := rfl
@[simp] theorem State.setTeam_ridges (s : State) (t : Nat) (x : Team) : (s.setTeam t x).ridges = s.ridges := rfl
@[simp] theorem State.setTeam_dies (s : State) (t : Nat) (x : Team) : (s.setTeam t x).dies = s.dies := rfl
@[simp] theorem State.setTeam_parts (s : State) (t : Nat) (x : Team) : (s.setTeam t x).parts = s.parts := rfl
@[simp] theorem State.setTeam_saved (s : State) (t : Nat) (x : Team) : (s.setTeam t x).saved = s.saved := rfl
@[simp] theorem State.setTeam_images (s : State) (t : Nat) (x : Team) : (s.setTeam t x).images = s.images := rfl
@[simp] theorem State.setTeam_packets (s : State) (t : Nat) (x : Team) : (s.setTeam t x).packets = s.packets := rfl
@[simp] theorem State.setTeam_packetNext (s : State) (t : Nat) (x : Team) : (s.setTeam t x).packetNext = s.packetNext := rfl
@[simp] theorem State.setTeam_taskNext (s : State) (t : Nat) (x : Team) : (s.setTeam t x).taskNext = s.taskNext := rfl
@[simp] theorem State.setTeam_messages (s : State) (t : Nat) (x : Team) : (s.setTeam t x).messages = s.messages := rfl
@[simp] theorem State.setTeam_requests (s : State) (t : Nat) (x : Team) : (s.setTeam t x).requests = s.requests := rfl
@[simp] theorem State.setTeam_poison (s : State) (t : Nat) (x : Team) : (s.setTeam t x).poison = s.poison := rfl
@[simp] theorem State.setTeam_marks (s : State) (t : Nat) (x : Team) : (s.setTeam t x).marks = s.marks := rfl
@[simp] theorem State.setTeam_homeGens (s : State) (t : Nat) (x : Team) : (s.setTeam t x).homeGens = s.homeGens := rfl
@[simp] theorem State.setTeam_l1s (s : State) (t : Nat) (x : Team) : (s.setTeam t x).l1s = s.l1s := rfl
@[simp] theorem State.setTeam_l2s (s : State) (t : Nat) (x : Team) : (s.setTeam t x).l2s = s.l2s := rfl
@[simp] theorem State.setTeam_dirs (s : State) (t : Nat) (x : Team) : (s.setTeam t x).dirs = s.dirs := rfl
@[simp] theorem State.setTeam_rws (s : State) (t : Nat) (x : Team) : (s.setTeam t x).rws = s.rws := rfl
@[simp] theorem State.setTeam_strong (s : State) (t : Nat) (x : Team) : (s.setTeam t x).strong = s.strong := rfl
@[simp] theorem State.setTeam_faults (s : State) (t : Nat) (x : Team) : (s.setTeam t x).faults = s.faults := rfl
@[simp] theorem State.setTeam_heats (s : State) (t : Nat) (x : Team) : (s.setTeam t x).heats = s.heats := rfl
@[simp] theorem State.setTeam_time (s : State) (t : Nat) (x : Team) : (s.setTeam t x).time = s.time := rfl
@[simp] theorem State.setTeam_cyc (s : State) (t : Nat) (x : Team) : (s.setTeam t x).cyc = s.cyc := rfl
@[simp] theorem State.setTeam_melt (s : State) (t : Nat) (x : Team) : (s.setTeam t x).melt = s.melt := rfl
@[simp] theorem State.setTeam_refreeze (s : State) (t : Nat) (x : Team) : (s.setTeam t x).refreeze = s.refreeze := rfl
@[simp] theorem State.setTeam_pwr (s : State) (t : Nat) (x : Team) : (s.setTeam t x).pwr = s.pwr := rfl
@[simp] theorem State.setTeam_regbase (s : State) (t : Nat) (x : Team) : (s.setTeam t x).regbase = s.regbase := rfl
@[simp] theorem State.setTeam_regsize (s : State) (t : Nat) (x : Team) : (s.setTeam t x).regsize = s.regsize := rfl
@[simp] theorem State.setTeam_ptab (s : State) (t : Nat) (x : Team) : (s.setTeam t x).ptab = s.ptab := rfl
@[simp] theorem State.setTeam_pload (s : State) (t : Nat) (x : Team) : (s.setTeam t x).pload = s.pload := rfl
@[simp] theorem State.setTeam_heart (s : State) (t : Nat) (x : Team) : (s.setTeam t x).heart = s.heart := rfl
@[simp] theorem State.setTeam_heartAt (s : State) (t : Nat) (x : Team) : (s.setTeam t x).heartAt = s.heartAt := rfl
@[simp] theorem State.setTeam_crashed (s : State) (t : Nat) (x : Team) : (s.setTeam t x).crashed = s.crashed := rfl
@[simp] theorem State.setTeam_incarnNext (s : State) (t : Nat) (x : Team) : (s.setTeam t x).incarnNext = s.incarnNext := rfl
@[simp] theorem State.setTeam_pod (s : State) (t : Nat) (x : Team) : (s.setTeam t x).pod = s.pod := rfl
@[simp] theorem State.setTeam_accel (s : State) (t : Nat) (x : Team) : (s.setTeam t x).accel = s.accel := rfl
@[simp] theorem State.setTeam_planes (s : State) (t : Nat) (x : Team) : (s.setTeam t x).planes = s.planes := rfl
@[simp] theorem State.setTeam_podMap (s : State) (t : Nat) (x : Team) : (s.setTeam t x).podMap = s.podMap := rfl
@[simp] theorem State.setTeam_timeMaster (s : State) (t : Nat) (x : Team) : (s.setTeam t x).timeMaster = s.timeMaster := rfl
@[simp] theorem State.setTeam_stations (s : State) (t : Nat) (x : Team) : (s.setTeam t x).stations = s.stations := rfl
@[simp] theorem State.setTeam_ports (s : State) (t : Nat) (x : Team) : (s.setTeam t x).ports = s.ports := rfl
@[simp] theorem State.setTeam_nextStation (s : State) (t : Nat) (x : Team) : (s.setTeam t x).nextStation = s.nextStation := rfl
@[simp] theorem State.setTeam_nextPort (s : State) (t : Nat) (x : Team) : (s.setTeam t x).nextPort = s.nextPort := rfl
@[simp] theorem State.setTeam_timeLock (s : State) (t : Nat) (x : Team) : (s.setTeam t x).timeLock = s.timeLock := rfl
@[simp] theorem State.setTeam_bringUp (s : State) (t : Nat) (x : Team) : (s.setTeam t x).bringUp = s.bringUp := rfl
@[simp] theorem State.setTeam_attestOnly (s : State) (t : Nat) (x : Team) : (s.setTeam t x).attestOnly = s.attestOnly := rfl
@[simp] theorem State.setTeam_bootImage (s : State) (t : Nat) (x : Team) : (s.setTeam t x).bootImage = s.bootImage := rfl
@[simp] theorem State.setTeam_identity (s : State) (t : Nat) (x : Team) : (s.setTeam t x).identity = s.identity := rfl
@[simp] theorem State.setTeam_flash (s : State) (t : Nat) (x : Team) : (s.setTeam t x).flash = s.flash := rfl
@[simp] theorem State.setTeam_newImage (s : State) (t : Nat) (x : Team) : (s.setTeam t x).newImage = s.newImage := rfl
@[simp] theorem State.setTeam_newMap (s : State) (t : Nat) (x : Team) : (s.setTeam t x).newMap = s.newMap := rfl
@[simp] theorem State.setTeam_replies (s : State) (t : Nat) (x : Team) : (s.setTeam t x).replies = s.replies := rfl
@[simp] theorem State.setTeam_agenda (s : State) (t : Nat) (x : Team) : (s.setTeam t x).agenda = s.agenda := rfl
@[simp] theorem State.setTeam_focus (s : State) (t : Nat) (x : Team) : (s.setTeam t x).focus = s.focus := rfl
@[simp] theorem State.setTeam_cur (s : State) (t : Nat) (x : Team) : (s.setTeam t x).cur = s.cur := rfl
@[simp] theorem State.setTeam_stalled (s : State) (t : Nat) (x : Team) : (s.setTeam t x).stalled = s.stalled := rfl
@[simp] theorem State.setTeam_issued (s : State) (t : Nat) (x : Team) : (s.setTeam t x).issued = s.issued := rfl
@[simp] theorem State.setTeam_free (s : State) (t : Nat) (x : Team) : (s.setTeam t x).free = s.free := rfl

@[simp] theorem State.setTeam_team (s : State) (t : Nat) (x : Team) : (s.setTeam t x).team t = x := Table.get_put_same _ _ _ _
theorem State.setTeam_team_other (s : State) (t j : Nat) (x : Team) (h : j ≠ t) : (s.setTeam t x).team j = s.team j :=
  Table.get_put_other _ _ _ _ _ h
@[simp] theorem State.setTeam_setTeam (s : State) (t : Nat) (x y : Team) : (s.setTeam t x).setTeam t y = s.setTeam t y := by
  simp only [State.setTeam, Table.put_put_same]
@[simp] theorem State.setTeam_ctx (s : State) (t n : Nat) (x : Team) : (s.setTeam t x).ctx n = s.ctx n := rfl
@[simp] theorem State.setTeam_bank (s : State) (t n : Nat) (x : Team) : (s.setTeam t x).bank n = s.bank n := rfl
@[simp] theorem State.setTeam_core (s : State) (t n : Nat) (x : Team) : (s.setTeam t x).core n = s.core n := rfl
@[simp] theorem State.setTeam_ridge (s : State) (t n : Nat) (x : Team) : (s.setTeam t x).ridge n = s.ridge n := rfl
@[simp] theorem State.setTeam_die (s : State) (t n : Nat) (x : Team) : (s.setTeam t x).die n = s.die n := rfl
@[simp] theorem State.setTeam_part (s : State) (t n : Nat) (x : Team) : (s.setTeam t x).part n = s.part n := rfl

/-! ### setPart -/

@[simp] theorem State.setPart_mem (s : State) (p : Nat) (x : Part) : (s.setPart p x).mem = s.mem := rfl
@[simp] theorem State.setPart_ctxs (s : State) (p : Nat) (x : Part) : (s.setPart p x).ctxs = s.ctxs := rfl
@[simp] theorem State.setPart_banks (s : State) (p : Nat) (x : Part) : (s.setPart p x).banks = s.banks := rfl
@[simp] theorem State.setPart_cores (s : State) (p : Nat) (x : Part) : (s.setPart p x).cores = s.cores := rfl
@[simp] theorem State.setPart_ridges (s : State) (p : Nat) (x : Part) : (s.setPart p x).ridges = s.ridges := rfl
@[simp] theorem State.setPart_dies (s : State) (p : Nat) (x : Part) : (s.setPart p x).dies = s.dies := rfl
@[simp] theorem State.setPart_teams (s : State) (p : Nat) (x : Part) : (s.setPart p x).teams = s.teams := rfl
@[simp] theorem State.setPart_saved (s : State) (p : Nat) (x : Part) : (s.setPart p x).saved = s.saved := rfl
@[simp] theorem State.setPart_images (s : State) (p : Nat) (x : Part) : (s.setPart p x).images = s.images := rfl
@[simp] theorem State.setPart_packets (s : State) (p : Nat) (x : Part) : (s.setPart p x).packets = s.packets := rfl
@[simp] theorem State.setPart_packetNext (s : State) (p : Nat) (x : Part) : (s.setPart p x).packetNext = s.packetNext := rfl
@[simp] theorem State.setPart_taskNext (s : State) (p : Nat) (x : Part) : (s.setPart p x).taskNext = s.taskNext := rfl
@[simp] theorem State.setPart_messages (s : State) (p : Nat) (x : Part) : (s.setPart p x).messages = s.messages := rfl
@[simp] theorem State.setPart_requests (s : State) (p : Nat) (x : Part) : (s.setPart p x).requests = s.requests := rfl
@[simp] theorem State.setPart_poison (s : State) (p : Nat) (x : Part) : (s.setPart p x).poison = s.poison := rfl
@[simp] theorem State.setPart_marks (s : State) (p : Nat) (x : Part) : (s.setPart p x).marks = s.marks := rfl
@[simp] theorem State.setPart_homeGens (s : State) (p : Nat) (x : Part) : (s.setPart p x).homeGens = s.homeGens := rfl
@[simp] theorem State.setPart_l1s (s : State) (p : Nat) (x : Part) : (s.setPart p x).l1s = s.l1s := rfl
@[simp] theorem State.setPart_l2s (s : State) (p : Nat) (x : Part) : (s.setPart p x).l2s = s.l2s := rfl
@[simp] theorem State.setPart_dirs (s : State) (p : Nat) (x : Part) : (s.setPart p x).dirs = s.dirs := rfl
@[simp] theorem State.setPart_rws (s : State) (p : Nat) (x : Part) : (s.setPart p x).rws = s.rws := rfl
@[simp] theorem State.setPart_strong (s : State) (p : Nat) (x : Part) : (s.setPart p x).strong = s.strong := rfl
@[simp] theorem State.setPart_faults (s : State) (p : Nat) (x : Part) : (s.setPart p x).faults = s.faults := rfl
@[simp] theorem State.setPart_heats (s : State) (p : Nat) (x : Part) : (s.setPart p x).heats = s.heats := rfl
@[simp] theorem State.setPart_time (s : State) (p : Nat) (x : Part) : (s.setPart p x).time = s.time := rfl
@[simp] theorem State.setPart_cyc (s : State) (p : Nat) (x : Part) : (s.setPart p x).cyc = s.cyc := rfl
@[simp] theorem State.setPart_melt (s : State) (p : Nat) (x : Part) : (s.setPart p x).melt = s.melt := rfl
@[simp] theorem State.setPart_refreeze (s : State) (p : Nat) (x : Part) : (s.setPart p x).refreeze = s.refreeze := rfl
@[simp] theorem State.setPart_pwr (s : State) (p : Nat) (x : Part) : (s.setPart p x).pwr = s.pwr := rfl
@[simp] theorem State.setPart_regbase (s : State) (p : Nat) (x : Part) : (s.setPart p x).regbase = s.regbase := rfl
@[simp] theorem State.setPart_regsize (s : State) (p : Nat) (x : Part) : (s.setPart p x).regsize = s.regsize := rfl
@[simp] theorem State.setPart_ptab (s : State) (p : Nat) (x : Part) : (s.setPart p x).ptab = s.ptab := rfl
@[simp] theorem State.setPart_pload (s : State) (p : Nat) (x : Part) : (s.setPart p x).pload = s.pload := rfl
@[simp] theorem State.setPart_heart (s : State) (p : Nat) (x : Part) : (s.setPart p x).heart = s.heart := rfl
@[simp] theorem State.setPart_heartAt (s : State) (p : Nat) (x : Part) : (s.setPart p x).heartAt = s.heartAt := rfl
@[simp] theorem State.setPart_crashed (s : State) (p : Nat) (x : Part) : (s.setPart p x).crashed = s.crashed := rfl
@[simp] theorem State.setPart_incarnNext (s : State) (p : Nat) (x : Part) : (s.setPart p x).incarnNext = s.incarnNext := rfl
@[simp] theorem State.setPart_pod (s : State) (p : Nat) (x : Part) : (s.setPart p x).pod = s.pod := rfl
@[simp] theorem State.setPart_accel (s : State) (p : Nat) (x : Part) : (s.setPart p x).accel = s.accel := rfl
@[simp] theorem State.setPart_planes (s : State) (p : Nat) (x : Part) : (s.setPart p x).planes = s.planes := rfl
@[simp] theorem State.setPart_podMap (s : State) (p : Nat) (x : Part) : (s.setPart p x).podMap = s.podMap := rfl
@[simp] theorem State.setPart_timeMaster (s : State) (p : Nat) (x : Part) : (s.setPart p x).timeMaster = s.timeMaster := rfl
@[simp] theorem State.setPart_stations (s : State) (p : Nat) (x : Part) : (s.setPart p x).stations = s.stations := rfl
@[simp] theorem State.setPart_ports (s : State) (p : Nat) (x : Part) : (s.setPart p x).ports = s.ports := rfl
@[simp] theorem State.setPart_nextStation (s : State) (p : Nat) (x : Part) : (s.setPart p x).nextStation = s.nextStation := rfl
@[simp] theorem State.setPart_nextPort (s : State) (p : Nat) (x : Part) : (s.setPart p x).nextPort = s.nextPort := rfl
@[simp] theorem State.setPart_timeLock (s : State) (p : Nat) (x : Part) : (s.setPart p x).timeLock = s.timeLock := rfl
@[simp] theorem State.setPart_bringUp (s : State) (p : Nat) (x : Part) : (s.setPart p x).bringUp = s.bringUp := rfl
@[simp] theorem State.setPart_attestOnly (s : State) (p : Nat) (x : Part) : (s.setPart p x).attestOnly = s.attestOnly := rfl
@[simp] theorem State.setPart_bootImage (s : State) (p : Nat) (x : Part) : (s.setPart p x).bootImage = s.bootImage := rfl
@[simp] theorem State.setPart_identity (s : State) (p : Nat) (x : Part) : (s.setPart p x).identity = s.identity := rfl
@[simp] theorem State.setPart_flash (s : State) (p : Nat) (x : Part) : (s.setPart p x).flash = s.flash := rfl
@[simp] theorem State.setPart_newImage (s : State) (p : Nat) (x : Part) : (s.setPart p x).newImage = s.newImage := rfl
@[simp] theorem State.setPart_newMap (s : State) (p : Nat) (x : Part) : (s.setPart p x).newMap = s.newMap := rfl
@[simp] theorem State.setPart_replies (s : State) (p : Nat) (x : Part) : (s.setPart p x).replies = s.replies := rfl
@[simp] theorem State.setPart_agenda (s : State) (p : Nat) (x : Part) : (s.setPart p x).agenda = s.agenda := rfl
@[simp] theorem State.setPart_focus (s : State) (p : Nat) (x : Part) : (s.setPart p x).focus = s.focus := rfl
@[simp] theorem State.setPart_cur (s : State) (p : Nat) (x : Part) : (s.setPart p x).cur = s.cur := rfl
@[simp] theorem State.setPart_stalled (s : State) (p : Nat) (x : Part) : (s.setPart p x).stalled = s.stalled := rfl
@[simp] theorem State.setPart_issued (s : State) (p : Nat) (x : Part) : (s.setPart p x).issued = s.issued := rfl
@[simp] theorem State.setPart_free (s : State) (p : Nat) (x : Part) : (s.setPart p x).free = s.free := rfl

@[simp] theorem State.setPart_part (s : State) (p : Nat) (x : Part) : (s.setPart p x).part p = x := Table.get_put_same _ _ _ _
theorem State.setPart_part_other (s : State) (p j : Nat) (x : Part) (h : j ≠ p) : (s.setPart p x).part j = s.part j :=
  Table.get_put_other _ _ _ _ _ h
@[simp] theorem State.setPart_setPart (s : State) (p : Nat) (x y : Part) : (s.setPart p x).setPart p y = s.setPart p y := by
  simp only [State.setPart, Table.put_put_same]
@[simp] theorem State.setPart_ctx (s : State) (p n : Nat) (x : Part) : (s.setPart p x).ctx n = s.ctx n := rfl
@[simp] theorem State.setPart_bank (s : State) (p n : Nat) (x : Part) : (s.setPart p x).bank n = s.bank n := rfl
@[simp] theorem State.setPart_core (s : State) (p n : Nat) (x : Part) : (s.setPart p x).core n = s.core n := rfl
@[simp] theorem State.setPart_ridge (s : State) (p n : Nat) (x : Part) : (s.setPart p x).ridge n = s.ridge n := rfl
@[simp] theorem State.setPart_die (s : State) (p n : Nat) (x : Part) : (s.setPart p x).die n = s.die n := rfl
@[simp] theorem State.setPart_team (s : State) (p n : Nat) (x : Part) : (s.setPart p x).team n = s.team n := rfl

end Sys2Proof.Machine
end

