-- ==== Sys2Proof/Laws/Ops.lean ====
section
/-! SUPPORT. What the shared operations do: bundles and steps that complete, trap or stall; pending results; memory. -/

namespace Sys2Proof.Machine

/-! ### Bundles and steps -/

theorem runBundle_ok {m : M Unit} {s t : State} (h : m s = .ok ((), t)) : runBundle m s = .next t.done := by
  simp [runBundle, h, State.done]

theorem runBundle_trap {m : M Unit} {s : State} {t : Trap} (h : m s = .error (.trap t)) :
    runBundle m s = .next (s.trapped (s.me.withDetail t)) := by
  simp [runBundle, h, State.trapped]

theorem runBundle_wait {m : M Unit} {s : State} {w : Wait} (h : m s = .error (.wait w)) : runBundle m s = .next (s.noteStall w) := by
  simp [runBundle, h]

theorem runStep_ok {m : M Unit} {s t : State} (h : m s = .ok ((), t)) : runStep m s = .next t.stepped := by
  simp [runStep, h, State.stepped]

theorem runStep_wait {m : M Unit} {s : State} {w : Wait} (h : m s = .error (.wait w)) : runStep m s = .next s := by
  simp [runStep, h]

/-- Everything that a bundle can answer. -/
theorem runBundle_next {m : M Unit} {s t : State} (h : runBundle m s = .next t) :
    (∃ u, m s = .ok ((), u) ∧ t = u.done) ∨ (∃ c, m s = .error (.trap c) ∧ t = s.trapped (s.me.withDetail c)) ∨
    (∃ w, m s = .error (.wait w) ∧ t = s.noteStall w) ∨
    (∃ vs, m s = .error (.abort vs) ∧ t = { ((s.markAborts vs).noteStall .other) with stalled := [s.cur] }) := by
  unfold runBundle at h
  split at h <;> simp_all [State.done, State.trapped, eq_comm]

/-- Everything that a step of the hardware can answer. -/
theorem runStep_next {m : M Unit} {s t : State} (h : runStep m s = .next t) :
    (∃ u, m s = .ok ((), u) ∧ t = u.stepped) ∨ (∃ c, m s = .error (.trap c) ∧ t = (s.takeTrap s.cur c).stepped) ∨
    (∃ w, m s = .error (.wait w) ∧ t = s) ∨ (∃ vs, m s = .error (.abort vs) ∧ t = s.markAborts vs) := by
  unfold runStep at h
  split at h <;> simp_all [State.stepped, eq_comm]

/-! ### The monad -/

theorem M.bind_ok {α β : Type} {m : M α} {f : α → M β} {s s' : State} {a : α} (h : m s = .ok (a, s')) : (m >>= f) s = f a s' := by
  simp [bind, StateT.bind, h, Except.bind]

theorem M.bind_error {α β : Type} {m : M α} {f : α → M β} {s : State} {e : Stop} (h : m s = .error e) : (m >>= f) s = .error e := by
  simp [bind, StateT.bind, h, Except.bind]

/-- A sequence that completes is made of parts that complete. -/
theorem M.bind_inv {α β : Type} {m : M α} {f : α → M β} {s t : State} {b : β} (h : (m >>= f) s = .ok (b, t)) :
    ∃ a s', m s = .ok (a, s') ∧ f a s' = .ok (b, t) := by
  cases hm : m s with
  | error e => rw [M.bind_error hm] at h; cases h
  | ok r => exact ⟨r.1, r.2, rfl, by rw [M.bind_ok hm] at h; exact h⟩

@[simp] theorem M.pure_run {α : Type} (a : α) (s : State) : (pure a : M α) s = .ok (a, s) := rfl
@[simp] theorem M.get_run (s : State) : (get : M State) s = .ok (s, s) := rfl
@[simp] theorem M.set_run (s t : State) : (set t : M Unit) s = .ok ((), t) := rfl
@[simp] theorem M.modify_run (f : State → State) (s : State) : (modify f : M Unit) s = .ok ((), f s) := rfl
@[simp] theorem M.getMe_run (s : State) : getMe s = .ok (s.me, s) := rfl
@[simp] theorem M.modifyMe_run (f : Ctx → Ctx) (s : State) : modifyMe f s = .ok ((), s.setMe (f s.me)) := rfl
@[simp] theorem M.require_run {ok : Bool} (h : ok = true) (c d : Nat) (s : State) : require ok c d s = .ok ((), s) := by
  subst h; rfl
@[simp] theorem M.await_run {ok : Bool} (h : ok = true) (w : Wait) (s : State) : await ok w s = .ok ((), s) := by
  subst h; rfl

/-! ### Pending results -/

theorem filter_none {α : Type} {p : α → Bool} {l : List α} (h : l.any p = false) : l.filter p = [] := by
  rw [List.filter_eq_nil_iff]; rw [List.any_eq_false] at h; exact h

theorem settle_none {hit : Pending → Bool} {s : State} (h : s.me.pend.any hit = false) : settle hit s = .ok ((), s) := by
  unfold settle
  rw [M.bind_ok (M.get_run s), filter_none h]; rfl

theorem overwrite_none {hit : Pending → Bool} {s : State} (h : s.me.pend.any hit = false) : overwrite hit s = .ok ((), s) := by
  unfold overwrite
  rw [M.bind_ok (M.get_run s), filter_none h]; rfl

/-! ### Memory: every operation that changes it keeps the canonical form -/

theorem State.inv_store {s : State} (loc n x : Nat) (h : s.Inv) : (s.store loc n x).Inv := Memory.wf_writes _ _ h
theorem State.inv_storeWords {s : State} (loc : Nat) (ws : List Word) (h : s.Inv) : (s.storeWords loc ws).Inv := Memory.wf_writes _ _ h
theorem State.inv_storeAt {s : State} (locs : List Nat) (data : List Byte) (h : s.Inv) : (s.storeAt locs data).Inv :=
  Memory.wf_foldl_write id _ h
theorem State.inv_zeroRange {s : State} (dst n : Nat) (h : s.Inv) : (s.zeroRange dst n).Inv := Memory.wf_filter _ h
theorem State.inv_copyRange {s : State} (src dst n : Nat) (h : s.Inv) : (s.copyRange src dst n).Inv :=
  Memory.wf_foldl_write id _ (Memory.wf_filter _ h)

end Sys2Proof.Machine
end

