-- ==== Sys2Proof/Laws/PerInstr.lean ====
section
/-! SUPPORT. One law of every instruction: the fields that the encoder places for a well-formed instruction are fields from which the
decoder builds that instruction again. -/

namespace Sys2Proof.Laws.BuildFields

/-- The decoder's builder undoes the encoder's fields (R71, R95). -/
def Statement (i : Instr) : Prop := i.wf = true → ∀ F, i.fields = some F → build F = i

@[simp] theorem vreg_ofV (x : VReg) : vreg (ofV x) = x := Fin.ext (Nat.mod_eq_of_lt x.isLt)
@[simp] theorem code_ofCode (x : Fin 8) : code (ofCode x) = x := Fin.ext (Nat.mod_eq_of_lt x.isLt)
@[simp] theorem sid_streamWord (sid : Fin 64) (cls : Fin 4) : ((streamWord sid cls).map XS.sid).getD 0 = sid := by
  unfold streamWord; split
  · rename_i h; simp [h.1]
  · rfl
@[simp] theorem cls_streamWord (sid : Fin 64) (cls : Fin 4) : ((streamWord sid cls).map XS.cls).getD 0 = cls := by
  unfold streamWord; split
  · rename_i h; simp [h.2]
  · rfl

theorem add (d : GReg) (a : GReg) (b : GReg) (f : Bool) : Statement (.add d a b f) := by
  intro _ F h; cases h; rfl
theorem sub (d : GReg) (a : GReg) (b : GReg) (f : Bool) : Statement (.sub d a b f) := by
  intro _ F h; cases h; rfl
theorem and (d : GReg) (a : GReg) (b : GReg) (f : Bool) : Statement (.and d a b f) := by
  intro _ F h; cases h; rfl
theorem or (d : GReg) (a : GReg) (b : GReg) (f : Bool) : Statement (.or d a b f) := by
  intro _ F h; cases h; rfl
theorem xor (d : GReg) (a : GReg) (b : GReg) (f : Bool) : Statement (.xor d a b f) := by
  intro _ F h; cases h; rfl
theorem shl (d : GReg) (a : GReg) (b : GReg) (f : Bool) : Statement (.shl d a b f) := by
  intro _ F h; cases h; rfl
theorem shr (d : GReg) (a : GReg) (b : GReg) (f : Bool) : Statement (.shr d a b f) := by
  intro _ F h; cases h; rfl
theorem sra (d : GReg) (a : GReg) (b : GReg) (f : Bool) : Statement (.sra d a b f) := by
  intro _ F h; cases h; rfl
theorem mul (d : GReg) (a : GReg) (b : GReg) (f : Bool) : Statement (.mul d a b f) := by
  intro _ F h; cases h; rfl
theorem mulh (d : GReg) (a : GReg) (b : GReg) (f : Bool) : Statement (.mulh d a b f) := by
  intro _ F h; cases h; rfl
theorem min (d : GReg) (a : GReg) (b : GReg) (f : Bool) : Statement (.min d a b f) := by
  intro _ F h; cases h; rfl
theorem max (d : GReg) (a : GReg) (b : GReg) (f : Bool) : Statement (.max d a b f) := by
  intro _ F h; cases h; rfl
theorem seq (d : GReg) (a : GReg) (b : GReg) (f : Bool) : Statement (.seq d a b f) := by
  intro _ F h; cases h; rfl
theorem slt (d : GReg) (a : GReg) (b : GReg) (f : Bool) : Statement (.slt d a b f) := by
  intro _ F h; cases h; rfl
theorem sel (d : GReg) (a : GReg) (b : GReg) : Statement (.sel d a b) := by
  intro _ F h; cases h; rfl
theorem addi (d : GReg) (a : GReg) (imm : Int) : Statement (.addi d a imm) := by
  intro _ F h; cases h; rfl
theorem andi (d : GReg) (a : GReg) (imm : Nat) : Statement (.andi d a imm) := by
  intro _ F h; cases h; rfl
theorem ori (d : GReg) (a : GReg) (imm : Nat) : Statement (.ori d a imm) := by
  intro _ F h; cases h; rfl
theorem xori (d : GReg) (a : GReg) (imm : Nat) : Statement (.xori d a imm) := by
  intro _ F h; cases h; rfl
theorem shli (d : GReg) (a : GReg) (imm : Nat) : Statement (.shli d a imm) := by
  intro _ F h; cases h; rfl
theorem shri (d : GReg) (a : GReg) (imm : Nat) : Statement (.shri d a imm) := by
  intro _ F h; cases h; rfl
theorem srai (d : GReg) (a : GReg) (imm : Nat) : Statement (.srai d a imm) := by
  intro _ F h; cases h; rfl
theorem slti (d : GReg) (a : GReg) (imm : Int) : Statement (.slti d a imm) := by
  intro _ F h; cases h; rfl
theorem li (d : GReg) (imm : Int) : Statement (.li d imm) := by
  intro _ F h; cases h; rfl
theorem lih (d : GReg) (imm : Nat) : Statement (.lih d imm) := by
  intro _ F h; cases h; rfl
theorem pcrel (d : GReg) (imm : Int) : Statement (.pcrel d imm) := by
  intro _ F h; cases h; rfl
theorem ldb (d : GReg) (a : GReg) (imm : Int) (la : La) : Statement (.ldb d a imm la) := by
  intro _ F h; cases h; rfl
theorem ldbn (d : GReg) (a : GReg) (imm : Int) (la : La) : Statement (.ldbn d a imm la) := by
  intro _ F h; cases h; rfl
theorem ldh (d : GReg) (a : GReg) (imm : Int) (la : La) : Statement (.ldh d a imm la) := by
  intro _ F h; cases h; rfl
theorem ldhn (d : GReg) (a : GReg) (imm : Int) (la : La) : Statement (.ldhn d a imm la) := by
  intro _ F h; cases h; rfl
theorem ldw (d : GReg) (a : GReg) (imm : Int) (la : La) : Statement (.ldw d a imm la) := by
  intro _ F h; cases h; rfl
theorem ldwn (d : GReg) (a : GReg) (imm : Int) (la : La) : Statement (.ldwn d a imm la) := by
  intro _ F h; cases h; rfl
theorem ldd (d : GReg) (a : GReg) (imm : Int) (la : La) : Statement (.ldd d a imm la) := by
  intro _ F h; cases h; rfl
theorem stb (d : GReg) (a : GReg) (imm : Int) (xs : Option XS) : Statement (.stb d a imm xs) := by
  intro _ F h; cases h; rfl
theorem sth (d : GReg) (a : GReg) (imm : Int) (xs : Option XS) : Statement (.sth d a imm xs) := by
  intro _ F h; cases h; rfl
theorem stw (d : GReg) (a : GReg) (imm : Int) (xs : Option XS) : Statement (.stw d a imm xs) := by
  intro _ F h; cases h; rfl
theorem std (d : GReg) (a : GReg) (imm : Int) (xs : Option XS) : Statement (.std d a imm xs) := by
  intro _ F h; cases h; rfl
theorem tch (kind : Fin 8) (a : GReg) (imm : Int) (la : La) : Statement (.tch kind a imm la) := by
  intro _ F h; cases h; simp [build, build0]
theorem lda (d : GReg) (a : GReg) (imm : Int) (q : QType) (la : La) : Statement (.lda d a imm q la) := by
  intro _ F h; cases h; rfl
theorem stl (d : GReg) (a : GReg) (imm : Int) (q : QType) (xs : Option XS) : Statement (.stl d a imm q xs) := by
  intro _ F h; cases h; rfl
theorem beq (a : GReg) (b : GReg) (imm : Int) : Statement (.beq a b imm) := by
  intro _ F h; cases h; rfl
theorem bne (a : GReg) (b : GReg) (imm : Int) : Statement (.bne a b imm) := by
  intro _ F h; cases h; rfl
theorem blt (a : GReg) (b : GReg) (imm : Int) : Statement (.blt a b imm) := by
  intro _ F h; cases h; rfl
theorem bge (a : GReg) (b : GReg) (imm : Int) : Statement (.bge a b imm) := by
  intro _ F h; cases h; rfl
theorem bltn (a : GReg) (b : GReg) (imm : Int) : Statement (.bltn a b imm) := by
  intro _ F h; cases h; rfl
theorem bgen (a : GReg) (b : GReg) (imm : Int) : Statement (.bgen a b imm) := by
  intro _ F h; cases h; rfl
theorem jmp (imm : Int) : Statement (.jmp imm) := by
  intro _ F h; cases h; rfl
theorem jal (imm : Int) : Statement (.jal imm) := by
  intro _ F h; cases h; rfl
theorem jr (d : GReg) (a : GReg) : Statement (.jr d a) := by
  intro _ F h; cases h; rfl
theorem div (d : GReg) (a : GReg) (b : GReg) (f : Bool) (la : La) : Statement (.div d a b f la) := by
  intro _ F h; cases h; rfl
theorem divn (d : GReg) (a : GReg) (b : GReg) (f : Bool) (la : La) : Statement (.divn d a b f la) := by
  intro _ F h; cases h; rfl
theorem rem (d : GReg) (a : GReg) (b : GReg) (f : Bool) (la : La) : Statement (.rem d a b f la) := by
  intro _ F h; cases h; rfl
theorem remn (d : GReg) (a : GReg) (b : GReg) (f : Bool) (la : La) : Statement (.remn d a b f la) := by
  intro _ F h; cases h; rfl
theorem popc (d : GReg) (a : GReg) (f : Bool) : Statement (.popc d a f) := by
  intro _ F h; cases h; rfl
theorem clz (d : GReg) (a : GReg) (f : Bool) : Statement (.clz d a f) := by
  intro _ F h; cases h; rfl
theorem ctz (d : GReg) (a : GReg) (f : Bool) : Statement (.ctz d a f) := by
  intro _ F h; cases h; rfl
theorem rot (d : GReg) (a : GReg) (b : GReg) (f : Bool) : Statement (.rot d a b f) := by
  intro _ F h; cases h; rfl
theorem bswap (d : GReg) (a : GReg) (f : Bool) : Statement (.bswap d a f) := by
  intro _ F h; cases h; rfl
theorem bext (d : GReg) (a : GReg) (b : GReg) : Statement (.bext d a b) := by
  intro _ F h; cases h; rfl
theorem bins (d : GReg) (a : GReg) (b : GReg) : Statement (.bins d a b) := by
  intro _ F h; cases h; rfl
theorem fadd (d : GReg) (a : GReg) (b : GReg) (f : Bool) : Statement (.fadd d a b f) := by
  intro _ F h; cases h; rfl
theorem fsub (d : GReg) (a : GReg) (b : GReg) (f : Bool) : Statement (.fsub d a b f) := by
  intro _ F h; cases h; rfl
theorem fmul (d : GReg) (a : GReg) (b : GReg) (f : Bool) : Statement (.fmul d a b f) := by
  intro _ F h; cases h; rfl
theorem fma (d : GReg) (a : GReg) (b : GReg) (f : Bool) : Statement (.fma d a b f) := by
  intro _ F h; cases h; rfl
theorem fdiv (d : GReg) (a : GReg) (b : GReg) (f : Bool) : Statement (.fdiv d a b f) := by
  intro _ F h; cases h; rfl
theorem fsqrt (d : GReg) (a : GReg) (f : Bool) : Statement (.fsqrt d a f) := by
  intro _ F h; cases h; rfl
theorem fmin (d : GReg) (a : GReg) (b : GReg) (f : Bool) : Statement (.fmin d a b f) := by
  intro _ F h; cases h; rfl
theorem fmax (d : GReg) (a : GReg) (b : GReg) (f : Bool) : Statement (.fmax d a b f) := by
  intro _ F h; cases h; rfl
theorem feq (d : GReg) (a : GReg) (b : GReg) (f : Bool) : Statement (.feq d a b f) := by
  intro _ F h; cases h; rfl
theorem flt (d : GReg) (a : GReg) (b : GReg) (f : Bool) : Statement (.flt d a b f) := by
  intro _ F h; cases h; rfl
theorem fle (d : GReg) (a : GReg) (b : GReg) (f : Bool) : Statement (.fle d a b f) := by
  intro _ F h; cases h; rfl
theorem fcvt (d : GReg) (a : GReg) (code : Fin 8) : Statement (.fcvt d a code) := by
  intro _ F h; cases h; simp [build, build1]
theorem fcls (d : GReg) (a : GReg) (f : Bool) : Statement (.fcls d a f) := by
  intro _ F h; cases h; rfl
theorem kget (d : GReg) (imm : Nat) : Statement (.kget d imm) := by
  intro hw F h; cases h; simp only [Instr.wf, Bool.and_eq_true, bne_iff_ne] at hw; simp [build, build1]; omega
theorem kput (d : GReg) (imm : Nat) : Statement (.kput d imm) := by
  intro _ F h; cases h; rfl
theorem rand (d : GReg) : Statement (.rand d) := by
  intro _ F h; cases h; rfl
theorem vld (d : VReg) (a : GReg) (imm : Int) (q : QType) (la : La) : Statement (.vld d a imm q la) := by
  intro _ F h; cases h; simp [build, build2]
theorem vst (d : VReg) (a : GReg) (imm : Int) (q : QType) : Statement (.vst d a imm q) := by
  intro _ F h; cases h; simp [build, build2]
theorem vlds (d : VReg) (a : GReg) (b : GReg) (q : QType) (la : La) : Statement (.vlds d a b q la) := by
  intro _ F h; cases h; simp [build, build2]
theorem vsts (d : VReg) (a : GReg) (b : GReg) (q : QType) : Statement (.vsts d a b q) := by
  intro _ F h; cases h; simp [build, build2]
theorem vldx (d : VReg) (a : GReg) (b : VReg) (q : QType) (la : La) : Statement (.vldx d a b q la) := by
  intro _ F h; cases h; simp [build, build2]
theorem vstx (d : VReg) (a : GReg) (b : VReg) (q : QType) : Statement (.vstx d a b q) := by
  intro _ F h; cases h; simp [build, build2]
theorem vadd (d : VReg) (a : VReg) (b : VReg) (q : QType) : Statement (.vadd d a b q) := by
  intro _ F h; cases h; simp [build, build2]
theorem vsub (d : VReg) (a : VReg) (b : VReg) (q : QType) : Statement (.vsub d a b q) := by
  intro _ F h; cases h; simp [build, build2]
theorem vmul (d : VReg) (a : VReg) (b : VReg) (q : QType) : Statement (.vmul d a b q) := by
  intro _ F h; cases h; simp [build, build2]
theorem vfma (d : VReg) (a : VReg) (b : VReg) (q : QType) : Statement (.vfma d a b q) := by
  intro _ F h; cases h; simp [build, build2]
theorem vmin (d : VReg) (a : VReg) (b : VReg) (q : QType) : Statement (.vmin d a b q) := by
  intro _ F h; cases h; simp [build, build2]
theorem vmax (d : VReg) (a : VReg) (b : VReg) (q : QType) : Statement (.vmax d a b q) := by
  intro _ F h; cases h; simp [build, build2]
theorem vand (d : VReg) (a : VReg) (b : VReg) (q : QType) : Statement (.vand d a b q) := by
  intro _ F h; cases h; simp [build, build2]
theorem vor (d : VReg) (a : VReg) (b : VReg) (q : QType) : Statement (.vor d a b q) := by
  intro _ F h; cases h; simp [build, build2]
theorem vxor (d : VReg) (a : VReg) (b : VReg) (q : QType) : Statement (.vxor d a b q) := by
  intro _ F h; cases h; simp [build, build2]
theorem vshl (d : VReg) (a : VReg) (b : VReg) (q : QType) : Statement (.vshl d a b q) := by
  intro _ F h; cases h; simp [build, build2]
theorem vshr (d : VReg) (a : VReg) (b : VReg) (q : QType) : Statement (.vshr d a b q) := by
  intro _ F h; cases h; simp [build, build2]
theorem vcmpeq (d : VReg) (a : VReg) (b : VReg) (q : QType) : Statement (.vcmpeq d a b q) := by
  intro _ F h; cases h; simp [build, build2]
theorem vcmplt (d : VReg) (a : VReg) (b : VReg) (q : QType) : Statement (.vcmplt d a b q) := by
  intro _ F h; cases h; simp [build, build2]
theorem vsel (d : VReg) (a : VReg) (b : VReg) (q : QType) : Statement (.vsel d a b q) := by
  intro _ F h; cases h; simp [build, build2]
theorem vcvt (d : VReg) (a : VReg) (code : Fin 8) (q : QType) : Statement (.vcvt d a code q) := by
  intro _ F h; cases h; simp [build, build2]
theorem vpack4 (d : VReg) (a : VReg) (code : Fin 8) (q : QType) (la : La) : Statement (.vpack4 d a code q la) := by
  intro _ F h; cases h; simp [build, build2]
theorem vunpk4 (d : VReg) (a : VReg) (q : QType) : Statement (.vunpk4 d a q) := by
  intro _ F h; cases h; simp [build, build2]
theorem vredsum (d : GReg) (a : VReg) (q : QType) : Statement (.vredsum d a q) := by
  intro _ F h; cases h; simp [build, build2]
theorem vredmax (d : GReg) (a : VReg) (q : QType) : Statement (.vredmax d a q) := by
  intro _ F h; cases h; simp [build, build2]
theorem vredmin (d : GReg) (a : VReg) (q : QType) : Statement (.vredmin d a q) := by
  intro _ F h; cases h; simp [build, build2]
theorem vbcast (d : VReg) (a : GReg) (q : QType) : Statement (.vbcast d a q) := by
  intro _ F h; cases h; simp [build, build2]
theorem vext (d : GReg) (a : VReg) (imm : Nat) (q : QType) : Statement (.vext d a imm q) := by
  intro _ F h; cases h; simp [build, build2]
theorem vins (d : VReg) (a : GReg) (imm : Nat) (q : QType) : Statement (.vins d a imm q) := by
  intro _ F h; cases h; simp [build, build2]
theorem vperm (d : VReg) (a : VReg) (b : VReg) (q : QType) : Statement (.vperm d a b q) := by
  intro _ F h; cases h; simp [build, build2]
theorem vrcp (d : VReg) (a : VReg) (q : QType) : Statement (.vrcp d a q) := by
  intro _ F h; cases h; simp [build, build2]
theorem vrsq (d : VReg) (a : VReg) (q : QType) : Statement (.vrsq d a q) := by
  intro _ F h; cases h; simp [build, build2]
theorem vexp (d : VReg) (a : VReg) (q : QType) : Statement (.vexp d a q) := by
  intro _ F h; cases h; simp [build, build2]
theorem vscal (d : VReg) (a : VReg) (b : GReg) (q : QType) : Statement (.vscal d a b q) := by
  intro _ F h; cases h; simp [build, build2]
theorem vmov (d : VReg) (a : VReg) (q : QType) : Statement (.vmov d a q) := by
  intro _ F h; cases h; simp [build, build2]
theorem vmcnt (d : GReg) (a : VReg) (q : QType) : Statement (.vmcnt d a q) := by
  intro _ F h; cases h; simp [build, build2]
theorem viota (d : VReg) (q : QType) : Statement (.viota d q) := by
  intro _ F h; cases h; simp [build, build2]
theorem mlease (d : GReg) : Statement (.mlease d) := by
  intro _ F h; cases h; rfl
theorem mfmt (a : GReg) (q : QType) : Statement (.mfmt a q) := by
  intro _ F h; cases h; rfl
theorem mbld (d : GReg) (a : GReg) (b : GReg) (q : QType) : Statement (.mbld d a b q) := by
  intro _ F h; cases h; rfl
theorem mbldg (d : GReg) (a : GReg) (b : GReg) (q : QType) : Statement (.mbldg d a b q) := by
  intro _ F h; cases h; rfl
theorem mmul (d : GReg) (a : GReg) (b : GReg) (q : QType) : Statement (.mmul d a b q) := by
  intro _ F h; cases h; rfl
theorem mgath (d : GReg) (a : GReg) (b : GReg) (q : QType) : Statement (.mgath d a b q) := by
  intro _ F h; cases h; rfl
theorem mzero (d : GReg) (imm : Nat) : Statement (.mzero d imm) := by
  intro _ F h; cases h; rfl
theorem mdrain (d : GReg) (a : GReg) (b : GReg) : Statement (.mdrain d a b) := by
  intro _ F h; cases h; rfl
theorem mwalk (d : GReg) (a : GReg) (b : GReg) : Statement (.mwalk d a b) := by
  intro _ F h; cases h; rfl
theorem mwait (a : GReg) : Statement (.mwait a) := by
  intro _ F h; cases h; rfl
theorem mpoll (d : GReg) (a : GReg) : Statement (.mpoll d a) := by
  intro _ F h; cases h; rfl
theorem cpput (a : GReg) : Statement (.cpput a) := by
  intro _ F h; cases h; rfl
theorem cplaunch (d : GReg) : Statement (.cplaunch d) := by
  intro _ F h; cases h; rfl
theorem cpgath (d : GReg) (a : GReg) (b : VReg) : Statement (.cpgath d a b) := by
  intro _ F h; cases h; simp [build, build4]
theorem cpscat (d : GReg) (a : GReg) (b : VReg) : Statement (.cpscat d a b) := by
  intro _ F h; cases h; simp [build, build4]
theorem cpwait (a : GReg) : Statement (.cpwait a) := by
  intro _ F h; cases h; rfl
theorem cpLaunchRead (d : GReg) : Statement (.cpLaunchRead d) := by
  intro _ F h; cases h; rfl
theorem sgath (d : VReg) (a : GReg) (b : VReg) (q : QType) (la : La) : Statement (.sgath d a b q la) := by
  intro _ F h; cases h; simp [build, build4]
theorem aadd (d : GReg) (a : GReg) (b : GReg) (q : QType) (la : La) : Statement (.aadd d a b q la) := by
  intro _ F h; cases h; rfl
theorem aand (d : GReg) (a : GReg) (b : GReg) (q : QType) (la : La) : Statement (.aand d a b q la) := by
  intro _ F h; cases h; rfl
theorem aor (d : GReg) (a : GReg) (b : GReg) (q : QType) (la : La) : Statement (.aor d a b q la) := by
  intro _ F h; cases h; rfl
theorem amin (d : GReg) (a : GReg) (b : GReg) (q : QType) (la : La) : Statement (.amin d a b q la) := by
  intro _ F h; cases h; rfl
theorem amax (d : GReg) (a : GReg) (b : GReg) (q : QType) (la : La) : Statement (.amax d a b q la) := by
  intro _ F h; cases h; rfl
theorem axchg (d : GReg) (a : GReg) (b : GReg) (q : QType) (la : La) : Statement (.axchg d a b q la) := by
  intro _ F h; cases h; rfl
theorem acas (d : GReg) (a : GReg) (q : QType) (la : La) : Statement (.acas d a q la) := by
  intro _ F h; cases h; rfl
theorem afadd (d : GReg) (a : GReg) (b : GReg) (q : QType) (la : La) : Statement (.afadd d a b q la) := by
  intro _ F h; cases h; rfl
theorem msend (a : GReg) (b : GReg) : Statement (.msend a b) := by
  intro _ F h; cases h; rfl
theorem hset (a : GReg) (imm : Nat) : Statement (.hset a imm) := by
  intro _ F h; cases h; rfl
theorem spawn (a : GReg) : Statement (.spawn a) := by
  intro _ F h; cases h; rfl
theorem cdarm (a : GReg) (b : GReg) : Statement (.cdarm a b) := by
  intro _ F h; cases h; rfl
theorem cddec (a : GReg) (b : GReg) : Statement (.cddec a b) := by
  intro _ F h; cases h; rfl
theorem jwait (d : GReg) (a : GReg) : Statement (.jwait d a) := by
  intro _ F h; cases h; rfl
theorem fence (q : QType) : Statement (.fence q) := by
  intro _ F h; cases h; rfl
theorem fencea (q : QType) : Statement (.fencea q) := by
  intro _ F h; cases h; rfl
theorem fencer (q : QType) : Statement (.fencer q) := by
  intro _ F h; cases h; rfl
theorem sfence (sid : Fin 64) : Statement (.sfence sid) := by
  intro _ F h; cases h; simp [build, build5, Fields.sid]
theorem barr (imm : Nat) : Statement (.barr imm) := by
  intro _ F h; cases h; rfl
theorem barw (imm : Nat) : Statement (.barw imm) := by
  intro _ F h; cases h; rfl
theorem barx (imm : Nat) : Statement (.barx imm) := by
  intro _ F h; cases h; rfl
theorem waitge (a : GReg) (b : GReg) : Statement (.waitge a b) := by
  intro _ F h; cases h; rfl
theorem carve (a : GReg) : Statement (.carve a) := by
  intro _ F h; cases h; rfl
theorem sprint (d : GReg) (a : GReg) : Statement (.sprint d a) := by
  intro _ F h; cases h; rfl
theorem sprintq (d : GReg) : Statement (.sprintq d) := by
  intro _ F h; cases h; rfl
theorem scallRefused (imm : Nat) : Statement (.scallRefused imm) := by
  intro hw F h; cases h; simp only [Instr.wf, Bool.and_eq_true, decide_eq_true_eq] at hw; simp [build, build5, show ¬imm = 0 by omega, show ¬imm = 1 by omega, show ¬(imm : Int) = 2 by omega, show ¬(imm : Int) = 3 by omega]
theorem rst (d : GReg) (a : GReg) (imm : Int) (sid : Fin 64) (cls : Fin 4) : Statement (.rst d a imm sid cls) := by
  intro _ F h; cases h; simp [build, build6, Fields.sid, Fields.cls]
theorem rstv (d : VReg) (a : GReg) (imm : Int) (sid : Fin 64) (cls : Fin 4) : Statement (.rstv d a imm sid cls) := by
  intro _ F h; cases h; simp [build, build6, Fields.sid, Fields.cls]
theorem rstm (a : GReg) (b : GReg) (sid : Fin 64) (cls : Fin 4) : Statement (.rstm a b sid cls) := by
  intro _ F h; cases h; simp [build, build6, Fields.sid, Fields.cls]
theorem raadd (d : GReg) (a : GReg) (b : GReg) (la : La) (sid : Fin 64) (cls : Fin 4) : Statement (.raadd d a b la sid cls) := by
  intro _ F h; cases h; simp [build, build6, Fields.sid, Fields.cls]
theorem rafadd (d : GReg) (a : GReg) (b : GReg) (la : La) (sid : Fin 64) (cls : Fin 4) : Statement (.rafadd d a b la sid cls) := by
  intro _ F h; cases h; simp [build, build6, Fields.sid, Fields.cls]
theorem racas (d : GReg) (a : GReg) (la : La) (sid : Fin 64) (cls : Fin 4) : Statement (.racas d a la sid cls) := by
  intro _ F h; cases h; simp [build, build6, Fields.sid, Fields.cls]
theorem raxchg (d : GReg) (a : GReg) (b : GReg) (la : La) (sid : Fin 64) (cls : Fin 4) : Statement (.raxchg d a b la sid cls) := by
  intro _ F h; cases h; simp [build, build6, Fields.sid, Fields.cls]
theorem rreq (d : GReg) (a : GReg) (b : GReg) : Statement (.rreq d a b) := by
  intro _ F h; cases h; rfl
theorem rsl (a : GReg) (b : GReg) : Statement (.rsl a b) := by
  intro _ F h; cases h; rfl
theorem rsetc (a : GReg) (b : GReg) (sid : Fin 64) (cls : Fin 4) : Statement (.rsetc a b sid cls) := by
  intro _ F h; cases h; simp [build, build6, Fields.sid, Fields.cls]
theorem rclose (a : GReg) (b : GReg) (sid : Fin 64) (cls : Fin 4) : Statement (.rclose a b sid cls) := by
  intro _ F h; cases h; simp [build, build6, Fields.sid, Fields.cls]
theorem tryChoice (a : GReg) (b : GReg) : Statement (.tryChoice a b) := by
  intro _ F h; cases h; rfl
theorem trySteal (a : GReg) (b : GReg) : Statement (.trySteal a b) := by
  intro _ F h; cases h; rfl
theorem cut (a : GReg) : Statement (.cut a) := by
  intro _ F h; cases h; rfl
theorem mark (d : GReg) : Statement (.mark d) := by
  intro _ F h; cases h; rfl
theorem otask (d : GReg) (a : GReg) : Statement (.otask d a) := by
  intro _ F h; cases h; rfl
theorem ohoriz (d : GReg) : Statement (.ohoriz d) := by
  intro _ F h; cases h; rfl
theorem cvdef (a : GReg) (b : GReg) : Statement (.cvdef a b) := by
  intro _ F h; cases h; rfl
theorem cvslope (a : GReg) (b : GReg) : Statement (.cvslope a b) := by
  intro _ F h; cases h; rfl
theorem cvquant (a : GReg) (b : GReg) : Statement (.cvquant a b) := by
  intro _ F h; cases h; rfl
theorem cvfan (a : GReg) (b : GReg) : Statement (.cvfan a b) := by
  intro _ F h; cases h; rfl
theorem cvrun (a : GReg) : Statement (.cvrun a) := by
  intro _ F h; cases h; rfl
theorem cvstop (a : GReg) : Statement (.cvstop a) := by
  intro _ F h; cases h; rfl
theorem cvread (d : GReg) (a : GReg) : Statement (.cvread d a) := by
  intro _ F h; cases h; rfl
theorem cvguard (a : GReg) (b : GReg) : Statement (.cvguard a b) := by
  intro _ F h; cases h; rfl
theorem cvsurvey (a : GReg) (b : GReg) : Statement (.cvsurvey a b) := by
  intro _ F h; cases h; rfl
theorem rlead (d : GReg) (a : GReg) : Statement (.rlead d a) := by
  intro _ F h; cases h; rfl
theorem rfollow (a : GReg) (b : GReg) : Statement (.rfollow a b) := by
  intro _ F h; cases h; rfl
theorem thset (d : GReg) (a : GReg) (b : GReg) : Statement (.thset d a b) := by
  intro _ F h; cases h; rfl
theorem thprio (a : GReg) (b : GReg) : Statement (.thprio a b) := by
  intro _ F h; cases h; rfl
theorem thevict (a : GReg) : Statement (.thevict a) := by
  intro _ F h; cases h; rfl
theorem thdemote (a : GReg) : Statement (.thdemote a) := by
  intro _ F h; cases h; rfl
theorem xprobe (d : GReg) (a : GReg) : Statement (.xprobe d a) := by
  intro _ F h; cases h; rfl
theorem skget (d : GReg) (imm : Nat) : Statement (.skget d imm) := by
  intro _ F h; cases h; rfl
theorem skput (d : GReg) (imm : Nat) : Statement (.skput d imm) := by
  intro _ F h; cases h; rfl
theorem stage (a : GReg) (b : GReg) : Statement (.stage a b) := by
  intro _ F h; cases h; rfl
theorem spill (a : GReg) (b : GReg) : Statement (.spill a b) := by
  intro _ F h; cases h; rfl
theorem tlbinv (a : GReg) (b : GReg) : Statement (.tlbinv a b) := by
  intro _ F h; cases h; rfl
theorem pinrel (a : GReg) : Statement (.pinrel a) := by
  intro _ F h; cases h; rfl
theorem gstop (a : GReg) : Statement (.gstop a) := by
  intro _ F h; cases h; rfl
theorem gresume (a : GReg) : Statement (.gresume a) := by
  intro _ F h; cases h; rfl
theorem adopt (d : GReg) (a : GReg) : Statement (.adopt d a) := by
  intro _ F h; cases h; rfl
theorem teamStart (team : Nat) : Statement (.teamStart team) := by
  intro _ F h; cases h
theorem quantumExpire (team : Nat) : Statement (.quantumExpire team) := by
  intro _ F h; cases h
theorem yieldRequest (deadline : Word) : Statement (.yieldRequest deadline) := by
  intro _ F h; cases h
theorem teamSwap (team : Nat) : Statement (.teamSwap team) := by
  intro _ F h; cases h
theorem messageArrive (bank : Option Nat) : Statement (.messageArrive bank) := by
  intro _ F h; cases h
theorem horizonReduction (team : Nat) : Statement (.horizonReduction team) := by
  intro _ F h; cases h
theorem copyComplete (n : Nat) : Statement (.copyComplete n) := by
  intro _ F h; cases h
theorem barrierPhaseComplete (team : Nat) (id : Nat) : Statement (.barrierPhaseComplete team id) := by
  intro _ F h; cases h
theorem timerFire (n : Nat) : Statement (.timerFire n) := by
  intro _ F h; cases h
theorem longLatencyComplete (n : Nat) : Statement (.longLatencyComplete n) := by
  intro _ F h; cases h
theorem streamCommit (packet : Nat) : Statement (.streamCommit packet) := by
  intro _ F h; cases h
theorem streamAck (packet : Nat) : Statement (.streamAck packet) := by
  intro _ F h; cases h
theorem remoteAtomicResult (packet : Nat) : Statement (.remoteAtomicResult packet) := by
  intro _ F h; cases h
theorem fabricFailure (packet : Nat) : Statement (.fabricFailure packet) := by
  intro _ F h; cases h
theorem requestArrive (n : Nat) : Statement (.requestArrive n) := by
  intro _ F h; cases h
theorem requestTimeout (tag : Nat) : Statement (.requestTimeout tag) := by
  intro _ F h; cases h
theorem ualinkReadRequest (gid : Nat) : Statement (.ualinkReadRequest gid) := by
  intro _ F h; cases h
theorem stationLinkDown (station : Nat) : Statement (.stationLinkDown station) := by
  intro _ F h; cases h
theorem icefieldUpdate (milliwatts : Nat) : Statement (.icefieldUpdate milliwatts) := by
  intro _ F h; cases h
theorem biasWindow (events : Nat) : Statement (.biasWindow events) := by
  intro _ F h; cases h
theorem temperatureSample (rcb : Nat) (readings : List (Nat × Word)) : Statement (.temperatureSample rcb readings) := by
  intro _ F h; cases h
theorem hotDwellExpire (rcb : Nat) : Statement (.hotDwellExpire rcb) := by
  intro _ F h; cases h
theorem uncorrectableError (site : ErrorSite) : Statement (.uncorrectableError site) := by
  intro _ F h; cases h
theorem heartWrite (value : Word) : Statement (.heartWrite value) := by
  intro _ F h; cases h
theorem ploadWrite (n : Word) : Statement (.ploadWrite n) := by
  intro _ F h; cases h
theorem stagectlWrite (value : Word) : Statement (.stagectlWrite value) := by
  intro _ F h; cases h
theorem jobMessage (job : JobMessage) : Statement (.jobMessage job) := by
  intro _ F h; cases h
theorem attestationRequest (nonce : List Byte) : Statement (.attestationRequest nonce) := by
  intro _ F h; cases h
theorem powerGood (config : BootConfig) : Statement (.powerGood config) := by
  intro _ F h; cases h
theorem unassignedOpcode (bad : BadBundle) : Statement (.unassignedOpcode bad) := by
  intro _ F h; cases h
theorem streamGapTimeout (packet : Nat) : Statement (.streamGapTimeout packet) := by
  intro _ F h; cases h
theorem brokenStreamClear (sid : Nat) (dest : Dest) : Statement (.brokenStreamClear sid dest) := by
  intro _ F h; cases h
theorem stationLinkUp (station : Nat) : Statement (.stationLinkUp station) := by
  intro _ F h; cases h
theorem portLinkChange (port : Nat) (up : Bool) : Statement (.portLinkChange port up) := by
  intro _ F h; cases h
theorem serviceCoreRemoval (n : Nat) : Statement (.serviceCoreRemoval n) := by
  intro _ F h; cases h
theorem nop : Statement .nop := by
  intro _ F h; cases h; rfl
theorem brk : Statement .brk := by
  intro _ F h; cases h; rfl
theorem mfree : Statement .mfree := by
  intro _ F h; cases h; rfl
theorem evwait : Statement .evwait := by
  intro _ F h; cases h; rfl
theorem yield : Statement .yield := by
  intro _ F h; cases h; rfl
theorem uret : Statement .uret := by
  intro _ F h; cases h; rfl
theorem scallExit : Statement .scallExit := by
  intro _ F h; cases h; rfl
theorem scallTimerArm : Statement .scallTimerArm := by
  intro _ F h; cases h; rfl
theorem scallTimerCancel : Statement .scallTimerCancel := by
  intro _ F h; cases h; rfl
theorem scallDestroyDeque : Statement .scallDestroyDeque := by
  intro _ F h; cases h; rfl
theorem rbegin : Statement .rbegin := by
  intro _ F h; cases h; rfl
theorem rcommit : Statement .rcommit := by
  intro _ F h; cases h; rfl
theorem rslgo : Statement .rslgo := by
  intro _ F h; cases h; rfl
theorem fail : Statement .fail := by
  intro _ F h; cases h; rfl
theorem oend : Statement .oend := by
  intro _ F h; cases h; rfl
theorem oabort : Statement .oabort := by
  intro _ F h; cases h; rfl
theorem rdetach : Statement .rdetach := by
  intro _ F h; cases h; rfl
theorem rrejoin : Statement .rrejoin := by
  intro _ F h; cases h; rfl
theorem tret : Statement .tret := by
  intro _ F h; cases h; rfl
theorem swapgo : Statement .swapgo := by
  intro _ F h; cases h; rfl
theorem launchRecordTake : Statement .launchRecordTake := by
  intro _ F h; cases h
theorem dispenserDecision : Statement .dispenserDecision := by
  intro _ F h; cases h
theorem yieldDeadline : Statement .yieldDeadline := by
  intro _ F h; cases h
theorem handlerStart : Statement .handlerStart := by
  intro _ F h; cases h
theorem handlerTableApply : Statement .handlerTableApply := by
  intro _ F h; cases h
theorem stealRequest : Statement .stealRequest := by
  intro _ F h; cases h
theorem stealAnswer : Statement .stealAnswer := by
  intro _ F h; cases h
theorem stealReplyReceive : Statement .stealReplyReceive := by
  intro _ F h; cases h
theorem readyRingPush : Statement .readyRingPush := by
  intro _ F h; cases h
theorem otaskCommit : Statement .otaskCommit := by
  intro _ F h; cases h
theorem taskAbort : Statement .taskAbort := by
  intro _ F h; cases h
theorem contourCrossing : Statement .contourCrossing := by
  intro _ F h; cases h
theorem surveyFire : Statement .surveyFire := by
  intro _ F h; cases h
theorem leaseGrant : Statement .leaseGrant := by
  intro _ F h; cases h
theorem leaseTimeout : Statement .leaseTimeout := by
  intro _ F h; cases h
theorem matrixJobComplete : Statement .matrixJobComplete := by
  intro _ F h; cases h
theorem indexWalkComplete : Statement .indexWalkComplete := by
  intro _ F h; cases h
theorem doneWordPush : Statement .doneWordPush := by
  intro _ F h; cases h
theorem copyInterrupt : Statement .copyInterrupt := by
  intro _ F h; cases h
theorem translationWalk : Statement .translationWalk := by
  intro _ F h; cases h
theorem pinExpire : Statement .pinExpire := by
  intro _ F h; cases h
theorem contextMigrate : Statement .contextMigrate := by
  intro _ F h; cases h
theorem regionTimeout : Statement .regionTimeout := by
  intro _ F h; cases h
theorem regionFailure : Statement .regionFailure := by
  intro _ F h; cases h
theorem swapTimeDue : Statement .swapTimeDue := by
  intro _ F h; cases h
theorem ridgeFlip : Statement .ridgeFlip := by
  intro _ F h; cases h
theorem stageComplete : Statement .stageComplete := by
  intro _ F h; cases h
theorem spillComplete : Statement .spillComplete := by
  intro _ F h; cases h
theorem sprintLeaseExpire : Statement .sprintLeaseExpire := by
  intro _ F h; cases h
theorem systemFault : Statement .systemFault := by
  intro _ F h; cases h
theorem faultRecordPost : Statement .faultRecordPost := by
  intro _ F h; cases h
theorem watchdogExpire : Statement .watchdogExpire := by
  intro _ F h; cases h
theorem timeLockLost : Statement .timeLockLost := by
  intro _ F h; cases h
theorem storeAcknowledgement : Statement .storeAcknowledgement := by
  intro _ F h; cases h
theorem sprintEnergyCharge : Statement .sprintEnergyCharge := by
  intro _ F h; cases h
theorem biasHoldExpire : Statement .biasHoldExpire := by
  intro _ F h; cases h
theorem timeLockRegained : Statement .timeLockRegained := by
  intro _ F h; cases h
theorem serviceWarmRestart : Statement .serviceWarmRestart := by
  intro _ F h; cases h
theorem ridgeDrain : Statement .ridgeDrain := by
  intro _ F h; cases h

end Sys2Proof.Laws.BuildFields
end

