-- ==== Sys2Proof/Laws/Registers.lean ====
section
/-! SUPPORT. Register operands: what a bundle reads and writes when its registers are free. -/

namespace Sys2Proof.Machine

/-- Taking a queue's next word leaves the words after it (R15, R17). -/
@[simp] theorem present_dropWord (q : List PortPlace) : present (dropWord q) = (present q).tail := by
  cases q with
  | nil => rfl
  | cons p q => cases p <;> rfl

/-- A changed link queue is the change of what it was. -/
theorem Bank.link_onLink_same (x : Bank) {i : Nat} (h : i < 4) (f : List PortPlace → List PortPlace) : (x.onLink i f).link i = f (x.link i) := by
  simp [Bank.onLink, Bank.link, h]

/-- A change of one link queue leaves the others. -/
theorem Bank.link_onLink_ne (x : Bank) {i j : Nat} (h : i ≠ j) (f : List PortPlace → List PortPlace) : (x.onLink i f).link j = x.link j := by
  simp [Bank.onLink, Bank.link, Vector.set!_eq_setIfInBounds, h]

/-- Dropping a port's word leaves the current context's registers, pending results and status. -/
theorem State.dropPort_me (s : State) (r : GReg) : (s.dropPort s.cur r).cur = s.cur ∧ (s.dropPort s.cur r).me.pend = s.me.pend ∧
    (s.dropPort s.cur r).me.g = s.me.g ∧ (s.dropPort s.cur r).me.v = s.me.v ∧ (s.dropPort s.cur r).me.status = s.me.status ∧
    (s.dropPort s.cur r).me.pc = s.me.pc := by
  unfold State.dropPort
  split <;> refine ⟨rfl, ?_, ?_, ?_, ?_, ?_⟩ <;> simp [State.me, State.ctx, State.setCtx, State.setBank, Table.get_put_same]

theorem State.readG_run {s t : State} {r : GReg} {w : Word} {rs : List GReg} {ws : List Word}
    (hp : s.me.pend.any (fun p => p.writesG r) = false) (h : s.Reads (r :: rs) (w :: ws) t) :
    ∃ u, readG r s = .ok (w, u) ∧ u.Reads rs ws t ∧ u.me.pend = s.me.pend ∧ u.cur = s.cur ∧ u.me.v = s.me.v ∧ u.me.pc = s.me.pc := by
  unfold State.Reads at h
  unfold readG
  split at h
  · rename_i hport
    obtain ⟨⟨more, hm⟩, ht⟩ := h
    have e := State.dropPort_me s r
    refine ⟨s.dropPort s.cur r, ?_, ht, e.2.1, e.1, e.2.2.2.1, e.2.2.2.2.2⟩
    rw [if_pos hport, M.bind_ok (M.get_run s)]
    simp only [hm]
    rfl
  · rename_i hport
    obtain ⟨rfl, ht⟩ := h
    refine ⟨s, ?_, ht, rfl, rfl, rfl, rfl⟩
    rw [if_neg hport, M.bind_ok (settle_none hp), M.bind_ok (M.getMe_run s)]
    rfl

theorem State.portWords_dropPort (s : State) (r q : GReg) (hr : isPort r = true) (hq : isPort q = true) :
    (s.dropPort s.cur r).portWords s.cur q = if q = r then (s.portWords s.cur r).drop 1 else s.portWords s.cur q := by
  have port : ∀ r : GReg, isPort r = true → r = 56 ∨ r = 57 ∨ r = 58 ∨ r = 59 ∨ r = 60 ∨ r = 61 ∨ r = 62 ∨ r = 63 := by decide
  rcases port r hr with h | h | h | h | h | h | h | h <;> rcases port q hq with h' | h' | h' | h' | h' | h' | h' | h' <;> subst h h' <;>
    simp [State.dropPort, State.portWords, State.ctx, State.setCtx, State.setBank, State.bank, Table.get_put_same, Bank.link_onLink_same, Bank.link_onLink_ne]

theorem State.reads_words {s t : State} {rs : List GReg} {ws : List Word} (h : s.Reads rs ws t) (r : GReg) (hr : isPort r = true) :
    countReg r rs ≤ (s.portWords s.cur r).length := by
  induction rs generalizing s ws with
  | nil => simp [countReg]
  | cons a rs ih =>
    cases ws with
    | nil => simp [State.Reads] at h
    | cons w ws =>
      unfold State.Reads at h
      split at h
      · rename_i hp
        obtain ⟨⟨more, hm⟩, ht⟩ := h
        have := ih ht
        rw [(State.dropPort_me s a).1, State.portWords_dropPort s a r hp hr] at this
        by_cases e : r = a
        · subst e
          rw [if_pos rfl, hm] at this
          rw [hm]
          simp only [countReg, List.filter_cons, beq_self_eq_true, if_true, List.length_cons] at *
          simp at this
          omega
        · rw [if_neg e] at this
          have e' : (a == r) = false := by simp [Ne.symm e]
          simpa [countReg, List.filter_cons, e'] using this
      · rename_i hp
        have e' : (a == r) = false := by
          rw [beq_eq_false_iff_ne]; intro e; subst e; exact hp hr
        simpa [countReg, List.filter_cons, e'] using ih h.2

theorem State.clear_pend {s : State} {rs ws : List GReg} {vr vw : List VReg} (h : s.clear rs ws vr vw = true) {r : GReg}
    (hr : r ∈ rs ∨ r ∈ ws) : s.me.pend.any (fun p => p.writesG r) = false := by
  simp only [State.clear, Bool.and_eq_true, List.all_eq_true] at h
  rw [List.any_eq_false]
  intro p hp
  have := (h.1.1.1.1 p hp).1 r (by simpa using hr)
  simpa using this

theorem State.clear_pendV {s : State} {rs ws : List GReg} {vr vw : List VReg} (h : s.clear rs ws vr vw = true) {r : VReg}
    (hr : r ∈ vr ∨ r ∈ vw) : s.me.pend.any (fun p => p.writesV r) = false := by
  simp only [State.clear, Bool.and_eq_true, List.all_eq_true] at h
  rw [List.any_eq_false]
  intro p hp
  have := (h.1.1.1.1 p hp).2 r (by simpa using hr)
  simpa using this

/-- A bundle whose registers are free and give their words passes every check of issue. -/
theorem issue_run {s t : State} {rs ws : List GReg} {vr vw : List VReg} {xs : List Word} (h : s.clear rs ws vr vw = true)
    (hr : s.Reads rs xs t) : issue rs ws vr vw s = .ok ((), s) := by
  have hp := h
  simp only [State.clear, Bool.and_eq_true, List.all_eq_true] at h
  obtain ⟨⟨⟨⟨h1, h2⟩, h3⟩, h4⟩, h5⟩ := h
  have find : s.me.pend.find? (fun p => rs.any p.writesG || ws.any p.writesG || vr.any p.writesV || vw.any p.writesV) = none := by
    rw [List.find?_eq_none]
    intro p hp
    obtain ⟨a, b⟩ := h1 p hp
    have e1 : rs.any p.writesG = false := by
      rw [List.any_eq_false]; intro r hr; have := a r (by simp [hr]); simpa using this
    have e2 : ws.any p.writesG = false := by
      rw [List.any_eq_false]; intro r hr; have := a r (by simp [hr]); simpa using this
    have e3 : vr.any p.writesV = false := by
      rw [List.any_eq_false]; intro r hr; have := b r (by simp [hr]); simpa using this
    have e4 : vw.any p.writesV = false := by
      rw [List.any_eq_false]; intro r hr; have := b r (by simp [hr]); simpa using this
    simp [e1, e2, e3, e4]
  have c1 : rs.any (fun r => decide (60 ≤ r.val) && !s.holdsMyTeam (linkSource (coreOf s.cur) (r.val - 60))) = false := by
    rw [List.any_eq_false]; intro r hr
    have := h2 r hr
    simp only [Bool.or_eq_true, decide_eq_true_eq] at this
    rcases this with h | h
    · simp; omega
    · simp [h]
  have c2 : ws.any (fun r => decide (60 ≤ r.val) && !s.holdsMyTeam (linkTarget (coreOf s.cur) (r.val - 60))) = false := by
    rw [List.any_eq_false]; intro r hr
    have := h3 r hr
    simp only [Bool.or_eq_true, decide_eq_true_eq] at this
    rcases this with h | h
    · simp; omega
    · simp [h]
  have c3 : rs.any (fun r => isPort r && decide ((s.portWords s.cur r).length < countReg r rs)) = false := by
    rw [List.any_eq_false]; intro r _
    by_cases e : isPort r
    · have := State.reads_words hr r e
      simp; intro _; omega
    · simp [e]
  have c4 : ws.any (fun r => r == 56 && decide (7 ≤ s.me.asm.length)) = false := by
    rw [List.any_eq_false]; intro r hr
    by_cases e : r = 56
    · have := h5 r hr
      subst e
      simp at this
      simp [this]
    · simp [e]
  have c5 : ws.any (fun r => isPort r && decide (s.portRoom s.cur r = 0)) = false := by
    rw [List.any_eq_false]; intro r hr
    have := h4 r hr
    simp only [Bool.or_eq_true, Bool.not_eq_true', decide_eq_true_eq] at this
    rcases this with h | h
    · simp [h]
    · simp; intro _; omega
  unfold issue
  rw [M.bind_ok (M.get_run s)]
  simp only [find, c1, c2, c3, c4, c5, Bool.or_self, Bool.false_eq_true, if_false]
  split <;> rfl

theorem writeG_run {s : State} {d : GReg} (h : s.me.pend.any (fun p => p.writesG d) = false) (w : Word) :
    writeG d w s = .ok ((), s.put d w) := by
  unfold writeG State.put
  split
  · rfl
  · rw [M.bind_ok (overwrite_none h)]; rfl

theorem binary_run {s t : State} {f : Word → Word → Word} {d a b : GReg} {x y : Word} (h : s.clear [a, b] [d] [] [] = true)
    (hr : s.Reads [a, b] [x, y] t) : binary f d a b s = .ok ((), t.put d (f x y)) := by
  unfold binary
  rw [M.bind_ok (issue_run h hr)]
  obtain ⟨u, e1, r1, p1, -⟩ := State.readG_run (State.clear_pend h (by simp)) hr
  obtain ⟨v, e2, r2, p2, -⟩ := State.readG_run (by rw [p1]; exact State.clear_pend h (by simp)) r1
  rw [M.bind_ok e1, M.bind_ok e2]
  simp only [State.Reads] at r2
  subst r2
  exact writeG_run (by rw [p2, p1]; exact State.clear_pend h (by simp)) _

theorem unary_run {s t : State} {f : Word → Word} {d a : GReg} {x : Word} (h : s.clear [a] [d] [] [] = true)
    (hr : s.Reads [a] [x] t) : unary f d a s = .ok ((), t.put d (f x)) := by
  unfold unary
  rw [M.bind_ok (issue_run h hr)]
  obtain ⟨u, e1, r1, p1, -⟩ := State.readG_run (State.clear_pend h (by simp)) hr
  rw [M.bind_ok e1]
  simp only [State.Reads] at r1
  subst r1
  exact writeG_run (by rw [p1]; exact State.clear_pend h (by simp)) _

theorem ternary_run {s t : State} {f : Word → Word → Word → Word} {d a b : GReg} {x y z : Word} (h : s.clear [a, b, d] [d] [] [] = true)
    (hr : s.Reads [a, b, d] [x, y, z] t) : ternary f d a b s = .ok ((), t.put d (f x y z)) := by
  unfold ternary
  rw [M.bind_ok (issue_run h hr)]
  obtain ⟨u, e1, r1, p1, -⟩ := State.readG_run (State.clear_pend h (by simp)) hr
  obtain ⟨v, e2, r2, p2, -⟩ := State.readG_run (by rw [p1]; exact State.clear_pend h (by simp)) r1
  obtain ⟨w, e3, r3, p3, -⟩ := State.readG_run (by rw [p2, p1]; exact State.clear_pend h (by simp)) r2
  rw [M.bind_ok e1, M.bind_ok e2, M.bind_ok e3]
  simp only [State.Reads] at r3
  subst r3
  exact writeG_run (by rw [p3, p2, p1]; exact State.clear_pend h (by simp)) _

end Sys2Proof.Machine
end

