-- ==== Sys2Proof/Tests/Slice0.lean ====
section
/-! SUPPORT. Tests: ill-formed terms are refused, words of the spec's tables decode, single steps on small states, and for every statement
with hypotheses a witness that meets them. -/

namespace Sys2Proof.Tests
set_option Elab.async false
open Sys2Proof.Machine

/-! ### Small states -/

/-- Context 0 of core 0 in partition 0, with memory below 1 GiB mapped to itself (log 15). -/
def base : State := State.reset.withWords []

/-- A state with general registers set. -/
def setRegs (s : State) (rs : List (GReg × Word)) : State :=
  s.setMe { s.me with g := rs.foldl (fun g r => g.set r.1.val r.2) s.me.g }

/-- The memory that lists 64-bit words at rising locations. -/
def cells (ws : List (Nat × Word)) : Memory :=
  ws.flatMap (fun w => ((List.range 8).map (fun i => (w.1 + i, w.2.extractLsb' (8 * i) 8))).filter (fun c => c.2 != 0))

theorem landed_of {s : State} {locs : List Nat} (h : s.inFlight locs = false) : s.landed locs := h

/-- The next state of a step, else the state itself. -/
def after (o : Host.Outcome State Fault Refusal) (s : State) : State := match o with | .next t => t | _ => s

/-- Whether a step answers a next state. -/
def runs (o : Host.Outcome State Fault Refusal) : Bool := match o with | .next _ => true | _ => false

/-- What a read or check gives, and the state that it leaves. -/
def given {α : Type} (r : Except Stop (α × State)) : Option α := match r with | .ok (a, _) => some a | .error _ => none
def left {α : Type} (r : Except Stop (α × State)) : State := match r with | .ok (_, t) => t | .error _ => State.reset

theorem given_eq {α : Type} {r : Except Stop (α × State)} {a : α} (h : given r = some a) : r = .ok (a, left r) := by
  cases r with
  | error e => simp [given] at h
  | ok p => cases p; simp_all [given, left]

/-- Plain registers that are free and hold given words. -/
def holds (s : State) (rs ws : List GReg) (xs : List Word) : Bool :=
  s.clear rs ws [] [] && rs.all (fun r => !isPort r) && decide (rs.map s.me.rd = xs)

theorem holds_reads {s : State} {rs ws : List GReg} {xs : List Word} (h : holds s rs ws xs = true) : s.clear rs ws [] [] = true ∧ s.Reads rs xs s := by
  simp only [holds, Bool.and_eq_true, decide_eq_true_eq] at h
  obtain ⟨⟨hc, hp⟩, hx⟩ := h
  refine ⟨hc, ?_⟩
  clear hc
  induction rs generalizing xs with
  | nil => subst hx; rfl
  | cons r rs ih =>
    simp only [List.all_cons, Bool.and_eq_true, Bool.not_eq_true'] at hp
    subst hx
    rw [List.map_cons]
    unfold State.Reads
    rw [if_neg (by simp [hp.1])]
    exact ⟨rfl, ih rfl hp.2⟩

/-- Locations whose lines nothing claims, marks or poisons. -/
def free (s : State) (locs : List Nat) : Bool :=
  s.me.task.isNone && (linesOf locs).all (fun l => !s.claims.contains l && !s.poison.contains l && decide (s.marksOf l = ⟨[], []⟩))

theorem free_unshared {s : State} {locs : List Nat} (h : free s locs = true) : s.unshared locs := by
  simp only [free, Bool.and_eq_true, List.all_eq_true, Option.isNone_iff_eq_none, Bool.not_eq_true', decide_eq_true_eq] at h
  refine ⟨h.1, fun l hl => ?_⟩
  have := h.2 l hl
  simp_all

/-! ### Well-formedness (R19, R20, R22, R73, R76, R81, R82) -/

theorem test_wf_ok : (Instr.addi 1 2 (-8)).wf = true := by decide
theorem test_wf_destination : (Instr.add 57 1 2 false).wf = false ∧ (Instr.add 60 1 2 false).wf = true := by decide
theorem test_wf_signed : (Instr.addi 1 2 (2 ^ 36)).wf = false ∧ (Instr.addi 1 2 (2 ^ 36 - 1)).wf = true := by decide
theorem test_wf_natural : (Instr.andi 1 2 (2 ^ 37)).wf = false := by decide
theorem test_wf_room : (Instr.ldd 9 2 (2 ^ 25) 3).wf = false ∧ (Instr.ldd 1 2 (2 ^ 25) 0).wf = true := by decide
theorem test_wf_shift : (Instr.shli 1 2 64).wf = false := by decide
theorem test_wf_lih : (Instr.lih 1 0x1000000).wf = false := by decide
theorem test_wf_kind : (Instr.tch 5 2 0 0).wf = false := by decide
theorem test_wf_size : (Instr.lda 1 2 0 4 0).wf = false ∧ (Instr.stl 1 2 0 4 none).wf = false := by decide
theorem test_wf_control : (Instr.kget 1 1024).wf = false ∧ (Instr.kget 1 23).wf = false := by decide
theorem test_wf_block : (Instr.vpack4 31 0 1 7 0).wf = false ∧ (Instr.vpack4 31 0 1 0 0).wf = true := by decide
theorem test_wf_lane : (Instr.vext 1 2 128 0).wf = false := by decide
theorem test_wf_tile : (Instr.mzero 1 16).wf = false := by decide

theorem test_wf_pair : (Instr.otask 55 2).wf = false ∧ (Instr.acas 54 2 0 0).wf = true ∧ (Instr.racas 63 2 0 0 0).wf = false := by decide
theorem test_wf_events : (Instr.hset 2 256).wf = false ∧ (Instr.barw 16).wf = false ∧ (Instr.scallRefused 3).wf = false := by decide
theorem test_wf_stream : (Instr.rst 1 2 (2 ^ 36) 3 0).wf = false ∧ (Instr.rst 1 2 (2 ^ 25 - 1) 3 0).wf = true := by decide
theorem test_wf_privileged : (Instr.skget 58 512).wf = false ∧ (Instr.skput 3 1024).wf = false := by decide

/-! ### Decoding: the words that the spec's tables write out -/

/-- Whether each list of words is the instruction beside it. -/
def decodes (ps : List (List IWord × Instr)) : Bool := ps.all (fun p => decide (decode Env.all p.1 = .ok (p.2, [])))

theorem test_decode_page0 : decodes [([0x0194], .add 3 1 2 false), ([0xF018, 0x82C2], .ldd 5 4 2 3), ([0xE168, 0xE83E, 0x3C18], .addi 40 41 1000),
    ([0xF8A0, 0xE008, 0x9390], .std 7 9 0 (some ⟨5, 0⟩)), ([0xA48A], .bne 1 0 (-6)), ([0xE040, 0xEA46, 0x60C5], .lih 9 0x012345),
    ([0xF008, 0x75A3], .ldhn 3 2 3 1), ([0xEFFE, 0xB65C], .bgen 4 5 (-20)), ([0xE030, 0xC070], .jr 0 55),
    ([0xE040, 0xEB3C, 0xEA6A, 0xEF9B, 0x5CEF], .li 9 0x6789ABCDEF), ([0xE018, 0x9440], .tch 0 28 0 0)] = true := by decide +kernel

theorem test_decode_page1 : decodes [([0xF080, 0xE049, 0x3939], .fma 10 11 12 true), ([0xF080, 0x5916], .fcvt 2 1 3),
    ([0xF080, 0x67C3], .kput 7 67)] = true := by decide +kernel

theorem test_decode_page2 : decodes [([0xF110, 0x01A2], .vld 3 2 2 0 2), ([0xF101, 0x265C], .vfma 4 5 6 1), ([0xF101, 0x5110], .vcvt 2 1 0 1),
    ([0xF108, 0xE040, 0x5408], .vpack4 8 0 4 0 1), ([0xF104, 0xE806, 0x6EA4], .vext 5 2 100 4), ([0xF100, 0x5F90], .vredsum 7 1 0),
    ([0xF104, 0x9000], .viota 0 4)] = true := by decide +kernel

theorem test_decode_page3 : decodes [([0xF180, 0x0100], .mlease 2), ([0xF180, 0x0400], .mfree), ([0xF181, 0x0840], .mfmt 4 1),
    ([0xF182, 0x0DCA], .mbld 3 4 5 2), ([0xF181, 0x11CA], .mbldg 3 4 5 1), ([0xF181, 0x15CA], .mmul 3 4 5 1), ([0xF187, 0x19CA], .mgath 3 4 5 7),
    ([0xF180, 0x1D87], .mzero 3 7), ([0xF180, 0x234E], .mdrain 6 4 7), ([0xF180, 0x25CA], .mwalk 3 4 5), ([0xF180, 0x2830], .mwait 3),
    ([0xF180, 0xE040, 0x2CB0], .mpoll 9 3)] = true := by decide +kernel

theorem test_decode_page4 : decodes [([0xF200, 0x0580], .cplaunch 3), ([0xF200, 0x09CA], .cpgath 3 4 5), ([0xF210, 0x154C], .sgath 2 4 6 0 2),
    ([0xF201, 0x1A2A], .aadd 4 2 5 1 0), ([0xF200, 0x3220], .acas 4 2 0 0), ([0xF200, 0xE80C, 0x3C28], .hset 2 200), ([0xF200, 0x4826], .cddec 2 3),
    ([0xF200, 0x4EA0], .jwait 5 2), ([0xF200, 0x2E2A], .axchg 4 2 5 0 0)] = true := by decide +kernel

theorem test_decode_page5 : decodes [([0xF284, 0x0000], .fence 4), ([0xF284, 0x0400], .fencea 4), ([0xF285, 0x0800], .fencer 5),
    ([0xF280, 0xF860, 0x0C00], .sfence 3), ([0xF280, 0x1402], .barw 2), ([0xF280, 0x2426], .waitge 2 3), ([0xF280, 0x2820], .carve 2),
    ([0xF280, 0x2DA0], .sprint 3 2), ([0xF280, 0x3400], .uret)] = true := by decide +kernel

theorem test_decode_page6 : decodes [([0xF300, 0xF860, 0x00A2], .rst 1 2 2 3 0), ([0xF300, 0xF820, 0x05A1], .rstv 3 2 1 1 0), ([0xF300, 0x0826], .rstm 2 3 0 0),
    ([0xF300, 0xF8A0, 0x1620], .racas 4 2 0 5 0), ([0xF300, 0xF8A0, 0x1A2A], .raxchg 4 2 5 0 5 0), ([0xF300, 0x1C00], .rbegin),
    ([0xF300, 0x2000], .rcommit), ([0xF300, 0x25CA], .rreq 3 4 5), ([0xF300, 0x284A], .rsl 4 5), ([0xF300, 0x2C00], .rslgo),
    ([0xF300, 0xF860, 0x304A], .rsetc 4 5 3 0), ([0xF300, 0xF860, 0x344A], .rclose 4 5 3 0)] = true := by decide +kernel

theorem test_decode_page7 : decodes [([0xF380, 0xE00A, 0x0054], .tryChoice 13 18), ([0xF380, 0x0800], .fail), ([0xF380, 0xE010, 0x0C50], .cut 21)] = true := by
  decide +kernel

theorem test_decode_page8 : decodes [([0xF400, 0x0026], .cvdef 2 3), ([0xF400, 0x0426], .cvslope 2 3), ([0xF400, 0x0826], .cvquant 2 3),
    ([0xF400, 0x0C26], .cvfan 2 3), ([0xF400, 0x1020], .cvrun 2), ([0xF400, 0x1420], .cvstop 2), ([0xF400, 0x1AA0], .cvread 5 2),
    ([0xF400, 0x1C26], .cvguard 2 3), ([0xF400, 0x2026], .cvsurvey 2 3)] = true := by decide +kernel

theorem test_decode_page9 : decodes [([0xF480, 0x01A0], .rlead 3 2), ([0xF480, 0x11CA], .thset 3 4 5)] = true := by decide +kernel

theorem test_decode_page14 : decodes [([0xF700, 0xE804, 0x0300], .skget 6 512), ([0xF700, 0xE804, 0x0586], .skput 3 518), ([0xF700, 0x0800], .tret),
    ([0xF700, 0x0C26], .stage 2 3), ([0xF700, 0x1000], .swapgo), ([0xF700, 0x1434], .spill 3 2), ([0xF700, 0x1826], .tlbinv 2 3),
    ([0xF700, 0x1C20], .pinrel 2), ([0xF700, 0x2020], .gstop 2), ([0xF700, 0x2420], .gresume 2), ([0xF700, 0x2AA0], .adopt 5 2)] = true := by decide +kernel

/-- R86, R88: a repeated XP (detail 2, at position 1), an unassigned op, five prefix words, a fourth XI, XS where no stream is taken. -/
theorem test_decode_refused :
    decode Env.all [0xF018, 0xF101, 0x1994] = .error ⟨2, 1, 2, 0xF101, 0x1994, none⟩ ∧
    decode Env.all [0xF8A0, 0x0194] = .error ⟨4, 0, 1, 0xF8A0, 0x0194, none⟩ ∧
    decode ⟨2 ^ 21 - 1, false⟩ [0xF700, 0x0800] = .error ⟨6, 0, 1, 0, 0x0800, none⟩ := by decide +kernel

/-- The words of DecodeSpecWords that are refused. -/
theorem test_decode_details : ([([0xC402], 0), ([0xE000, 0xE800, 0xE800, 0xE800, 0xF000], 1), ([0xE800, 0xE800, 0xE800, 0xE800, 0x3C18], 3),
    ([0xE800, 0x0194], 8)] : List (List IWord × Nat)).all (fun p => match decode Env.all p.1 with | .error b => b.detail == p.2 | .ok _ => false) = true := by
  decide +kernel

/-! The other rows of the opcode map: the base word of the row with d 2, a 5, b 6, f 1, la 3, an immediate of 3 or an offset of −3 words, and the q
that the row takes. -/

theorem test_decode_page0_rows : decodes [
    ([0x055D], .sub 2 5 6 true), ([0x095D], .and 2 5 6 true), ([0x0D5D], .or 2 5 6 true), ([0x115D], .xor 2 5 6 true),
    ([0x155D], .shl 2 5 6 true), ([0x195D], .shr 2 5 6 true), ([0x1D5D], .sra 2 5 6 true), ([0x215D], .mul 2 5 6 true),
    ([0x255D], .mulh 2 5 6 true), ([0x295D], .min 2 5 6 true), ([0x2D5D], .max 2 5 6 true), ([0x315D], .seq 2 5 6 true),
    ([0x355D], .slt 2 5 6 true), ([0x395C], .sel 2 5 6), ([0x4153], .andi 2 5 3), ([0x4553], .ori 2 5 3), ([0x4953], .xori 2 5 3),
    ([0x4D53], .shli 2 5 3), ([0x5153], .shri 2 5 3), ([0x5553], .srai 2 5 3), ([0x5953], .slti 2 5 3), ([0x6503], .pcrel 2 3),
    ([0x6953], .ldb 2 5 3 0), ([0x6D53], .ldbn 2 5 3 0), ([0x7153], .ldh 2 5 3 0), ([0x7953], .ldw 2 5 3 0), ([0x7D53], .ldwn 2 5 3 0),
    ([0x8553], .stb 2 5 3 none), ([0x8953], .sth 2 5 3 none), ([0x8D53], .stw 2 5 3 none), ([0xF01A, 0x9953], .lda 2 5 3 2 3),
    ([0xF002, 0x9D53], .stl 2 5 3 2 none), ([0xA2ED], .beq 5 6 (-3)), ([0xAAED], .blt 5 6 (-3)), ([0xAEED], .bge 5 6 (-3)),
    ([0xB2ED], .bltn 5 6 (-3)), ([0xB803], .jmp 3), ([0xBC03], .jal 3), ([0xC400], .nop), ([0xC401], .brk)] = true := by decide +kernel

theorem test_decode_page1_rows : decodes [
    ([0xF098, 0x015D], .div 2 5 6 true 3), ([0xF098, 0x055D], .divn 2 5 6 true 3), ([0xF098, 0x095D], .rem 2 5 6 true 3),
    ([0xF098, 0x0D5D], .remn 2 5 6 true 3), ([0xF080, 0x1151], .popc 2 5 true), ([0xF080, 0x1551], .clz 2 5 true),
    ([0xF080, 0x1951], .ctz 2 5 true), ([0xF080, 0x1D5D], .rot 2 5 6 true), ([0xF080, 0x2151], .bswap 2 5 true), ([0xF080, 0x255C], .bext 2 5 6),
    ([0xF080, 0x295C], .bins 2 5 6), ([0xF080, 0x2D5D], .fadd 2 5 6 true), ([0xF080, 0x315D], .fsub 2 5 6 true),
    ([0xF080, 0x355D], .fmul 2 5 6 true), ([0xF080, 0x3D5D], .fdiv 2 5 6 true), ([0xF080, 0x4151], .fsqrt 2 5 true),
    ([0xF080, 0x455D], .fmin 2 5 6 true), ([0xF080, 0x495D], .fmax 2 5 6 true), ([0xF080, 0x4D5D], .feq 2 5 6 true),
    ([0xF080, 0x515D], .flt 2 5 6 true), ([0xF080, 0x555D], .fle 2 5 6 true), ([0xF080, 0x5D51], .fcls 2 5 true), ([0xF080, 0x6122], .kget 2 34),
    ([0xF080, 0x6900], .rand 2)] = true := by decide +kernel

theorem test_decode_page2_rows : decodes [
    ([0xF104, 0x0553], .vst 2 5 3 4), ([0xF11C, 0x095C], .vlds 2 5 6 4 3), ([0xF104, 0x0D5C], .vsts 2 5 6 4),
    ([0xF11C, 0x115C], .vldx 2 5 6 4 3), ([0xF104, 0x155C], .vstx 2 5 6 4), ([0xF104, 0x195C], .vadd 2 5 6 4), ([0xF104, 0x1D5C], .vsub 2 5 6 4),
    ([0xF104, 0x215C], .vmul 2 5 6 4), ([0xF104, 0x295C], .vmin 2 5 6 4), ([0xF104, 0x2D5C], .vmax 2 5 6 4), ([0xF104, 0x315C], .vand 2 5 6 4),
    ([0xF104, 0x355C], .vor 2 5 6 4), ([0xF104, 0x395C], .vxor 2 5 6 4), ([0xF105, 0x3D5C], .vshl 2 5 6 5), ([0xF105, 0x415C], .vshr 2 5 6 5),
    ([0xF104, 0x455C], .vcmpeq 2 5 6 4), ([0xF104, 0x495C], .vcmplt 2 5 6 4), ([0xF104, 0x4D5C], .vsel 2 5 6 4),
    ([0xF104, 0x5950], .vunpk4 2 5 4), ([0xF104, 0x6150], .vredmax 2 5 4), ([0xF104, 0x6550], .vredmin 2 5 4), ([0xF104, 0x6950], .vbcast 2 5 4),
    ([0xF104, 0x7153], .vins 2 5 3 4), ([0xF104, 0x755C], .vperm 2 5 6 4), ([0xF101, 0x7950], .vrcp 2 5 1), ([0xF101, 0x7D50], .vrsq 2 5 1),
    ([0xF101, 0x8150], .vexp 2 5 1), ([0xF101, 0x855C], .vscal 2 5 6 1), ([0xF104, 0x8950], .vmov 2 5 4), ([0xF104, 0x8D50], .vmcnt 2 5 4)] = true := by decide +kernel

theorem test_decode_page4_rows : decodes [
    ([0xF200, 0x0050], .cpput 5), ([0xF200, 0x0D5C], .cpscat 2 5 6), ([0xF200, 0x1050], .cpwait 5), ([0xF21A, 0x1D5C], .aand 2 5 6 2 3),
    ([0xF21A, 0x215C], .aor 2 5 6 2 3), ([0xF21A, 0x255C], .amin 2 5 6 2 3), ([0xF21A, 0x295C], .amax 2 5 6 2 3),
    ([0xF218, 0x355C], .afadd 2 5 6 0 3), ([0xF200, 0x385C], .msend 5 6), ([0xF200, 0x4050], .spawn 5), ([0xF200, 0x445C], .cdarm 5 6)] = true := by decide +kernel

theorem test_decode_page5_rows : decodes [
    ([0xF280, 0x1003], .barr 3), ([0xF280, 0x1803], .barx 3), ([0xF280, 0x3100], .sprintq 2), ([0xF280, 0x3809], .scallRefused 9),
    ([0xF280, 0x1C00], .evwait), ([0xF280, 0x2000], .yield), ([0xF280, 0x3800], .scallExit), ([0xF280, 0x3801], .scallTimerArm),
    ([0xF280, 0x3802], .scallTimerCancel), ([0xF280, 0x3803], .scallDestroyDeque)] = true := by decide +kernel

theorem test_decode_page6_rows : decodes [
    ([0xF318, 0x0D5C], .raadd 2 5 6 3 0 0), ([0xF318, 0x115C], .rafadd 2 5 6 3 0 0)] = true := by decide +kernel

theorem test_decode_page7_rows : decodes [
    ([0xF380, 0x045C], .trySteal 5 6), ([0xF380, 0x1100], .mark 2), ([0xF380, 0x1550], .otask 2 5), ([0xF380, 0x2100], .ohoriz 2),
    ([0xF380, 0x1800], .oend), ([0xF380, 0x1C00], .oabort)] = true := by decide +kernel

theorem test_decode_page9_rows : decodes [
    ([0xF480, 0x045C], .rfollow 5 6), ([0xF480, 0x145C], .thprio 5 6), ([0xF480, 0x1850], .thevict 5), ([0xF480, 0x1C50], .thdemote 5),
    ([0xF480, 0x2150], .xprobe 2 5), ([0xF480, 0x0800], .rdetach), ([0xF480, 0x0C00], .rrejoin)] = true := by decide +kernel

/-! ### The spec's worked examples -/

/-- 04_numbers: the generator's steps from 1, and 1 + 2^−10 rounded to bf16 by chance and to nearest even. -/
theorem test_random_rounding : rngNext 1 = 0x40822041 ∧ Fmt.bf16.encode (.sr 0) (.fin false 1025 (-10)) = 0x3F81 ∧ Fmt.bf16.encode .rne (.fin false 1025 (-10)) = 0x3F80 := by
  decide +kernel

/-- R146's table. -/
theorem test_division : aluDiv true false 7 (-2) = -3 ∧ aluRem true false 7 (-2) = 1 ∧ aluRem true false (-7) 2 = -1 ∧ aluDiv true false 5 0 = 0xFFFFFFFFFFFFFFFF ∧
    aluRem false false 5 0 = 5 ∧ aluDiv true false 0x8000000000000000 (-1) = 0x8000000000000000 ∧ aluDiv false true 0xFFFFFFFF 2 = 0x7FFFFFFF ∧
    aluDiv false true 0xFFFFFFFF 0 = 0xFFFFFFFFFFFFFFFF := by decide +kernel

/-- 07_matrix: 2^24 and 39 ones against ones, in two groups, and the sum as a bf16; 06_vector: 3 scaled by −130, −200 and 200. -/
theorem test_sum_and_scale :
    accumulateF32 0 (List.replicate 40 (.fin false 1 0)) (.fin false 1 24 :: List.replicate 39 (.fin false 1 0)) = 0x4B800014 ∧
    Fmt.bf16.encode .rne (Fmt.f32.decode 0x4B800014) = 0x4B80 ∧ Fmt.f32.encode .rne ((Val.fin false 3 0).scale (-130)) = 0x00180000 ∧
    Fmt.f32.encode .rne ((Val.fin false 3 0).scale (-200)) = 0 ∧ Fmt.f32.encode .rne ((Val.fin false 3 0).scale 200) = 0x7F800000 := by decide +kernel

/-- Slot 1 of 15_prog_contour at a time, level and slope. -/
def x3 (t : Word) (x slope : BitVec 32) : Slot := { Slot.none with state := .running, q := x, x := x, slope := slope, delta := 0x3E000000, t := t }

/-- 15_prog_contour: its first crossings, a slope of +0, the widened quantum, x1's first times, and the survey of x3. -/
theorem test_contour_times : (x3 0 0x3FC00000 0xC4BB8000).schedule.tn = 357914 ∧ (x3 357914 0x3FB00000 0xC4BB8000).schedule.tn = 715828 ∧
    (x3 357914 0x3FB00000 0xC4ABE000).schedule.tn = 748366 ∧ (x3 4380342 0x3F000000 0xC3FA0000).schedule.tn = 5454084 ∧
    ({ x3 4380342 0x3F000000 0xC3FA0000 with delta := 0x3F000000 } : Slot).schedule.tn = 8675310 ∧ (x3 8675310 0 0).schedule.tn = BitVec.allOnes 64 ∧
    (x3 0 0 0x3F800000).schedule.tn = 536870912 ∧ (x3 0x20000000 0x3E000000 0x3F600000).schedule.tn = 0x44924925 ∧
    (x3 1063720274 0 0x42FA0000).xAt 0x40000000 = 0x3E95552E := by decide +kernel

/-- 05_scalar: li and then lih leave 0x0123456789ABCDEF; 00_scope: the sum of −1 and 1 wraps to 0. -/
theorem test_constants : (after (exec (.lih 9 0x012345) (after (exec (.li 9 0x6789ABCDEF) base) base)) base).me.rd 9 = 0x0123456789ABCDEF ∧
    (let s := base.setMe { base.me with g := (base.me.g.set 1 0xFFFFFFFFFFFFFFFF).set 2 1 }; (after (exec (.add 3 1 2 false) s) s).me.rd 3 = 0) := by decide +kernel

/-- 06_vector: what decoding refuses. -/
theorem test_vector_refused : (match decode Env.all [0xF108, 0x1994] with | .error b => b.detail == 17 | .ok _ => false) = true ∧
    (match decode Env.all [0xF108, 0xE040, 0x5408] with | .ok (i, _) => decide (i = .vpack4 8 0 4 0 1) | .error _ => false) = true := by decide +kernel

/-! ### Witnesses: registers, ports and vectors -/

/-- Registers with a carry, a sign and a valid field spec; a message of two words waits in g56. -/
def regs : State :=
  let s := setRegs base [(1, 0xFFFFFFFF80000007), (2, 0x3FF8000000000005), (3, 0x123456789), (4, 0x100)]
  s.setMe { s.me with msg := [9, 8], npc := 0x4002, ir := [0x0194] }

/-- Plain operands, two pops of one port, and a destination that is also read. -/
theorem witness_RegisterOperationResults :
    (regs.clear [1, 2] [3] [] [] = true ∧ regs.Reads [1, 2] [0xFFFFFFFF80000007, 0x3FF8000000000005] regs) ∧
    (∃ t, regs.clear [56, 56] [0] [] [] = true ∧ regs.Reads [56, 56] [9, 8] t) ∧
    (regs.clear [1, 2, 3] [3] [] [] = true ∧ regs.Reads [1, 2, 3] [0xFFFFFFFF80000007, 0x3FF8000000000005, 0x123456789] regs) :=
  ⟨holds_reads (by decide +kernel), ⟨_, by decide +kernel, ⟨_, rfl⟩, ⟨_, rfl⟩, rfl⟩, holds_reads (by decide +kernel)⟩

theorem witness_ImmediateOperationResults : (regs.clear [3] [3] [] [] = true ∧ regs.Reads [3] [0x123456789] regs) ∧ regs.clear [] [3] [] [] = true :=
  ⟨holds_reads (by decide +kernel), by decide +kernel⟩

/-- A bad field spec in g2 and the spec 0x100 in g4. -/
theorem witness_DivisionAndBitResults :
    (regs.clear [1, 2, 3] [3] [] [] = true ∧ regs.Reads [1, 2, 3] [0xFFFFFFFF80000007, 0x3FF8000000000005, 0x123456789] regs) ∧
    (regs.clear [1, 4, 3] [3] [] [] = true ∧ regs.Reads [1, 4, 3] [0xFFFFFFFF80000007, 0x100, 0x123456789] regs) ∧
    (regs.clear [1, 4] [3] [] [] = true ∧ regs.Reads [1, 4] [0xFFFFFFFF80000007, 0x100] regs) ∧ regs.clear [1] [3] [] [] = true ∧
    field (0x3FF8000000000005 : Word) 63 17 ≠ 0 ∧ field (0x100 : Word) 5 0 + (field (0x100 : Word) 13 8 + 1) ≤ 64 :=
  ⟨holds_reads (by decide +kernel), holds_reads (by decide +kernel), holds_reads (by decide +kernel), by decide +kernel, by decide, by decide⟩

theorem witness_FloatAndRandomResults : (regs.clear [2, 1] [5] [] [] = true ∧ regs.Reads [2, 1] [0x3FF8000000000005, 0xFFFFFFFF80000007] regs) ∧
    (regs.clear [2, 1, 5] [5] [] [] = true ∧ regs.Reads [2, 1, 5] [0x3FF8000000000005, 0xFFFFFFFF80000007, 0] regs) ∧
    regs.clear [2] [5] [] [] = true ∧ regs.clear [] [5] [] [] = true :=
  ⟨holds_reads (by decide +kernel), holds_reads (by decide +kernel), by decide +kernel⟩

/-- An odd and an even jump target. -/
theorem witness_ControlFlow :
    (regs.clear [1] [55] [] [] = true ∧ regs.Reads [1] [0xFFFFFFFF80000007] regs) ∧ (0xFFFFFFFF80000007 : Word).toNat % 2 = 1 ∧
    (regs.clear [4] [0] [] [] = true ∧ regs.Reads [4] [0x100] regs) ∧ (0x100 : Word).toNat % 2 = 0 ∧
    (regs.clear [1, 4] [] [] [] = true ∧ regs.Reads [1, 4] [0xFFFFFFFF80000007, 0x100] regs) ∧ regs.clear [] [55] [] [] = true :=
  ⟨holds_reads (by decide +kernel), by decide, holds_reads (by decide +kernel), by decide, holds_reads (by decide +kernel), by decide +kernel⟩

theorem witness_VectorLaneResults : base.clear [] [] [1, 2] [3] = true ∧ base.clear [] [] [1, 2, 3] [3] = true ∧ elemOf 0 = .flt .f32 ∧ elemOf 3 ≠ elemOf 4 := by
  decide +kernel

theorem witness_VectorMoveResults : (base.clear [] [] [1, 2] [3] = true ∧ base.clear [] [] [30, 31] [0, 1] = true ∧ regs.clear [1] [] [] [3] = true ∧
    base.clear [] [5] [1] [] = true ∧ laneCount 0 = 128 ∧ regs.clear [1] [] [3] [3] = true) ∧ regs.Reads [1] [0xFFFFFFFF80000007] regs :=
  ⟨by decide +kernel, (holds_reads (ws := []) (by decide +kernel)).2⟩

theorem witness_VectorConversionResults : base.clear [] [7] [30, 31] [] = true ∧ base.clear [] [] [1] [2] = true ∧
    base.clear [] [] [0, 1, 2, 3, 4, 5, 6, 7] [8, 9] = true ∧ base.clear [] [] [8, 9] [24, 25, 26, 27, 28, 29, 30, 31] = true := by
  decide +kernel

/-- A register operation that completes, one that traps and one that stalls. -/
theorem witness_RegisterFrame : runs (exec (.add 3 1 2 false) regs) = true ∧ runs (exec (.bext 3 1 2) regs) = true ∧
    runs (exec (.add 3 57 2 false) regs) = true := by decide +kernel

/-- Five members of a team on cores that core 0's links reach. -/
def linked : State :=
  let s := base.setTeam 0 { Team.none 0 with state := .resident, members := [0, 1, 2, 4, 7], started := [0, 1, 2, 4, 7] }
  [0, 1, 2, 4, 7].foldl (fun s k => s.setBank (k * 2) { Bank.reset 0 with team := some 0 }) s

theorem witness_RegisterFile : isPort 3 = false ∧ isPort 63 = true ∧ 60 + (3 : Fin 4).val = (63 : GReg).val ∧
    linkTarget (coreOf base.cur) 3 = 4 ∧ base.activeBank 4 = 8 := by decide +kernel

/-- An empty g56, one word where two are read, and a full link. -/
theorem witness_PortStall :
    (base.me.pend.all (fun p => !p.writesG 3) = true ∧ (base.portWords base.cur 56).length < 2 ∧ base.portWords base.cur 56 = []) ∧
    (let full := linked.setBank 2 { linked.bank 2 with links := Vector.replicate 4 (List.replicate 8 (.word 0)) }
     full.holdsMyTeam (linkTarget (coreOf full.cur) 0) = true ∧ full.holdsMyTeam (linkSource (coreOf full.cur) 0) = true ∧
     full.portRoom full.cur 60 = 0) := by decide +kernel

/-- A pending result of g1 with and without the debug attribute. -/
theorem witness_PendingResults :
    let p : Pending := ⟨.g 1, 5, 0, 2, 0x4000, none⟩
    let s := base.setMe { base.me with pend := [p] }
    let d := s.setMe { s.me with status := 4 }
    let v := base.setMe { base.me with pend := [⟨.v 3, 0, 5, 0, 0x4000, none⟩] }
    s.me.pend = [p] ∧ p.place = none ∧ s.me.status.getLsbD 2 = false ∧ d.me.pend = [p] ∧ d.me.status.getLsbD 2 = true ∧
      v.me.pend.map (fun p => (p.target, p.left, p.place)) = [(.v 3, 0, none)] ∧ v.me.breaks = false := by
  decide +kernel

/-! ### Witnesses: memory -/

/-- Addresses and data in registers, and two words of memory at 0x5000. -/
def memo : State :=
  { setRegs regs [(5, 0x5000), (6, 0x1122334455667788), (7, 0x01FF000000000010), (8, 0x5001)] with
    mem := cells [(0x5000, 0x8877665544332211), (0x5008, 0x80000000000000FF)] }

/-- Eight locations from one on. -/
def at8 (loc : Nat) : List Nat := (List.range 8).map (loc + ·)

theorem witness_LoadResults : (memo.clear [5] [1] [] [] = true ∧ memo.Reads [5] [0x5000] memo) ∧
    ∃ u, locate .load 0x5000 8 memo = .ok (at8 0x5000, u) ∧ u.unshared (at8 0x5000) ∧ u.landed (at8 0x5000) ∧ u.numberAt (at8 0x5000) = 0x8877665544332211 ∧
      u.mixedBytes (at8 0x5000) = [] ∧ given (observe (at8 0x5000) u) = some () :=
  ⟨holds_reads (by decide +kernel), _, given_eq (by decide +kernel), free_unshared (by decide +kernel), landed_of (by decide +kernel), by decide +kernel⟩

theorem witness_StoreResults : (memo.clear [5, 6] [] [] [] = true ∧ memo.Reads [5, 6] [0x5000, 0x1122334455667788] memo) ∧ memo.quiet = true ∧
    (at8 0x5000).Nodup ∧ ∃ u, locate .store 0x5000 8 memo = .ok (at8 0x5000, u) ∧ u.unshared (at8 0x5000) ∧ u.landed (at8 0x5000) ∧ u.me.logging = false ∧ u.mixedBytes (at8 0x5000) = [] :=
  ⟨holds_reads (by decide +kernel), by decide +kernel, by decide, _, given_eq (by decide +kernel), free_unshared (by decide +kernel), landed_of (by decide +kernel),
   by decide +kernel, by decide +kernel⟩

/-- Its egress queue with every entry in use. -/
def egressed : State := memo.setCore 0 { memo.core 0 with acks := List.replicate 64 (3, 7), egress := List.replicate 64 5 }

theorem witness_StoreResults_full : 64 ≤ egressed.myCore.egress.length ∧ (egressed.receiveAck 0).myCore.egress.length = 63 ∧
    linesOf (at8 0x5000) = [0x5000 / 128] ∧ (∀ l, l ∈ at8 0x5000 → l < hbmTop) ∧ memo.myCore.egress = [] := by decide +kernel

/-- A partition of ridge 0 alone, whose core 0 holds a team: its scratch is in the aperture. -/
def scratchy : State :=
  let s := memo.setPart 0 { memo.part 0 with ridges := 1, slices := [3, 900] }
  let s := s.setTeam 0 { Team.none 0 with state := .resident, members := [0] }
  s.setBank 0 { s.bank 0 with team := some 0 }

theorem aperture_given {s : State} {ea : Word} {n : Nat} {r : CoreId × Served} (h : given (aperture ea n s) = some r) :
    aperture ea n s = .ok (r, s) := by
  unfold aperture at h ⊢
  rw [M.bind_ok (M.get_run s)] at h ⊢
  cases h1 : s.apertureCore s.me.part ea with
  | none => simp [h1, raise, given, throw, throwThe, MonadExceptOf.throw, StateT.lift, bind, Except.bind] at h
  | some c =>
    cases h2 : s.served s.me.part c with
    | none => simp [h1, h2, raise, given, throw, throwThe, MonadExceptOf.throw, StateT.lift, bind, Except.bind] at h
    | some v =>
      simp only [h1, h2] at h ⊢
      split at h
      · simp [raise, given, throw, throwThe, MonadExceptOf.throw, StateT.lift, bind, Except.bind] at h
      · rename_i hv
        rw [if_neg hv]
        cases h3 : s.moving c v with
        | true => rw [h3] at h; cases h
        | false => rw [h3] at h; cases h; rfl

theorem witness_ApertureStoreResults :
    (scratchy.clear [7, 6] [] [] [] = true ∧ scratchy.Reads [7, 6] [0x01FF000000000010, 0x1122334455667788] scratchy) ∧
    (isAperture 0x01FF000000000010 = true ∧ scratchy.quiet = true ∧ scratchy.me.logging = false ∧
      scratchy.me.region = none ∧ scratchy.me.task = none ∧ (scratchy.me.sender 5 (.core 0)).broken = false ∧ (scratchy.me.strc[5]?).getD 0 = 0) ∧
    aperture 0x01FF000000000010 8 scratchy = .ok ((0, ⟨bankLoc 0 0, 0x130000, 0, 0⟩), scratchy) :=
  ⟨holds_reads (by decide +kernel), by decide +kernel, aperture_given (by decide +kernel)⟩

/-- A handler of a request, whose stores of class 2 take tag 3 and its epoch; a malformed and a formed counter, a broken stream and a region
with and without room; a logging context with a bank of its partition at core 1. -/
def streaming : State :=
  let s := scratchy.setMe { scratchy.me with event := some ⟨6, [], some (3, 9)⟩, strc := (scratchy.me.strc.set! 5 0x01FF000000000044).set! 6 0x01FF000000000040, choice := 0x130000 }
  let s := s.setTeam 0 { s.team 0 with members := [0, 1] }
  s.setBank 2 { s.bank 2 with team := some 0 }

theorem witness_ApertureStoreResults_streams :
    (streaming.me.event.bind Event.tag = some (3, 9) ∧ scratchy.me.event.bind Event.tag = none) ∧
    (let w := (streaming.me.strc[5]?).getD 0; isAperture w = true ∧ w.toNat % 8 ≠ 0) ∧
    (let w := (streaming.me.strc[6]?).getD 0; isAperture w && decide (w.toNat % 8 = 0) && decide (field w 63 57 = 0) && decide (field w 37 21 = 0)) = true ∧
    (let s := scratchy.setMe { scratchy.me with streams := [⟨5, .core 0, 0, true⟩] }
     (s.me.sender 5 (.core 0)).broken = true) ∧
    ((⟨0x130000, 0x4002, [], 0, none, 0⟩ : Region).use 5 (.core 0) 0 false ≠ none ∧
      (⟨0x130000, 0x4002, [⟨5, .core 0, 0, 256, 0⟩], 0, none, 0⟩ : Region).use 5 (.core 0) 0 false = none) ∧
    (streaming.me.logging = true ∧ streaming.me.speculates = false ∧ streaming.me.trailTop.toNat + 16 ≤ streaming.me.trailLim.toNat ∧
      (streaming.served 0 1).isSome = true) := by decide +kernel

/-- An empty cache with base's tables, and a live pin. -/
def uncached : State := { memo.setCore 0 { memo.core 0 with tlb := [] } with mem := cells [(0x1000, 0x2001), (0x2000, 0xBF)] }
def pinned : State := uncached.setMe { uncached.me with pins := [⟨0, 2 ^ 30, 2, 0xBF, 0, 64⟩] }

/-- A fault of the walk, a misaligned address, and an aperture address past scratch, of no core, and of a core with no bank of the partition. -/
theorem witness_AddressCauses :
    locate .load 0x50000000 8 uncached = .error (.trap { cls := 1, detail := 24, addr := 0x50000000 }) ∧
    locate .store 0x50000000 8 uncached = .error (.trap { cls := 1, detail := 40, addr := 0x50000000 }) ∧
    (memo.clear [8, 6] [3] [] [] = true ∧ memo.Reads [8, 6] [0x5001, 0x1122334455667788] memo) ∧ (0x5001 : Word).toNat % 8 ≠ 0 ∧
    (scratchy.absCore 0 1023 = none ∧ scratchy.absCore 0 1 = some 1 ∧ scratchy.served 0 1 = none) ∧
    scratchy.served 0 0 = some ⟨bankLoc 0 0, 0x130000, 0, 0⟩ ∧ scratchy.moving 0 ⟨bankLoc 0 0, 0x130000, 0, 0⟩ = false ∧ 0x130000 < field (0x01FF0000001FFFF8 : Word) 20 0 + 16 ∧
    aperture 0x01FF0000001FFFF8 16 scratchy = .error (.trap { cls := 2, detail := 4, addr := 0x01FF0000001FFFF8 }) ∧
    field (0x01FF004000000000 : Word) 47 38 = 1 :=
  ⟨by decide +kernel, by decide +kernel, holds_reads (by decide +kernel), by decide +kernel⟩

/-- base's tables, in which level 3 stands at 0x1000 and level 2 at 0x2000: a walk that ends at each. -/
theorem witness_PageWalk :
    (base.part 0).ptroot = 0x1000 ∧ base.word 0x1000 = 0x2001 ∧ base.word 0x2000 = 0xBF ∧ field (0x2001 : Word) 46 12 * 4096 = 0x2000 ∧
    (base.word 0x1000).getLsbD 1 = false ∧ field (base.word 0x1000) 11 2 = 0 ∧ field (base.word 0x1000) 55 47 = 0 ∧ lineOf 0x1000 ∉ base.poison ∧
    (Acc.needs .store).all (base.word 0x2000).getLsbD = true ∧ base.word 0x2008 = 0 ∧
    (base.walk 0 .load 0x7777 = .ok ⟨0, 2 ^ 30, 2, 0xBF⟩) := by decide +kernel

theorem witness_TranslatedAccess :
    isAperture 0x5000 = false ∧ isService (coreOf memo.cur) = false ∧
    memo.myCore.cached 0 0x5000 = some ⟨0, 0, 0, 2 ^ 30, 2, 0xBF⟩ ∧ memo.checkLeaf 0 .load 2 0x5000 0xBF = .ok ⟨0, 2 ^ 30, 2, 0xBF⟩ ∧
    memo.checkLeaf 0 .load 2 0x5000 0x3 = .error { cls := 1, detail := 25, addr := 0x5000, word := 3 } ∧
    pinned.me.livePins = [⟨0, 2 ^ 30, 2, 0xBF, 0, 64⟩] ∧ uncached.myCore.cached 0 0x5000 = none ∧
    (uncached.setRidge 0 { uncached.ridge 0 with copies := [⟨0, 1, 4, [], [], [], false, false, [lineOf 0x1000]⟩] }).walkFree 0 0x5000 = false ∧
    (⟨0, 2 ^ 30, 2, 0xFF⟩ : Leaf).isSC = true ∧
    uncached.walkFree 0 0x5000 = true ∧ uncached.quiet = true ∧ uncached.walk 0 .load 0x5000 = .ok ⟨0, 2 ^ 30, 2, 0xBF⟩ ∧ uncached.walk 0 .load 0x40000000 = .error { cls := 1, detail := 24, addr := 0x40000000 } := by
  decide +kernel

theorem witness_TouchResults :
    (uncached.clear [5] [] [] [] = true ∧ uncached.Reads [5] [0x5000] uncached) ∧
    (uncached.me.livePins.length < 16 ∧ uncached.walkFree 0 0x5000 = true ∧ uncached.walk 0 .store 0x5000 = .ok ⟨0, 2 ^ 30, 2, 0xBF⟩ ∧
      (let full := uncached.setMe { uncached.me with pins := List.replicate 16 ⟨0, 4096, 0, 0xBF, 0, 64⟩ }; 16 ≤ full.me.livePins.length)) ∧
    aperture 0x01FF000000000010 8 scratchy = .ok ((0, ⟨bankLoc 0 0, 0x130000, 0, 0⟩), scratchy) :=
  ⟨holds_reads (by decide +kernel), by decide +kernel, aperture_given (by decide +kernel)⟩

/-! ### Witnesses: vector memory, gathers, copies and matrix arrays -/

/-- Each lane's locations for lanes of four bytes from 0x5000 on. -/
def lanes4 : List (List Nat) := (List.range 128).map (fun i => (List.range 4).map (0x5000 + 4 * i + ·))

/-- Addresses of lanes of four bytes. -/
def addrs4 : List (Word × Nat) := (List.range 128).map (fun i => (0x5000 + BitVec.ofNat 64 (4 * i), 4))

theorem witness_VectorMemoryResults :
    (memo.clear [5] [] [] [3] = true ∧ memo.clear [5] [] [3] [] = true ∧ memo.clear [5] [] [1, 3] [] = true ∧ memo.clear [5, 4] [] [3] [] = true) ∧
    (memo.Reads [5] [0x5000] memo ∧ memo.Reads [5, 4] [0x5000, 0x100] memo) ∧
    (∃ u, locateAll .load addrs4 memo = .ok (lanes4, u) ∧ u.unshared lanes4.flatten ∧ u.landed lanes4.flatten) ∧
    (∃ u, locateAll .store addrs4 memo = .ok (lanes4, u) ∧ u.unshared lanes4.flatten ∧ u.landed lanes4.flatten ∧ u.me.logging = false ∧
      u.me.region = none ∧ (u.me.strc[0]?).getD 0 = 0 ∧ u.me.streams = []) :=
  ⟨by decide +kernel, ⟨(holds_reads (ws := []) (by decide +kernel)).2, (holds_reads (ws := []) (by decide +kernel)).2⟩,
   ⟨_, given_eq (by decide +kernel), free_unshared (by decide +kernel), landed_of (by decide +kernel)⟩,
   ⟨_, given_eq (by decide +kernel), free_unshared (by decide +kernel), landed_of (by decide +kernel), by decide +kernel⟩⟩

/-- Lanes of which the first lies in the aperture. -/
theorem witness_VectorMemoryResults_aperture :
    given (locateAll .store [(0x01FF000000000010, 4), (0x5004, 4)] scratchy) = some [run (bankLoc 0 0 + 0x10) 4, run 0x5004 4] ∧
    scratchy.apertureCore 0 0x01FF000000000010 = some 0 := by decide +kernel

/-- Indexes that skip every lane but the first, which is 0. -/
def gathers : State := memo.wroteV 1 (BitVec.ofNat 4096 (((List.range 127).map (fun i => 2 ^ (32 * (i + 1) + 31))).foldl (· + ·) 0))

/-- Those indexes as numbers. -/
def skips : List Int := 0 :: List.replicate 127 (-2 ^ 31)

theorem witness_SliceResults :
    (gathers.clear [5] [] [1] [2] = true ∧ gathers.Reads [5] [0x5000] gathers ∧
      (List.range 128).map (fun i => (gathers.me.v[(1 : VReg).val].extractLsb' (32 * i) 32).toInt) = skips ∧
      ∃ u, underPins (gatherLocs 0x5000 4) skips gathers = .ok (some [0x5000, 0x5001, 0x5002, 0x5003] :: List.replicate 127 none, u) ∧
        u.unshared [0x5000, 0x5001, 0x5002, 0x5003] ∧ u.landed [0x5000, 0x5001, 0x5002, 0x5003]) ∧
    ((memo.clear [5, 6] [1] [] [] = true ∧ memo.Reads [5, 6] [0x5000, 0x1122334455667788] memo) ∧
      (memo.clear [5, 6, 7] [6] [] [] = true ∧ memo.Reads [5, 6, 7] [0x5000, 0x1122334455667788, 0x01FF000000000010] memo) ∧
      ∃ u, locate .atomic 0x5000 8 memo = .ok (at8 0x5000, u) ∧ u.unshared (at8 0x5000) ∧ u.landed (at8 0x5000) ∧ u.me.logging = false ∧ u.mixedBytes (at8 0x5000) = []) ∧
    (memo.clear [8, 6] [1] [] [] = true ∧ memo.Reads [8, 6] [0x5001, 0x1122334455667788] memo) ∧
    (memo.clear [7, 6] [1] [] [] = true ∧ memo.Reads [7, 6] [0x01FF000000000010, 0x1122334455667788] memo) :=
  ⟨⟨by decide +kernel, (holds_reads (ws := []) (by decide +kernel)).2, by decide +kernel, _, given_eq (by decide +kernel), free_unshared (by decide +kernel),
    landed_of (by decide +kernel)⟩,
   ⟨holds_reads (by decide +kernel), holds_reads (by decide +kernel), _, given_eq (by decide +kernel), free_unshared (by decide +kernel), landed_of (by decide +kernel),
    by decide +kernel⟩,
   holds_reads (by decide +kernel), holds_reads (by decide +kernel)⟩

/-- A copy descriptor of two rows of 16 bytes at 0x6000, and the same in the shadow registers. -/
def copies : State :=
  let s := { setRegs memo [(10, 0x6000), (11, 0x10000), (12, 0)] with
    mem := cells [(0x6000, 0x7000), (0x6008, 0x8000), (0x6010, 2), (0x6018, 16), (0x6020, 64), (0x6028, 32), (0x6030, 3)] }
  s.setMe { s.me with cp := #v[0x7000, 0x8000, 2, 16, 64, 32, 3] }

/-- The rows' locations. -/
def rowsFrom (a step : Nat) : List (List Nat) := (List.range 2).map (fun r => (List.range 16).map (a + r * step + ·))

/-- A copy of one byte that waits on the ridge of core 0. -/
def oneByte : Copy := ⟨0, 1, 4, [(0x5000, 0x7000)], [0x5000], [0x7000], true, true, [224]⟩

/-- The context that it belongs to, with an interrupt and a held DONE word. -/
def copying : State :=
  let s := memo.setRidge 0 { memo.ridge 0 with copies := [oneByte] }
  let s := s.setCore 0 { s.core 0 with xferNewest := 4, xfers := [⟨4, false, false, false⟩] }
  s.setMe { s.me with intr := [⟨4, 6, 0, 0, 0x20003, false⟩], doneHeld := [7] }

theorem witness_CopyEngine :
    ((copies.clear [10] [] [] [] = true ∧ copies.Reads [10] [0x6000] copies) ∧
      ∃ u, locate .load 0x6000 64 copies = .ok ((List.range 64).map (0x6000 + ·), u) ∧ u.unshared ((List.range 64).map (0x6000 + ·)) ∧ u.landed ((List.range 64).map (0x6000 + ·))) ∧
    (copies.clear [] [9] [] [] = true ∧ field ((copies.me.cp[2]?).getD 0) 16 0 = 2 ∧
      ∃ m, locateAll .copyRead [(0x7000, 16), (0x7040, 16)] copies = .ok (rowsFrom 0x7000 64, m) ∧
        ∃ w, locateAll .copyWrite [(0x8000, 16), (0x8020, 16)] m = .ok (rowsFrom 0x8000 32, w) ∧ w.unshared ((rowsFrom 0x7000 64).flatten ++ (rowsFrom 0x8000 32).flatten) ∧
          w.landed ((rowsFrom 0x7000 64).flatten ++ (rowsFrom 0x8000 32).flatten)) ∧
    ((copies.clear [11] [] [] [] = true ∧ copies.Reads [11] [0x10000] copies) ∧ (copies.clear [12] [] [] [] = true ∧ copies.Reads [12] [0] copies) ∧
      32768 ≤ (copies.myCore.xferNewest.toNat + 65536 - 0) % 65536) ∧
    ((copying.ridge 0).copies = [oneByte] ∧ jobStatus (copying.core copying.focus).xfers 4 = ⟨4, false, false, false⟩ ∧ memo.me.doneHeld = [] ∧ copying.packets = [] ∧
      copying.poison = [] ∧ copying.marks = [] ∧ copying.halted copying.cur = false ∧ (copying.ctx 0).source = oneByte.source ∧ copying.isActive copying.cur = true ∧ copying.me.run = .running ∧ copying.me.yielded = false ∧
      copying.me.status.getLsbD 3 = false ∧ copying.me.handling = false ∧ copying.me.intr = [⟨4, 6, 0, 0, 0x20003, false⟩] ∧ copying.me.doneHeld = [7]) :=
  ⟨⟨holds_reads (by decide +kernel), _, given_eq (by decide +kernel), free_unshared (by decide +kernel), landed_of (by decide +kernel)⟩,
   ⟨by decide +kernel, by decide +kernel, _, given_eq (by decide +kernel), _, given_eq (by decide +kernel), free_unshared (by decide +kernel), landed_of (by decide +kernel)⟩,
   ⟨holds_reads (by decide +kernel), holds_reads (by decide +kernel), by decide +kernel⟩, by decide +kernel⟩

/-- A matrix descriptor's words 2 and 3: a number and two small ones. -/
def packed (k n m : Nat) : Word := BitVec.ofNat 64 (k * 2 ^ 32 + n * 2 ^ 16 + m)

/-- A context that holds the lease of ridge 0, with descriptors from 0x6000 on: a load, a multiply, a listed load, a listed multiply, a drain,
a listed drain and a walk; a format word and two lists. -/
def leased : State :=
  let s := memo.setRidge 0 { memo.ridge 0 with lease := some ⟨0, 64, 0⟩ }
  let s := setRegs s [(10, 0x6000), (11, 0x6040), (12, 0x6080), (13, 0x60C0), (14, 0x6100), (15, 0x6140), (16, 0x6180), (17, 0x1000), (18, 0x1800), (19, 0x6200)]
  let m := cells [ (0x6000, 0x7000), (0x6008, 16), (0x6010, packed 32 1 0), (0x6018, packed 0 3 0), (0x6028, 0x7100),
      (0x6040, 0x7000), (0x6048, 16), (0x6050, packed 32 1 1), (0x6058, packed 0 3 5), (0x6068, 0x7100),
      (0x6080, 0x7000), (0x6088, 16), (0x6090, packed 32 1 0), (0x6098, packed 0 3 0), (0x60A0, 0x7200), (0x60A8, 0x7100),
      (0x60C0, 0x7000), (0x60C8, 16), (0x60D0, packed 32 1 1), (0x60D8, packed 0 3 5), (0x60E0, 0x7200), (0x60E8, 0x7100),
      (0x6100, 0x7300), (0x6108, 64), (0x6110, packed 0 1 1), (0x6118, packed 0 3 5),
      (0x6140, 0x7400), (0x6150, packed 3 0 0), (0x6158, packed 0 3 5), (0x6160, 0x7500),
      (0x6180, 0x7600), (0x6190, packed 2 0 0), (0x61A0, 0x7800), (0x6200, 0x3F), (0x7200, 2), (0x7500, 0x101) ]
  { s with mem := m }

theorem witness_MatrixControl :
    (leased.clear [] [9] [] [] = true ∧ (leased.ridge leased.myRidge).lease = some ⟨0, 64, 0⟩ ∧ leased.myLease = some ⟨0, 64, 0⟩ ∧ memo.myLease = none) ∧
    (let s := memo.setMe { memo.me with wait := .lease, run := .running }
     let t := s.setTeam 0 { Team.none 0 with state := .resident, members := [0] }
     (t.ridge 0).lease = none ∧ (t.ridge 0).flips = [] ∧ t.leaseWaiters 0 = [0] ∧
      (weigh (t.ridge 0).credit (t.ridge 0).contenders (t.ridge 0).lastGrant (t.leaseContenders 0)).isSome = true) ∧
    (let s := { leased with time := 50000 }; 0 + 50000 ≤ s.time) ∧
    ((leased.clear [19] [] [] [] = true ∧ leased.Reads [19] [0x6200] leased) ∧
      ∃ u, locate .load 0x6200 8 leased = .ok (at8 0x6200, u) ∧ u.unshared (at8 0x6200) ∧ u.landed (at8 0x6200) ∧ u.numberAt (at8 0x6200) = 63) ∧
    ((leased.clear [0] [9] [] [] = true ∧ leased.Reads [0] [0] leased) ∧ 32768 ≤ (leased.myCore.jobNewest.toNat + 65536 - 0) % 65536 ∧
      (leased.myCore.jobNewest.toNat + 65536 - 65535) % 65536 < 32768) :=
  ⟨by decide +kernel, by decide +kernel, by decide,
   ⟨holds_reads (by decide +kernel), _, given_eq (by decide +kernel), free_unshared (by decide +kernel), landed_of (by decide +kernel), by decide +kernel⟩,
   holds_reads (by decide +kernel), by decide +kernel⟩

/-- What a load or multiply finds: its descriptor's count and sizes, then the number of rows and of runs of scales at the locations that
listed rows give. -/
def rowsFound (ea : Word) (rows : List Nat) : Option (List Nat) :=
  match loadDesc ea leased with
  | .ok (d, u) =>
    match rowLocs 7 d rows u with
    | .ok ((ls, ss, _), v) => if free v (ls.flatten ++ ss.flatten) then some [d.kn, d.nm1, d.mm1, d.list.toNat, ls.length, ss.length] else none
    | .error _ => none
  | .error _ => none

/-- What a drain or walk finds: its descriptor's count, stride and sizes, and whether it may write its runs. -/
def runsFound (ea : Word) (runs : List (Word × Nat)) : Option (List Nat) :=
  match loadDesc ea leased with
  | .ok (d, u) =>
    match destParts runs u with
    | .ok (ls, v) => if free v ls.flatten then some [d.kn, d.stride.toNat, d.nm1, d.mm1, d.row0, d.col0] else none
    | .error _ => none
  | .error _ => none

theorem witness_MatrixCommands :
    (leased.clear [10, 0] [9] [] [] = true ∧ leased.Reads [10, 0] [0x6000, 0] leased) ∧
    (leased.clear [15, 18] [9] [] [] = true ∧ leased.Reads [15, 18] [0x6140, 0x1800] leased) ∧
    (leased.clear [15, 17] [9] [] [] = true ∧ leased.Reads [15, 17] [0x6140, 0x1000] leased) ∧
    (leased.myLease.isSome = true ∧ leased.myCore.tb = 7 ∧ leased.me.mres = []) ∧
    rowsFound 0x6000 [0, 1] = some [32, 1, 0, 0, 2, 2] ∧ rowsFound 0x6040 [0, 1] = some [32, 1, 1, 0, 2, 2] ∧
    (given (loadList 0x7200 2 4 leased) = some [2, 0] ∧ rowsFound 0x6080 [2, 0] = some [32, 1, 0, 0x7200, 2, 2]) ∧
    rowsFound 0x60C0 [2, 0] = some [32, 1, 1, 0x7200, 2, 2] ∧
    runsFound 0x6100 [(0x7300, 8), (0x7340, 8)] = some [0, 64, 1, 1, 5, 3] ∧
    (given (loadList 0x7500 3 2 leased) = some [257, 0, 0] ∧ runsFound 0x6140 [(0x7400, 12)] = some [3, 0, 0, 0, 5, 3]) ∧
    (runsFound 0x6180 [(0x7800, 576)] = some [2, 0, 0, 0, 0, 0] ∧
      (given (sourceLocs [(0x7600, 8)] leased)).map (fun p => (p.1.flatten, p.2)) = some (run 0x7600 8, [])) :=
  ⟨holds_reads (by decide +kernel), holds_reads (by decide +kernel), holds_reads (by decide +kernel), by decide +kernel⟩

/-- A state whose array and index engine hold one accepted command. -/
def working (c : Cmd) : State :=
  let s := memo.setRidge 0 { memo.ridge 0 with jobs := [⟨0, 1, 0, true, c, []⟩], walks := [⟨0, 1, 0, true, c, []⟩] }
  s.setCore 0 { s.core 0 with jobNewest := 0, jobs := [⟨0, false, false, false⟩] }

theorem witness_MatrixCompletion : (working (.zero 15)).me.doneHeld = [] ∧ (working (.zero 15)).me.done = [] ∧ (working (.zero 15)).me.source = 1 ∧ jobStatus ((working (.zero 15)).core 0).jobs 0 = ⟨0, false, false, false⟩ ∧
    (let s := working (.multiply [List.range 4] [] 6 6 3 5 7 2 4 0 true false)
     (s.ridge (ridgeOf s.focus)).jobs = [⟨0, 1, 0, true, .multiply [List.range 4] [] 6 6 3 5 7 2 4 0 true false, []⟩] ∧ s.poison = [] ∧ 4 ≤ sliceCapacity 6 ∧
      4 ≤ tileLoc 0 0 0 0) ∧
    (let s := working (.load [List.range 4] [] 6 7 0)
     (s.ridge (ridgeOf s.focus)).jobs = [⟨0, 1, 0, true, .load [List.range 4] [] 6 7 0, []⟩] ∧ (sliceLocs 0 7 6 0 (4 / (laneWidth 6 / 8))).length = 4) := by
  decide +kernel

/-- A load of two rows of 32 q4 elements with their scale bytes, at an offset of its slices; and a walk of three coordinates. -/
theorem witness_MatrixCompletion_shapes :
    (let rows := [run 0x7000 16, run 0x7010 16]
     let scales := [run 0x7100 1, run 0x7101 1]
     let s := working (.load rows scales 7 5 32)
     (s.ridge (ridgeOf s.focus)).jobs = [⟨0, 1, 0, true, .load rows scales 7 5 32, []⟩] ∧ 32 + 32 ≤ sliceCapacity 7 ∧ 32 % 32 = 0 ∧ 5 + rows.length ≤ 256 ∧
      (∀ row, row ∈ rows → row.length = elemRun 7 32) ∧ scales.length = rows.length ∧ (∀ row, row ∈ scales → row.length = 32 / 32) ∧ s.marks = [] ∧
      (∀ l, l ∈ (rows ++ scales).flatten → l < ridgeLoc 0 0)) ∧
    (let coords := [65537, 3, 65537]
     let s := working (.walk coords false (run 0x9000 (64 + 256 * 3)))
     (s.ridge (ridgeOf s.focus)).walks = [⟨0, 1, 0, true, .walk coords false (run 0x9000 (64 + 256 * 3)), []⟩] ∧ coords ≠ [] ∧ (∀ e, e ∈ coords → e < 2 ^ 32) ∧
      coords.length < 65536 ∧ (run 0x9000 (64 + 256 * 3)).length = 64 + 256 * coords.length) := by decide +kernel

theorem run_nodup (a n : Nat) : (run a n).Nodup := by
  unfold run
  exact List.nodup_range.map (fun x y h => by simpa using h)

/-! ### Witnesses: control registers, messages and the percolator -/

/-- A compute context in supervisor mode, and one of a service core. -/
def supervisor : State := memo.setMe { memo.me with status := 1 }
def service : State := { memo with cur := 16384, focus := 1024 }

/-- A staged context in slot 2, to which k.SSEL redirects. -/
def redirected : State := supervisor.setCore 0 { supervisor.core 0 with staged := true, valid := 4, ssel := 0x12 }

theorem witness_ControlRegisterReads : memo.clear [] [1] [] [] = true ∧ supervisor.clear [] [1] [] [] = true ∧ memo.me.status.getLsbD 0 = false ∧
    supervisor.me.status.getLsbD 0 = true ∧ supervisor.myCore.ssel.getLsbD 4 = false ∧ 1024 ≤ coreOf service.cur := by decide +kernel

theorem witness_ControlRegisterWrites :
    (memo.clear [3] [] [] [] = true ∧ memo.Reads [3] [0x123456789] memo) ∧ (supervisor.clear [3] [] [] [] = true ∧ supervisor.Reads [3] [0x123456789] supervisor) ∧
    (service.clear [0] [] [] [] = true ∧ service.Reads [0] [0] service) ∧ (redirected.clear [3] [] [] [] = true ∧ redirected.Reads [3] [0x123456789] redirected) ∧
    (memo.me.logging = false ∧ supervisor.me.status.getLsbD 0 = true ∧ supervisor.myCore.ssel.getLsbD 4 = false ∧ supervisor.myCore.staged = false ∧
      redirected.myCore.ssel.getLsbD 4 = true ∧ redirected.myCore.staged = true ∧ redirected.myCore.valid.getLsbD (field redirected.myCore.ssel 2 0) = true ∧
      redirected.myCore.busy.getLsbD (field redirected.myCore.ssel 2 0) = false ∧ redirected.shadowBank (coreOf redirected.cur) * 8 + 2 = 10 ∧
      (redirected.saved.map Prod.fst).contains (redirected.ctx 10).record = false) :=
  ⟨holds_reads (by decide +kernel), holds_reads (by decide +kernel), holds_reads (by decide +kernel), holds_reads (by decide +kernel), by decide +kernel⟩

/-- A partition table at 0x8000 whose descriptor 1 gives one slice and 1 GiB from 2 GiB on. -/
def tabled : State :=
  { memo with ptab := 0x8000, mem := cells [ (0x8080, 0x80000000), (0x8088, 0x40000000), (0x8090, 0x80001000), (0x8098, 0x9000), (0x80A0, 0x10001) ] }

theorem witness_PackageWrites :
    (tabled.descriptorRefused 1 (tabled.descriptor 1) = false ∧ tabled.descriptorRefused 0 (tabled.descriptor 0) = true) ∧
    ((memo.bank 0).team = none ∧ (memo.bank 1).team = none ∧ memo.myCore.valid = 0 ∧ memo.myCore.busy = 0) ∧ (scratchy.bank 0).team.isSome = true ∧
    (let s := scratchy.setTeam 0 { scratchy.team 0 with handlers := [(255, 0x4000)] }
     s.myBank.team = some 0 ∧ (s.team 0).handlers.get (fun _ => 0) 255 ≠ 0 ∧ s.myBank.exited = false) := by decide +kernel

/-- The table once more with descriptor 1's valid bit clear, under a partition 1 that is loaded; and a number of 8 or more. -/
theorem witness_PackageWrites_ended :
    (let s := (tabled.store 0x80A0 8 1).setPart 1 { tabled.part 1 with valid := true }
     s.descriptorRefused 1 (s.descriptor 1) = false ∧ (s.part 1).valid = true ∧ (s.descriptor 1).valid = false) ∧
    (tabled.descriptor 1).valid = true ∧ 8 ≤ (9 : Word).toNat := by decide +kernel

/-- Two members of a team on cores 0 and 1 of a partition of ridge 0, with a handler 5 and spill room for one packet; a task packet of 32
bytes at 0x5000. -/
def crew : State :=
  let s := memo.setPart 0 { memo.part 0 with ridges := 1, slices := [3] }
  let s := s.setTeam 0 { Team.none 0 with state := .resident, members := [0, 1], started := [0, 1], spill := 0x1000, spillSize := 256 }
  let s := s.setBank 0 { s.bank 0 with team := some 0, handlers := [(5, 0x4100)] }
  let s := s.setBank 2 { s.bank 2 with team := some 0 }
  { setRegs s [(10, 0x5000), (11, 2), (12, 0x0500), (13, 0x01FF000000000101), (14, 3), (15, 0x01FF004000000000)] with mem := cells [(0x5000, 0x0501)] }

theorem witness_MessageSend :
    (crew.clear [11, 12] [] [] [] = true ∧ crew.Reads [11, 12] [2, 0x500] crew) ∧ (crew.clear [6, 12] [] [] [] = true ∧ crew.Reads [6, 12] [0x1122334455667788, 0x500] crew) ∧
    crew.inPart 0 2 = true ∧ crew.myBank.outbox = [] ∧ crew.me.asm = ([] : List Word).map .word ∧ crew.me.task = none ∧ crew.me.choice = 0 ∧ field (0x1122334455667788 : Word) 63 37 ≠ 0 :=
  ⟨holds_reads (by decide +kernel), holds_reads (by decide +kernel), by decide +kernel⟩

/-- The packet's bytes; a deque with no place. -/
def packet32 : List Byte := leBytes 32 0x0501
def fullDeque : State := crew.setBank 0 { crew.bank 0 with deque := List.replicate 64 packet32 }

theorem witness_HandlersAndSpawns :
    (crew.clear [10] [] [] [] = true ∧ crew.Reads [10] [0x5000] crew) ∧ (crew.clear [8] [] [] [] = true ∧ crew.Reads [8] [0x5001] crew) ∧
    (∃ u, loadPacket 0x5000 crew = .ok (packet32, u)) ∧ (∃ u, keepPins (loadWord .load 0x5010) crew = .ok (0, u)) ∧ packetBad 0 = true ∧
    (crew.myBank.team = some 0 ∧ (crew.banksOf 0).Nodup ∧ (crew.banksOf 0).length = 2 ∧ crew.myBank.closed = false ∧ crew.orphaned 0 = false ∧
      crew.myBank.exited = false ∧ crew.myBank.spillCount < crew.myBank.spillCount + (crew.team crew.myTeam).spillSize / 256 ∧
      64 ≤ fullDeque.myBank.deque.length ∧ fullDeque.myBank.deque.getLast? = some packet32 ∧
      fullDeque.openTo none (run (fullDeque.spillLoc 0 (fullDeque.myBank.spillHead + fullDeque.myBank.spillCount)) 256) = true) :=
  ⟨holds_reads (by decide +kernel), holds_reads (by decide +kernel), ⟨_, given_eq (by decide +kernel)⟩, ⟨_, given_eq (by decide +kernel)⟩, by decide,
   by decide +kernel⟩

/-- A join and a codelet in core 0's scratch, and a handle of a core without the team. -/
theorem witness_CodeletsAndJoins :
    (crew.clear [13, 14] [] [] [] = true ∧ crew.Reads [13, 14] [0x01FF000000000101, 3] crew) ∧ (crew.clear [7, 14] [] [] [] = true ∧ crew.Reads [7, 14] [0x01FF000000000010, 3] crew) ∧
    (crew.clear [13] [9] [] [] = true ∧ crew.Reads [13] [0x01FF000000000101] crew) ∧
    (crew.recordOf 0 0x01FF000000000101 = some (0, ⟨bankLoc 0 0, 0x130000, 0, 0⟩, bankLoc 0 0x100) ∧
      crew.recordOf 0 0x01FF000000000100 = some (0, ⟨bankLoc 0 0, 0x130000, 0, 0⟩, bankLoc 0 0x100) ∧ crew.recordOf 0 0x01FF000000000010 = none ∧
      crew.quiet = true ∧ crew.claims = [] ∧ crew.inFlight (run (bankLoc 0 0x100) 16) = false ∧ crew.me.task = none ∧ crew.me.choice = 0 ∧ crew.poison = [] ∧ (crew.bank 0).open = true ∧ (crew.bank 0).readyHeld = []) :=
  ⟨holds_reads (by decide +kernel), holds_reads (by decide +kernel), holds_reads (by decide +kernel), by decide +kernel⟩

/-- A message waits in the inbox, with and without a context that stalls on g56; a noted table entry; a packet in the deque. -/
def inboxed : State := crew.setBank 0 { crew.bank 0 with inbox := [[5, 1, 2, 3, 4, 5, 6, 7]], hsets := [(9, 0x4200)] }

theorem witness_HandlerStart :
    let order := (List.range 8).map (fun i => ((inboxed.bank 0).lastSrc + 1 + i) % 8)
    (inboxed.bank 0).hsets = [(9, 0x4200)] ∧ inboxed.percolates 0 = true ∧
    ((order.findSome? (inboxed.nextEvent 0)).map (fun p => (p.1.src, p.1.hid, p.1.code, p.2.handlers.get (fun _ => 0) 5)) = some (0, 5, none, 0x4100)) ∧
    inboxed.messageWaiter 0 = none ∧ inboxed.freeHandler 0 = some 1 ∧ inboxed.orphanPop 0 0 = false ∧ 1 / 8 = inboxed.activeBank inboxed.focus ∧
    (let s := inboxed.setMe { inboxed.me with wait := .message, msg := [] }; s.messageWaiter 0 = some 0) ∧
    (let s := fullDeque; (s.nextEvent 0 2).map (fun p => (p.1.src, p.1.slot, p.1.packet)) = some (2, true, packet32)) := by decide +kernel

/-- The first event in the percolator's order, and whether a handler may start it. -/
def firstEvent (s : State) : Option Start := (((List.range 8).map (fun i => ((s.bank 0).lastSrc + 1 + i) % 8)).findSome? (s.nextEvent 0)).map Prod.fst

/-- A wake-up of context 0, waiting or not; every handler held, behind an event that needs one; a packet whose slot an engine claims; an event
that only entry 0 takes. -/
def waking (run : Run) : State :=
  (crew.setBank 0 { crew.bank 0 with s7 := [⟨none, 0, []⟩] }).setMe { crew.me with run }
def held8 (s : State) : State := (List.range 7).foldl (fun s n => s.setCtx (n + 1) { s.ctx (n + 1) with run := .running }) s

theorem witness_HandlerStart_more :
    ((firstEvent (waking .waiting)).map Start.wakes = some true ∧ ((waking .waiting).ctx 0).run = .waiting ∧ ((waking .running).ctx 0).run ≠ .waiting) ∧
    (let s := held8 ((waking .waiting).setBank 0 { (waking .waiting).bank 0 with inbox := [[5, 1, 2, 3, 4, 5, 6, 7]] })
     (firstEvent s).map (fun e => (e.src, e.wakes)) = some (0, false) ∧ s.freeHandler 0 = none ∧ s.messageWaiter 0 = none ∧ s.percolates 0 = true ∧
      (s.nextEvent 0 7).map (fun p => p.1.wakes) = some true) ∧
    (let s := held8 (fullDeque.setBank 0 { fullDeque.bank 0 with inbox := [[5, 1, 2, 3, 4, 5, 6, 7]], lastSrc := 0 })
     let s := s.setMe { s.me with wait := .message, msg := [] }
     (firstEvent s).map Start.src = some 2 ∧ s.freeHandler 0 = none ∧ s.messageWaiter 0 = some 0) ∧
    (let s := fullDeque.setRidge 0 { fullDeque.ridge 0 with copies := [⟨0, 1, 4, [], [], [], false, false, [lineOf (bankLoc 0 (fullDeque.slotOffset 0 1))]⟩] }
     (firstEvent s).map (fun e => s.startFree 1 e) = some false) ∧
    (firstEvent fullDeque).map (fun e => fullDeque.startFree 1 e) = some true ∧
    (let s := inboxed.setBank 0 { inboxed.bank 0 with handlers := [(0, 0x4300)] }
     (firstEvent s).map (fun e => (e.code, (s.bank 0).handlers.get (fun _ => 0) e.hid, (s.bank 0).handlers.get (fun _ => 0) 0)) = some (none, 0, 0x4300)) ∧
    (let s := inboxed.setBank 0 { inboxed.bank 0 with handlers := [] }
     (firstEvent s).map (fun e => ((s.bank 0).handlers.get (fun _ => 0) e.hid, (s.bank 0).handlers.get (fun _ => 0) 0)) = some (0, 0)) := by decide +kernel

theorem witness_ArrivalAndStealing :
    (let m : Message := ⟨.core 1, 1, 0, 0, [5], none, none, 0⟩
     let s := crew.setBank 0 { crew.bank 0 with outbox := [m], readyHeld := [0x100] }
     (s.bank 0).outbox = [m] ∧ s.teamAt 1 0 = some ⟨bankLoc 2 0, 0x130000, 2, 0⟩ ∧ (s.bank 2).inbox = [] ∧ (s.bank 2).open = true ∧ (s.bank 0).readyHeld = [0x100]) ∧
    (let s := crew.setCore 0 { crew.core 0 with timers := [(2, some ⟨0, 0, some 7⟩)] }
     (s.core s.focus).timers.get (fun _ => none) 2 = some ⟨0, 0, some 7⟩ ∧ s.teamAt 0 0 = some ⟨bankLoc 0 0, 0x130000, 0, 0⟩ ∧ (s.bank 0).open = true) ∧
    (let s := (crew.setCore 0 { crew.core 0 with timers := [(2, some ⟨0, 0, none⟩)] }).setMe { crew.me with run := .waiting }
     (s.core s.focus).timers.get (fun _ => none) 2 = some ⟨0, 0, none⟩ ∧ (s.ctx 0).run = .waiting ∧ s.halted 0 = false) ∧
    (let s := crew.setMe { crew.me with pend := [⟨.g 1, 5, 0, 2, 0, none⟩], pins := [⟨0, 4096, 0, 0xBF, 0, 0⟩] }
     s.me.pend[0]? = some ⟨.g 1, 5, 0, 2, 0, none⟩ ∧ s.me.pins = [⟨0, 4096, 0, 0xBF, 0, 0⟩]) ∧
    (let p : Pending := ⟨.g 61, 5, 0, 2, 0, some (.link (.bank 4) 0)⟩; (crew.setMe { crew.me with pend := [p] }).me.pend[0]? = some p ∧ p.place = some (.link (.bank 4) 0) ∧ 60 ≤ (61 : GReg).val) ∧
    (let p : Pending := ⟨.g 56, 5, 0, 2, 0, some (.buffer 0)⟩; (crew.setMe { crew.me with pend := [p] }).me.pend[0]? = some p ∧ p.place = some (.buffer 0)) ∧
    (let s := uncached.setMe { uncached.me with miss := some 0x4000 }
     s.me.miss = some 0x4000 ∧ s.me.run = .running ∧ s.walkFree 0 0x4000 = true ∧ s.walk 0 .fetch 0x4000 = .ok ⟨0, 2 ^ 30, 2, 0xBF⟩ ∧
      (s.setRidge 0 { s.ridge 0 with copies := [⟨0, 1, 4, [], [], [], false, false, [lineOf 0x1000]⟩] }).walkFree 0 0x4000 = false) ∧
    (let s := crew.setMe { crew.me with run := .dormant }
     (s.bank 0).team = some 0 ∧ s.idle 0 = true ∧ (s.core 0).steal = none ∧ s.held (s.team 0).rcb = false ∧ s.percolates 0 = true ∧ s.victims 0 0 = [1] ∧
      (s.core 0).stealDue ≤ s.cyc ∧ (s.setTeam 0 { s.team 0 with members := [0] }).victims 0 0 = []) ∧
    (let s := (fullDeque.setCore 1 { crew.core 1 with steal := some (.sent 0 0) })
     s.cores.findSome? (fun e => match e.2.steal with | some (.sent u t) => if u = s.focus then some (e.1, t) else none | _ => none) = some (1, 0) ∧
      (s.bank 0).team = some 0 ∧ (s.bank 0).spillCount = 0 ∧ (s.bank 0).exited = false ∧ (s.team 0).state = .resident ∧ (s.bank 0).deque.getLast? = some packet32) ∧
    (let s := { (crew.setCore 1 { crew.core 1 with steal := some (.sent 0 0) }).setCtx 1 { crew.ctx 1 with choice := 0x132000, run := .running } with
         mem := cells [(0x5000, 0x4100), (0x5008, 0x4200), (bankLoc 0 0x132000, 0x5003), (bankLoc 0 0x132008, 0x200000001), (bankLoc 0 0x132028, 1)] }
     (s.bank 0).deque = [] ∧ ((List.range 8).map (ctxIn 0)).findSome? (fun c => (s.stealable c).map (fun r => (c, r))) = some (1, 0x132000) ∧
      ((s.takeAlternative 1 0x132000).bind Prod.snd).isSome = true) ∧
    (((List.range 8).map (ctxIn 0)).findSome? (fun c => (crew.stealable c).map (fun r => (c, r))) = none) ∧
    (let s := crew.setCore 0 { crew.core 0 with steal := some (.answered 0 (some (.packet packet32))) }
     (s.core s.focus).steal = some (.answered 0 (some (.packet packet32))) ∧ s.teamAt s.focus 0 = some ⟨bankLoc 0 0, 0x130000, 0, 0⟩ ∧ (s.bank 0).open = true) ∧
    (let s := crew.setCore 0 { crew.core 0 with steal := some (.answered 7 none) }
     (s.core s.focus).steal = some (.answered 7 none) ∧ (s.bank (s.activeBank s.focus)).team ≠ some 7) := by decide +kernel

/-! ### Witnesses: synchronisation, services, choice points, ordered tasks, ropes and handles -/

/-- A packet of context 0 of core 0 to a core of its package. -/
def sent (dest : Dest) (body : PacketBody) : Packet :=
  { id := 0, src := some 0, owner := 1, srcPackage := 0, srcPlace := 0, srcCtx := 0, part := 0, team := 0, dest, sid := 5, cls := 0, seq := 0,
    epoch := 0, region := false, counter := 0, body, state := .sent, result := 0 }

/-- A member with one store on its way to core 1; member 0 has arrived at barrier 3. -/
def outstanding : State := { crew with packets := [sent (.core 1) (.store 0x01FF004000000000 (leBytes 8 7))] }
def arriving : State := crew.setTeam 0 { crew.team 0 with barriers := [(3, ⟨7, [0], 0⟩)] }

theorem witness_Synchronization :
    ((crew.packets = [] ∧ crew.myCore.acks = []) ∧ outstanding.packets.map (fun p => (outstanding.isMine p && outstanding.packetIn 2 p, p.sid)) = [(true, 5)] ∧
      (let s := { crew with packets := [sent (.core 1) (.atomAdd 0x01FF004000000000 7)] }; s.packets.all (fun p => isAtomicBody p.body) = true)) ∧
    ((crew.clear [10, 14] [] [] [] = true ∧ crew.Reads [10, 14] [0x5000, 3] crew) ∧
      ∃ u, locate .load 0x5000 8 crew = .ok (at8 0x5000, u) ∧ u.unshared (at8 0x5000) ∧ u.landed (at8 0x5000) ∧ u.me.faulted = none ∧ 3 ≤ u.numberAt (at8 0x5000) ∧
        given (observe (at8 0x5000) u) = some ()) ∧
    (coreOf arriving.cur ∈ ((arriving.team arriving.myTeam).barriers.get Barrier.idle 3).here ∧ coreOf crew.cur ∉ ((crew.team crew.myTeam).barriers.get Barrier.idle 15).here ∧
      arriving.me.waitsAt 3 = none) ∧
    (let s := arriving.setMe { arriving.me with barrier := [⟨3, 6, arriving.me.pc, 0⟩] }; s.me.waitsAt 3 = some 6) ∧
    (let s := crew.setTeam 0 { crew.team 0 with barriers := [(3, ⟨7, [0], 1⟩)], departed := [1] }
     let b := (s.team 0).barriers.get Barrier.idle 3
     b.here ≠ [] ∧ b.departed ≠ 0 ∧ ∀ m, m ∈ (s.team 0).members → m ∈ b.here ∨ m ∈ (s.team 0).departed) :=
  ⟨by decide +kernel, ⟨holds_reads (by decide +kernel), _, given_eq (by decide +kernel), free_unshared (by decide +kernel), landed_of (by decide +kernel), by decide +kernel⟩,
   by decide +kernel, by decide +kernel, by decide +kernel⟩

/-- A handler context of core 0 whose event names the join at scratch offset 0x100. -/
def handler : State :=
  let s := { crew with cur := 1 }
  { s.setMe { s.me with run := .running, event := some ⟨2, [0x01FF000000000101], none⟩ } with mem := cells [(bankLoc 0 0x100, 2)] }

/-- A handler that runs an ordered task. -/
def tasked0 : State := handler.setMe { handler.me with task := some ⟨⟨1, 0, 5 * 2 ^ 32, 0, packet32, false, 5, none⟩, true, false, false, false⟩ }

/-- A wake-up served before context 0 waits; a record that an engine has not claimed; two user traps' barrier waits. -/
theorem witness_ContextsAndServices_more :
    (crew.setBank 0 { crew.bank 0 with wake := true }).myBank.wake = true ∧ crew.myBank.wake = false ∧
    (handler.quiet = true ∧ handler.claims = [] ∧ handler.load (bankLoc 0 0x100) 4 = 1 + 1) ∧ (tasked0).me.task.isSome = true ∧
    (base.setMe { base.me with handling := true, barrier := [⟨3, 6, 0x4000, 0⟩] }).me.handling = true := by decide +kernel

/-- Three timers armed, one of them by scall's caller. -/
def timed : State := { setRegs crew [(1, 2), (2, 255)] with cores := [(0, { crew.core 0 with timers := [(2, some ⟨0, 0, none⟩)] })] }

theorem witness_ContextsAndServices :
    (ctxNum crew.cur = 0 ∧ ctxNum handler.cur ≠ 0 ∧ handler.me.task = none ∧ handler.myBank.team = some 0 ∧ 1 ∈ (handler.team 0).members ∧ 1 ∉ (handler.team 0).departed ∧
      handler.me.event = some ⟨2, [0x01FF000000000101], none⟩ ∧ (0x01FF000000000101 : Word).getLsbD 0 = true ∧
      handler.recordOf 0 0x01FF000000000101 = some (0, ⟨bankLoc 0 0, 0x130000, 0, 0⟩, bankLoc 0 0x100) ∧ handler.load (bankLoc 0 0x100) 4 = 2) ∧
    (timed.clear [1, 2] [1] [] [] = true ∧ coreOf timed.cur ∉ (timed.team 0).departed ∧ (1 : Nat) ≠ coreOf timed.cur ∧ (timed.me.rd 2).toNat < 256 ∧
      (timed.me.rd 1).toNat < 8 ∧ (timed.myCore.timers.get (fun _ => none) 2).isSome = true ∧
      (List.range 8).find? (fun i => (timed.myCore.timers.get (fun _ => none) i).isNone) = some 0 ∧
      timed.myCore.timers.get (fun _ => none) 7 = none) ∧
    (let s := timed.setCore 0 { timed.core 0 with timers := (List.range 8).map (fun i => (i, some ⟨0, 0, none⟩)) }
     (List.range 8).find? (fun i => (s.myCore.timers.get (fun _ => none) i).isNone) = none) ∧ (crew.me.rd 12).toNat = 0x500 := by decide +kernel

/-- Both members have arrived at a carve of the same value. -/
def carving (w : Word) : State :=
  let s := crew.setTeam 0 { crew.team 0 with carves := [(0, w), (1, w)], spillSize := 0 }
  s.setMe { s.me with carve := .waiting, run := .running }

/-- A sprint lease that another context took, with the refreeze over. -/
def sprinting : State :=
  let s := { crew with melt := 1000 * 2 ^ 32, refreeze := false, pwr := 600000 }
  s.setRidge 0 { s.ridge 0 with leaseLeft := 100, taker := some 8 }

theorem witness_CarvingAndSprint :
    ((crew.clear [14] [] [] [] = true ∧ crew.Reads [14] [3] crew) ∧ crew.me.carve = .none ∧ ctxNum crew.cur = 0 ∧ ctxNum handler.cur ≠ 0) ∧
    (let s := carving 0x103
     s.me.carve = .waiting ∧ (∀ m, m ∈ (s.team 0).members → m ∈ (s.team 0).carves.map Prod.fst) ∧ (∀ e, e ∈ (s.team 0).carves → e.2 = 0x103) ∧ s.myBanks = [0, 2] ∧
      bankOf s.cur ∈ s.myBanks ∧ field (0x103 : Word) 63 10 = 0 ∧ field (0x103 : Word) 7 4 = 0 ∧ s.unfinished s.myTeam = [] ∧
      s.refusesCarve (s.team 0) (scratchBytes 1 3 false) 0 = false ∧ s.refusesCarve (s.team 0) (scratchBytes 1 3 false) 2 = false) ∧
    field (0x10 : Word) 7 4 ≠ 0 ∧
    (let s := (carving 0x103).setTeam 0 { (carving 0x103).team 0 with carves := [(0, 0x103)] }
     s.me.carve = .waiting ∧ ∃ m, m ∈ (s.team 0).members ∧ m ∉ (s.team 0).carves.map Prod.fst ∧ m ∉ (s.team 0).departed) ∧
    ((sprinting.clear [14] [9] [] [] = true ∧ sprinting.Reads [14] [3] sprinting) ∧ (sprinting.clear [0] [9] [] [] = true ∧ sprinting.Reads [0] [0] sprinting) ∧
      sprinting.held sprinting.me.rcba.toNat = false) :=
  ⟨⟨holds_reads (by decide +kernel), by decide +kernel⟩, by decide +kernel, by decide, ⟨by decide +kernel, 1, by decide +kernel⟩, holds_reads (by decide +kernel), holds_reads (by decide +kernel),
   by decide +kernel⟩

/-- Members whose values differ; a member that refuses; and a carve already refused to this one. -/
theorem witness_CarvingAndSprint_refused :
    (let s := (carving 0x103).setTeam 0 { (carving 0x103).team 0 with carves := [(0, 0x103), (1, 0x102)] }
     (∀ m, m ∈ (s.team 0).members → m ∈ (s.team 0).carves.map Prod.fst) ∧ (∃ e f, e ∈ (s.team 0).carves ∧ f ∈ (s.team 0).carves ∧ e.2 ≠ f.2)) ∧
    (let s := (carving 0x103).setCtx 1 { (carving 0x103).ctx 1 with run := .running }
     s.myBanks.Nodup ∧ s.refusesCarve (s.team 0) (scratchBytes 1 3 false) 0 = true) ∧
    (carving 0x103).myBanks.Nodup ∧ (crew.setMe { crew.me with carve := .refused }).me.carve = .refused ∧
    (crew.setMe { crew.me with carve := .done }).me.carve = .done := by
  refine ⟨⟨by decide +kernel, (0, 0x103), (1, 0x102), by decide +kernel⟩, by decide +kernel⟩

/-- A package in a refreeze. -/
def melting0 : State := { crew with refreeze := true }

/-- A ridge whose lease this context took, by its identity, and one that has run out with an extender. -/
theorem witness_CarvingAndSprint_leases :
    ((sprinting.setRidge 0 { sprinting.ridge 0 with taker := some sprinting.me.source }).ridge (ridgeOf (coreOf sprinting.cur))).taker = some sprinting.me.source ∧
    (sprinting.ridge (ridgeOf (coreOf sprinting.cur))).taker ≠ some sprinting.me.source ∧
    (let s := sprinting.setRidge 0 { sprinting.ridge 0 with leaseLeft := 0, extender := some 3 }; (s.ridge 0).leaseLeft = 0 ∧ (s.ridge 0).extender = some 3) ∧
    (let s := { sprinting.setMe { sprinting.me with rcba := 0x40000 } with mem := cells [(0x40020, 100)] }
     min (3 : Word).toNat (min (2 ^ 31 - (s.ridge 0).leaseLeft) (175000 * s.room 4 s.me.rcba.toNat)) = 3 ∧ s.refreeze = false ∧ s.held s.me.rcba.toNat = false) ∧
    melting0.refreeze = true := by decide +kernel

/-- A context with one open choice point of two alternatives at offset 0x130000, whose table stands at 0x5000, and one logged register. -/
def chosen (logged : List (Nat × Word)) (top : Word) : State :=
  let s := setRegs base [(1, 0x5000), (2, 2), (3, 0x130000), (4, 0x130200)]
  { s.setMe { s.me with trailTop := top, choice := 0x130000, npc := 0x4002 } with mem := cells ([(0x5000, 0x4100), (0x5008, 0x4200),
      (bankLoc 0 0x130000, 0x5003), (bankLoc 0 0x130008, 0x200000002), (bankLoc 0 0x130010, 0x130040), (bankLoc 0 0x130018, 0x130000),
      (bankLoc 0 0x130040, 0x77)] ++ logged) }

theorem witness_Backtracking :
    (∃ t, (setRegs base [(1, 0x5000), (2, 2)]).clear ([1, 2] ++ snapshotRegs) [] [] [] = true ∧ (setRegs base [(1, 0x5000), (2, 2)]).Reads [1, 2] [0x5000, 2] t) ∧
    (base.me.trailTop.toNat + 512 ≤ base.me.trailLim.toNat ∧ base.me.speculates = false) ∧
    (let s := chosen [] 0x130200
     s.me.pend = [] ∧ s.settled s.me = true ∧ s.myCore.acks = [] ∧ s.liveChoice s.me.choice.toNat = some 0x130000 ∧ s.myItems.filter (fun i => decide (0x130000 + 512 ≤ i.1)) = [] ∧
      s.word (bankLoc 0 0x130000) &&& ~~~7 = 0x5000 ∧ s.load (bankLoc 0 0x13000C) 4 - s.load (bankLoc 0 0x130008) 4 = 0 ∧ s.markValid 0x130000 = true ∧ s.markValid 0x130200 = true) ∧
    (∃ u, locate .load 0x5000 8 ((chosen [] 0x130200).setMe { (chosen [] 0x130200).me with choice := 0x130000 }) = .ok (at8 0x5000, u) ∧ u.unshared (at8 0x5000) ∧ u.landed (at8 0x5000)) ∧
    (let s := chosen [(bankLoc 0 0x130200, 0x41), (bankLoc 0 0x130208, 0x4444)] 0x130210
     s.myItems.filter (fun i => decide (0x130000 + 512 ≤ i.1)) = [(0x130200, 0x41)] ∧ (0x41 : Word).toNat % 8 = 1 ∧ (0x41 : Word).toNat / 8 % 1024 = 8) ∧
    (let s := chosen [(bankLoc 0 0x130200, 0x6002), (bankLoc 0 0x130208, 0x4444)] 0x130210
     s.myItems.filter (fun i => decide (0x130000 + 512 ≤ i.1)) = [(0x130200, 0x6002)] ∧ (0x6002 : Word).toNat % 8 = 2 ∧ (0x6002 : Word) &&& ~~~7 = 0x6000) ∧
    (∃ u, locate .store 0x6000 8 (chosen [(bankLoc 0 0x130200, 0x6002), (bankLoc 0 0x130208, 0x4444)] 0x130210) = .ok (at8 0x6000, u) ∧ u.unshared (at8 0x6000)) ∧
    (at8 0x6000).Nodup ∧ (∀ l, l ∈ at8 0x6000 → l < hbmTop) ∧
    (let s := chosen [(bankLoc 0 0x130200, 0x106)] 0x130210; s.myItems.filter (fun i => decide (0x130000 + 512 ≤ i.1)) = [(0x130200, 0x106)]) ∧
    ((chosen [] 0x130200).clear [3] [] [] [] = true ∧ (chosen [] 0x130200).Reads [3] [0x130000] (chosen [] 0x130200)) ∧
    (base.me.pend = [] ∧ base.liveChoice base.me.choice.toNat = none ∧ base.markValid 5 = false) :=
  ⟨⟨_, by decide +kernel, by decide +kernel, by decide +kernel, rfl⟩, by decide +kernel, by decide +kernel,
   ⟨_, given_eq (by decide +kernel), free_unshared (by decide +kernel), landed_of (by decide +kernel)⟩, by decide +kernel, by decide +kernel,
   ⟨_, given_eq (by decide +kernel), free_unshared (by decide +kernel)⟩, by decide, by decide, by decide +kernel, holds_reads (by decide +kernel), by decide +kernel⟩

/-- Two register entries of one register with another below them; an open region's record above the choice point; and a memory entry with a
register entry above it. -/
theorem witness_Backtracking_more :
    (let items := [(bankLoc 0 0x130200, (0x41 : Word)), (bankLoc 0 0x130208, 0x4444), (bankLoc 0 0x130210, 0xC9), (bankLoc 0 0x130218, 7), (bankLoc 0 0x130220, 0x41), (bankLoc 0 0x130228, 0x5555)]
     let s := chosen items 0x130230
     let above := s.myItems.filter (fun i => decide (0x130000 + 512 ≤ i.1))
     above = [(0x130200, 0x41), (0x130210, 0xC9), (0x130220, 0x41)] ∧
      (∀ i, i ∈ above → i.2.toNat % 8 ≠ 2 ∧ i.2.toNat % 8 ≠ 6 ∧ isOpenRegion i.2 = false) ∧
      above.find? (fun j => decide (j.2.toNat % 8 = 1 ∧ j.2.toNat / 8 % 1024 = 8)) = some (0x130200, 0x41) ∧
      (0xC9 : Word).toNat / 8 % 1024 = 25) ∧
    (let s := chosen [(bankLoc 0 0x130200, 5)] 0x130400
     (s.myItems.filter (fun i => decide (0x130000 + 512 ≤ i.1))).filter (fun i => isOpenRegion i.2) = [(0x130200, 5)] ∧
      (s.myItems.filter (fun i => decide (0x130000 + 512 ≤ i.1))).all (fun i => decide (i.2.toNat % 8 ≠ 6)) = true) ∧
    (let s := chosen [(bankLoc 0 0x130200, 0x6002), (bankLoc 0 0x130208, 0x4444), (bankLoc 0 0x130210, 0x41), (bankLoc 0 0x130218, 7)] 0x130220
     s.myItems.filter (fun i => decide (0x130000 + 512 ≤ i.1)) = [(0x130200, 0x6002), (0x130210, 0x41)] ∧ (0x6002 : Word).toNat % 8 = 2) := by decide +kernel

/-- A task at time 5, and a context that runs it: speculative or the earliest, its body ended or not, aborted or not. -/
def task5 : Task := ⟨1, 0, 5 * 2 ^ 32, 0, packet32, false, 5, none⟩
def tasked (ended aborted speculative : Bool) : State :=
  let s := { crew with cur := 1, taskNext := 2 }
  s.setMe { s.me with run := if ended then .waiting else .running, task := some ⟨task5, speculative, ended, aborted, false⟩ }

/-- Its abort undoes one logged store. -/
def undoing : State :=
  let s := tasked false true true
  { s.setMe { s.me with trailTop := s.me.trailBase + 16 } with mem := cells [(0x1000, 0x2001), (0x2000, 0xBF), (0x5000, 0x99), (s.myLoc s.me.trailBase.toNat, 0x5002), (s.myLoc s.me.trailBase.toNat + 8, 0x77)] }

theorem witness_OrderedTasks :
    (let s := setRegs crew [(16, 5), (17, 1)]; s.clear [10, 16, 17] [] [] [] = true ∧ s.me.task = none ∧ (s.team s.myTeam).newest ≤ 5 * 2 ^ 32 + 1 ∧ s.myBank.s3.length < 64 ∧
      given (loadPacket 0x5000 s) = some packet32) ∧ (setRegs crew [(16, 5), (17, 1)]).Reads [10, 16, 17] [0x5000, 5, 1] (setRegs crew [(16, 5), (17, 1)]) ∧
    crew.clear [] [16, 17] [] [] = true ∧
    ((tasked false false true).me.task = some ⟨task5, true, false, false, false⟩ ∧ (tasked true false false).me.run = .waiting ∧ (tasked true false false).earliest task5 = true ∧
      packetSuccessors task5.packet = []) ∧
    (let s := (tasked true false false).setTeam 0 { (crew.team 0) with oaborted := [{ task5 with id := 0, h := 0 }] }; s.earliest task5 = false) ∧
    (tasked false true true).restores ((tasked false true true).myLoc 0) (tasked false true true).me (tasked false true true).me.trailBase.toNat = [] ∧
    (let s := undoing
     s.restores (s.myLoc 0) s.me s.me.trailBase.toNat = [(0x5000, 0x77)] ∧ s.landedTask task5 = true ∧ s.entriesFree (s.myLoc 0) s.me s.me.trailBase.toNat = true ∧ lineOf 0x5000 ∉ s.claims ∧
      s.laterWriters task5 (s.undoneLines (s.myLoc 0) s.me) = [] ∧ s.myBank.team = some 0 ∧ bankOf s.cur = s.activeBank (coreOf s.cur) ∧ s.myBank.exited = false ∧
      0 ∈ (s.team s.myTeam).members ∧ 0 ∉ (s.team s.myTeam).departed) ∧
    ({ undoing with packets := [{ sent (.core 0) (.store 0x01FF000000000000 [1]) with task := some 1 }] } : State).landedTask task5 = false ∧
    (let s := crew.setTeam 0 { (crew.team 0) with oaborted := [task5] }; s.me.task = none ∧ (s.team s.myTeam).oaborted = [task5] ∧ s.earliest task5 = true) :=
  ⟨by decide +kernel, ⟨by decide +kernel, by decide +kernel, by decide +kernel, rfl⟩, by decide +kernel, by decide +kernel, by decide +kernel, by decide +kernel,
   by decide +kernel, by decide +kernel, by decide +kernel⟩

/-- A rope that core 0's context 0 leads and core 1's context 0 follows; a live handle 2 of the team and a tensor descriptor at 0x5000. -/
def roped : State :=
  let s := { setRegs crew [(16, 3), (17, 1), (18, 2), (19, 7)] with mem := cells [(0x5000, 0x8000), (0x5008, 0x80)] }
  let s := s.setDie 0 { s.die 0 with ropes := [⟨1, 0, 7, [], [(0, 0), (16, 1)], [], 0⟩], ropeNext := 2 }
  let s := s.setCtx 0 { s.ctx 0 with rope := some ⟨0, 1, 0, true, true, false⟩ }
  let s := s.setCtx 16 { s.ctx 16 with rope := some ⟨0, 1, 1, false, true, true⟩, pc := 0x4000, npc := 0x4002, run := .running }
  s.setPart 0 { s.part 0 with handles := [(0, some ⟨0, 128, 1, 5⟩), (2, some ⟨0x8000, 128, 1, 0⟩)] }

theorem witness_RopesAndHandles :
    (crew.clear [14] [9] [] [] = true ∧ crew.Reads [14] [3] crew) ∧ (3 : Word).toNat.testBit (coreOf crew.cur % 8) = true ∧ crew.me.rope = none ∧
    (let s := { roped with cur := 32 }
     s.clear [0, 0] [] [] [] = true ∧ (s.die 0).ropes.find? (fun r => r.id == 1) = some ⟨1, 0, 7, [], [(0, 0), (16, 1)], [], 0⟩ ∧ ropeBit 0 (coreOf s.cur) = some 2 ∧
      (7 : Nat).testBit 2 = true ∧ s.me.rope = none ∧ ∀ m, m ∈ [((0 : Nat), (0 : Nat)), (16, 1)] → m.2 ≠ 2 ∧ coreOf m.1 ≠ coreOf s.cur) ∧
    (roped.me.rope = some ⟨0, 1, 0, true, true, false⟩ ∧ (roped.ctx 16).rope = some ⟨0, 1, 1, false, true, true⟩ ∧ (roped.ctx 16).pc = roped.me.pc ∧ (roped.ctx 16).run = .running ∧
      roped.ropeOf ⟨0, 1, 0, true, true, false⟩ = some ⟨1, 0, 7, [], [(0, 0), (16, 1)], [], 0⟩ ∧ roped.ropeOf ⟨0, 9, 1, true, true, false⟩ = none) ∧
    ((roped.clear [16] [9] [] [] = true ∧ roped.Reads [16] [3] roped) ∧ (3 : Word).toNat.testBit (coreOf roped.cur % 8) = true ∧ (1 : Nat) ≠ (roped.die 0).ropeNext) ∧
    (let s := roped.setMe { roped.me with rope := some ⟨0, 1, 1, false, true, false⟩ }; s.me.rope = some ⟨0, 1, 1, false, true, false⟩ ∧ (s.ropeOf ⟨0, 1, 1, false, true, false⟩).isSome = true) ∧
    ((roped.clear [10, 16] [9] [] [] = true ∧ roped.Reads [10, 16] [0x5000, 3] roped) ∧ given (loadBytes .load 0x5000 16 roped) = some (leBytes 8 0x8000 ++ leBytes 8 0x80) ∧
      (roped.part 0).handles.get (fun _ => none) 0 ≠ none ∧ (roped.part 0).handles.get (fun _ => none) 1 = none) ∧
    ((roped.clear [18, 19] [] [] [] = true ∧ roped.Reads [18, 19] [2, 7] roped) ∧ (roped.part 0).handles.get (fun _ => none) 2 = some ⟨0x8000, 128, 1, 0⟩ ∧
      (0 : Nat) = roped.myTeam ∧ roped.tensorBusy ⟨0x8000, 128, 1, 0⟩ = false) ∧
    (roped.clear [19] [9] [] [] = true ∧ roped.Reads [19] [7] roped) ∧
    (let s := roped.setPart 0 { roped.part 0 with handles := (List.range 256).map (fun i => (i, some ⟨0, 128, 1, 0⟩)) }
     (List.range 256).all (fun k => ((s.part 0).handles.get (fun _ => none) k).isSome) = true) :=
  ⟨holds_reads (by decide +kernel), by decide, by decide +kernel, by decide +kernel, by decide +kernel, ⟨holds_reads (by decide +kernel), by decide +kernel⟩, by decide +kernel,
   ⟨holds_reads (by decide +kernel), by decide +kernel⟩,
   ⟨holds_reads (by decide +kernel), by decide +kernel⟩, holds_reads (by decide +kernel), by decide +kernel⟩

/-! ### Witnesses: streams, remote atomics, regions and requests -/

/-- Members of a package whose pod map names package 1; the page at 0x40000000 is remote and belongs to it. A packet's words are at 0x5000 and
0x6000. -/
def remoting : State :=
  let pte : Word := 0x0000080000000809
  let s := setRegs crew [(20, 0x40000100), (21, 0x10000), (22, 0x6000), (23, 1), (24, 0x20000), (25, 0x50000000), (26, 0x20), (27, 600)]
  { s.setCore 0 { s.core 0 with tlb := ⟨0, 0, 0x40000000, 2 ^ 30, 2, pte⟩ :: (s.core 0).tlb } with
    podMap := [(0, []), (1, [])], mem := cells [(0x5000, 0x0501), (0x6000, 0x5000), (0x6008, 24)] }

/-- A leaf of that page. -/
def remoteLeaf : Leaf := ⟨0x40000000, 2 ^ 30, 2, 0x0000080000000809⟩

theorem witness_StreamStores :
    (remoting.clear [15, 6] [] [] [] = true ∧ remoting.Reads [15, 6] [0x01FF004000000000, 0x1122334455667788] remoting) ∧
    (remoting.clear [20, 6] [] [] [] = true ∧ remoting.Reads [20, 6] [0x40000100, 0x1122334455667788] remoting) ∧
    (remoting.clear [15] [] [3] [] = true) ∧
    (remoting.clear [20, 22] [] [] [] = true ∧ remoting.Reads [20, 22] [0x40000100, 0x6000] remoting) ∧
    (∃ u, spans 0x40000100 8 remoting = .ok ([⟨.package 1, 0x100, 0, 8⟩], u)) ∧
    (∃ u, spans 0x40000100 512 remoting = .ok ([⟨.package 1, 0x100, 0, 512⟩], u)) ∧
    (∃ u, loadBytes .load 0x6000 16 remoting = .ok (leBytes 8 0x5000 ++ leBytes 8 24, u)) ∧
    (∃ u, spans 0x40000100 24 remoting = .ok ([⟨.package 1, 0x100, 0, 24⟩], u)) ∧
    (∃ u, loadBytes .load 0x5000 24 remoting = .ok (leBytes 24 0x0501, u)) ∧
    (remoting.me.task = none ∧ remoting.me.choice = 0 ∧ remoting.me.region = none ∧ (remoting.me.sender 5 (.package 1)).broken = false ∧
      (remoting.me.strc[5]?).getD 0 = 0) ∧
    (aperture 0x01FF004000000000 8 remoting = .ok ((1, ⟨bankLoc 2 0, 0x130000, 2, 0⟩), remoting)) ∧
    (remoting.apertureCore 0 0x01FF004000000000 = some 1 ∧ remoting.served 0 1 = some ⟨bankLoc 2 0, 0x130000, 2, 0⟩ ∧ remoting.apertureCore 0 0x01FF008000000000 = some 2 ∧
      remoting.served 0 2 = none ∧ remoting.apertureCore 0 0x01FF004000200000 = none) ∧
    (isService (coreOf remoting.cur) = false ∧ remoteLeaf.isRemote = true ∧ remoteLeaf.gid = 1 ∧ 1 ∈ remoting.podMap.map Prod.fst) ∧
    (∃ u, translate .store 0x40000100 remoting = .ok (remoteLeaf, u)) ∧ (∃ u, translate .store 0x5000 remoting = .ok (⟨0, 2 ^ 30, 2, 0xBF⟩, u)) :=
  ⟨holds_reads (by decide +kernel), holds_reads (by decide +kernel), by decide +kernel, holds_reads (by decide +kernel),
   ⟨_, given_eq (by decide +kernel)⟩, ⟨_, given_eq (by decide +kernel)⟩, ⟨_, given_eq (by decide +kernel)⟩, ⟨_, given_eq (by decide +kernel)⟩,
   ⟨_, given_eq (by decide +kernel)⟩, by decide +kernel, aperture_given (by decide +kernel), by decide +kernel, by decide +kernel, ⟨_, given_eq (by decide +kernel)⟩,
   ⟨_, given_eq (by decide +kernel)⟩⟩

/-- A remote addition that has committed with the old value 41, for the register that waits; a counter of stream 7 in core 1's scratch. -/
def resulting : State :=
  let p := { sent (.package 1) (.atomAdd 0x100 7) with state := .committed, result := 41 }
  { remoting.setMe { remoting.me with pend := [⟨.remote 9 0, 0, 0, 3, 0x4000, none⟩], unack := 1, strc := remoting.me.strc.set! 7 0x01FF004000000040 } with packets := [p] }

theorem witness_RemoteAtomics :
    ((remoting.clear [20, 6] [9] [] [] = true ∧ remoting.Reads [20, 6] [0x40000100, 0x1122334455667788] remoting) ∧
      ∃ u, spans 0x40000100 8 remoting = .ok ([⟨.package 1, 0x100, 0, 8⟩], u)) ∧
    (∃ u, spans 0x40000100 4 remoting = .ok ([⟨.package 1, 0x100, 0, 4⟩], u)) ∧
    (remoting.clear [20, 13, 13 + 1] [13] [] [] = true ∧ remoting.Reads [20, 13, 13 + 1] [0x40000100, 0x01FF000000000101, 3] remoting) ∧
    ((resulting.packet 0).map (fun p => (p.state, isAtomicBody p.body, p.src, p.owner)) = some (.committed, true, some 0, 1) ∧ (resulting.ctx 0).source = 1 ∧
      (resulting.ctx 0).awaiting 0 = some ⟨.remote 9 0, 0, 0, 3, 0x4000, none⟩) ∧
    ((resulting.clear [21, 14] [] [] [] = true ∧ resulting.Reads [21, 14] [0x10000, 3] resulting) ∧ (resulting.me.strc[5]?).getD 0 = 0 ∧
      isAperture ((resulting.me.strc[7]?).getD 0) = true ∧ ((resulting.me.strc[7]?).getD 0).toNat % 8 = 0 ∧
      field ((resulting.me.strc[7]?).getD 0) 63 57 = 0 ∧ field ((resulting.me.strc[7]?).getD 0) 37 21 = 0) ∧
    (∃ u, destOf 0x10000 false resulting = .ok (.package 1, u)) ∧
    ((remoting.clear [21, 27] [] [] [] = true ∧ remoting.Reads [21, 27] [0x10000, 600] remoting) ∧
      remoting.inPart 0 5 = true ∧ remoting.inPart 0 900 = false ∧ (0 : Nat) = remoting.pod * 1024 + remoting.accel ∧ 2 ∉ remoting.podMap.map Prod.fst ∧
      field (0x10005 : Word) 9 0 ≠ 0 ∧ field (0x400 : Word) 15 10 ≠ 0) :=
  ⟨⟨holds_reads (by decide +kernel), _, given_eq (by decide +kernel)⟩, ⟨_, given_eq (by decide +kernel)⟩, holds_reads (by decide +kernel), by decide +kernel,
   ⟨holds_reads (by decide +kernel), by decide +kernel⟩, ⟨_, given_eq (by decide +kernel)⟩, ⟨holds_reads (by decide +kernel), by decide +kernel⟩⟩

/-- A context in a region whose record stands at the trail's base; an attempt that has failed, and one store of it outside. -/
def regional (failed : Option Word) (choice : Word) : State :=
  remoting.setMe { remoting.me with trailTop := 0x130200, choice, region := some ⟨0x130000, 0x4002, [], 0, failed, 0⟩, run := .running }

theorem witness_FabricRegions :
    (crew.clear snapshotRegs [] [] [] = true ∧ crew.me.speculates = false ∧ crew.me.region = none ∧ crew.me.trailTop.toNat + 512 ≤ crew.me.trailLim.toNat) ∧
    (let s := crew.setMe { crew.me with trailTop := crew.me.trailLim - 16 }; s.me.trailLim.toNat < s.me.trailTop.toNat + 512) ∧
    (let s := regional none 0; s.clear snapshotRegs [] [] [] = true ∧ s.me.region = some ⟨0x130000, 0x4002, [], 0, none, 0⟩ ∧ s.regionOwes = false ∧ s.me.task = none ∧ s.isActive s.cur = true ∧ s.halted s.cur = false ∧ s.entriesFree (s.myLoc 0) s.me (0x130000 + 512) = true ∧
      bankOf s.cur = s.activeBank (coreOf s.cur) ∧ (s.part 0).rgto * 1000 ≤ (s.part 0).clock - 0) ∧
    (regional none 0x130000).me.choice ≠ 0 ∧
    ((tasked false false true).me.speculates = true ∧ (tasked false false true).clear snapshotRegs [] [] [] = true) ∧
    (let s := regional none 0; let s := { s with packets := [{ sent (.package 1) (.store 0x100 [1]) with region := true }] }; s.regionOwes = true) ∧
    (let s := regional (some 3) 0; s.me.region = some ⟨0x130000, 0x4002, [], 0, some 3, 0⟩ ∧ s.me.run = .running ∧ s.me.pend = [] ∧
      s.restores (s.myLoc 0) s.me (0x130000 + 512) = []) := by decide +kernel

/-- A record at 0x5000 of one request to package 1, with its request, and a tag that it holds; a send entry at 0x20000. -/
def requesting : State :=
  let r : Request := ⟨.core 1, 1, 0, 0, some 0, [1, 2, 3, 4, 5, 6, 7, 8], 1⟩
  { remoting.setCore 0 { remoting.core 0 with tags := [(3, ⟨true, 7, 0, 1, 0, false, 0⟩)] } with
    requests := [r], mem := cells [(0x5000, 0x500000000000), (0x5010, 0x01FF004000000040), (0x20000, 0x5000), (0x20008, 0x40000100), (0x20010, 0x700000010), (0x20018, 0x1400)] }

/-- Its entry, alone on its die's list. -/
def sendEntry5 : SendEntry := ⟨1, 1, 0x5000, 0x40000100, 7, 16, 5, 0⟩
def routing : State := requesting.setDie 0 { requesting.die 0 with sends := [sendEntry5] }

theorem witness_RequestsAndSends :
    (requesting.clear [21, 10] [9] [] [] = true ∧ requesting.Reads [21, 10] [0x10000, 0x5000] requesting) ∧ (∃ u, destOf 0x10000 true requesting = .ok (.package 1, u)) ∧
    (∃ u, loadBlock 0x5000 requesting = .ok ([0x500000000000, 0, 0x01FF004000000040, 0, 0, 0, 0, 0], u)) ∧
    ((0x500000000000 : Word) &&& ~~~0xFF0000000000#64 = 0 ∧ (requesting.myCore.tag 0).busy = false ∧ (requesting.myCore.tag 3).busy = true ∧ requesting.me.choice = 0) ∧
    (let s := requesting.setCore 0 { requesting.core 0 with tags := (List.range 64).map (fun n => (n, ⟨true, 7, 0, 1, 0, false, 0⟩)) }
     ∀ j, j < 64 → (s.myCore.tag j).busy = true) ∧
    (requesting.requests.map Request.dest = [.core 1] ∧ requesting.teamAt 1 0 = some ⟨bankLoc 2 0, 0x130000, 2, 0⟩ ∧ (requesting.bank 2).open = true ∧
      (requesting.bank 2).s6.length < 16 ∧ (requesting.requests[0]?).map (requesting.behindRequest 0) = some false) ∧
    (let s := requesting.setBank 2 { requesting.bank 2 with s6 := List.replicate 16 [] }; 16 ≤ (s.bank 2).s6.length) ∧
    (((requesting.core requesting.focus).tag 3).busy = true ∧ (requesting.part 0).rqto * 1000 ≤ (requesting.part 0).clock - 0) ∧
    ((requesting.clear [21, 24] [] [] [] = true ∧ requesting.Reads [21, 24] [0x10000, 0x20000] requesting) ∧ requesting.me.region = none ∧ (regional none 0).me.region ≠ none ∧
      field (0x10000 : Word) 36 16 / 1024 = requesting.pod) ∧
    (∃ u, loadBytes .load 0x20000 32 requesting = .ok (leBytes 8 0x5000 ++ leBytes 8 0x40000100 ++ leBytes 8 0x700000010 ++ leBytes 8 0x1400, u)) ∧
    (sendEntry 1 1 [0x5000, 0x40000100, 0x700000010, 0x1400] = some sendEntry5 ∧ sendEntry 1 1 [0x5000, 0x40000100, 0x700000010, 0x14FF] = none ∧
      sendEntry 1 1 [0x5000, 0x01FF004000000040, 0x700000010, 0x1400] = some { sendEntry5 with dst := 0x01FF004000000040 } ∧ isAperture 0x01FF004000000040 = true) ∧
    (∃ u, keepPins (entrySpans 0x40000100 32) requesting = .ok ([⟨.package 1, 0x100, 0, 32⟩], u)) ∧
    (requesting.mySends = [] ∧ routing.mySends = [(sendEntry5, 0)]) ∧
    (∃ u, loadBytes .engineRead 0x5000 16 routing = .ok (leBytes 8 0x500000000000 ++ leBytes 8 0, u)) ∧
    (∃ u, spans 0x40000100 (16 + 16) routing = .ok ([⟨.package 1, 0x100, 0, 16 + 16⟩], u)) :=
  ⟨holds_reads (by decide +kernel), ⟨_, given_eq (by decide +kernel)⟩, ⟨_, given_eq (by decide +kernel)⟩, by decide +kernel, by decide +kernel, by decide +kernel,
   by decide +kernel, by decide +kernel, ⟨holds_reads (by decide +kernel), by decide +kernel⟩, ⟨_, given_eq (by decide +kernel)⟩, by decide,
   ⟨_, given_eq (by decide +kernel)⟩, by decide +kernel, ⟨_, given_eq (by decide +kernel)⟩, ⟨_, given_eq (by decide +kernel)⟩⟩

/-- A receiving partition of one package with 1 GiB, and one packet for it at a number. -/
def committing (seq : Nat) (epoch : Nat) (dest : Dest) (body : PacketBody) (counter : Word) : State :=
  let s := crew.setPart 0 { crew.part 0 with valid := true, hbase := 0, hsize := 2 ^ 30 }
  { s with ptab := 0x8000000000, packets := [{ sent dest body with seq, epoch, counter }] }

/-- Its packet. -/
def packetOf (s : State) : Packet := (s.packet 0).getD (sent (.core 0) (.setCounter 0))

theorem witness_StreamCommits :
    (let s := committing 0 0 (.package 0) (.store 0x7000 [1, 2, 3]) 0x01FF004000000040
     s.packet 0 = some (packetOf s) ∧ s.isHere (packetOf s) = true ∧ (s.part 0).valid = true ∧ (s.receiver (packetOf s)).next = 0 ∧
      s.destLocs (packetOf s) 0x7000 3 = some [0x7000, 0x7001, 0x7002] ∧ s.counterLoc 0 0x01FF004000000040 = some (1, bankLoc 2 0x40) ∧ s.claims = [] ∧
      ofStream (packetOf s) = true ∧ s.commitMoves (packetOf s) = false ∧ (packetOf s).cls ≠ 2 ∧
      s.marks = [] ∧ (∀ l, l ∈ run (bankLoc 2 0x40) 8 → l ∉ [0x7000, 0x7001, 0x7002])) ∧
    (let s := committing 0 0 (.core 1) (.store 0x01FF004000000080 [1, 2]) 0
     s.destLocs (packetOf s) 0x01FF004000000080 2 = some [bankLoc 2 0x80, bankLoc 2 0x81]) ∧
    (let s := committing 0 0 (.core 1) (.store 0x7000 [1, 2]) 0; s.destLocs (packetOf s) 0x7000 2 = none) ∧
    (let s := committing 0 0 (.package 0) (.atomAdd 0x7000 5) 0; s.destLocs (packetOf s) 0x7000 8 = some (at8 0x7000) ∧ (at8 0x7000).Nodup) ∧
    (let s := committing (2 ^ 24 - 1) 0 (.package 0) (.store 0x7000 [1]) 0; 2 ^ 23 ≤ ((packetOf s).seq + 2 ^ 24 - (s.receiver (packetOf s)).next) % 2 ^ 24) ∧
    (let s := committing 3 0 (.package 0) (.store 0x7000 [1]) 0
     (packetOf s).seq ≠ (s.receiver (packetOf s)).next ∧ s.gapFilled (packetOf s) = false ∧ (packetOf s).src = some 0 ∧ (packetOf s).owner = 1 ∧ (s.ctx 0).source = 1 ∧
      (s.ctx 0).awaiting 0 = none ∧ (packetOf s).region = false ∧ ofStream (packetOf s) = true ∧ (s.part 0).rgto * 1000 ≤ (s.part 0).clock - (packetOf s).sentAt) ∧
    (packetOf (committing 0 9 (.package 0) (.store 0x7000 [1]) 0)).epoch ≠ 0 ∧
    ((regional none 0).ctx 0).region = some ⟨0x130000, 0x4002, [], 0, none, 0⟩ ∧
    (let p := { sent (.package 1) (.store 0x100 [1]) with region := true }
     ofStream p = true ∧ p.state = .sent ∧ p.dest = .package 1 ∧ p.region = true ∧ ({ regional none 0 with packets := [p] } : State).packet 0 = some p) := by decide +kernel

/-- Tag 5 of core 1 as a request took it, with its reply's counter, and a reply's packets to it: its close, a store, a late one, one above a
gap and one whose strong store no pending access mixes with; and an atomic that was dropped. -/
def replying (seq epoch : Nat) (body : PacketBody) : State :=
  let s := committing 0 epoch (.core 1) body 0
  let s := s.setCore 1 { s.core 1 with tags := [(5, ⟨true, 7, 0x01FF004000000040, 1, 0, false, 0⟩)] }
  { s with packets := s.packets.map (fun p => { p with cls := 2, seq, strong := true }) }

theorem witness_StreamCommits_replies :
    (let s := replying 0 7 (.close false 9)
     (packetOf s).cls = 2 ∧ (packetOf s).strong = true ∧ s.tagCore (packetOf s) = some 1 ∧ s.counterAddr (packetOf s) = 0x01FF004000000040 ∧
      s.counterLoc 0 0x01FF004000000040 = some (1, bankLoc 2 0x40) ∧ s.behindOwn (packetOf s) = false ∧ s.commitMoves (packetOf s) = false ∧ s.claims = [] ∧ s.marks = [] ∧
      ((s.core 1).tag 5).busy = true ∧ ((s.core 1).tag 5).epoch = (packetOf s).epoch) ∧
    (let s := replying 0 7 (.store 0x01FF004000000080 [1, 2])
     s.tagCore (packetOf s) = some 1 ∧ s.mixedFor (packetOf s).owner [bankLoc 2 0x80, bankLoc 2 0x81] = [] ∧ (∀ l, l ∈ run (bankLoc 2 0x40) 8 → l ∉ [bankLoc 2 0x80, bankLoc 2 0x81])) ∧
    (let s := replying 0 6 (.close false 9); (packetOf s).cls = 2 ∧ s.tagCore (packetOf s) = none) ∧
    (let s := replying 3 7 (.close false 9); s.tagCore (packetOf s) = some 1 ∧ ((packetOf s).seq + 2 ^ 24 - (s.receiver (packetOf s)).next) % 2 ^ 24 = 3) ∧
    isAtomicBody (.atomAdd 0x7000 5) = true := by decide +kernel

/-! ### Witnesses: contours -/

/-- A slot at 1 with slope 1 and quantum 1: the next level is 2, one unit of time ahead. -/
def rising (state : SlotState) (fcount : Nat) (limit gcount : Nat) : Slot :=
  let k := Slot.none
  { k with state := state, q := 0x3F800000, x := 0x3F800000, slope := 0x3F800000, delta := 0x3F800000, tn := 0x100000000, fcount := fcount, fanout := 0x200,
           limit := limit, gcount := gcount, ghid := 9, wstart := 0x80000000, window := 0xFFFFFFFF }

/-- crew with that slot as slot 5, and the words that contour writes take in registers: a block at 0x6000, a fanout word, a guard word. -/
def contoured (k : Slot) : State :=
  let s := { setRegs crew [(20, 5), (21, 0x6000), (22, 0x40000000), (23, 0x100000200), (24, 0x090300000064), (25, 1024), (26, 0x40005), (27, 0x01FF000000001000)] with
    mem := cells [(0x6000, 0x3F8000003F800000), (0x6008, 0x3F800000), (0x6010, 7), (bankLoc 0 0x200, 0x1400003)] }
  s.setBank 0 { s.bank 0 with slots := [(5, k)] }

/-- The same in a context that runs an ordered task at time 5, speculative or not. -/
def contouring (k : Slot) (speculative : Bool) : State :=
  let s := contoured k
  s.setMe { s.me with task := some ⟨task5, speculative, false, false, false⟩ }

theorem witness_ContourInstructions :
    (let s := contoured (rising .stopped 0 0 0)
     (s.clear [20, 21] [] [] [] = true ∧ (s.me.rd 20, s.me.rd 21, s.me.rd 22, s.me.rd 25) = (5, 0x6000, 0x40000000, 1024)) ∧ (s.myBank.slot 5).state = .stopped ∧
      s.me.task = none ∧ s.me.choice = 0 ∧ given (loadBytes .load 0x6000 32 s) = some (leBytes 8 0x3F8000003F800000 ++ leBytes 8 0x3F800000 ++ leBytes 8 7 ++ leBytes 8 0) ∧
      field (0x100000200 : Word) 39 32 = 1 ∧ field (0x100000200 : Word) 20 0 = 0x200 ∧ field (0x100000200 : Word) 63 40 = 0 ∧ field (0x100000200 : Word) 31 21 = 0 ∧
      0x200 + 8 * 1 ≤ s.scratchSize (bankOf s.cur) ∧ s.fanoutOk s.myTeam (s.load (bankLoc 0 0x200) 8) = true ∧ s.fanoutFree (bankOf s.cur) 0x200 1 = true ∧
      s.stale 5 ({ rising .stopped 0 0 0 with state := .running } : Slot).schedule = false ∧
      (s.setTeam 0 { s.team 0 with newest := 2 ^ 70 }).stale 5 ({ rising .stopped 0 0 0 with state := .running } : Slot).schedule = true) ∧
    ((contoured (rising .running 0 0 0)).myBank.slot 5).state = .running ∧ ((contoured (rising .parked 0 0 0)).myBank.slot 5).state = .parked ∧
    ((contoured (rising .undefined 0 0 0)).myBank.slot 5).state = .undefined ∧
    (contoured (rising .parked 0 0 0)).stale 5 (rising .running 0 0 0) = false ∧
    (let s := contouring (rising .running 0 0 0) false
     s.me.task = some ⟨task5, false, false, false, false⟩ ∧ s.me.choice = 0 ∧ s.myCore.survey = none ∧ s.me.speculates = false ∧ s.clear [20, 21] [] [] [] = true) ∧
    (let s := contouring (rising .running 0 0 0) true; s.me.speculates = true ∧ s.clear [20, 21] [] [] [] = true ∧ s.clear [26] [9] [] [] = true ∧ s.me.rd 26 = 0x40005) ∧
    field (0x40005 : Word) 63 19 = 0 ∧ field (0x40005 : Word) 15 10 = 0 ∧ 5 = field (0x40005 : Word) 9 0 ∧ field (0x400 : Word) 15 10 ≠ 0 := by decide +kernel

/-- Locations of a state that claims, marks and poisons nothing. -/
theorem unmarked_unshared {s : State} (h : s.me.task = none ∧ s.claims = [] ∧ s.poison = [] ∧ s.marks = []) (locs : List Nat) : s.unshared locs := by
  refine ⟨h.1, fun l _ => ?_⟩
  simp [h.2.1, h.2.2.1, State.marksOf, h.2.2.2, Table.get]

theorem locate_aperture {s : State} {acc : Acc} {ea : Word} {n : Nat} {c : CoreId} {v : Served} (ha : isAperture ea = true)
    (h : given (aperture ea n s) = some (c, v)) : locate acc ea n s = .ok (run (v.base + field ea 20 0) n, s) := by
  unfold locate
  rw [if_pos ha, M.bind_ok (aperture_given h)]
  rfl

/-- An armed survey of context 0 at time 0x80000000, whose block is at 0x9000. -/
def surveyed : State :=
  let s := contoured (rising .running 0 0 0)
  let s := s.setCore 0 { s.core 0 with survey := some ⟨0x80000000, 0x9000, 0, 0, 1, 0⟩, waitingSurveys := [⟨0x90000000, 0xA000, 0, 1, 2, 0⟩] }
  s.setBank 0 { s.bank 0 with slots := [(5, { rising .running 0 0 0 with tn := 0x300000000 })] }

theorem witness_ContourSteps :
    (let s := contoured (rising .running 0 0 0); s.me.survey = .none ∧ s.clear [20, 27] [] [] [] = true ∧ (s.me.rd 20, s.me.rd 27) = (5, 0x01FF000000001000) ∧ s.me.task = none ∧
      s.myCore.survey = none) ∧
    (locate .store 0x01FF000000001000 4096 (contoured (rising .running 0 0 0)) = .ok (run (bankLoc 0 0 + field (0x01FF000000001000 : Word) 20 0) 4096, contoured (rising .running 0 0 0)) ∧
      (contoured (rising .running 0 0 0)).unshared (run (bankLoc 0 0 + field (0x01FF000000001000 : Word) 20 0) 4096)) ∧
    (let s := contoured (rising .running 0 0 0)
     coreOf s.cur ∈ s.cores.map Prod.fst ∧ s.myCore.survey = none ∧ s.myCore.waitingSurveys = [] ∧ surveyed.myCore.survey ≠ none ∧
      (s.setMe { s.me with survey := .armed }).me.survey = .armed ∧ (s.setMe { s.me with survey := .fired }).me.survey = .fired ∧
      (s.setTeam 0 { s.team 0 with sentMsgs := 1 }).team 0 ≠ s.team 0) ∧
    ((contouring (rising .running 0 0 0) false).me.task ≠ none) ∧
    (let s := surveyed.setMe { surveyed.me with survey := .armed }
     (s.core s.focus).survey = some ⟨0x80000000, 0x9000, 0, 0, 1, 0⟩ ∧ (s.core s.focus).waitingSurveys ≠ [] ∧ s.teamAt s.focus 0 = some ⟨bankLoc 0 0, 0x130000, 0, 0⟩ ∧
      (s.ctx 0).source = 1 ∧ (s.ctx 0).survey = .armed ∧ s.activeBank s.focus = 0 ∧
      0x80000000 < min ((s.core 0).horizonFor 0) (s.horizonOf 0) / 2 ^ 32 ∧ (s.team 0).sentMsgs = (s.team 0).recvMsgs ∧
      (s.part 0).stopped = false ∧ 0 ∉ (s.core 0).stopped ∧ (s.servedBank ⟨bankLoc 0 0, 0x130000, 0, 0⟩).slots.wf = true) ∧
    (let s := contoured (rising .running 1 0 0)
     (s.bank 0).firstRunning = some (5, rising .running 1 0 0) ∧ (s.bank 0).team = some 0 ∧ (s.core s.focus).survey = none ∧ (s.core 0).active < 2 ∧ s.fanoutFree 0 0x200 1 = true ∧ (s.part 0).stopped = false ∧
      0 ∉ (s.core s.focus).stopped ∧
      0x100000000 * 2 ^ 32 + s.globalIndex 0 5 ≤ min ((s.core 0).horizonFor 0) (s.horizonOf 0) ∧
      fanoutFields (s.load (bankLoc 0 0x200) 8) = some (s.accel, 0, 80, 3) ∧ 0 ∈ (s.team 0).members ∧ s.teamAt 0 0 = some ⟨bankLoc 0 0, 0x130000, 0, 0⟩ ∧
      (s.bank 0).open = true ∧ (s.bank 0).s4.length < 64 ∧ s.activeBank s.focus = 0) ∧
    (let k := rising .running 0 3 2; k.tn.toNat < k.wstart.toNat + k.window ∧ k.gcount < k.limit) ∧ (let k := rising .running 0 3 3; k.gcount = k.limit) ∧
    (let s := (tasked false false true).setMe { (tasked false false true).me with wait := .earliest }
     (s.ctx 1).task = some ⟨task5, true, false, false, false⟩ ∧ task5.team = 0 ∧ (s.ctx 1).wait = .earliest ∧ s.earliest task5 = true) :=
  ⟨by decide +kernel, ⟨locate_aperture (v := ⟨bankLoc 0 0, 0x130000, 0, 0⟩) (c := 0) (by decide) (by decide +kernel), unmarked_unshared (by decide +kernel) _⟩, by decide +kernel, by decide +kernel,
   by decide +kernel, by decide +kernel, by decide +kernel, by decide +kernel, by decide +kernel⟩

/-! ### Witnesses: page 14 -/

/-- Supervisor mode on core 0 in staged mode, with a parked context 1 and a gresume block for it at 0x20000. -/
def warden (staged : Bool) (valid : BitVec 9) (action : Word) (ir : List IWord) : State :=
  let s := setRegs crew [(20, 0x10000), (21, 8), (22, 0), (23, 0x100), (24, 0x20000), (25, 0x40001), (26, 9), (27, 0x1000)]
  let s := s.setCtx 1 { s.ctx 1 with run := .parked, cause := some { cls := 2, detail := 6, addr := 0x77 }, ir, pc := 0x4100, utvec := 0x4200 }
  { (s.setMe { s.me with status := 1 }).setCore 0 { s.core 0 with staged, valid } with mem := cells [(0x20000, 0x400), (0x20018, action)] }

/-- A service core, and a frozen context of core 0 with its record at 0x30000. -/
def adopter : State :=
  let s := crew.setCtx 3 { crew.ctx 3 with status := 16, run := .running }
  let s := { s with cur := 16384, focus := 1024, mem := cells [(0x30000, 0x5000152434B53), (0x30008, 0xC00)] }
  s.setMe { s.me with status := 1, g := s.me.g.set 1 0x30000 }

theorem witness_PrivilegedOperations :
    crew.supervisor crew.cur = false ∧ (adopter.supervisor adopter.cur = true ∧ isService (coreOf adopter.cur) = true) ∧
    (let s := warden false 0 0 []; s.supervisor s.cur = true ∧ isService (coreOf s.cur) = false ∧ s.myCore.staged = false) ∧
    (let s := warden true 1 0 []; s.myCore.staged = true ∧ s.myCore.valid.getLsbD 8 = false ∧ s.myCore.valid.getLsbD 0 = true) ∧
    (let s := warden true 0x101 0 []; s.myCore.valid.getLsbD 8 = true ∧ s.myCore.busy = 0 ∧ s.activeBank 0 ≠ s.shadowBank 0 ∧ s.clear [20, 21] [] [] [] = true ∧
      s.me.rd 20 = 0x10000 ∧ s.me.rd 21 = 8 ∧ s.me.rd 22 = 0 ∧ s.stageable 0x10000 8 = true ∧ s.stageable 0x10000 1 = false ∧ s.stageable 0x10001 8 = false) ∧
    (field (0x1000 : Word) 11 2 = 0 ∧ (0x1000 : Word).getLsbD 0 = false ∧ field (0x10000 : Word) 63 32 = 0 ∧ field (0x40001 : Word) 63 12 ≠ 0 ∧
      (let s := warden true 0x101 0 []; s.retired 0 0x1000 1 = true ∧ ({ s with packets := outstanding.packets } : State).retired 0 0x1000 1 = false)) ∧
    (let s := warden true 0x101 0 []
     s.contextAt 0 0 = some 0 ∧ s.contextAt 0 0x4000 = none ∧ s.recordsAt 0 0 = [] ∧ treeWord 0 = some (0, false) ∧ treeWord 0x100 = some (0, true) ∧ treeWord 8 = none ∧
      s.me.part = 0 ∧ (s.part 0).stopped = false ∧ (s.part 0).stopper = none ∧ s.drained 0 = true ∧ ({ s with packets := outstanding.packets } : State).drained 0 = false ∧
      (s.setPart 0 { s.part 0 with stopped := true }).drained 0 = true) ∧
    (let s := warden true 0x101 1 [1, 2]
     s.me.rd 24 = 0x20000 ∧ s.word 0x20018 = 1 ∧ s.word 0x20000 = 0x400 ∧ s.contextAt 0 0x400 = some 1 ∧ (s.ctx 1).run = .parked ∧ s.cur ≠ 1 ∧ (s.ctx 1).admits 1 = true ∧
      ((warden true 0x101 1 []).ctx 1).admits 1 = false ∧ (s.ctx 1).utvec ≠ 0 ∧ (s.ctx 1).status.getLsbD 3 = false) ∧
    (let s := warden true 0x101 3 []; let s := s.setCtx 16 { s.ctx 16 with run := .parked }; s.contextAt 0 1 = some 16 ∧ ctxNum 16 = 0) ∧
    (adopter.clear [1] [9] [] [] = true ∧ adopter.me.rd 1 = 0x30000 ∧ adopter.adoption 0x30000 = (0, 3) ∧ adopter.adoption 0x40000 = (3, 0)) := by decide +kernel

/-- A record whose state byte an engine claims; a spilled slot's pins, which its record holds; a partition stopped and one whose gstop waits. -/
theorem witness_PrivilegedOperations_more :
    (let s := warden true 0x101 0 []
     let t := s.setRidge 0 { s.ridge 0 with copies := [⟨0, 1, 4, [], [], [], false, false, [lineOf 0x10000]⟩] }
     s.claims.contains (lineOf 0x10000) = false ∧ t.claims.contains (lineOf 0x10000) = true ∧ t.stageable 0x10000 8 = true ∧
      ({ t with cur := 16384, focus := 1024 } : State).claims.contains (lineOf 0x10000) = true) ∧
    (let s := warden true 0x101 0 []
     let s := s.setCtx 1 { s.ctx 1 with out := true, record := 0x50000 }
     let s := { s with saved := [(0x50000, s.ctx 1)] }
     s.contextAt 0 0x400 = some 1 ∧ s.recordsAt 0 0x400 = [] ∧ (s.ctx 1).out = true ∧ (s.ctx 1).record ∈ s.saved.map Prod.fst ∧ s.cur ≠ 1) ∧
    (let s := (warden true 0x101 0 []).setPart 0 { (warden true 0x101 0 []).part 0 with stopped := true }; (s.part 0).stopped = true) ∧
    (let s := (warden true 0x101 0 []).setPart 0 { (warden true 0x101 0 []).part 0 with stopper := some 0 }; (s.part 0).stopper = some s.cur ∧ (s.part 0).stopped = false) ∧
    (let s := warden true 0x101 2 []; (s.ctx 1).utvec ≠ 0 ∧ (s.ctx 1).status.getLsbD 3 = false ∧ (s.ctx 1).status.getLsbD 0 = false ∧ (s.ctx 1).admits 1 = false) ∧
    (let s := { warden true 0x101 0 [] with cur := 16384, focus := 1024 }
     isService (coreOf s.cur) = true ∧ field (s.word 0x20008) 18 16 = 0 ∧ s.contextAt (field (s.word 0x20008) 18 16) (s.word 0x20000) = some 1) := by decide +kernel

/-! ### Witnesses: banks and scheduling -/

/-- A core with one background operation and a context that waits in its shadow bank's slot 2; an image's ticket at 0x40000. -/
def staging (op : SlotOp) : State :=
  let s := crew.setCore 0 { crew.core 0 with staged := true, valid := 0x0FF, busy := 4, ops := [op] }
  let s := s.setCtx 10 { s.ctx 10 with run := .running, pc := 0x4444, g := s.me.g }
  { s with mem := cells [(0x30018, 0x4100), (0x30108, 77), (0x40000, 0x40000)] }

/-- A core whose swap is armed for time 5, with a staged bank. -/
def swapping (locked : Bool) (valid busy : BitVec 9) : State :=
  { crew.setCore 0 { crew.core 0 with staged := true, valid, busy, swapt := 5 } with time := 5, timeLock := locked }

/-- A context of a fine core at a broad matrix command, whose team has a member on a broad core. -/
def migrating (members : List CoreId) : State :=
  let s := crew.setTeam 0 { crew.team 0 with members }
  let s := s.setBank 384 { s.bank 384 with team := some 0 }
  s.setMe { s.me with migrating := true, run := .running, ir := encode (.mmul 1 2 3 1) }

theorem refuge_single {s : State} {c : CtxId} {f : Nat} {d : CoreId} (h : s.refuges c f = [d]) : s.refuge c f = some d := by
  simp [State.refuge, h]

theorem witness_BankSteps :
    (let s := staging (.stage 2 0x30000)
     (s.core s.focus).ops = [.stage 2 0x30000] ∧ (s.setCore s.focus { s.core s.focus with ops := [] }).claims = [] ∧ (s.core s.focus).valid.getLsbD 8 = false) ∧
    (let s := staging (.stage 8 0x40000)
     (s.core s.focus).ops = [.stage 8 0x40000] ∧ s.mem.wf = true ∧ (∀ n, n < 8 → (s.ctx (ctxIn (s.shadowBank s.focus) n)).action = none)) ∧
    (let s := staging (.spill 2 0x30000)
     (s.core s.focus).ops = [.spill 2 0x30000] ∧ s.hasWork (ctxIn (s.shadowBank s.focus) 2) = false ∧ (s.ctx (ctxIn (s.shadowBank s.focus) 2)).out = false ∧ (s.ctx (ctxIn (s.shadowBank s.focus) 2)).pend = [] ∧
      (s.setRidge 0 { s.ridge 0 with copies := [⟨10, 11, 4, [], [], [], false, false, []⟩] }).hasWork (ctxIn (s.shadowBank s.focus) 2) = true) ∧
    (let s := staging (.spill 8 0x40000); (s.core s.focus).ops = [.spill 8 0x40000] ∧ (s.bank (s.shadowBank s.focus)).image = 0 ∧ s.mem.wf = true ∧ 0x40000 + 131072 ≤ 2 ^ 47) ∧
    (let s := swapping true 0x100 0
     ((s.core s.focus).swapt ≠ BitVec.allOnes 64 ∧ (s.core s.focus).swapt.toNat ≤ s.time) ∧ s.timeLock = true ∧ (s.core s.focus).valid.getLsbD 8 = true ∧
      (s.core s.focus).busy = 0 ∧ ((swapping true 0x100 1).core 0).busy ≠ 0 ∧ (swapping false 0x100 0).timeLock = false) ∧
    (let s := crew.setRidge 0 { crew.ridge 0 with flips := [0], rsin := 0x10000, rsout := 0x4000000 }
     (s.ridge 0).flips ≠ [] ∧ (s.ridge 0).jobs = [] ∧ (∀ i, i < 8 → (s.core (0 * 8 + i)).swapt = BitVec.allOnes 64) ∧ s.mem.wf = true ∧
      (s.ridge 0).rsout ≠ 0 ∧ (s.ridge 0).rsin ≠ 0 ∧ (s.ridge 0).rsout.toNat + 24 * 2 ^ 20 ≤ 2 ^ 47) ∧
    (let k := { crew.bank 0 with team := some 9, size := 0x100000 }
     let s := { staging (.stage 8 0x40000) with images := [(0x40000, k)] }
     s.images.get Bank.reset (s.load 0x40000 8) = k ∧ s.bankData 1 = s.bankData (s.shadowBank s.focus)) ∧
    ((migrating [0, 192]).me.migrating = true ∧ (migrating [0, 192]).hasWork 0 = false ∧ (migrating [0, 192]).hasMail 0 = false ∧
      ((migrating [0, 192]).setBank 0 { (migrating [0, 192]).bank 0 with outbox := [⟨.core 1, 1, 0, 0, [5], none, none, (migrating [0, 192]).me.source⟩] }).hasMail 0 = true ∧ crew.me.migrating = false ∧
      (migrating [0, 192]).freeHandler ((migrating [0, 192]).activeBank 192) = some 3073 ∧ (migrating [0, 192]).me.run = .running) ∧
    ((migrating [0]).wantedExt 0).bind ((migrating [0]).refuge 0) = none := by decide +kernel

theorem witness_BankSteps_migration : ((migrating [0, 192]).wantedExt 0).bind ((migrating [0, 192]).refuge 0) = some 192 := by
  rw [show (migrating [0, 192]).wantedExt 0 = some 17 by decide +kernel, Option.bind_some]
  exact refuge_single (s := migrating [0, 192]) (c := 0) (f := 17) (d := 192) (by decide +kernel)

/-- A partition with a region block at 0x80040000 and a team descriptor at 0x6000, and a launch record that names them. -/
def launching : State :=
  let s := crew.setPart 0 { crew.part 0 with valid := true, ptroot := 0x1000, hbase := 0, hsize := 2 ^ 30 }
  { s with regbase := 0x80000000, regsize := 0x80000000, mem := cells [(0x1000, 0x2001), (0x2000, 0xBF), (0x6000, 0x4000), (0x6008, 0x20001), (0x6010, 0x43FF),
      (0x6018, 3), (0x6028, 0x7000), (0x6030, 0x4800), (0x6038, 9), (0x6040, 11), (0x6048, 12), (0x80040010, 0x100000008), (0xC0000000, 1), (0xC0001000, 0x11000),
      (0xC0001008, 0x6000), (0xC0001010, 0x80040000), (0xC0001018, 0x500000000)] }

/-- Its grid. -/
def grid5 : Grid := launching.gridOf 0 0xC0001000

/-- A team of core 2 that has not started, with its grid, whose second team waits. -/
def startable (state : TeamState) : State :=
  let k := Team.none 7
  let s := crew.setTeam 7 { k with state := state, members := [2], entry := 0x4001, args := [1, 2, 3], selfbase := 2, utvec := 0x4800, index := 0, grid := 0 }
  let s := s.setBank 4 { s.bank 4 with team := some 7 }
  let s := s.setPart 0 { s.part 0 with valid := true }
  s.setDie 0 { s.die 0 with grids := [{ grid5 with id := 0, nteams := 2, slots := 1 }] }

theorem witness_Scheduling :
    ((crew.load (crew.regbase.toNat + 0x40000000) 4 = 0) ∧ launching.crashed = false ∧ launching.load 0xC0000000 4 = 1 ∧ launching.load 0xC0000008 4 = 0 ∧
      (let s1 := launching.store 0xC0000008 4 1; s1.recordRefused 0xC0001000 grid5 = false ∧ s1.neverFits grid5 = false) ∧
      (let s := { launching with regsize := 0 }; (s.store 0xC0000008 4 1).recordRefused 0xC0001000 (s.gridOf 0 0xC0001000) = true)) ∧
    (launching.openTo none (run 0xC0001000 256) = true ∧ launching.partFree 0 0x6000 128 = true ∧ launching.tablesFree 0 = true) ∧
    ((launching.die 0).grids = [] ∧ (launching.die 0).queue = [] ∧
      (let s := launching.setDie 0 { launching.die 0 with queue := [grid5] }
       (s.die 0).queue = [grid5] ∧ grid5.prio = s.eff 0 grid5.rcb ∧ grid5.queue < 128 ∧ s.admission grid5 = [[2]])) ∧
    (let s := startable .resident
     (s.team 7).state = .resident ∧ 2 ∈ (s.team 7).members ∧ 2 ∉ (s.team 7).started ∧ 2 ∉ (s.team 7).departed ∧ s.bankTeam (s.activeBank 2) = some 7 ∧
      (s.team 7).startAt + s.phase 2 ≤ s.cyc ∧ (s.gridOfTeam 7).map Prod.fst = some 0 ∧ (s.team 7).quantum ≤ (s.part 0).quanta ∧
      s.waiting 0 { grid5 with id := 0, nteams := 2, slots := 1 } = true ∧ s.held (s.team 7).rcb = false ∧ s.decides 0 = true ∧ (s.team 7).part = 0 ∧
      (s.team 7).deferred = false ∧ (s.setTeam 7 { s.team 7 with rcb := 0x40000 }).held 0x40000 = false ∧
      (let s := s.setTeam 7 { s.team 7 with quantum := 5 }; (s.part 0).quanta < (s.team 7).quantum)) ∧
    (let s := { crew.setMe { crew.me with yreq := 5, run := .running } with time := 5 }
     s.me.yreq ≠ BitVec.allOnes 64 ∧ s.me.yreq.toNat ≤ s.time ∧ (s.part s.me.part).out = false ∧ s.crashed = false ∧ s.me.yielded = false ∧ s.me.run = .running ∧
      4 < s.me.yreq.toNat) ∧
    (let s := startable .leaving
     (s.team 7).state = .leaving ∧ s.swappable 7 = true ∧ s.tablesFree 0 = true ∧ s.gridOfTeam 7 = some (0, { grid5 with id := 0, nteams := 2, slots := 1 })) ∧
    (∀ g : Grid, g.slots = 0 → ((startable .leaving).swapOut 7).fillSlot 0 g = none) := by
  refine ⟨by decide +kernel, by decide +kernel, by decide +kernel, by decide +kernel, by decide +kernel, by decide +kernel, ?_⟩
  intro g h
  unfold State.fillSlot
  rw [if_pos (Or.inl (by omega))]

/-! ### Witnesses: power, the service, bring-up and jobs -/

/-- A package past bring-up step 3 whose ridge 0 has a trim and a temperature, and whose core 0's bank holds a team of the region at 0x40000 with
T_hot 10 °C; the region's energy budget is 100 mJ. -/
def powered (hot : Bool) (changed : Nat) (due : Option Bool) (temp : Word) : State :=
  let s := crew.setTeam 0 { crew.team 0 with rcb := 0x40000 }
  let s := s.setRidge 0 { s.ridge 0 with trim := 5, temp, leaseLeft := 100, extender := some 0 }
  let s := s.setMe { s.me with rcba := 0x40000 }
  { s with bringUp := 3, time := 2000000000, heats := [(0x40000, ⟨changed, due⟩)],
           mem := cells [(0x40020, 100), (0x40028, 10), (0x40048, if hot then 1 else 0)] }

/-- Its account at a third of its capacity. -/
def melting : State := { crew with melt := 20000 * 2 ^ 32, refreeze := true }

theorem witness_PowerSteps :
    (let after (m mw : Nat) : Nat := min ((m : Int) + ((mw : Int) - 3000000) * (2 ^ 48 : Int) / 150000000000).toNat (2 ^ 48)
     after (2 ^ 48) 4000000 = 2 ^ 48 ∧ after melting.melt 3000000 / 2 ^ 32 = 20000 ∧ after (13107 * 2 ^ 32) 0 / 2 ^ 32 < 13107) ∧
    (crew.bringUp < 3 ∧ 3 ≤ (powered false 0 none 0).bringUp ∧ ((powered false 0 none 0).ridge 0).hold = none ∧ ((powered false 0 none 0).ridge 0).trim < 31) ∧
    (let s := crew.setRidge 0 { crew.ridge 0 with hold := some 0 }; (s.ridge 0).hold = some 0 ∧ s.time < 0 + 1000000000 ∧ 0 + 1000000000 ≤ (powered false 0 none 0).time) ∧
    (let s := crew.setRidge 0 { crew.ridge 0 with extender := some 0 }; (s.ridge 0).leaseLeft = 0 ∧ (s.ridge 0).extender = some 0) ∧
    (let s := powered false 0 none 0
     (s.ridge 0).leaseLeft ≠ 0 ∧ (s.ridge 0).extender = some 0 ∧ s.region (s.ctx 0).rcba.toNat = [0x40000] ∧ 0x40000 = (s.ctx 0).rcba.toNat ∧
      (s.load (0x40000 + 64) 8 + 10) % 2 ^ 64 < s.load (0x40000 + 32) 8) ∧
    (let s := { powered false 0 none 0 with mem := cells [(0x40020, 10)] }
     s.load (0x40000 + 32) 8 ≤ (s.load (0x40000 + 64) 8 + 10) % 2 ^ 64 ∧ s.rcbSpent 0x40000 = false) ∧
    (let s := powered false 0 none 0
     (s.setRidge 0 { s.ridge 0 with temp := 200 &&& 0xFFFF }).regionRidges 0x40000 = [0] ∧ (s.eff 7 0x40000 : Int) * 16 = 160 ∧ 160 ≤ ((200 : Word).setWidth 16).toInt ∧
      s.rcbHot 0x40000 = false ∧ (powered true 0 none 0).rcbHot 0x40000 = true ∧ ((100 : Word).setWidth 16).toInt < 160 - 32 ∧ 160 - 32 ≤ ((150 : Word).setWidth 16).toInt ∧
      s.heats.find? (fun e => e.1 == 0x40000) = some (0x40000, ⟨0, none⟩) ∧ 0 + 1000000 ≤ s.time ∧ ¬ 1999999999 + 1000000 ≤ s.time) ∧
    (let s := powered false 0 (some true) 200; s.heats.find? (fun e => e.1 == 0x40000) = some (0x40000, ⟨0, some true⟩) ∧ s.hotWanted 0x40000 = some true) := by decide +kernel

/-- A record of a kind with sequence number 1, no payload and an empty signature's place. -/
def record (content : FlashContent) : FlashRecord :=
  ⟨leBytes 8 (contentKind content * 2 ^ 32 + 0x46434B53) ++ leBytes 8 1 ++ List.replicate 72 0, content⟩

/-- A fault record that has taken number 0 of the ring, and the acknowledgement of a store, with a beat period of 1 µs from time 0. -/
def served : State :=
  let s := crew.setCore 0 { crew.core 0 with acks := [(3, 7)] }
  let s := s.setMe { s.me with run := .running, faulted := some { cls := 3, detail := 9, precise := false } }
  { s with faults := [⟨some 0, [1, 2, 3, 4, 5, 6, 7, 8]⟩], heart := 0x100000000, time := 1000, timeLock := true }

theorem witness_ServiceSteps :
    (0x5000 < 2 ^ 47 ∧ (crew.ctx 0).faulted = none ∧ ((powered false 0 none 0).ridge (ridgeOf (coreOf 0))).trim ≠ 0) ∧
    (served.me.faulted = some { cls := 3, detail := 9, precise := false } ∧ isService (coreOf served.cur) = false ∧
      ({ cls := 3, detail := 9, precise := false } : Trap).isUser = false) ∧
    (served.faults = [⟨some 0, [1, 2, 3, 4, 5, 6, 7, 8]⟩] ∧ (0 + 2 ^ 32 - served.load (served.regbase.toNat + 0x41000008) 4) % 2 ^ 32 < 4096 ∧
      (let s := { served with mem := cells [(0x41000008, 0xFFFFF000)] }; 4096 ≤ (0 + 2 ^ 32 - s.load (s.regbase.toNat + 0x41000008) 4) % 2 ^ 32)) ∧
    ((served.core served.focus).acks = (3, 7) :: [] ∧ crew.myCore.acks = [] ∧ crew.faults = []) ∧
    (field served.heart 63 32 ≠ 0 ∧ served.crashed = false ∧ served.heartAt + field served.heart 63 32 * 1000 ≤ served.time ∧ field crew.heart 63 32 = 0 ∧
      0 ∈ served.ctxs.map Prod.fst ∧ (served.ctx 0).run = .running) ∧
    ((served.core (1024 + 3)).removed = false ∧ (∀ n, n < 8 → n ∈ (List.range 8).filter (fun n => !(served.core (1024 + n)).removed)) ∧ crew.timeLock = false ∧ served.timeLock = true) ∧
    (let s := base.setRidge 0 { base.ridge 0 with draining := true }
     s.ridgeEmpty 0 = true ∧ (s.ridge 0).retired = false ∧ (s.die (0 / 32)).spares = [32, 33] ∧ ((s.setDie 0 { s.die 0 with spares := [] }).die (0 / 32)).spares = []) ∧
    (let s := crew.setRidge 0 { crew.ridge 0 with draining := true }; s.ridgeEmpty 0 = false) ∧ (crew.ridge 0).draining = false := by decide +kernel

/-- The carve error's sites, with a trim and with none; an L1 line; the new map of a drained ridge, which the operator's key signs or not. -/
theorem witness_ServiceSteps_more :
    (let s := crew.setRidge 0 { crew.ridge 0 with trim := 0, leaseLeft := 0 }
     (!(decide ((s.ridge (ridgeOf s.focus)).trim = 0) && decide ((s.ridge (ridgeOf s.focus)).leaseLeft = 0))) = false ∧ (∀ e, e ∈ s.l1 s.focus → e.line ≠ 0x5000 / 128)) ∧
    ((powered false 0 none 0).ridge (ridgeOf (coreOf (0 : CtxId)))).trim ≠ 0 ∧
    (let m : FlashContent := .ridgeMap ((List.range 128).map (fun r => r % 32)) []
     let s : State := { base with flash := [record (.ownership [9])], newMap := some (record m) }
     s.mapsRidges m = true ∧ s.mapsRidges (.ridgeMap [] []) = false ∧ operatorKey s.flash = some [9] ∧ (∀ q, q ∈ s.flash → recordKind q ≠ 3) ∧
      recordOk (record m) = true ∧ s.newMap = some (record m) ∧ base.newMap = none) := by decide +kernel

/-- Every core's active bank number is 0 or 1 in a state that lists no other. -/
theorem active_small {s : State} (h : s.cores.all (fun e => decide (e.2.active < 2)) = true) (m : Nat) : (s.core m).active < 2 := by
  unfold State.core
  generalize s.cores = l at h ⊢
  induction l with
  | nil => exact Nat.zero_lt_succ 1
  | cons e es ih =>
    simp only [List.all_cons, Bool.and_eq_true, decide_eq_true_eq] at h
    unfold Table.get
    split
    · exact h.1
    · exact ih h.2

theorem witness_ServiceSteps_banks : ∀ m, (served.core m).active < 2 := active_small (by decide +kernel)
theorem witness_Scheduling_banks : ∀ m, ((startable .resident).core m).active < 2 := active_small (by decide +kernel)

/-- A boot configuration with no record. -/
def booting (failed : Option Nat) : BootConfig := ⟨[1, 2, 3], [4, 5], [6, 7], [8], [], failed⟩

/-- A job of 1 GiB with an image of one header, for submitter key 0, placed in partition 1 at 2 GiB; a package that has come up with that key. -/
def job1 : JobMessage :=
  let image := leBytes 8 0x00010001334F4B50 ++ List.replicate 8 0xFF ++ List.replicate 112 0
  ⟨[0x00000001424A4B53, 77, 0x40000000, 0, 128, 0, 0, 0], image, [],
   ⟨1, 0x80000000, [(0xC0008080, leBytes 8 0x80000000 ++ leBytes 8 0x40000000 ++ leBytes 8 0x80001000 ++ leBytes 8 0xC0009000 ++ leBytes 8 0x10001 ++
     leBytes 16 1 ++ leBytes 8 0 ++ leBytes 8 0xC0000100)], [], [], []⟩⟩
def serving : State :=
  { memo with ptab := 0xC0008000, regbase := 0xC0000000, regsize := 0x40000000, bringUp := 5, flash := [record (.submitterKeys [[9]])] }

/-- That the job is valid rests on its signature, whose check is an opaque function (log 8): its other checks hold. -/
theorem witness_BringUpAndJobs :
    ((1 ≤ 2 ∧ 2 ≤ 5 ∧ (booting (some 2)).failedStep = some 2 ∧ (booting none).failedStep = none) ∧ crew.bringUp ≠ 5 ∧ serving.bringUp = 5) ∧
    serving.jobValid { job1 with header := [] } = false ∧ serving.jobValid job1 = Config.signatureValid [9] (headerBytes job1 ++ job1.image) [] ∧
    (jobRefused job1 = false ∧ jobRefused { job1 with image := [] } = true) ∧ serving.jobFits job1 = true ∧ serving.jobFits { job1 with plan := ⟨0, 0, [], [], [], []⟩ } = false := by
  refine ⟨by decide, by decide +kernel, ?_, by decide +kernel, by decide +kernel, by decide +kernel⟩
  simp only [State.jobValid, show serving.configOf 4 = some (.submitterKeys [[9]]) from rfl]
  generalize Config.signatureValid = f
  have h : field (job1.header.getD 0 0) 51 48 = 0 := by decide
  rw [h]
  simp only [List.getElem?_cons_zero]
  have h : (decide (field (job1.header.getD 0 0) 63 52 = 0) && decide (field (job1.header.getD 0 0) 47 32 = 1) && decide (field (job1.header.getD 0 0) 31 0 = 0x424A4B53) &&
    decide ((job1.header.getD 2 0).toNat % 2 ^ 30 = 0) && decide (field (job1.header.getD 4 0) 63 32 = 0) && decide (field (job1.header.getD 4 0) 31 0 = job1.image.length) &&
    decide (job1.header.getD 5 0 = 0) && decide (job1.header.getD 6 0 = 0) && decide (job1.header.getD 7 0 = 0) && decide (job1.header.length = 8)) = true := by decide +kernel
  rw [h, Bool.true_and]
  rfl

/-- A configuration with an ownership record is genuine where its signatures are valid; with no record it is not. -/
theorem witness_BringUpAndJobs_genuine :
    operatorKey (recordsInForce (booting none).rootKey (booting none).records) = none ∧
    ((∀ k m t, Config.signatureValid k m t = true) → operatorKey (recordsInForce [1] [record (.ownership [9])]) = some [9]) := by
  refine ⟨by decide +kernel, fun h => ?_⟩
  have hk : recordKind (record (.ownership [9])) = 1 := by decide +kernel
  have ho : recordOk (record (.ownership [9])) = true := by decide +kernel
  have n3 : operatorKey [record (.ownership [9])] = some [9] := by decide +kernel
  generalize record (.ownership [9]) = r at *
  have n1 : newest [r] 1 [1] = some r := by simp [newest, recordSigned, h, hk, ho]
  have n2 : ∀ n, n ∈ [2, 3, 4, 5] → newest [r] n [9] = none := by
    intro n hn
    have : n ≠ 1 := by rintro rfl; simp at hn
    simp [newest, hk, Ne.symm this]
  unfold recordsInForce
  simp only [n1, n3]
  rw [List.filterMap_eq_nil_iff.mpr n2]
  exact n3

theorem witness_BringUpAndJobs_room : serving.hasRoom (job1.header.getD 2 0).toNat = true ∧
    ({ serving with regbase := 0, regsize := BitVec.ofNat 64 (2 ^ 39) } : State).hasRoom (job1.header.getD 2 0).toNat = false := by decide +kernel

/-! ### Witnesses: decoding, stepping, trapping and logging -/

theorem witness_UnassignedBundles :
    (let s := migrating [0, 192]
     let x := s.me
     ((x.choice != 0) || (x.trailTop != x.trailBase) || x.task.isSome || x.region.isSome) = false ∧ isService (coreOf s.cur) = false) ∧
    (migrating [0, 192]).refuge (migrating [0, 192]).cur 17 ≠ none ∧ (migrating [0]).refuge (migrating [0]).cur 17 = none ∧ (regional none 0).me.region.isSome = true ∧
    isService (coreOf service.cur) = true := by
  refine ⟨by decide +kernel, ?_, by decide +kernel, by decide +kernel, by decide +kernel⟩
  rw [refuge_single (s := migrating [0, 192]) (c := (migrating [0, 192]).cur) (f := 17) (d := 192) (by decide +kernel)]
  exact Option.some_ne_none 192

theorem witness_RoundTrip : (Instr.addi 40 41 1000).wf = true ∧ (Instr.addi 40 41 1000).fields.isSome = true ∧ (Instr.skput 3 518).wf = true ∧
    (Instr.skput 3 518).fields.isSome = true ∧ (Instr.mmul 1 2 3 1).wf = true ∧ (Instr.mmul 1 2 3 1).fields.isSome = true := by decide

/-- An add and a vector add stand where context 0 fetches. -/
def fetching : State := State.reset.withWords [0x0194, 0xF101, 0x1994]

theorem witness_StepRunsDecoded :
    (fetching.agenda = [] ∧ fetching.turnNow = .bundle 0 ∧ (fetching.ctx 0).faulted = none ∧ (fetching.ctx 0).regionFails = false ∧ (fetching.ctx 0).interruptible = false ∧ (fetching.ctx 0).rope = none) ∧
    (given (fetchWords (fetching.ctx 0).pc 5 (fetching.select 0)) = some [0x0194] ∧ decode (fetching.env 0) [0x0194] = .ok (.add 3 1 2 false, [])) ∧
    (let x := fetching.ctx 0
     [0x0194] = [] ++ [(0x0194 : IWord)] ∧ isPrefix 0x0194 = false ∧ isAperture x.pc = false ∧ isService (coreOf 0) = false ∧
      ((fetching.core (coreOf 0)).cached x.part x.pc.toNat).map TlbEntry.pte = some 0xBF ∧
      (match fetching.checkLeaf x.part .fetch 2 x.pc.toNat 0xBF with
        | .ok l => !l.isSC && decide (x.pc.toNat % l.size + 2 * 1 ≤ l.size) && (run (l.pa x.pc.toNat) (2 * 1)).all (fun a => !fetching.claims.contains (lineOf a) &&
            !fetching.poison.contains (lineOf a) && (fetching.select 0).readable (lineOf a) && (fetching.oldByte 0 a).isNone) && decide (fetching.mem.bytes (l.pa x.pc.toNat) (2 * 1) = ([0x0194] : List IWord).flatMap (fun w => leBytes 2 w.toNat))
        | .error _ => false) = true) := by decide +kernel

/-- An add completes, and so does its step; time passes. -/
theorem witness_InvKept : fetching.Inv ∧ runs (step fetching) = true := by
  unfold State.Inv
  decide +kernel

/-- A cause on a service core, a user trap with and without a vector, and a fault, with a record clear of the fault ring. -/
theorem witness_TrapEntry :
    (isService (coreOf service.cur) = true ∧ isService (coreOf base.cur) = false) ∧ ((5, 2) : Nat × Nat) ∈ [(0, 16), (0, 18), (4, 6), (5, 0), (5, 1), (5, 2), (5, 7), (6, 16)] ∧
    (let s := base.setMe { base.me with utvec := 0x4800, record := 0x100000, pend := [⟨.g 1, 5, 0, 2, 0, none⟩] }
     s.me.utvec ≠ 0 ∧ s.me.status.getLsbD 0 = false ∧ (supervisor.me.status.getLsbD 0 = true) ∧ s.me.status.getLsbD 3 = false ∧ s.me.record + 65536 ≤ s.ring ∧ s.me.pend ≠ [] ∧ base.me.utvec = 0 ∧ base.me.pend = []) := by decide +kernel

/-- A context with an open choice point and a word to log at 0x5000. -/
def logging (room : Word) : State :=
  let s := chosen [] 0x130200
  setRegs (s.setMe { s.me with trailLim := s.me.trailTop + room }) [(9, 0x5000), (10, 0x1122334455667788)]

theorem witness_LoggedStores :
    ((logging 64).clear [9, 10] [] [] [] = true ∧ (logging 64).Reads [9, 10] [0x5000, 0x1122334455667788] (logging 64)) ∧
    (∃ u, locate .store 0x5000 8 (logging 64) = .ok (at8 0x5000, u) ∧ u.unshared (at8 0x5000) ∧ u.landed (at8 0x5000) ∧ isAperture 0x5000 = false ∧ u.me.choice ≠ 0 ∧
      u.me.speculates = false ∧ u.me.trailTop.toNat + 16 ≤ u.me.trailLim.toNat ∧ u.myItems = [(0x130000, 0x5003)] ∧ (0x5003 : Word).toNat % 8 = 3 ∧
      0x130000 + 512 = u.me.trailTop.toNat ∧ 0x130000 = u.me.choice.toNat ∧ 0x5000 + 8 ≤ u.myLoc 0x130000) ∧
    (∃ u, locate .store 0x5003 1 (logging 64) = .ok ([0x5000 + 3], u) ∧ u.unshared [0x5003] ∧ u.landed [0x5003]) ∧
    (∃ u, locate .store 0x5000 8 (logging 8) = .ok (at8 0x5000, u) ∧ u.me.trailLim.toNat < u.me.trailTop.toNat + 16) :=
  ⟨holds_reads (by decide +kernel), ⟨_, given_eq (by decide +kernel), free_unshared (by decide +kernel), landed_of (by decide +kernel), by decide +kernel⟩,
   ⟨_, given_eq (by decide +kernel), free_unshared (by decide +kernel), landed_of (by decide +kernel)⟩, ⟨_, given_eq (by decide +kernel), by decide +kernel⟩⟩

/-- A kput of a register that the trail logs, with and without room. -/
theorem witness_LoggedStores_registers :
    ((logging 64).clear [10] [] [] [] = true ∧ (logging 64).Reads [10] [0x1122334455667788] (logging 64)) ∧
    ((logging 64).me.choice ≠ 0 ∧ (logging 64).me.speculates = false ∧ (logging 64).me.trailTop.toNat + 16 ≤ (logging 64).me.trailLim.toNat ∧
      (logging 8).me.trailLim.toNat < (logging 8).me.trailTop.toNat + 16) :=
  ⟨holds_reads (by decide +kernel), by decide +kernel⟩


end Sys2Proof.Tests
end

section
/-! SUPPORT. Register files and ports (R14 to R17): what a write of a register and a push or pop of a port change, and what they leave. -/

namespace Sys2Proof.Machine

/-! ### Plain registers (R14) -/

@[simp] theorem Ctx.rd_zero (x : Ctx) : x.rd 0 = 0 := rfl

@[simp] theorem Ctx.wr_zero (x : Ctx) (w : Word) : x.wr 0 w = x := rfl

theorem Ctx.rd_wr_same (x : Ctx) {r : GReg} (h : r ≠ 0) (w : Word) : (x.wr r w).rd r = w := by
  simp [Ctx.rd, Ctx.wr, h]

theorem Ctx.rd_wr_other (x : Ctx) {r q : GReg} (h : q ≠ r) (w : Word) : (x.wr r w).rd q = x.rd q := by
  have hv : r.val ≠ q.val := fun e => h (Fin.ext e.symm)
  by_cases hr : r = 0
  · simp [Ctx.wr, hr]
  · simp [Ctx.rd, Ctx.wr, hr, Vector.getElem_set_ne, hv]

/-! ### Frames of an update -/

theorem State.keepsOthers_setCtx (s : State) (c : CtxId) (x : Ctx) : s.keepsOthers (s.setCtx c x) c :=
  fun d hd => s.setCtx_ctx_other c d x hd

theorem State.keepsOthers_setMe (s : State) (x : Ctx) : s.keepsOthers (s.setMe x) s.cur := s.keepsOthers_setCtx s.cur x

theorem State.keepsPackage_setMe (s : State) (x : Ctx) : s.keepsPackage (s.setMe x) := by
  simp [State.keepsPackage]

/-! ### Where a result goes -/

theorem State.put_plain (s : State) {r : GReg} (h : isPort r = false) (w : Word) : s.put r w = s.setMe (s.me.wr r w) := by
  simp [State.put, State.wrote, h]

@[simp] theorem State.put_zero_me (s : State) (w : Word) : (s.put 0 w).me = s.me := by
  rw [s.put_plain rfl, State.setMe_me, Ctx.wr_zero]

/-- A push into g56 goes to the end of the assembly buffer (R15, R16). -/
theorem State.put_buffer_asm (s : State) (w : Word) : (s.put 56 w).me.asm = s.me.asm ++ [.word w] := by
  have h : s.put 56 w = s.setMe { s.me with asm := s.me.asm ++ [.word w] } := rfl
  rw [h, State.setMe_me]

/-- A checked update of a vector at an index below its length is the plain one. -/
theorem vector_set!_eq_set {α : Type} {n i : Nat} (v : Vector α n) (h : i < n) (x : α) : v.set! i x = v.set i x := by
  apply Vector.ext
  intro j hj
  rw [Vector.set!_eq_setIfInBounds, Vector.getElem_setIfInBounds hj, Vector.getElem_set]

theorem Bank.onLink_set (x : Bank) {i : Nat} (h : i < 4) (f : List PortPlace → List PortPlace) :
    x.onLink i f = { x with links := x.links.set i (f x.links[i]) } := by
  simp [Bank.onLink, Bank.link, h, vector_set!_eq_set]

/-- A push into a link goes to the end of that link's queue in the active bank of the core that it leads to (R15). -/
theorem State.put_link_bank (s : State) {r : GReg} {i : Fin 4} (h : 60 + i.val = r.val) (w : Word) :
    let b := s.activeBank (linkTarget (coreOf s.cur) i.val)
    (s.put r w).bank b = { s.bank b with links := (s.bank b).links.set i ((s.bank b).links[i.val] ++ [.word w]) } := by
  have hi : r.val - 60 = i.val := by omega
  have hp : isPort r = true := by simp [isPort]; omega
  have h56 : r.val ≠ 56 := by omega
  simp [State.put, hp, State.pushPort, h56, State.setHomeBank, State.linkHome, State.homeBank, hi, Bank.onLink_set]

/-! ### The neighbours of a core (R15) -/

theorem linkTarget_sameRidge (c : CoreId) (i : Nat) : linkTarget c i / 8 = c / 8 := by
  have ridge : ∀ m n : Nat, (m / 8 * 8 + n % 8) / 8 = m / 8 := by omega
  exact ridge c _

theorem linkTarget_offset (c : CoreId) (i : Fin 4) : linkTarget c i.val % 8 = (c + [1, 7, 2, 4].getD i.val 0) % 8 := by
  have place : ∀ m n : Nat, (m / 8 * 8 + n % 8) % 8 = n % 8 := by omega
  fin_cases i <;> exact place c _

/-- Settles O10, from one lemma for each clause: the register file's read after a write, the frame of a write, a push's queue, and
`State.portWords_dropPort` for a pop. -/
theorem registerFile : Obligations.RegisterFile := by
  intro s r q w
  refine ⟨s.me.rd_zero, s.put_zero_me w, fun hp hr => ?_, fun hp hq => ?_, fun hp => ?_, s.put_buffer_asm w, fun i b c hi hb hc => ?_,
    fun hp => ⟨?_, fun p hp' hne => ?_⟩⟩
  · rw [s.put_plain hp, State.setMe_me, Ctx.rd_wr_same _ hr]
  · rw [s.put_plain hp, State.setMe_me, Ctx.rd_wr_other _ hq]
  · rw [s.put_plain hp]
    exact ⟨s.keepsOthers_setMe _, s.keepsPackage_setMe _, rfl⟩
  · subst hb hc
    exact ⟨s.put_link_bank hi w, linkTarget_sameRidge _ _, linkTarget_offset _ i⟩
  · rw [s.portWords_dropPort r r hp hp, if_pos rfl]
  · rw [s.portWords_dropPort r p hp hp', if_neg hne]

/-! ### Ports that are not ready (R17) -/

theorem countReg_cons (r a : GReg) (rs : List GReg) : countReg r (a :: rs) = (if a = r then 1 else 0) + countReg r rs := by
  by_cases h : a = r <;> simp [countReg, h, Nat.add_comm]

/-- No pending result is to write any of a bundle's registers, and its links join members of the team: what `issue` checks before it looks
at the ports. -/
structure State.Names (s : State) (reads writes : List GReg) : Prop where
  free : ∀ r, r ∈ reads ∨ r ∈ writes → s.me.pend.all (fun p => !p.writesG r) = true
  sources : ∀ r, r ∈ reads → 60 ≤ r.val → s.holdsMyTeam (linkSource (coreOf s.cur) (r.val - 60)) = true
  targets : ∀ r, r ∈ writes → 60 ≤ r.val → s.holdsMyTeam (linkTarget (coreOf s.cur) (r.val - 60)) = true

theorem State.Names.noPending {s : State} {reads writes : List GReg} (h : s.Names reads writes) :
    s.me.pend.find? (fun p => reads.any p.writesG || writes.any p.writesG || [].any p.writesV || [].any p.writesV) = none := by
  rw [List.find?_eq_none]
  intro p hp
  have free : ∀ r, r ∈ reads ∨ r ∈ writes → p.writesG r = false := fun r hr => by
    simpa using List.all_eq_true.mp (h.free r hr) p hp
  simp only [List.any_nil, Bool.or_false, Bool.or_eq_true, List.any_eq_true, not_or, not_exists, not_and]
  exact ⟨fun r hr => by simp [free r (.inl hr)], fun r hr => by simp [free r (.inr hr)]⟩

theorem State.Names.linksJoin {s : State} {reads writes : List GReg} (h : s.Names reads writes) :
    (reads.any (fun r => decide (60 ≤ r.val) && !s.holdsMyTeam (linkSource (coreOf s.cur) (r.val - 60))) ||
      writes.any (fun r => decide (60 ≤ r.val) && !s.holdsMyTeam (linkTarget (coreOf s.cur) (r.val - 60)))) = false := by
  simp only [Bool.or_eq_false_iff, List.any_eq_false, Bool.and_eq_true, decide_eq_true_eq, Bool.not_eq_true', not_and]
  exact ⟨fun r hr h60 => by simp [h.sources r hr h60], fun r hr h60 => by simp [h.targets r hr h60]⟩

/-- A stalled bundle waits for a message where it reads g56, and only there (R16). -/
theorem stall_message_iff (reads : List GReg) : (if reads.any (· == 56) then Wait.message else .other) = .message ↔ (56 : GReg) ∈ reads := by
  by_cases h : (56 : GReg) ∈ reads
  · simp [h]
  · simp [h]

/-- A bundle that reads a port with too few words stalls; it waits for a message where it reads g56 (R16, R17). -/
theorem issue_short {s : State} {reads writes : List GReg} (h : s.Names reads writes) {a : GReg} (ha : a ∈ reads) (hp : isPort a = true)
    (hw : (s.portWords s.cur a).length < countReg a reads) :
    issue reads writes [] [] s = .error (.wait (if reads.any (· == 56) then .message else .other)) := by
  have short : reads.any (fun r => isPort r && decide ((s.portWords s.cur r).length < countReg r reads)) = true :=
    List.any_eq_true.mpr ⟨a, ha, by simp [hp, hw]⟩
  unfold issue
  rw [M.bind_ok (M.get_run s)]
  simp only [h.noPending, h.linksJoin, short, Bool.false_eq_true, if_false, if_true]
  split <;> rfl

/-- A bundle that reads plain registers and writes a link without room stalls (R17). -/
theorem issue_noRoom {s : State} {a d : GReg} (h : s.Names [a] [d]) (ha : isPort a = false) (hd : 60 ≤ d.val)
    (hroom : s.portRoom s.cur d = 0) : issue [a] [d] [] [] s = .error (.wait .other) := by
  have h56 : d ≠ 56 := fun e => by subst e; exact absurd hd (by decide)
  have hp : isPort d = true := by simp [isPort]; omega
  unfold issue
  rw [M.bind_ok (M.get_run s)]
  simp only [h.noPending, h.linksJoin, Bool.false_eq_true, if_false]
  simp only [List.any_cons, List.any_nil, ha, hp, hroom, Bool.false_and, Bool.or_false, Bool.false_eq_true, if_false,
    beq_eq_false_iff_ne.mpr h56, decide_true, Bool.true_and, if_true]
  split <;> rfl

theorem binary_short {s : State} {d a b : GReg} (h : s.Names [a, b] [d]) (ha : isPort a = true)
    (hw : (s.portWords s.cur a).length < (if a = b then 2 else 1)) (f : Word → Word → Word) :
    runBundle (binary f d a b) s = .next (s.noteStall (if [a, b].any (· == 56) then .message else .other)) := by
  refine runBundle_wait (M.bind_error (issue_short h (List.mem_cons_self ..) ha ?_))
  simp only [countReg_cons]
  split at hw
  · rename_i e; simpa [e, countReg] using hw
  · simpa using by omega

theorem unary_short {s : State} {d a : GReg} (h : s.Names [a] [d]) (ha : isPort a = true) (hw : s.portWords s.cur a = [])
    (f : Word → Word) : runBundle (unary f d a) s = .next (s.noteStall (if [a].any (· == 56) then .message else .other)) :=
  runBundle_wait (M.bind_error (issue_short h (List.mem_cons_self ..) ha (by simp [hw, countReg])))

theorem unary_noRoom {s : State} {d a : GReg} (h : s.Names [a] [d]) (ha : isPort a = false) (hd : 60 ≤ d.val)
    (hroom : s.portRoom s.cur d = 0) (f : Word → Word) : runBundle (unary f d a) s = .next (s.noteStall .other) :=
  runBundle_wait (M.bind_error (issue_noRoom h ha hd hroom))

/-- What a stall notes and what it leaves (R18). -/
theorem State.noteStall_leaves (s : State) (w : Wait) : (s.noteStall w).mem = s.mem ∧ (s.noteStall w).banks = s.banks ∧
    s.keepsOthers (s.noteStall w) s.cur ∧ (s.noteStall w).me = { s.me with wait := w } ∧ s.cur ∈ (s.noteStall w).stalled :=
  ⟨rfl, rfl, s.keepsOthers_setMe _, s.setMe_me _, List.mem_cons_self ..⟩

/-- Settles O11: `issue` stops an operation before its first read, so every one of them notes the same stall. -/
theorem portStall : Obligations.PortStall := by
  intro s d a b f imm hfree hlink
  have names : ∀ rs : List GReg, rs ⊆ [a, b] → s.Names rs [d] := fun rs hrs =>
    have named : ∀ r, r ∈ rs ∨ r ∈ [d] → r ∈ [d, a, b] := fun r hr => by
      rcases hr with hr | hr
      · exact List.mem_cons_of_mem d (hrs hr)
      · exact List.mem_singleton.mp hr ▸ List.mem_cons_self ..
    ⟨fun r hr => hfree r (named r hr), fun r hr h60 => (hlink r (named r (.inl hr)) h60).1, fun r hr h60 => (hlink r (named r (.inr hr)) h60).2⟩
  have two := names [a, b] (List.Subset.refl _)
  have one := names [a] (by simp)
  refine ⟨fun ha hw => ⟨_, binary_short two ha hw _, binary_short two ha hw _, binary_short two ha hw _, ?_⟩,
    fun ha hw => ⟨_, unary_short one ha hw _, ?_⟩, fun hd ha hroom => unary_noRoom one ha hd hroom _, s.noteStall_leaves⟩
  · rw [stall_message_iff, List.mem_pair, eq_comm, @eq_comm _ 56 b]
  · rw [stall_message_iff, List.mem_singleton, eq_comm]

end Sys2Proof.Machine
end

section
/-! SUPPORT. The machine at power-good (R27, R176, R179, R240, R302, R456). -/

namespace Sys2Proof.Machine

/-! ### At reset no table lists an entry, so every entry is its reset value -/

@[simp] theorem State.reset_ctx (c : CtxId) : State.reset.ctx c = Ctx.reset c := rfl
@[simp] theorem State.reset_bank (b : Nat) : State.reset.bank b = Bank.reset b := rfl
@[simp] theorem State.reset_core (k : CoreId) : State.reset.core k = Core.reset k := rfl
@[simp] theorem State.reset_ridge (r : Nat) : State.reset.ridge r = Ridge.reset r := rfl

/-- The phase tables stand in rising order and no entry of one is zero. -/
theorem resetPhases_wf : Memory.wf resetPhases = true := by decide +kernel

theorem State.reset_inv : State.reset.Inv := resetPhases_wf

theorem Core.reset_ta (k : CoreId) : (Core.reset k).ta = if k < 1024 ∧ 24 ≤ k / 8 % 32 then 1 else 7 := by
  simp [Core.reset, broadCore, and_comm]

theorem Ctx.reset_rd (c : CtxId) (r : GReg) : (Ctx.reset c).rd r = 0 := by
  simp [Ctx.reset, Ctx.rd]

theorem Ctx.reset_v (c : CtxId) (v : VReg) : (Ctx.reset c).v[v.val] = 0 := by
  simp [Ctx.reset]

/-- R27: 1,216 KiB are left of a bank with the reset carve. -/
theorem State.reset_scratchSize (b : Nat) : State.reset.scratchSize b = 1216 * 1024 := by
  have carve : scratchBytes 0 3 false = 1216 * 1024 := by decide
  exact carve

/-- R302: each context's trail is its eighth of the bank's trail. -/
theorem Ctx.reset_trailBase (c : CtxId) : (Ctx.reset c).trailBase = BitVec.ofNat 64 (0x130000 + c % 8 * 0x2000) := rfl

theorem Ctx.reset_trailLim (c : CtxId) : (Ctx.reset c).trailLim = (Ctx.reset c).trailBase + 0x2000 := by
  simp [Ctx.reset, BitVec.ofNat_add]

/-- Settles O58, entry by entry of the reset values. -/
theorem resetState : Obligations.ResetState :=
  ⟨State.reset_inv, rfl, rfl, fun _ => ⟨rfl, rfl, rfl⟩, fun b => ⟨rfl, State.reset_scratchSize b⟩,
    fun k => ⟨rfl, rfl, rfl, rfl, rfl, rfl, rfl, Core.reset_ta k, rfl, fun _ _ _ => rfl⟩,
    fun c => ⟨Ctx.reset_trailBase c, rfl, Ctx.reset_trailLim c, rfl, rfl, Ctx.reset_rd c, Ctx.reset_v c, rfl, rfl, rfl⟩⟩

end Sys2Proof.Machine
end

section
/-! SUPPORT. Control registers (R23, R152, R373 to R378, R387, R437): what each number reads as, and the outcome of kget and skget by cases. -/

namespace Sys2Proof.Machine

/-! ### Conditions that fail -/

theorem M.require_trap {ok : Bool} (h : ok = false) (c d : Nat) (s : State) : require ok c d s = .error (.trap { cls := c, detail := d }) := by
  subst h; rfl

theorem M.await_wait {ok : Bool} (h : ok = false) (w : Wait) (s : State) : await ok w s = .error (.wait w) := by
  subst h; rfl

theorem supervisorOnly_run {s : State} (h : s.supervisor s.cur = true) : supervisorOnly s = .ok ((), s) := by
  unfold supervisorOnly
  rw [M.bind_ok (M.get_run s), M.bind_ok (M.get_run s), M.require_run h]

theorem supervisorOnly_trap {s : State} (h : s.supervisor s.cur = false) : supervisorOnly s = .error (.trap { cls := 0, detail := 6 }) := by
  unfold supervisorOnly
  rw [M.bind_ok (M.get_run s), M.bind_ok (M.get_run s), M.require_trap h]

/-- A bundle that reads no general register passes every check of issue once what it names is free. -/
theorem issue_noReads {s : State} {ws : List GReg} {vr vw : List VReg} (h : s.clear [] ws vr vw = true) :
    issue [] ws vr vw s = .ok ((), s) :=
  issue_run (xs := []) h rfl

/-- A bundle is what its work does in the state that it starts in. -/
theorem runBundle_congr {m m' : M Unit} {s : State} (h : m s = m' s) : runBundle m s = runBundle m' s := by
  unfold runBundle; rw [h]

/-! ### What a number reads as -/

/-- A register of context scope reads as the registry's image of it (R384); k.STATUS and k.CTX have values of their own. -/
theorem State.control_context (s : State) (c : CtxId) {n : Nat} (h : contextScope n = true) (h3 : n ≠ 3) (h512 : n ≠ 512) :
    s.control c n = (s.ctx c).kImage n := by
  rw [State.control, if_neg h512, if_pos ⟨h, h3⟩]

theorem State.control_shared (s : State) (c : CtxId) {n : Nat} (h : contextScope n = false) : s.control c n = s.sharedReg c n := by
  have h512 : n ≠ 512 := fun e => by subst e; exact absurd h (by decide)
  rw [State.control, if_neg h512, if_neg (by simp [h])]

/-- The numbers of the registers of core, ridge, partition and package scope, and k.CTX (R23, R375, R437). -/
def sharedNumbers : List Nat :=
  [0, 1, 2, 3, 4, 5, 40, 41, 50, 516, 517, 518, 519, 520, 521, 524, 525, 526, 527, 528, 529, 531, 532, 533, 534, 535, 536]

theorem State.sharedReg_unassigned (s : State) (c : CtxId) {n : Nat} (h : n ∉ sharedNumbers) : s.sharedReg c n = 0 := by
  unfold State.sharedReg
  dsimp only
  split
  case h_28 => rfl
  all_goals exact absurd (by decide) h

/-- An unassigned user number reads as zero (R23). -/
theorem State.control_unassignedUser (s : State) (c : CtxId) {n : Nat} (hn : n < 512)
    (h : n ∉ [0, 1, 2, 3, 4, 5, 8, 9, 10, 11, 16, 17, 18, 19, 20, 21, 22, 23, 24, 25, 32, 33, 34, 35, 40, 41, 48, 49, 50])
    (hs : ¬(64 ≤ n ∧ n < 128)) : s.control c n = 0 := by
  simp only [List.mem_cons, List.not_mem_nil, or_false, not_or] at h
  rw [s.control_shared c (by simp [contextScope]; omega), s.sharedReg_unassigned c (by simp [sharedNumbers]; omega)]

/-- An unassigned system number reads as zero (R375). -/
theorem State.control_unassignedSystem (s : State) (c : CtxId) {n : Nat} (h : 537 ≤ n) : s.control c n = 0 := by
  rw [s.control_shared c (by simp [contextScope]; omega), s.sharedReg_unassigned c (by simp [sharedNumbers]; omega)]

/-- The user registers of the current context with their values (R23). -/
def State.userRegs (s : State) : List (Nat × Word) :=
  [(0, BitVec.ofNat 64 s.time), (1, BitVec.ofNat 64 s.cyc), (2, BitVec.ofNat 64 (s.placeWord (coreOf s.cur))),
   (4, if 1024 ≤ coreOf s.cur then 0x4073 else if 24 ≤ coreOf s.cur / 8 % 32 then 0x1E43FF else 0x143FF),
   (8, s.me.utvec), (9, s.me.uepc), (10, s.me.ucause), (11, s.me.uinfo), (24, s.me.xfer), (25, s.me.rng), (32, s.me.trailTop),
   (33, s.me.choice), (34, s.me.trailBase), (35, s.me.trailLim), (40, BitVec.ofNat 64 (s.melt / 2 ^ 32)),
   (41, BitVec.ofNat 64 (s.ridge s.myRidge).leaseLeft), (3, s.ctxWord s.cur), (5, s.carveWord s.cur), (48, s.me.unack), (49, s.me.rfail),
   (50, BitVec.ofNat 64 (s.heldHorizon (coreOf s.cur) s.myTeam))] ++
  (List.range 7).map (fun i => (16 + i, (s.me.cp[i]?).getD 0)) ++ (List.range 64).map (fun i => (64 + i, (s.me.strc[i]?).getD 0))

/-- The system registers that the current context sees, with their values (R375, R437). -/
def State.systemRegs (s : State) : List (Nat × Word) :=
  let k := s.myCore
  let r := s.ridge s.myRidge
  [(512, if 1024 ≤ coreOf s.cur then s.me.status ||| 1 else s.me.status), (513, s.me.sepc), (514, s.me.scause),
   (515, BitVec.ofNat 64 s.me.part), (516, k.svec), (517, k.fvec), (518, k.ssel), (519, k.bankst), (521, k.swapt), (522, s.me.yreq),
   (523, s.me.rcba), (524, BitVec.ofNat 64 (s.part s.me.part).ptroot), (525, s.regbase), (526, s.regsize), (527, s.ptab), (528, s.pload),
   (529, s.heart), (530, s.me.incarn), (531, BitVec.ofNat 64 k.staged.toNat), (532, r.rsout), (533, r.rsin), (535, r.temp),
   (536, BitVec.ofNat 64 s.pwr), (520, (k.gens.get (fun _ => 0) s.me.part).setWidth 64), (534, BitVec.ofNat 64 (r.trim * 256 + r.biasState))]

theorem extOf_word (c : CoreId) :
    BitVec.ofNat 64 (extOf c) = if 1024 ≤ c then (0x4073 : Word) else if 24 ≤ c / 8 % 32 then 0x1E43FF else 0x143FF := by
  by_cases h : 1024 ≤ c
  · simp [extOf, isService, h]
  · by_cases hb : 24 ≤ c / 8 % 32
    · simp [extOf, isService, broadCore, h, hb, Nat.not_le.mp h]
    · simp [extOf, isService, broadCore, h, hb]

theorem State.statusOf_eq (s : State) (c : CtxId) :
    s.statusOf c = if 1024 ≤ coreOf c then (s.ctx c).status ||| 1 else (s.ctx c).status := by
  simp [State.statusOf, isService]

theorem Ctx.kImage_cp (x : Ctx) {i : Nat} (h : i < 7) : x.kImage (16 + i) = (x.cp[i]?).getD 0 := by
  interval_cases i <;> rfl

theorem Ctx.kImage_strc (x : Ctx) {i : Nat} (h : i < 64) : x.kImage (64 + i) = (x.strc[i]?).getD 0 := by
  unfold Ctx.kImage
  split
  case h_27 => rw [if_pos (by omega), Nat.add_sub_cancel_left]
  all_goals omega

/-- A listed user register reads as its value, and k23 is none of them. -/
theorem State.userRegs_value (s : State) : ∀ e ∈ s.userRegs, e.1 < 512 ∧ e.1 ≠ 23 ∧ s.control s.cur e.1 = e.2 := by
  simp only [State.userRegs, List.forall_mem_append, List.forall_mem_cons, List.forall_mem_map, List.mem_range]
  refine ⟨⟨?_, fun i hi => ⟨?_, ?_, ?_⟩⟩, fun i hi => ⟨?_, ?_, ?_⟩⟩
  · iterate 3 refine ⟨⟨by decide, by decide, rfl⟩, ?_⟩
    refine ⟨⟨by decide, by decide, extOf_word (coreOf s.cur)⟩, ?_⟩
    iterate 17 refine ⟨⟨by decide, by decide, rfl⟩, ?_⟩
    exact List.forall_mem_nil _
  · omega
  · omega
  · rw [s.control_context s.cur (by simp [contextScope]; omega) (by omega) (by omega)]
    exact s.me.kImage_cp hi
  · omega
  · omega
  · rw [s.control_context s.cur (by simp [contextScope]; omega) (by omega) (by omega)]
    exact s.me.kImage_strc hi

/-- A listed system register reads as its value. -/
theorem State.systemRegs_value (s : State) : ∀ e ∈ s.systemRegs, 512 ≤ e.1 ∧ e.1 < 537 ∧ s.control s.cur e.1 = e.2 := by
  simp only [State.systemRegs, List.forall_mem_cons]
  refine ⟨⟨by decide, by decide, s.statusOf_eq s.cur⟩, ?_⟩
  iterate 24 refine ⟨⟨by decide, by decide, rfl⟩, ?_⟩
  exact List.forall_mem_nil _

/-! ### kget (R152, R378) -/

theorem readControl_run {s : State} {d : GReg} {n : Nat} (hc : s.clear [] [d] [] [] = true) (h23 : n ≠ 23)
    (hp : n < 512 ∨ s.supervisor s.cur = true) : readControl d n s = .ok ((), s.put d (s.control s.cur n)) := by
  unfold readControl
  rw [if_neg h23, M.bind_ok (issue_noReads hc), M.bind_ok (M.get_run s), M.bind_ok (M.require_run (by simpa using hp) 0 6 s)]
  exact writeG_run (State.clear_pend hc (by simp)) _

theorem readControl_unprivileged {s : State} {d : GReg} {n : Nat} (hc : s.clear [] [d] [] [] = true) (hn : 512 ≤ n)
    (hp : s.supervisor s.cur = false) : readControl d n s = .error (.trap { cls := 0, detail := 6 }) := by
  unfold readControl
  rw [if_neg (by omega), M.bind_ok (issue_noReads hc), M.bind_ok (M.get_run s),
    M.bind_error (M.require_trap (by simpa [hp] using hn) 0 6 s)]

theorem exec_kget {s : State} (d : GReg) {n : Nat} (hn : n < 1024) : exec (.kget d n) s = runBundle (readControl d n) s :=
  runBundle_congr (M.bind_ok (M.require_run (by simpa using hn) 0 9 s))

theorem exec_kget_range (s : State) (d : GReg) {n : Nat} (hn : 1024 ≤ n) :
    exec (.kget d n) s = .next (s.trapped (s.me.withDetail { cls := 0, detail := 9 })) :=
  runBundle_trap (M.bind_error (M.require_trap (by simpa using hn) 0 9 s))

/-! ### skget (R387) -/

theorem exec_skget_unprivileged {s : State} (d : GReg) (n : Nat) (hp : s.supervisor s.cur = false) :
    exec (.skget d n) s = .next (s.trapped (s.me.withDetail { cls := 0, detail := 6 })) :=
  runBundle_trap (M.bind_error (supervisorOnly_trap hp))

theorem State.redirects_off {s : State} (h : s.myCore.ssel.getLsbD 4 = false) (n : Nat) : s.redirects n = false := by
  rw [State.redirects, h, Bool.false_and]

theorem State.redirects_on {s : State} (h : s.myCore.ssel.getLsbD 4 = true) (n : Nat) :
    s.redirects n = (contextScope n || n == 50) := by
  rw [State.redirects, h, Bool.true_and]

/-- Where k.SSEL does not redirect it, a skget does what a kget does. -/
theorem exec_skget_direct {s : State} (d : GReg) {n : Nat} (hp : s.supervisor s.cur = true) (hn : n < 1024)
    (hr : s.redirects n = false) : exec (.skget d n) s = runBundle (readControl d n) s := by
  refine runBundle_congr ?_
  rw [M.bind_ok (supervisorOnly_run hp), M.bind_ok (M.require_run (by simpa using hn) 0 9 s), M.bind_ok (M.get_run s), hr]
  rfl

/-- Where k.SSEL redirects it, a skget reads the staged context. -/
theorem exec_skget_redirected {s : State} {d : GReg} {n : Nat} (hp : s.supervisor s.cur = true) (hn : n < 1024)
    (hr : s.redirects n = true) (hc : s.clear [] [d] [] [] = true) :
    exec (.skget d n) s = runBundle (do
      let c ← stagedCtx
      let s ← get
      writeG d ((s.setCtx c (s.slotCtx c)).control c n)) s := by
  refine runBundle_congr ?_
  rw [M.bind_ok (supervisorOnly_run hp), M.bind_ok (M.require_run (by simpa using hn) 0 9 s), M.bind_ok (M.get_run s), hr]
  exact M.bind_ok (issue_noReads hc)

/-! ### The staged context that k.SSEL names (R387) -/

theorem stagedCtx_run {s : State} (hs : s.myCore.staged = true) (hv : s.myCore.valid.getLsbD (field s.myCore.ssel 2 0) = true)
    (hb : s.myCore.busy.getLsbD (field s.myCore.ssel 2 0) = false) :
    stagedCtx s = .ok (ctxIn (s.shadowBank (coreOf s.cur)) (field s.myCore.ssel 2 0), s) := by
  unfold stagedCtx
  rw [M.bind_ok (M.get_run s), M.bind_ok (M.require_run (by simp [hs, hv]) 7 3 s), M.bind_ok (M.await_run (by simp [hb]) .other s)]
  rfl

theorem stagedCtx_invalid {s : State} (h : s.myCore.staged = false ∨ s.myCore.valid.getLsbD (field s.myCore.ssel 2 0) = false) :
    stagedCtx s = .error (.trap { cls := 7, detail := 3 }) := by
  unfold stagedCtx
  rw [M.bind_ok (M.get_run s), M.bind_error (M.require_trap (by simpa [Classical.or_iff_not_imp_left] using h) 7 3 s)]

theorem stagedCtx_busy {s : State} (hs : s.myCore.staged = true) (hv : s.myCore.valid.getLsbD (field s.myCore.ssel 2 0) = true)
    (hb : s.myCore.busy.getLsbD (field s.myCore.ssel 2 0) = true) : stagedCtx s = .error (.wait .other) := by
  unfold stagedCtx
  rw [M.bind_ok (M.get_run s), M.bind_ok (M.require_run (by simp [hs, hv]) 7 3 s), M.bind_error (M.await_wait (by simp [hb]) .other s)]

/-- R387 redirects no register of core, ridge or package scope. -/
theorem notRedirected_user : ∀ n ∈ [0, 1, 2, 4, 5, 40, 41], (contextScope n || n == 50) = false := by decide

theorem notRedirected_system {n : Nat} (hn : 516 ≤ n) (h : n ∉ [522, 523, 530]) : (contextScope n || n == 50) = false := by
  simp only [List.mem_cons, List.not_mem_nil, or_false, not_or] at h
  simp [contextScope]; omega

/-- The numbers that a redirected skget reads as the registry's image of the staged context. -/
theorem redirected_context : ∀ n ∈ [8, 9, 10, 11, 24, 25, 32, 33, 34, 35, 48, 49, 513, 514, 515, 522, 523, 530],
    contextScope n = true ∧ n ≠ 3 ∧ n ≠ 512 ∧ n < 1024 := by decide

/-- A redirected skget of a staged context that is there and idle gives the register's image. -/
theorem exec_skget_staged {s : State} {d : GReg} {n : Nat} (hp : s.supervisor s.cur = true) (hn : n < 1024)
    (hr : s.redirects n = true) (hc : s.clear [] [d] [] [] = true) (hs : contextScope n = true) (h3 : n ≠ 3) (h512 : n ≠ 512) {c : CtxId}
    (h : stagedCtx s = .ok (c, s)) : exec (.skget d n) s = .next (s.put d ((s.slotCtx c).kImage n)).done := by
  rw [exec_skget_redirected hp hn hr hc]
  refine runBundle_ok ?_
  rw [M.bind_ok h, M.bind_ok (M.get_run s), State.control_context _ _ hs h3 h512, State.setCtx_ctx]
  exact writeG_run (State.clear_pend hc (by simp)) _

/-- Settles O26: each clause is the value of a number (`State.userRegs_value`, `State.systemRegs_value` and the unassigned ones) or the cause
that stops its read, handed to the outcome of kget or skget in that case. -/
theorem controlRegisterReads : Obligations.ControlRegisterReads := by
  intro s d n w c hc k r team bias assigned user system privileged
  have userValue : (n, w) ∈ user → n < 512 ∧ n ≠ 23 ∧ s.control s.cur n = w := s.userRegs_value (n, w)
  have systemValue : (n, w) ∈ system → 512 ≤ n ∧ n < 537 ∧ s.control s.cur n = w := s.systemRegs_value (n, w)
  have get : ∀ {v}, n ≠ 23 → n < 512 ∨ privileged = true → s.control s.cur n = v → runBundle (readControl d n) s = .next (s.put d v).done :=
    fun h23 hp hv => hv ▸ runBundle_ok (readControl_run hc h23 hp)
  have direct : privileged = true → s.redirects n = false → n < 1024 → n ≠ 23 → s.control s.cur n = w →
      exec (.skget d n) s = .next (s.put d w).done := fun hp hr hn h23 hv => by
    rw [exec_skget_direct d hp hn hr, get h23 (.inr hp) hv]
  refine ⟨fun h => ?_, fun hn ha hs => ?_, fun h hp => ?_, fun hn hn' hp => ?_, fun hn hn' hp => ?_, fun hn => exec_kget_range s d hn,
    fun hp => exec_skget_unprivileged d n hp, fun h hp hr => ?_, fun hp hr h => ?_, fun hp hr h => ?_⟩
  · obtain ⟨hn, h23, hv⟩ := userValue h
    rw [exec_kget d (by omega), get h23 (.inl hn) hv]
  · have h23 : n ≠ 23 := fun e => ha (by simp [assigned, e])
    rw [exec_kget d (by omega), get h23 (.inl hn) (s.control_unassignedUser s.cur hn ha hs)]
  · obtain ⟨hn, hn', hv⟩ := systemValue h
    rw [exec_kget d (by omega), get (by omega) (.inr hp) hv]
  · rw [exec_kget d hn', get (by omega) (.inr hp) (s.control_unassignedSystem s.cur hn)]
  · rw [exec_kget d hn', runBundle_trap (readControl_unprivileged hc hn hp)]
  · have hr' := State.redirects_off hr n
    rcases List.mem_append.mp h with h | h
    · obtain ⟨hn, h23, hv⟩ := userValue h
      exact direct hp hr' (by omega) h23 hv
    · obtain ⟨hn, hn', hv⟩ := systemValue h
      exact direct hp hr' (by omega) (by omega) hv
  · rcases h with ⟨h, hn⟩ | ⟨h, hn, ho⟩
    · obtain ⟨hn', h23, hv⟩ := userValue h
      exact direct hp (State.redirects_on hr n ▸ notRedirected_user n hn) (by omega) h23 hv
    · obtain ⟨-, hn', hv⟩ := systemValue h
      exact direct hp (State.redirects_on hr n ▸ notRedirected_system hn ho) (by omega) (by omega) hv
  · obtain ⟨hs, h3, h512, hn⟩ := redirected_context n h
    have hr' : s.redirects n = true := by rw [State.redirects_on hr, hs, Bool.true_or]
    refine ⟨fun hv => ?_, fun hst hv hb => ?_, fun hst hv hb he => he ▸ exec_skget_staged hp hn hr' hc hs h3 h512 (stagedCtx_run hst hv hb)⟩
    · rw [exec_skget_redirected hp hn hr' hc, runBundle_trap (M.bind_error (stagedCtx_invalid hv))]
    · rw [exec_skget_redirected hp hn hr' hc, runBundle_wait (M.bind_error (stagedCtx_busy hst hv hb))]

end Sys2Proof.Machine
end

section
/-! SUPPORT. What a bundle leaves when it retires (R52 to R54, R78, R430), and words in memory (R2). -/

namespace Sys2Proof.Machine

/-! ### A bundle that retires -/

/-- A retiring bundle's step in its rope changes the rope's die, and of the contexts at most its own place in the rope. -/
theorem State.ropeStep_cases (s : State) (c : CtxId) (x : Ctx) :
    ∃ ds, s.ropeStep c x = { s with dies := ds } ∨
      ∃ r, s.ropeStep c x = State.setCtx { s with dies := ds } c { s.ctx c with rope := r } := by
  unfold State.ropeStep
  split
  · exact ⟨s.dies, .inl rfl⟩
  · dsimp only
    split
    · exact ⟨_, .inl rfl⟩
    · split
      · unfold State.stray
        split
        · exact ⟨_, .inl rfl⟩
        · split
          · exact ⟨_, .inl rfl⟩
          · exact ⟨_, .inr ⟨_, rfl⟩⟩
      · exact ⟨s.dies, .inl rfl⟩

theorem State.ropeStep_ctx (s : State) (c : CtxId) (x : Ctx) : ∃ r, (s.ropeStep c x).ctx c = { s.ctx c with rope := r } := by
  obtain ⟨ds, h | ⟨r, h⟩⟩ := s.ropeStep_cases c x
  · exact ⟨(s.ctx c).rope, by rw [h]; rfl⟩
  · exact ⟨r, by rw [h, State.setCtx_ctx]⟩

theorem State.ropeStep_ctx_other (s : State) {c d : CtxId} (hd : d ≠ c) (x : Ctx) : (s.ropeStep c x).ctx d = s.ctx d := by
  obtain ⟨ds, h | ⟨r, h⟩⟩ := s.ropeStep_cases c x
  · rw [h]; rfl
  · rw [h, State.setCtx_ctx_other _ _ _ _ hd]; rfl

@[simp] theorem State.ropeStep_mem (s : State) (c : CtxId) (x : Ctx) : (s.ropeStep c x).mem = s.mem := by
  obtain ⟨ds, h | ⟨r, h⟩⟩ := s.ropeStep_cases c x <;> exact (congrArg State.mem h).trans rfl

@[simp] theorem State.ropeStep_banks (s : State) (c : CtxId) (x : Ctx) : (s.ropeStep c x).banks = s.banks := by
  obtain ⟨ds, h | ⟨r, h⟩⟩ := s.ropeStep_cases c x <;> exact (congrArg State.banks h).trans rfl

@[simp] theorem State.ropeStep_cur (s : State) (c : CtxId) (x : Ctx) : (s.ropeStep c x).cur = s.cur := by
  obtain ⟨ds, h | ⟨r, h⟩⟩ := s.ropeStep_cases c x <;> exact (congrArg State.cur h).trans rfl

/-- A context whose bundle retires is at its next bundle, with its windows and pins one bundle on (R61, R136). -/
theorem State.retireCtx_ctx (s : State) (c : CtxId) : ∃ r, (s.retireCtx c).ctx c = { (s.ctx c).retired with rope := r } := by
  unfold State.retireCtx
  obtain ⟨r, h⟩ := State.ropeStep_ctx _ c (s.ctx c)
  exact ⟨r, by rw [h, State.setCore_ctx, State.setCtx_ctx]⟩

theorem State.retireCtx_ctx_other (s : State) {c d : CtxId} (hd : d ≠ c) : (s.retireCtx c).ctx d = s.ctx d := by
  unfold State.retireCtx
  rw [State.ropeStep_ctx_other _ hd, State.setCore_ctx, State.setCtx_ctx_other _ _ _ _ hd]

@[simp] theorem State.retireCtx_mem (s : State) (c : CtxId) : (s.retireCtx c).mem = s.mem := by simp [State.retireCtx]
@[simp] theorem State.retireCtx_banks (s : State) (c : CtxId) : (s.retireCtx c).banks = s.banks := by simp [State.retireCtx]
@[simp] theorem State.retireCtx_cur (s : State) (c : CtxId) : (s.retireCtx c).cur = s.cur := by simp [State.retireCtx]

@[simp] theorem State.done_mem (s : State) : s.done.mem = s.mem := s.retireCtx_mem s.cur
@[simp] theorem State.done_cur (s : State) : s.done.cur = s.cur := s.retireCtx_cur s.cur

theorem State.done_me (s : State) : ∃ r, s.done.me = { s.me.retired with rope := r } := by
  obtain ⟨r, h⟩ := s.retireCtx_ctx s.cur
  refine ⟨r, Eq.trans ?_ h⟩
  show (s.retireCtx s.cur).ctx (s.retireCtx s.cur).cur = _
  rw [State.retireCtx_cur]

/-- Retiring leaves the general and vector registers and the registry's image as they were. -/
theorem State.done_registers (s : State) : (∀ r, s.done.me.rd r = s.me.rd r) ∧ (∀ v : VReg, s.done.me.v[v.val] = s.me.v[v.val]) ∧
    (∀ n, s.done.me.kImage n = s.me.kImage n) ∧ s.done.me.trailTop = s.me.trailTop := by
  obtain ⟨r, h⟩ := s.done_me
  rw [h]
  exact ⟨fun _ => rfl, fun _ => rfl, fun _ => rfl, rfl⟩

/-! ### Words in memory (R2) -/

theorem Memory.writes_append (m : Memory) (a : Nat) (xs ys : List Byte) :
    m.writes a (xs ++ ys) = (m.writes a xs).writes (a + xs.length) ys := by
  induction xs generalizing m a with
  | nil => rfl
  | cons x xs ih => simp only [List.cons_append, Memory.writes, List.length_cons, ih, Nat.add_assoc, Nat.add_comm]

theorem Memory.bytes_congr {m m' : Memory} {a n : Nat} (h : ∀ b, a ≤ b → b < a + n → m.read b = m'.read b) : m.bytes a n = m'.bytes a n := by
  induction n generalizing a with
  | zero => rfl
  | succ n ih =>
    rw [Memory.bytes, Memory.bytes, h a (Nat.le_refl a) (by omega), ih (fun b hb hb' => h b (by omega) (by omega))]

theorem Memory.bytes_writes_other (m : Memory) {a b n : Nat} {xs : List Byte} (h : a + n ≤ b ∨ b + xs.length ≤ a) :
    (m.writes b xs).bytes a n = m.bytes a n :=
  Memory.bytes_congr fun c hc hc' => m.read_writes_other b c xs (by omega)

/-- The bytes of a list of words. -/
theorem wordBytes_length (ws : List Word) : (ws.flatMap (fun w => leBytes 8 w.toNat)).length = 8 * ws.length := by
  induction ws with
  | nil => rfl
  | cons w ws ih => simp only [List.flatMap_cons, List.length_append, ih, leBytes_length, List.length_cons]; omega

theorem State.storeWords_cons (s : State) (loc : Nat) (w : Word) (ws : List Word) :
    s.storeWords loc (w :: ws) = (s.storeWords loc [w]).storeWords (loc + 8) ws := by
  simp only [State.storeWords, List.flatMap_cons, List.flatMap_nil, List.append_nil, Memory.writes_append, leBytes_length]

theorem State.word_storeWords_same (s : State) (loc : Nat) (w : Word) : (s.storeWords loc [w]).word loc = w := by
  have h : (s.storeWords loc [w]).mem.bytes loc 8 = leBytes 8 w.toNat := by
    simpa [State.storeWords, leBytes_length] using s.mem.bytes_writes_same loc (leBytes 8 w.toNat)
  have small : w.toNat < 256 ^ 8 := w.isLt
  rw [State.word, State.load, h, leNat_leBytes, Nat.mod_eq_of_lt small, BitVec.ofNat_toNat, BitVec.setWidth_eq]

theorem State.word_storeWords_other (s : State) {loc a : Nat} {ws : List Word} (h : a + 8 ≤ loc ∨ loc + 8 * ws.length ≤ a) :
    (s.storeWords loc ws).word a = s.word a := by
  simp only [State.word, State.load, State.storeWords]
  rw [Memory.bytes_writes_other _ (by rwa [wordBytes_length])]

theorem State.keepsMemory_storeWords (s : State) (loc : Nat) (ws : List Word) :
    s.keepsMemory (s.storeWords loc ws) (run loc (8 * ws.length)) := by
  intro a ha
  have outside : a < loc ∨ loc + 8 * ws.length ≤ a := by
    by_contra h
    exact ha (List.mem_map.mpr ⟨a - loc, List.mem_range.mpr (by omega), by omega⟩)
  exact s.mem.read_writes_other loc a _ (by rwa [wordBytes_length])

end Sys2Proof.Machine
end

section
/-! SUPPORT. Writes of control registers (R23, R239, R305, R375 to R378, R387, R437): what each number keeps, the entry that a logging context
pushes first, and the outcome of kput and skput by cases. -/

namespace Sys2Proof.Machine

/-! ### What reading an operand leaves (R15) -/

/-- Reading register operands takes words out of ports: nothing else of the context, and no memory, core or saved context changes. -/
structure State.Popped (s t : State) : Prop where
  cur : t.cur = s.cur
  mem : t.mem = s.mem
  cores : t.cores = s.cores
  saved : t.saved = s.saved
  ctx : ∀ c, ∃ m e q d, t.ctx c = { s.ctx c with msg := m, evt := e, mres := q, done := d }

theorem State.Popped.refl (s : State) : s.Popped s := ⟨rfl, rfl, rfl, rfl, fun _ => ⟨_, _, _, _, rfl⟩⟩

theorem State.popped_setCtx {s : State} {c : CtxId} {x : Ctx} (h : ∃ m e q d, x = { s.ctx c with msg := m, evt := e, mres := q, done := d }) :
    s.Popped (s.setCtx c x) := by
  refine ⟨rfl, rfl, rfl, rfl, fun c' => ?_⟩
  by_cases e : c' = c
  · subst e; rw [State.setCtx_ctx]; exact h
  · rw [State.setCtx_ctx_other _ _ _ _ e]; exact ⟨_, _, _, _, rfl⟩

theorem State.popped_dropPort (s : State) (r : GReg) : s.Popped (s.dropPort s.cur r) := by
  unfold State.dropPort
  dsimp only
  split
  case h_5 => exact ⟨rfl, rfl, rfl, rfl, fun _ => ⟨_, _, _, _, rfl⟩⟩
  all_goals exact State.popped_setCtx ⟨_, _, _, _, rfl⟩

theorem State.Reads.popped {s t : State} {d : GReg} {w : Word} (h : s.Reads [d] [w] t) : s.Popped t := by
  unfold State.Reads at h
  split at h
  · exact h.2 ▸ s.popped_dropPort d
  · exact h.2 ▸ State.Popped.refl s

section
variable {s t : State} (h : s.Popped t)
include h

theorem State.Popped.me : ∃ m e q d, t.me = { s.me with msg := m, evt := e, mres := q, done := d } := by
  rw [State.me, h.cur]; exact h.ctx s.cur

theorem State.Popped.logging : t.me.logging = s.me.logging := by
  obtain ⟨m, e, q, d, hme⟩ := h.me; rw [hme]; rfl

theorem State.Popped.speculates : t.me.speculates = s.me.speculates := by
  obtain ⟨m, e, q, d, hme⟩ := h.me; rw [hme]; rfl

theorem State.Popped.trail : t.me.trailTop = s.me.trailTop ∧ t.me.trailLim = s.me.trailLim := by
  obtain ⟨m, e, q, d, hme⟩ := h.me; rw [hme]; exact ⟨rfl, rfl⟩

theorem State.Popped.kImage (n : Nat) : t.me.kImage n = s.me.kImage n := by
  obtain ⟨m, e, q, d, hme⟩ := h.me; rw [hme]; rfl

theorem State.Popped.supervisor : t.supervisor t.cur = s.supervisor s.cur := by
  obtain ⟨m, e, q, d, hme⟩ := h.me
  show (isService (coreOf t.cur) || t.me.status.getLsbD 0) = (isService (coreOf s.cur) || s.me.status.getLsbD 0)
  rw [hme, h.cur]

theorem State.Popped.record (c : CtxId) : (t.ctx c).record = (s.ctx c).record := by
  obtain ⟨m, e, q, d, hx⟩ := h.ctx c; rw [hx]
end

/-! ### What a write of a register of context scope keeps -/

/-- The user registers that a kput may write: what each write makes of a context (R23, R239). -/
def Ctx.userWrites (x : Ctx) (w : Word) : List (Nat × Ctx) :=
  [(8, { x with utvec := w }), (9, { x with uepc := w }), (10, { x with ucause := w }), (11, { x with uinfo := w }), (25, { x with rng := w }),
   (49, { x with rfail := w }), (23, x), (16, { x with cp := x.cp.set 0 w }), (17, { x with cp := x.cp.set 1 w }),
   (18, { x with cp := x.cp.set 2 (w &&& 0x1FFFF) }), (19, { x with cp := x.cp.set 3 (w &&& 0x1FFFFFF) }), (20, { x with cp := x.cp.set 4 w }),
   (21, { x with cp := x.cp.set 5 w }), (22, { x with cp := x.cp.set 6 (w &&& 0xFF03) })] ++
  (List.finRange 64).map (fun i => (64 + i.val, { x with strc := x.strc.set i w }))

theorem Ctx.setLogged_strc (x : Ctx) (i : Fin 64) (w : Word) : x.setLogged (64 + i.val) w = { x with strc := x.strc.set i w } := by
  unfold Ctx.setLogged
  split
  case h_7 => 
    rw [if_neg (by omega), if_pos (by omega)]
    simp [vector_set!_eq_set]
  all_goals omega

/-- A number whose kput the trail logs. -/
theorem Ctx.setControl_logged (x : Ctx) {n : Nat} (h : loggedReg n = true) (hn : n < 512) (w : Word) :
    x.setControl n w = x.setLogged n (copyMask n w) := by
  unfold Ctx.setControl
  split
  case h_14 => rfl
  all_goals exact absurd (And.intro h hn) (by decide)

theorem Ctx.userWrites_eq (x : Ctx) (w : Word) : ∀ e ∈ x.userWrites w, e.1 < 512 ∧ userAssigned e.1 = true ∧ userReadOnly e.1 = false ∧
    loggedReg e.1 = (e.1 != 23) ∧ x.setControl e.1 w = e.2 := by
  simp only [Ctx.userWrites, List.forall_mem_append, List.forall_mem_map]
  constructor
  · simp [userAssigned, userReadOnly, loggedReg, Ctx.setControl, Ctx.setLogged, copyMask, vector_set!_eq_set]
  · intro i _
    have logged : loggedReg (64 + i.val) = true := by simp [loggedReg]
    have mask : copyMask (64 + i.val) w = w := by
      unfold copyMask
      split
      case h_5 => rfl
      all_goals omega
    refine ⟨by omega, by simp [userAssigned]; omega, by simp [userReadOnly]; omega, ?_, ?_⟩
    · rw [logged]; simp; omega
    · rw [x.setControl_logged logged (by omega), mask, x.setLogged_strc]

/-! ### What a logged write leaves -/

theorem Ctx.setLogged_frame (x : Ctx) (n : Nat) (w : Word) :
    (x.setLogged n w).g = x.g ∧ (x.setLogged n w).v = x.v ∧ (x.setLogged n w).trailTop = x.trailTop := by
  unfold Ctx.setLogged
  split
  case h_7 => split_ifs <;> exact ⟨rfl, rfl, rfl⟩
  all_goals exact ⟨rfl, rfl, rfl⟩

theorem Ctx.setLogged_trailTop (x : Ctx) (a : Word) (n : Nat) (w : Word) :
    ({ x with trailTop := a } : Ctx).setLogged n w = { x.setLogged n w with trailTop := a } := by
  unfold Ctx.setLogged
  split
  case h_7 => split_ifs <;> rfl
  all_goals rfl

theorem Ctx.kImage_trailTop (x : Ctx) (a : Word) {n : Nat} (h : n ≠ 32) : ({ x with trailTop := a } : Ctx).kImage n = x.kImage n := by
  unfold Ctx.kImage
  split
  case h_14 => exact absurd rfl h
  all_goals rfl

theorem Ctx.kImage_setCp_other (x : Ctx) {m n : Nat} (h : m ≠ n) (hn : 16 ≤ n) (w : Word) :
    ({ x with cp := x.cp.set! (n - 16) w } : Ctx).kImage m = x.kImage m := by
  unfold Ctx.kImage
  split
  case h_5 | h_6 | h_7 | h_8 | h_9 | h_10 | h_11 =>
    simp only [Vector.set!_eq_setIfInBounds]
    rw [Vector.getElem?_setIfInBounds_ne (by omega)]
  all_goals rfl

theorem Ctx.kImage_setStrc_other (x : Ctx) {m n : Nat} (h : m ≠ n) (hn : 64 ≤ n) (w : Word) :
    ({ x with strc := x.strc.set! (n - 64) w } : Ctx).kImage m = x.kImage m := by
  have hne : 64 ≤ m → n - 64 ≠ m - 64 := by omega
  unfold Ctx.kImage
  split
  case h_27 =>
    split_ifs with hm
    · simp only [Vector.set!_eq_setIfInBounds]
      rw [Vector.getElem?_setIfInBounds_ne (hne hm.1)]
    · rfl
  all_goals rfl

theorem Ctx.kImage_setLogged_other (x : Ctx) {m n : Nat} (h : m ≠ n) (w : Word) : (x.setLogged n w).kImage m = x.kImage m := by
  unfold Ctx.setLogged
  split
  case h_7 =>
    split_ifs with hc hs
    · exact x.kImage_setCp_other h hc.1 w
    · exact x.kImage_setStrc_other h hs.1 w
    · rfl
  all_goals
    unfold Ctx.kImage
    split <;> simp_all

/-! ### The trail's entry (R303, R306) -/

theorem pushTrail_run {s : State} (info : Word) (item : List Word) (h : s.me.trailTop.toNat + 8 * item.length ≤ s.me.trailLim.toNat) :
    pushTrail info item s = .ok ((), (s.storeWords (s.myLoc s.me.trailTop.toNat) item).setMe
      { s.me with trailTop := s.me.trailTop + BitVec.ofNat 64 (8 * item.length) }) := by
  unfold pushTrail
  rw [M.bind_ok (M.get_run s)]
  simp only [if_neg (Nat.not_lt.mpr h)]
  rfl

theorem pushTrail_full {s : State} (info : Word) (item : List Word) (h : s.me.trailLim.toNat < s.me.trailTop.toNat + 8 * item.length)
    (hs : s.me.speculates = false) : pushTrail info item s = .error (.trap { cls := 5, detail := 2, info }) := by
  unfold pushTrail
  rw [M.bind_ok (M.get_run s)]
  simp only [if_pos h, hs]
  rfl

/-! ### kput's write of a user register (R23, R305) -/

section
variable {s : State} {n : Nat} (hn : n < 512) (w : Word)
include hn

theorem writeControl_unassigned (ha : userAssigned n = false) : writeControl n w s = .error (.trap { cls := 0, detail := 14 }) := by
  unfold writeControl
  rw [if_neg (by omega), M.bind_error (M.require_trap ha 0 14 s)]

theorem writeControl_readOnly (ha : userAssigned n = true) (hr : userReadOnly n = true) :
    writeControl n w s = .error (.trap { cls := 0, detail := 15 }) := by
  unfold writeControl
  rw [if_neg (by omega), M.bind_ok (M.require_run ha 0 14 s), M.bind_error (M.require_trap (by simp [hr]) 0 15 s)]

variable (ha : userAssigned n = true) (hr : userReadOnly n = false)
include ha hr

theorem writeControl_plain (hl : s.me.logging = false) : writeControl n w s = .ok ((), s.setMe (s.me.setControl n w)) := by
  unfold writeControl
  rw [if_neg (by omega), M.bind_ok (M.require_run ha 0 14 s), M.bind_ok (M.require_run (by simp [hr]) 0 15 s), M.bind_ok (M.getMe_run s)]
  simp only [hl]
  rfl

/-- While the context logs, a register's entry goes first: its number with kind 1, and its old value (R303, R305). -/
theorem writeControl_logged (hl : s.me.logging = true) (hg : loggedReg n = true) :
    writeControl n w s = (pushTrail (BitVec.ofNat 64 n) [BitVec.ofNat 64 (n * 8 + 1), s.me.kImage n] >>= fun _ =>
      modifyMe (fun x => x.setControl n w)) s := by
  unfold writeControl
  rw [if_neg (by omega), M.bind_ok (M.require_run ha 0 14 s), M.bind_ok (M.require_run (by simp [hr]) 0 15 s), M.bind_ok (M.getMe_run s)]
  simp only [hl, hg]
  rfl
end

/-! ### kput's write of a system register (R375 to R378, R437) -/

theorem writeControl_system {s : State} {n : Nat} (w : Word) (hn : 512 ≤ n) (hp : s.supervisor s.cur = true) :
    writeControl n w s = systemWrite n w s := by
  unfold writeControl
  rw [if_pos hn, M.bind_ok (M.get_run s), M.bind_ok (M.get_run s), M.bind_ok (M.require_run hp 0 6 s)]

theorem writeControl_unprivileged {s : State} {n : Nat} (w : Word) (hn : 512 ≤ n) (hp : s.supervisor s.cur = false) :
    writeControl n w s = .error (.trap { cls := 0, detail := 6 }) := by
  unfold writeControl
  rw [if_pos hn, M.bind_ok (M.get_run s), M.bind_ok (M.get_run s), M.bind_error (M.require_trap hp 0 6 s)]

/-- The system registers that supervisor mode may write: what each write makes of the state (R375, R377, R437, R446). -/
def State.systemWrites (t : State) (w : Word) : List (Nat × State) :=
  let x := t.me
  let k := t.myCore
  [(512, t.setMe { x with status := (x.status &&& ~~~12#64) ||| (w &&& 12#64) }), (513, t.setMe { x with sepc := w }),
   (514, t.setMe { x with scause := w &&& (if w.getLsbD 63 then 0x80000000000001FF else 0x3FF) }), (523, t.setMe { x with rcba := w }),
   (516, t.setCore (coreOf t.cur) { k with svec := w }), (518, t.setCore (coreOf t.cur) { k with ssel := w &&& 0x17 }),
   (521, t.setCore (coreOf t.cur) { k with swapt := w }), (522, t.requestYield t.cur w),
   (532, t.setRidge t.myRidge { t.ridge t.myRidge with rsout := w }), (533, t.setRidge t.myRidge { t.ridge t.myRidge with rsin := w })]

/-- The same for the registers that only a service core may write (R374, R377, R435). -/
def State.packageWrites (t : State) (w : Word) : List (Nat × State) :=
  [(517, t.setCore (coreOf t.cur) { t.myCore with fvec := w }), (525, { t with regbase := w }), (526, { t with regsize := w }), (527, { t with ptab := w }),
   (529, t.beat w)]

theorem systemWrite_system (t : State) (w : Word) : ∀ e ∈ t.systemWrites w, 512 ≤ e.1 ∧ e.1 < 1024 ∧ systemWrite e.1 w t = .ok ((), e.2) := by
  simp only [State.systemWrites, List.forall_mem_cons]
  iterate 10 refine ⟨⟨by decide, by decide, rfl⟩, ?_⟩
  exact List.forall_mem_nil _

theorem systemWrite_package {t : State} (hs : isService (coreOf t.cur) = true) (w : Word) :
    ∀ e ∈ t.packageWrites w, 512 ≤ e.1 ∧ e.1 < 1024 ∧ systemWrite e.1 w t = .ok ((), e.2) := by
  simp only [State.packageWrites, List.forall_mem_cons]
  refine ⟨?_, ?_, ?_, ?_, ?_, List.forall_mem_nil _⟩
  all_goals
    refine ⟨by decide, by decide, ?_⟩
    unfold systemWrite
    rw [M.bind_ok (M.get_run t)]
    simp only [hs]
    rfl

theorem systemWrite_pload {t : State} (hs : isService (coreOf t.cur) = true) (w : Word) : systemWrite 528 w t = ploadOp w t := by
  unfold systemWrite
  rw [M.bind_ok (M.get_run t)]
  simp only [hs]
  rfl

theorem systemWrite_stagectl (t : State) (w : Word) : systemWrite 531 w t = stagectlOp w t := rfl

theorem systemWrite_readOnly (t : State) (w : Word) {n : Nat} (h : systemReadOnly n = true) :
    systemWrite n w t = .error (.trap { cls := 7, detail := 1 }) := by
  unfold systemWrite
  rw [M.bind_ok (M.get_run t)]
  simp only [h]
  rfl

theorem systemWrite_serviceOnly {t : State} (hs : isService (coreOf t.cur) = false) (w : Word) {n : Nat} (h : 525 ≤ n) (h' : n ≤ 529) :
    systemWrite n w t = .error (.trap { cls := 7, detail := 1 }) := by
  have hr : systemReadOnly n = false := by simp [systemReadOnly]; omega
  unfold systemWrite
  rw [M.bind_ok (M.get_run t)]
  simp only [hr, hs, h, h', and_self]
  rfl

theorem systemWrite_unassigned (t : State) (w : Word) {n : Nat} (h : 537 ≤ n) :
    systemWrite n w t = .error (.trap { cls := 7, detail := 0 }) := by
  have hr : systemReadOnly n = false := by simp [systemReadOnly]; omega
  unfold systemWrite
  rw [M.bind_ok (M.get_run t)]
  simp only [hr, show ¬(525 ≤ n ∧ n ≤ 529 ∧ isService (coreOf t.cur) = false) by omega]
  simp only [Bool.false_eq_true, if_false]
  split
  case h_18 => rfl
  all_goals omega

/-! ### kput and skput (R152, R387) -/

section
variable {s t : State} {d : GReg} {n : Nat} {w : Word} (hc : s.clear [d] [] [] [] = true) (hr : s.Reads [d] [w] t)
include hc hr

theorem readG_then (f : Word → M Unit) : (readG d >>= f) s = f w t := by
  obtain ⟨u, hread, ht, -⟩ := State.readG_run (State.clear_pend hc (by simp)) hr
  have htu : t = u := ht
  rw [M.bind_ok hread, htu]

theorem exec_kput_eq (hn : n < 1024) : exec (.kput d n) s = runBundle (readG d >>= writeControl n) s := by
  refine runBundle_congr ?_
  rw [M.bind_ok (M.require_run (by simpa using hn) 0 9 s), M.bind_ok (issue_run hc hr)]

theorem exec_skput_eq (hn : n < 1024) (hp : s.supervisor s.cur = true) (hd : s.redirects n = false) :
    exec (.skput d n) s = runBundle (readG d >>= writeControl n) s := by
  refine runBundle_congr ?_
  rw [M.bind_ok (supervisorOnly_run hp), M.bind_ok (M.require_run (by simpa using hn) 0 9 s), M.bind_ok (issue_run hc hr),
    M.bind_ok (M.get_run s), hd]
  rfl

theorem exec_kput {u : State} (hn : n < 1024) (h : writeControl n w t = .ok ((), u)) : exec (.kput d n) s = .next u.done := by
  rw [exec_kput_eq hc hr hn, runBundle_ok ((readG_then hc hr _).trans h)]

theorem exec_kput_trap {c : Trap} (hn : n < 1024) (h : writeControl n w t = .error (.trap c)) :
    exec (.kput d n) s = .next (s.trapped (s.me.withDetail c)) := by
  rw [exec_kput_eq hc hr hn, runBundle_trap ((readG_then hc hr _).trans h)]

theorem exec_skput {u : State} (hn : n < 1024) (hp : s.supervisor s.cur = true) (hd : s.redirects n = false)
    (h : writeControl n w t = .ok ((), u)) : exec (.skput d n) s = .next u.done := by
  rw [exec_skput_eq hc hr hn hp hd, runBundle_ok ((readG_then hc hr _).trans h)]

/-- Where k.SSEL redirects it, a skput writes the staged context. -/
theorem exec_skput_redirected (hn : n < 1024) (hp : s.supervisor s.cur = true) (hd : s.redirects n = true) :
    exec (.skput d n) s = runBundle (do
      let c ← stagedCtx
      require (n != 48 && n != 50) 7 1
      let w ← readG d
      modify (fun s =>
        let s := s.setSlotCtx c ((s.slotCtx c).setControl n w)
        if n = 522 then s.yieldNotice c w else s)) s := by
  refine runBundle_congr ?_
  rw [M.bind_ok (supervisorOnly_run hp), M.bind_ok (M.require_run (by simpa using hn) 0 9 s), M.bind_ok (issue_run hc hr),
    M.bind_ok (M.get_run s), hd]
  rfl

theorem exec_skput_unstaged (hn : n < 1024) (hp : s.supervisor s.cur = true) (hd : s.redirects n = true)
    (hv : s.myCore.staged = false ∨ s.myCore.valid.getLsbD (field s.myCore.ssel 2 0) = false) :
    exec (.skput d n) s = .next (s.trapped (s.me.withDetail { cls := 7, detail := 3 })) := by
  rw [exec_skput_redirected hc hr hn hp hd, runBundle_trap (M.bind_error (stagedCtx_invalid hv))]

/-- A redirected skput of k.SEPC writes a staged context that no spill has written out. -/
theorem exec_skput_sepc (hp : s.supervisor s.cur = true) (hd : s.redirects 513 = true) {c : CtxId} (h : stagedCtx s = .ok (c, s))
    (hrec : (s.saved.map Prod.fst).contains (s.ctx c).record = false) :
    exec (.skput d 513) s = .next (t.setCtx c { t.ctx c with sepc := w }).done := by
  have hrec' : (t.saved.map Prod.fst).contains (t.ctx c).record = false := by rw [hr.popped.saved, hr.popped.record]; exact hrec
  rw [exec_skput_redirected hc hr (by omega) hp hd]
  refine runBundle_ok ?_
  rw [M.bind_ok h, M.bind_ok (M.require_run (by decide) 7 1 s), readG_then hc hr, M.modify_run]
  simp only [State.setSlotCtx, State.slotCtx, hrec']
  rfl
end

theorem exec_kput_range (s : State) (d : GReg) {n : Nat} (hn : 1024 ≤ n) :
    exec (.kput d n) s = .next (s.trapped (s.me.withDetail { cls := 0, detail := 9 })) :=
  runBundle_trap (M.bind_error (M.require_trap (by simpa using hn) 0 9 s))

theorem exec_skput_unprivileged {s : State} (d : GReg) (n : Nat) (hp : s.supervisor s.cur = false) :
    exec (.skput d n) s = .next (s.trapped (s.me.withDetail { cls := 0, detail := 6 })) :=
  runBundle_trap (M.bind_error (supervisorOnly_trap hp))

/-! ### A kput while the context logs (R303, R305) -/

/-- The state once a register's entry has been pushed and the register written. -/
def State.loggedWrite (t : State) (n : Nat) (w : Word) : State :=
  (t.storeWords (t.myLoc t.me.trailTop.toNat) [BitVec.ofNat 64 (n * 8 + 1), t.me.kImage n]).setMe
    (({ t.me with trailTop := t.me.trailTop + 16 } : Ctx).setControl n w)

section
variable {t : State} {n : Nat} (hn : n < 512) (hg : loggedReg n = true) (w : Word)
include hn hg

theorem writeControl_loggedWrite (ha : userAssigned n = true) (hr : userReadOnly n = false) (hl : t.me.logging = true)
    (hroom : t.me.trailTop.toNat + 16 ≤ t.me.trailLim.toNat) : writeControl n w t = .ok ((), t.loggedWrite n w) := by
  rw [writeControl_logged hn w ha hr hl hg, M.bind_ok (pushTrail_run _ _ hroom), M.modifyMe_run, State.setMe_me, State.setMe_setMe]
  rfl

theorem State.loggedWrite_me : (t.loggedWrite n w).me = { t.me.setControl n w with trailTop := t.me.trailTop + 16 } := by
  rw [State.loggedWrite, State.setMe_me, Ctx.setControl_logged _ hg hn, Ctx.setControl_logged _ hg hn, Ctx.setLogged_trailTop]

/-- The registers that a logged write leaves: all but the one written and k.TRAILTOP. -/
theorem State.loggedWrite_keeps : t.keepsRegisters (t.loggedWrite n w).done [] [] [n, 32] := by
  obtain ⟨hg', hv, hk, -⟩ := (t.loggedWrite n w).done_registers
  obtain ⟨fg, fv, -⟩ := t.me.setLogged_frame n (copyMask n w)
  have me := State.loggedWrite_me hn hg (t := t) w
  rw [Ctx.setControl_logged _ hg hn] at me
  refine ⟨State.done_cur _, fun r _ _ => ?_, fun r _ => ?_, fun m hm => ?_⟩
  · rw [hg', me]; simp only [Ctx.rd, fg]
  · rw [hv, me]; simp only [fv]
  · simp only [List.mem_cons, List.not_mem_nil, or_false, not_or] at hm
    rw [hk, me, Ctx.kImage_trailTop _ _ hm.2, Ctx.kImage_setLogged_other _ hm.1]

end

/-- The entry that a logged write leaves in memory, and nothing else there. -/
theorem State.loggedWrite_mem (t : State) (n : Nat) (w : Word) : let item := t.myLoc t.me.trailTop.toNat
    (t.loggedWrite n w).done.word item = BitVec.ofNat 64 (n * 8 + 1) ∧ (t.loggedWrite n w).done.word (item + 8) = t.me.kImage n ∧
    t.keepsMemory (t.loggedWrite n w).done (run item 16) := by
  intro item
  have word : ∀ a, (t.loggedWrite n w).done.word a =
      ((t.storeWords item [BitVec.ofNat 64 (n * 8 + 1)]).storeWords (item + 8) [t.me.kImage n]).word a := fun a => by
    rw [← State.storeWords_cons, State.word, State.load, State.done_mem]; rfl
  refine ⟨?_, ?_, fun a ha => ?_⟩
  · rw [word, State.word_storeWords_other _ (.inl (Nat.le_refl _)), State.word_storeWords_same]
  · rw [word, State.word_storeWords_same]
  · rw [State.done_mem]
    exact t.keepsMemory_storeWords item _ a ha

/-! ### The outcomes of a kput while the context logs -/

section
variable {s t : State} {d : GReg} {n : Nat} {w : Word} (hc : s.clear [d] [] [] [] = true) (hr : s.Reads [d] [w] t) (hn : n < 512)
  (ha : userAssigned n = true) (hro : userReadOnly n = false) (hg : loggedReg n = true) (hl : s.me.logging = true)
include hc hr hn ha hro hg hl

theorem exec_kput_logged (hroom : s.me.trailTop.toNat + 16 ≤ s.me.trailLim.toNat) :
    let item := s.myLoc s.me.trailTop.toNat
    ∃ v, exec (.kput d n) s = .next v ∧ v.me.kImage n = (t.me.setControl n w).kImage n ∧ v.me.trailTop = s.me.trailTop + 16 ∧
      v.word item = BitVec.ofNat 64 (n * 8 + 1) ∧ v.word (item + 8) = s.me.kImage n ∧ s.keepsMemory v (run item 16) ∧
      t.keepsRegisters v [] [] [n, 32] := by
  have pop := hr.popped
  have h32 : n ≠ 32 := fun e => by subst e; exact absurd hg (by decide)
  have hroom' : t.me.trailTop.toNat + 16 ≤ t.me.trailLim.toNat := by rw [pop.trail.1, pop.trail.2]; exact hroom
  have hitem : s.myLoc s.me.trailTop.toNat = t.myLoc t.me.trailTop.toNat := by rw [State.myLoc, State.myLoc, pop.cur, pop.trail.1]
  have hw := writeControl_loggedWrite hn hg w ha hro (pop.logging.trans hl) hroom'
  have hme := State.loggedWrite_me hn hg (t := t) w
  obtain ⟨-, -, hk, htop⟩ := (t.loggedWrite n w).done_registers
  obtain ⟨hword, hold, hmem⟩ := t.loggedWrite_mem n w
  dsimp only
  rw [hitem, ← pop.kImage n]
  refine ⟨_, exec_kput hc hr (by omega) hw, ?_, ?_, hword, hold, fun a ha => ?_, State.loggedWrite_keeps hn hg w⟩
  · rw [hk, hme, Ctx.kImage_trailTop _ _ h32]
  · rw [htop, hme, pop.trail.1]
  · rw [← pop.mem]; exact hmem a ha

theorem exec_kput_trailFull (hfull : s.me.trailLim.toNat < s.me.trailTop.toNat + 16) (hs : s.me.speculates = false) :
    exec (.kput d n) s = .next (s.trapped { cls := 5, detail := 2, info := BitVec.ofNat 64 n }) := by
  have pop := hr.popped
  have hfull' : t.me.trailLim.toNat < t.me.trailTop.toNat + 16 := by rw [pop.trail.1, pop.trail.2]; exact hfull
  have hw : writeControl n w t = .error (.trap { cls := 5, detail := 2, info := BitVec.ofNat 64 n }) := by
    rw [writeControl_logged hn w ha hro (pop.logging.trans hl) hg]
    exact M.bind_error (pushTrail_full _ _ hfull' (pop.speculates.trans hs))
  rw [exec_kput_trap hc hr (by omega) hw]
  rfl
end

/-! ### The numbers that a kput may not write -/

theorem userReadOnly_numbers : ∀ n ∈ [0, 1, 2, 3, 4, 5, 24, 32, 33, 34, 35, 40, 41, 48, 50],
    n < 512 ∧ userAssigned n = true ∧ userReadOnly n = true := by decide

theorem userAssigned_false {n : Nat} (h : n ∉ [0, 1, 2, 3, 4, 5, 8, 9, 10, 11, 16, 17, 18, 19, 20, 21, 22, 23, 24, 25, 32, 33, 34, 35,
    40, 41, 48, 49, 50]) (hs : ¬(64 ≤ n ∧ n < 128)) : userAssigned n = false := by
  simp only [List.mem_cons, List.not_mem_nil, or_false, not_or] at h
  simp [userAssigned]; omega

theorem systemReadOnly_numbers : ∀ n ∈ [515, 519, 520, 524, 530, 534, 535, 536], 512 ≤ n ∧ n < 1024 ∧ systemReadOnly n = true := by decide

/-- Settles O27: each clause is what `writeControl` does with a number, read off the lists of what every write keeps
(`Ctx.userWrites_eq`, `systemWrite_system`, `systemWrite_package`), handed to the outcome of kput or skput in that case. -/
theorem controlRegisterWrites : Obligations.ControlRegisterWrites := by
  intro s t d n w hc hr x k privileged service user system package assigned raises
  have pop := hr.popped
  have super : t.supervisor t.cur = privileged := pop.supervisor
  have serve : isService (coreOf t.cur) = service := by rw [pop.cur]; rfl
  have privilegedOf : service = true → privileged = true := fun hs => by
    show (service || s.me.status.getLsbD 0) = true
    rw [hs]; rfl
  have users : ∀ y, (n, y) ∈ user → n < 512 ∧ userAssigned n = true ∧ userReadOnly n = false ∧ loggedReg n = (n != 23) ∧ x.setControl n w = y :=
    fun y => x.userWrites_eq w (n, y)
  have trap : ∀ {c}, n < 1024 → writeControl n w t = .error (.trap c) → exec (.kput d n) s = .next (s.trapped (s.me.withDetail c)) :=
    exec_kput_trap hc hr
  have systemTrap : ∀ {c}, privileged = true → 512 ≤ n → n < 1024 → systemWrite n w t = .error (.trap c) →
      exec (.kput d n) s = .next (s.trapped (s.me.withDetail c)) := fun hp hn hn' h =>
    trap hn' ((writeControl_system w hn (super.trans hp)).trans h)
  refine ⟨fun hl y hy => ?_, fun hl h23 hroom y hy => ?_, fun hl h23 hfull hs y hy => ?_, fun hp u hu => ?_, fun hs u hu => ?_,
    fun hs u hu => ?_, fun hp u hu => ?_, fun hn => ?_, fun hn ha hs => ?_, fun hn hn' hp => ?_, fun hp => ?_, fun hn => ?_, fun hp hn => ?_,
    fun hp hs hn hn' => ?_, fun hp hn hn' => ?_, fun c hp hd hn => ⟨fun hv => ?_, fun hst hv hb he hrec => ?_⟩⟩
  · obtain ⟨hn, ha, hro, -, rfl⟩ := users y hy
    have hw := writeControl_plain hn w ha hro (pop.logging.trans hl)
    exact ⟨exec_kput hc hr (by omega) hw, fun hp hd => exec_skput hc hr (by omega) hp (State.redirects_off hd n) hw⟩
  · obtain ⟨hn, ha, hro, hg, rfl⟩ := users y hy
    exact exec_kput_logged hc hr hn ha hro (hg.trans (bne_iff_ne.mpr h23)) hl hroom
  · obtain ⟨hn, ha, hro, hg, -⟩ := users y hy
    exact exec_kput_trailFull hc hr hn ha hro (hg.trans (bne_iff_ne.mpr h23)) hl hfull hs
  · obtain ⟨hn, hn', hw⟩ := systemWrite_system t w (n, u) hu
    have hw := (writeControl_system w hn (super.trans hp)).trans hw
    exact ⟨exec_kput hc hr hn' hw, fun hd => exec_skput hc hr hn' hp (State.redirects_off hd n) hw⟩
  · obtain ⟨hn, hn', hw⟩ := systemWrite_package (serve.trans hs) w (n, u) hu
    exact exec_kput hc hr hn' ((writeControl_system w hn (super.trans (privilegedOf hs))).trans hw)
  · exact exec_kput hc hr (by omega) ((writeControl_system w (by omega) (super.trans (privilegedOf hs))).trans
      ((systemWrite_pload (serve.trans hs) w).trans hu))
  · exact exec_kput hc hr (by omega) ((writeControl_system w (by omega) (super.trans hp)).trans ((systemWrite_stagectl t w).trans hu))
  · obtain ⟨hn', ha, hro⟩ := userReadOnly_numbers n hn
    exact trap (by omega) (writeControl_readOnly hn' w ha hro)
  · exact trap (by omega) (writeControl_unassigned hn w (userAssigned_false ha hs))
  · exact trap hn' (writeControl_unprivileged w hn (super.trans hp))
  · exact exec_skput_unprivileged d n hp
  · exact exec_kput_range s d hn
  · obtain ⟨hn, hn', hro⟩ := systemReadOnly_numbers n hn
    exact systemTrap hp hn hn' (systemWrite_readOnly t w hro)
  · exact systemTrap hp (by omega) (by omega) (systemWrite_serviceOnly (serve.trans hs) w hn hn')
  · exact systemTrap hp (by omega) hn' (systemWrite_unassigned t w hn)
  · subst hn
    exact exec_skput_unstaged hc hr (by omega) hp (State.redirects_on hd 513) hv
  · subst hn he
    exact exec_skput_sepc hc hr hp (State.redirects_on hd 513) (stagedCtx_run hst hv hb) hrec

end Sys2Proof.Machine
end

section
/-! SUPPORT. The percolator (R16, R32, R37 to R40): what serving an event does, by the events and contexts that it finds. -/

namespace Sys2Proof.Machine

/-! ### Words and bytes of an event -/

theorem State.bank_congr {s t : State} (h : t.banks = s.banks) (b : Nat) : t.bank b = s.bank b := by
  rw [State.bank, h]; rfl

/-- Three EVT words follow the first (R39). -/
theorem padTo_three (ws : List Word) : padTo 3 ws = [ws.getD 0 0, ws.getD 1 0, ws.getD 2 0] := by
  match ws with
  | [] => rfl
  | [_] => rfl
  | [_, _] => rfl
  | _ :: _ :: _ :: _ => simp [padTo]

/-- A snapshot sets general registers only (R303). -/
theorem Ctx.restore_frame (x : Ctx) (ws : List Word) : ∃ g, x.restore ws = { x with g := g } := by
  unfold Ctx.restore
  induction snapshotRegs.zip ws generalizing x with
  | nil => exact ⟨x.g, rfl⟩
  | cons p ps ih =>
    obtain ⟨g, hg⟩ := ih (x.wr p.1 p.2)
    refine ⟨g, ?_⟩
    rw [List.foldl_cons, hg]
    unfold Ctx.wr
    split <;> rfl

/-! ### Taking the oldest event of a source leaves the bank's handler table (R38, R40) -/

theorem State.nextEvent_handlers {s : State} {b n : Nat} {e : Start} {x : Bank} (h : s.nextEvent b n = some (e, x)) :
    x.handlers = (s.bank b).handlers := by
  unfold State.nextEvent at h
  split at h
  case h_3 =>
    dsimp only at h
    split at h
    case h_4 =>
      split at h
      · cases h
      · cases h; rfl
    all_goals cases h; rfl
  all_goals
    split at h
    · cases h
    all_goals cases h; rfl

/-! ### The handler context that the percolator starts -/

theorem State.freeHandler_place {s : State} {b : Nat} {c : CtxId} (h : s.freeHandler b = some c) : bankOf c = b := by
  have hc := List.mem_of_find?_eq_some h
  obtain ⟨n, hn, rfl⟩ := List.mem_map.mp hc
  have := List.mem_range.mp hn
  show (b * 8 + (n + 1)) / 8 = b
  omega

/-! ### A wake-up (R37, R261) -/

theorem State.serveWake_running {s : State} {b : Nat} {x : Bank} (h : (s.ctx (ctxIn b 0)).run ≠ .waiting) :
    s.serveWake b x = s.setBank b { x with lastSrc := 7, wake := true } := if_neg h

/-- What a wake-up does where context 0 waits in evwait: that wait ends and its bundle retires. -/
theorem State.serveWake_waiting {s : State} {b : Nat} (x : Bank) (h : (s.ctx (ctxIn b 0)).run = .waiting) :
    let t := s.serveWake b x
    t.bank b = { x with lastSrc := 7 } ∧ (t.ctx (ctxIn b 0)).run = .running ∧ (t.ctx (ctxIn b 0)).pc = (s.ctx (ctxIn b 0)).npc ∧
      t.mem = s.mem ∧ s.keepsOthers t (ctxIn b 0) := by
  let u := (s.setBank b { x with lastSrc := 7 }).setCtx (ctxIn b 0) { s.ctx (ctxIn b 0) with run := .running }
  have served : s.serveWake b x = u.retireCtx (ctxIn b 0) := by
    rw [State.serveWake, if_pos h]
    exact if_pos h
  obtain ⟨r, hr⟩ := u.retireCtx_ctx (ctxIn b 0)
  dsimp only
  rw [served, hr, State.setCtx_ctx]
  refine ⟨?_, rfl, rfl, u.retireCtx_mem _, fun d hd => ?_⟩
  · rw [State.bank, State.retireCtx_banks]
    exact State.setBank_bank s b _
  · rw [u.retireCtx_ctx_other hd]
    exact State.setCtx_ctx_other _ _ _ _ hd

/-! ### Starting a handler (R32, R39, R44) -/

/-- The EVT words after the first that a handler's event gives. -/
def State.eventWords (s : State) (c : CtxId) (e : Start) : List Word :=
  if e.slot then s.apertureAddr (s.ctx c).part (coreOf c) (s.slotOffset (bankOf c) (ctxNum c)) ::
    (match e.task with | some t => if t.crossing then [t.time] else [] | none => [])
  else e.words

/-- The context that an event's handler runs on. -/
def Ctx.started (x : Ctx) (e : Start) (code : Word) (evt : List Word) : Ctx :=
  let x : Ctx := { x with run := .running, wait := .none, pc := code &&& ~~~1#64, evt, msg := if e.src = 0 then e.msg else x.msg,
                          event := some ⟨e.src, e.succ, e.tag⟩ }
  let x := if e.src = 1 then x.acquire else x
  if e.snapshot = [] then x else x.restore e.snapshot

theorem Ctx.started_fields (x : Ctx) (e : Start) (code : Word) (evt : List Word) : let y := x.started e code evt
    y.run = .running ∧ y.pc = code &&& ~~~1#64 ∧ y.evt = evt ∧ y.event = some ⟨e.src, e.succ, e.tag⟩ := by
  unfold Ctx.started
  dsimp only
  generalize hy : (if e.src = 1 then _ else _ : Ctx) = y
  have fields : y.run = .running ∧ y.pc = code &&& ~~~1#64 ∧ y.evt = evt ∧ y.event = some ⟨e.src, e.succ, e.tag⟩ := by
    subst hy; split <;> exact ⟨rfl, rfl, rfl, rfl⟩
  split
  · exact fields
  · obtain ⟨g, hg⟩ := y.restore_frame e.snapshot
    rw [hg]; exact fields

/-- The bytes of memory once an event's packet lies in its slot (R44). -/
def State.withPacket (s : State) (c : CtxId) (e : Start) : Memory :=
  if e.slot then s.mem.writes (bankLoc (bankOf c) (s.slotOffset (bankOf c) (ctxNum c))) e.packet else s.mem

theorem State.startHandler_eq (s : State) (c : CtxId) (e : Start) (code : Word) (cause : Nat) :
    let u := State.setCtx { s with mem := s.withPacket c e } c
      ((s.ctx c).started e code (BitVec.ofNat 64 (cause * 2 ^ 16 + e.hid * 2 ^ 8 + e.src) :: padTo 3 (s.eventWords c e)))
    s.startHandler c e code cause = e.task.elim u (u.taskMark c) := by
  unfold State.startHandler State.withPacket State.eventWords
  cases e.task <;> cases e.slot <;> rfl

/-- A task's mark is in memory, on the trail of its context and in what that context runs (R303, R316). -/
theorem State.taskMark_leaves (s : State) (c : CtxId) (t : Task) : let u := s.taskMark c t
    u.banks = s.banks ∧ s.keepsOthers u c ∧ (u.ctx c).run = (s.ctx c).run ∧ (u.ctx c).pc = (s.ctx c).pc ∧ (u.ctx c).evt = (s.ctx c).evt ∧
      (u.ctx c).event = (s.ctx c).event := by
  dsimp only
  refine ⟨rfl, fun d hd => State.setCtx_ctx_other _ _ _ _ hd, ?_⟩
  rw [State.taskMark, State.setCtx_ctx]
  exact ⟨rfl, rfl, rfl, rfl⟩

theorem State.startHandler_leaves (s : State) (c : CtxId) (e : Start) (code : Word) (cause : Nat) :
    let t := s.startHandler c e code cause
    (t.ctx c).run = .running ∧ (t.ctx c).pc = code &&& ~~~1#64 ∧
    (t.ctx c).evt = BitVec.ofNat 64 (cause * 2 ^ 16 + e.hid * 2 ^ 8 + e.src) :: padTo 3 (s.eventWords c e) ∧
    (t.ctx c).event = some ⟨e.src, e.succ, e.tag⟩ ∧ t.banks = s.banks ∧ s.keepsOthers t c ∧ (e.task = none → t.mem = s.withPacket c e) := by
  have eq := s.startHandler_eq c e code cause
  dsimp only at eq ⊢
  rw [eq]
  generalize hy : (s.ctx c).started e code _ = y
  have fields := (s.ctx c).started_fields e code (BitVec.ofNat 64 (cause * 2 ^ 16 + e.hid * 2 ^ 8 + e.src) :: padTo 3 (s.eventWords c e))
  simp only [hy] at fields
  obtain ⟨hrun, hpc, hevt, hevent⟩ := fields
  have others : s.keepsOthers (State.setCtx { s with mem := s.withPacket c e } c y) c := fun d hd => State.setCtx_ctx_other _ _ _ _ hd
  cases e.task with
  | none =>
    simp only [Option.elim_none, State.setCtx_ctx]
    exact ⟨hrun, hpc, hevt, hevent, rfl, others, fun _ => rfl⟩
  | some t =>
    obtain ⟨hb, ho, hrun', hpc', hevt', hevent'⟩ := (State.setCtx { s with mem := s.withPacket c e } c y).taskMark_leaves c t
    simp only [Option.elim_some]
    rw [hrun', hpc', hevt', hevent', State.setCtx_ctx]
    exact ⟨hrun, hpc, hevt, hevent, hb, fun d hd => (ho d hd).trans (others d hd), nofun⟩

/-! ### An event that finds no handler (R40) -/

theorem State.noFallback_leaves (s : State) (b : Nat) :
    (s.noFallback b).ctxs = s.ctxs ∧ (s.noFallback b).banks = s.banks ∧ ∃ f, (s.noFallback b).faults = s.faults ++ [f] := by
  have counted : ∀ t, (s.undeliverable t 1).ctxs = s.ctxs ∧ (s.undeliverable t 1).banks = s.banks ∧ (s.undeliverable t 1).faults = s.faults :=
    fun t => by unfold State.undeliverable; split <;> exact ⟨rfl, rfl, rfl⟩
  obtain ⟨hc, hb, hf⟩ := counted ((s.bank b).team.getD 0)
  exact ⟨hc, hb, _, congrArg (· ++ [_]) hf⟩

/-! ### Where an event's code is (R40) -/

section
variable {x : Bank} {e : Start}

theorem Bank.codeFor_known {a : Word} (h : e.code = some a) : x.codeFor e = some (a, e.cause) := by
  simp [Bank.codeFor, h]

variable (h : e.code = none)
include h

theorem Bank.codeFor_entry (he : x.handlers.get (fun _ => 0) e.hid ≠ 0) :
    x.codeFor e = some (x.handlers.get (fun _ => 0) e.hid, e.cause) := by
  simp only [Bank.codeFor, h]
  rw [if_pos he]

theorem Bank.codeFor_fallback (he : x.handlers.get (fun _ => 0) e.hid = 0) (hf : x.handlers.get (fun _ => 0) 0 ≠ 0) :
    x.codeFor e = some (x.handlers.get (fun _ => 0) 0, 1) := by
  simp only [Bank.codeFor, h]
  rw [if_neg (not_not.mpr he), if_pos hf]

theorem Bank.codeFor_empty (he : x.handlers.get (fun _ => 0) e.hid = 0) (hf : x.handlers.get (fun _ => 0) 0 = 0) : x.codeFor e = none := by
  simp only [Bank.codeFor, h]
  rw [if_neg (not_not.mpr he), if_neg (not_not.mpr hf)]
end

/-! ### HANDLER_START by cases (R16, R38 to R40) -/

/-- A step is what its work does in the state that it starts in. -/
theorem runStep_congr {m m' : M Unit} {s : State} (h : m s = m' s) : runStep m s = runStep m' s := by
  unfold runStep; rw [h]

/-- What the percolator of a bank does with the event that it serves next, where that is no message for a context that waits for one. -/
def State.serveEvent (s : State) (b : Nat) (e : Start) (x : Bank) : M Unit :=
  if e.wakes then set (s.serveWake b x)
  else match s.freeHandler b with
  | none => match s.serveNoHandler b with | some t => set t | none => stall
  | some c => do
    await (s.startFree c e)
    let t := s.setBank b { x with lastSrc := e.src }
    if s.orphanPop b e.src then set (t.takeTrap c { cls := 4, detail := 21 })
    else
      match (s.bank b).codeFor e with
      | none => set (t.noFallback b)
      | some (code, cause) => set (t.startHandler c e code cause)

/-- The state once a message has gone to a context that waits for one (R16). -/
def State.handMessage (s : State) (b : Nat) (c : CtxId) (m : List Word) (rest : List (List Word)) : State :=
  (s.setBank b { s.bank b with inbox := rest, lastSrc := 0 }).setCtx c { s.ctx c with msg := m, wait := .none }

theorem State.handMessage_leaves (s : State) (b : Nat) (c : CtxId) (m : List Word) (rest : List (List Word)) :
    let t := s.handMessage b c m rest
    (t.bank b).inbox = rest ∧ (t.ctx c).msg = m ∧ (t.ctx c).wait = .none ∧ (t.bank b).lastSrc = 0 ∧ t.mem = s.mem ∧ s.keepsOthers t c := by
  dsimp only [State.handMessage]
  rw [State.setCtx_bank, State.setBank_bank, State.setCtx_ctx]
  exact ⟨rfl, rfl, rfl, rfl, rfl, fun d hd => State.setCtx_ctx_other _ _ _ _ hd⟩

section
variable {s : State} {e : Start} {x : Bank} (hp : s.percolates (s.activeBank s.focus) = true)
  (hf : (sourceOrder (s.bank (s.activeBank s.focus)).lastSrc).findSome? (s.nextEvent (s.activeBank s.focus)) = some (e, x))
include hp hf

theorem exec_handlerStart_message {c : CtxId} {m : List Word} {rest : List (List Word)} (h0 : e.src = 0)
    (hw : s.messageWaiter (s.activeBank s.focus) = some c) (hi : (s.bank (s.activeBank s.focus)).inbox = m :: rest) :
    exec .handlerStart s = .next (s.handMessage (s.activeBank s.focus) c m rest).stepped := by
  refine runStep_ok ?_
  rw [M.bind_ok (M.get_run s)]
  dsimp only
  rw [M.bind_ok (M.await_run hp .other s)]
  simp only [hf, hw, hi]
  cases e
  cases h0
  rfl

theorem exec_handlerStart_event (h : e.src ≠ 0 ∨ s.messageWaiter (s.activeBank s.focus) = none) :
    exec .handlerStart s = runStep (s.serveEvent (s.activeBank s.focus) e x) s := by
  refine runStep_congr ?_
  rw [M.bind_ok (M.get_run s)]
  dsimp only
  rw [M.bind_ok (M.await_run hp .other s)]
  simp only [hf]
  rcases h with h0 | hw
  · cases e with
    | mk src =>
      cases src with
      | zero => exact absurd rfl h0
      | succ n => rfl
  · rw [hw]
    cases e with
    | mk src => cases src <;> rfl

end

section
variable {s : State} {b : Nat} {e : Start} {x : Bank}

theorem serveEvent_wake (hw : e.wakes = true) : s.serveEvent b e x s = .ok ((), s.serveWake b x) := by
  simp only [State.serveEvent, hw]
  rfl

section
variable (hw : e.wakes = false)
include hw

theorem serveEvent_noHandler {t : State} (hf : s.freeHandler b = none) (hs : s.serveNoHandler b = some t) :
    s.serveEvent b e x s = .ok ((), t) := by
  simp only [State.serveEvent, hw, hf, hs]
  rfl

theorem serveEvent_waits (hf : s.freeHandler b = none) (hs : s.serveNoHandler b = none) : s.serveEvent b e x s = .error (.wait .other) := by
  simp only [State.serveEvent, hw, hf, hs]
  rfl

variable {c : CtxId} (hf : s.freeHandler b = some c)
include hf

theorem serveEvent_claimed (hs : s.startFree c e = false) : s.serveEvent b e x s = .error (.wait .other) := by
  simp only [State.serveEvent, hw, hf]
  exact M.bind_error (M.await_wait hs .other s)

variable (hs : s.startFree c e = true) (ho : s.orphanPop b e.src = false)
include hs ho

theorem serveEvent_starts {code : Word} {cause : Nat} (hc : (s.bank b).codeFor e = some (code, cause)) :
    s.serveEvent b e x s = .ok ((), (s.setBank b { x with lastSrc := e.src }).startHandler c e code cause) := by
  simp only [State.serveEvent, hw, hf]
  refine (M.bind_ok (M.await_run hs .other s)).trans ?_
  simp only [ho, hc]
  rfl

theorem serveEvent_discards (hc : (s.bank b).codeFor e = none) :
    s.serveEvent b e x s = .ok ((), (s.setBank b { x with lastSrc := e.src }).noFallback b) := by
  simp only [State.serveEvent, hw, hf]
  refine (M.bind_ok (M.await_run hs .other s)).trans ?_
  simp only [ho, hc]
  rfl
end

/-! ### With no free handler context (R16, R37) -/

theorem serveNoHandler_message {c : CtxId} {m : List Word} {rest : List (List Word)} (hw : s.messageWaiter b = some c)
    (hi : (s.bank b).inbox = m :: rest) : s.serveNoHandler b = some (s.handMessage b c m rest) := by
  simp only [State.serveNoHandler, hw, hi]
  rfl

theorem serveNoHandler_wake {w : Start} {y : Bank} (hw : s.messageWaiter b = none) (h7 : s.nextEvent b 7 = some (w, y)) (hy : w.wakes = true) :
    s.serveNoHandler b = some (s.serveWake b y) := by
  simp only [State.serveNoHandler, hw, h7, hy]
  rfl

theorem serveNoHandler_none (hw : s.messageWaiter b = none) (h7 : ∀ w y, s.nextEvent b 7 = some (w, y) → w.wakes = false) :
    s.serveNoHandler b = none := by
  cases he : s.nextEvent b 7 with
  | none => simp only [State.serveNoHandler, hw, he]
  | some p =>
    obtain ⟨w, y⟩ := p
    simp only [State.serveNoHandler, hw, he, h7 w y he]
    rfl
end

/-- The words that a started handler finds in its EVT port (R39), on the handler context of a bank. -/
theorem State.eventWords_slot (s : State) {b : Nat} {c : CtxId} (hb : bankOf c = b) (e : Start) : s.eventWords c e =
    if e.slot then
      BitVec.ofNat 64 (0x01FF000000000000 + s.relCore (s.ctx c).part (coreOf c) * 2 ^ 38 + (s.scratchSize b - 256 * (8 - c % 8))) ::
        (match e.task with | some t => if t.crossing then [t.time] else [] | none => [])
    else e.words := by
  subst hb; rfl

theorem State.withPacket_slot (s : State) {b : Nat} {c : CtxId} (hb : bankOf c = b) (e : Start) : s.withPacket c e =
    if e.slot then s.mem.writes (bankLoc b (s.scratchSize b - 256 * (8 - c % 8))) e.packet else s.mem := by
  subst hb; rfl

theorem exec_handlerTableApply {s : State} {n : Nat} {code : Word} {more : List (Nat × Word)}
    (h : (s.bank (s.activeBank s.focus)).hsets = (n, code) :: more) :
    exec .handlerTableApply s = .next (s.setBank (s.activeBank s.focus) { s.bank (s.activeBank s.focus) with
      hsets := more, handlers := (s.bank (s.activeBank s.focus)).handlers.put n code }).stepped := by
  refine runStep_ok ?_
  rw [M.bind_ok (M.get_run s)]
  simp only [h]
  rfl

/-- Settles O32, case by case of what the percolator finds: the lemmas above say what it does, and `handMessage_leaves`,
`serveWake_waiting`, `startHandler_leaves` and `noFallback_leaves` what that leaves. -/
theorem handlerStart : Obligations.HandlerStart := by
  intro s e x' c m rest n code more b x order
  refine ⟨exec_handlerTableApply, fun hp hf => ?_⟩
  have event := exec_handlerStart_event hp hf
  refine ⟨fun h0 hw hi => ?_, fun h0 hw hr => ?_, fun h0 hw hr => ?_, fun h hw hn => ⟨fun w m' hm hi => ?_, fun w y hm h7 hy hr => ?_, fun hm h7 => ?_⟩,
    fun h hw hc hs => ?_, fun h hw hc hs ho => ?_⟩
  · exact ⟨_, exec_handlerStart_message hp hf h0 hw hi, s.handMessage_leaves b c m rest⟩
  · rw [event (.inl h0), runStep_ok (serveEvent_wake hw), State.serveWake_running hr]
  · obtain ⟨hb, hrun, hpc, hmem, ho⟩ := State.serveWake_waiting x' hr
    exact ⟨_, (event (.inl h0)).trans (runStep_ok (serveEvent_wake hw)), congrArg Bank.lastSrc hb, hrun, hpc, hmem, ho⟩
  · obtain ⟨hin, hmsg, -, hlast, hmem, ho⟩ := s.handMessage_leaves b w m' rest
    exact ⟨_, (event h).trans (runStep_ok (serveEvent_noHandler hw hn (serveNoHandler_message hm hi))), hin, hmsg, hlast, hmem, ho⟩
  · obtain ⟨hb, hrun, -, hmem, -⟩ := State.serveWake_waiting y hr
    exact ⟨_, (event h).trans (runStep_ok (serveEvent_noHandler hw hn (serveNoHandler_wake hm h7 hy))), congrArg Bank.lastSrc hb,
      (congrArg Bank.s7 hb).trans rfl, hrun, hmem⟩
  · rw [event h, runStep_wait (serveEvent_waits hw hn (serveNoHandler_none hm h7))]
  · rw [event h, runStep_wait (serveEvent_claimed hw hc hs)]
  · intro words entry fallback starts
    let t := s.setBank b { x' with lastSrc := e.src }
    have hb : bankOf c = b := State.freeHandler_place hc
    have handlers : x'.handlers = x.handlers := by
      obtain ⟨n, -, hn⟩ := List.exists_of_findSome?_eq_some hf
      exact State.nextEvent_handlers hn
    have last : (t.bank b).lastSrc = e.src := congrArg Bank.lastSrc (s.setBank_bank b _)
    have start : ∀ code cause, x.codeFor e = some (code, cause) → starts code cause := fun code cause hcode => by
      obtain ⟨hrun, hpc, hevt, hevent, hbanks, hothers, hmem⟩ := t.startHandler_leaves c e code cause
      refine ⟨_, (event h).trans (runStep_ok (serveEvent_starts hw hc hs ho hcode)), hrun, hpc, ?_, ?_, hevent, hothers, fun ht => ?_⟩
      · exact (congrArg Bank.lastSrc (State.bank_congr hbanks b)).trans last
      · refine hevt.trans ?_
        rw [padTo_three, t.eventWords_slot hb e]
        rfl
      · exact (hmem ht).trans (t.withPacket_slot hb e)
    have hentry : entry = x.handlers.get (fun _ => 0) e.hid := congrArg (fun h => Table.get (fun _ => 0) h e.hid) handlers
    have hfallback : fallback = x.handlers.get (fun _ => 0) 0 := congrArg (fun h => Table.get (fun _ => 0) h 0) handlers
    rw [hentry, hfallback]
    refine ⟨fun a ha => start a e.cause (Bank.codeFor_known ha), fun hn he => start _ e.cause (Bank.codeFor_entry hn he),
      fun hn he hfb => start _ 1 (Bank.codeFor_fallback hn he hfb), fun hn he hfb => ?_⟩
    obtain ⟨hctxs, hbanks, f, hfaults⟩ := t.noFallback_leaves b
    refine ⟨_, (event h).trans (runStep_ok (serveEvent_discards hw hc hs ho (Bank.codeFor_empty hn he hfb))), hctxs, ?_, f, hfaults⟩
    exact (congrArg Bank.lastSrc (State.bank_congr hbanks b)).trans last

end Sys2Proof.Machine
end

section
/-! SUPPORT. Bundles that are no instruction (R58, R59, R86 to R88, R96): the two outcomes of UNASSIGNED_OPCODE. -/

namespace Sys2Proof.Machine

/-- A raised cause is what the bundle takes, with R88's detail word where it is of class 0. -/
theorem runBundle_raise (t : Trap) (s : State) : runBundle (raise t) s = .next (s.trapped (s.me.withDetail t)) := runBundle_trap rfl

theorem execUnassignedOpcode_illegal {bad : BadBundle} (h : bad.ext = none) (s : State) :
    execUnassignedOpcode bad s = .next (s.trapped (s.me.withDetail
      { cls := 0, detail := bad.detail, word := BitVec.ofNat 64 (bad.pos * 2 ^ 35 + bad.npre * 2 ^ 32 + bad.pre.toNat * 2 ^ 16 + bad.word.toNat) })) := by
  unfold execUnassignedOpcode
  simp only [h]
  exact runBundle_raise _ s

theorem execUnassignedOpcode_refused {bad : BadBundle} {f : Nat} (h : bad.ext = some f) {s : State}
    (hr : s.me.anchored = true ∨ isService (coreOf s.cur) = true ∨ s.refuge s.cur f = none) :
    execUnassignedOpcode bad s = .next (s.trapped (s.me.withDetail { cls := 0, detail := 18, info := extInfo f s.me.anchored })) := by
  unfold execUnassignedOpcode
  simp only [h]
  rw [if_pos (by simpa only [Option.isNone_iff_eq_none] using hr)]
  exact runBundle_raise _ s

theorem execUnassignedOpcode_moves {bad : BadBundle} {f : Nat} (h : bad.ext = some f) {s : State} (ha : s.me.anchored = false)
    (hs : isService (coreOf s.cur) = false) (hr : s.refuge s.cur f ≠ none) :
    execUnassignedOpcode bad s = .next { s.setMe { s.me with migrating := true, wait := .other } with stalled := [] } := by
  unfold execUnassignedOpcode
  simp only [h]
  rw [if_neg (by simp [ha, hs, hr])]

/-- Settles O54: one lemma for each outcome; the statement writes out `Ctx.anchored` and `extInfo`. -/
theorem unassignedBundles : Obligations.UnassignedBundles := fun s _bad _f =>
  ⟨fun h => execUnassignedOpcode_illegal h s, fun h hr => execUnassignedOpcode_refused h hr, fun h ha hs hr => execUnassignedOpcode_moves h ha hs hr⟩

end Sys2Proof.Machine
end

section
/-! SUPPORT. Pending results (R61, R62, R159): what a bundle in the window of a result reads and leaves, and how the result comes in. -/

namespace Sys2Proof.Machine

/-! ### Checks before issue -/

/-- Under the debug attribute a bundle that names the register of a pending result does not issue (R62). -/
theorem issue_debug {s : State} {p : Pending} {reads writes : List GReg} {vreads vwrites : List VReg} (hd : s.me.status.getLsbD 2 = true)
    (hp : s.me.pend = [p])
    (hit : (reads.any p.writesG || writes.any p.writesG || vreads.any p.writesV || vwrites.any p.writesV) = true) :
    issue reads writes vreads vwrites s = .error (.trap { cls := 0, detail := 16, info := p.pc }) := by
  unfold issue
  rw [M.bind_ok (M.get_run s)]
  simp only [hd, hp, List.find?_cons, hit, if_true]
  rfl

/-- Without the debug attribute a bundle whose general registers are no ports issues at once. -/
theorem issue_plain {s : State} {reads writes : List GReg} {vreads vwrites : List VReg} (hd : s.me.status.getLsbD 2 = false)
    (hr : ∀ r ∈ reads, isPort r = false) (hw : ∀ r ∈ writes, isPort r = false) : issue reads writes vreads vwrites s = .ok ((), s) := by
  have small : ∀ {r : GReg}, isPort r = false → ¬ 60 ≤ r.val ∧ r ≠ 56 := fun {r} h => by
    simp only [isPort, decide_eq_false_iff_not] at h
    exact ⟨by omega, fun e => h (by subst e; decide)⟩
  have none : ∀ {rs : List GReg} {f : GReg → Bool}, (∀ r ∈ rs, isPort r = false) → (∀ r, isPort r = false → f r = false) → rs.any f = false :=
    fun h hf => List.any_eq_false.mpr fun r hr => by simp [hf r (h r hr)]
  unfold issue
  rw [M.bind_ok (M.get_run s)]
  simp only [hd, Bool.false_eq_true, if_false]
  rw [none (f := fun r => decide (60 ≤ r.val) && _) hr fun r h => by simp only [(small h).1, decide_false, Bool.false_and],
    none (f := fun r => decide (60 ≤ r.val) && _) hw fun r h => by simp only [(small h).1, decide_false, Bool.false_and],
    none (f := fun r => isPort r && _) hr fun r h => by rw [h, Bool.false_and],
    none (f := fun r => r == 56 && _) hw fun r h => by rw [beq_eq_false_iff_ne.mpr (small h).2, Bool.false_and],
    none (f := fun r => isPort r && _) hw fun r h => by rw [h, Bool.false_and]]
  rfl

/-! ### A single pending result in its window -/

/-- The state once the free bit of a choice has been taken (log 4). -/
def State.drawn (s : State) : State := { s with free := s.free + 1 }

@[simp] theorem State.drawn_me (s : State) : s.drawn.me = s.me := rfl
@[simp] theorem State.drawn_cur (s : State) : s.drawn.cur = s.cur := rfl

/-- The state without any pending result. -/
def State.noPending (s : State) : State := s.setMe { s.me with pend := [] }

@[simp] theorem State.noPending_me (s : State) : s.noPending.me = { s.me with pend := [] } := s.setMe_me _
@[simp] theorem State.noPending_cur (s : State) : s.noPending.cur = s.cur := rfl

theorem M.forM_singleton {α : Type} (f : α → M PUnit) (a : α) : [a].forM f = f a := by
  simp [List.forM_eq_forM]

theorem takeBit_run (s : State) : takeBit s = .ok (Config.freeBit s.free, s.drawn) := rfl

section
variable {s : State} {p : Pending} {hit : Pending → Bool} (hp : s.me.pend = [p]) (hl : p.isLocal = true) (hh : hit p = true)
include hp hl hh

/-- A bundle that reads the register of a pending result either leaves the result pending or receives it (R62). -/
theorem settle_single :
    settle hit s = .ok ((), s.drawn) ∨ settle hit s = .ok ((), s.drawn.noPending.deliver s.cur p) := by
  have run : settle hit s = (do if ← takeBit then modify (fun s : State => (s.setMe { s.me with pend := s.me.pend.erase p }).deliver s.cur p)) s := by
    unfold settle
    rw [M.bind_ok (M.get_run s), hp, List.filter_cons_of_pos hh, List.filter_nil, M.forM_singleton]
    cases ht : p.target <;> simp_all [Pending.isLocal]
  rw [run, M.bind_ok (takeBit_run s)]
  cases Config.freeBit s.free
  · exact .inl rfl
  · refine .inr ?_
    simp [State.drawn_me, hp, State.noPending]

/-- A bundle that writes the register of a pending result either leaves the result pending or discards it (R62). -/
theorem overwrite_single : overwrite hit s = .ok ((), s.drawn) ∨ overwrite hit s = .ok ((), s.drawn.noPending) := by
  have run : overwrite hit s = (do if ← takeBit then modifyMe (fun x => { x with pend := x.pend.erase p })) s := by
    unfold overwrite
    rw [M.bind_ok (M.get_run s), hp, List.filter_cons_of_pos hh, List.filter_nil, M.forM_singleton]
    cases ht : p.target <;> simp_all [Pending.isLocal]
  rw [run, M.bind_ok (takeBit_run s)]
  cases Config.freeBit s.free
  · exact .inl rfl
  · refine .inr ?_
    simp [hp, State.noPending]

end

/-! ### Where a result that reserved no place comes in (R159) -/

theorem State.deliver_g {s : State} {p : Pending} {r : GReg} (ht : p.target = .g r) (hn : p.place = none) :
    s.deliver s.cur p = s.wrote r p.gval := by
  simp only [State.deliver, ht, hn]; rfl

theorem State.deliver_v {s : State} {p : Pending} {r : VReg} (ht : p.target = .v r) : s.deliver s.cur p = s.wroteV r p.vval := by
  simp only [State.deliver, ht]; rfl

theorem Pending.isLocal_g {p : Pending} {r : GReg} (ht : p.target = .g r) : p.isLocal = true := by simp [Pending.isLocal, ht]
theorem Pending.isLocal_v {p : Pending} {r : VReg} (ht : p.target = .v r) : p.isLocal = true := by simp [Pending.isLocal, ht]
theorem Pending.writesG_g {p : Pending} {r : GReg} (ht : p.target = .g r) (q : GReg) : p.writesG q = (r == q) := by
  simp [Pending.writesG, ht]
theorem Pending.writesV_v {p : Pending} {r : VReg} (ht : p.target = .v r) (q : VReg) : p.writesV q = (r == q) := by
  simp [Pending.writesV, ht]

/-! ### Operands in the window of a single pending result (R62) -/

section
variable {s : State} {p : Pending} (hp : s.me.pend = [p])
include hp

theorem readG_pending {a : GReg} (ht : p.target = .g a) (hn : p.place = none) (ha : isPort a = false) (h0 : a ≠ 0) :
    readG a s = .ok (s.me.rd a, s.drawn) ∨ readG a s = .ok (p.gval, s.drawn.noPending.wrote a p.gval) := by
  have hit : p.writesG a = true := by simp [Pending.writesG_g ht]
  unfold readG
  simp only [ha, Bool.false_eq_true, if_false]
  rcases settle_single hp (Pending.isLocal_g ht) (hit := fun q => q.writesG a) hit with h | h
  · exact .inl (by rw [M.bind_ok h]; rfl)
  · refine .inr ?_
    have hr : (s.drawn.noPending.wrote a p.gval).me.rd a = p.gval := by
      rw [State.wrote, State.setMe_me, Ctx.rd_wr_same _ h0]
    rw [M.bind_ok h]
    change Except.ok ((s.drawn.noPending.deliver s.drawn.noPending.cur p).me.rd a, _) = _
    rw [State.deliver_g ht hn, hr]
    exact congrArg (fun t => Except.ok (p.gval, t)) (State.deliver_g (s := s.drawn.noPending) ht hn)

theorem writeG_pending {d : GReg} (ht : p.target = .g d) (hd : isPort d = false) (w : Word) :
    writeG d w s = .ok ((), s.drawn.wrote d w) ∨ writeG d w s = .ok ((), s.drawn.noPending.wrote d w) := by
  have hit : p.writesG d = true := by simp [Pending.writesG_g ht]
  unfold writeG
  simp only [hd, Bool.false_eq_true, if_false]
  rcases overwrite_single hp (Pending.isLocal_g ht) (hit := fun q => q.writesG d) hit with h | h
  · exact .inl (by rw [M.bind_ok h]; rfl)
  · exact .inr (by rw [M.bind_ok h]; rfl)

theorem readV_pending {x : VReg} (ht : p.target = .v x) :
    readV x s = .ok (s.me.v[x.val], s.drawn) ∨ readV x s = .ok (p.vval, s.drawn.noPending.wroteV x p.vval) := by
  have hit : p.writesV x = true := by simp [Pending.writesV_v ht]
  unfold readV
  rcases settle_single hp (Pending.isLocal_v ht) (hit := fun q => q.writesV x) hit with h | h
  · exact .inl (by rw [M.bind_ok h]; rfl)
  · refine .inr ?_
    have hr : (s.drawn.noPending.wroteV x p.vval).me.v[x.val] = p.vval := by
      rw [State.wroteV, State.setMe_me, Ctx.wrV, Vector.getElem_set_self]
    rw [M.bind_ok h]
    change Except.ok ((s.drawn.noPending.deliver s.drawn.noPending.cur p).me.v[x.val], _) = _
    rw [State.deliver_v ht, hr]
    exact congrArg (fun t => Except.ok (p.vval, t)) (State.deliver_v (s := s.drawn.noPending) ht)

theorem writeV_pending {y : VReg} (ht : p.target = .v y) (w : VWord) :
    writeV y w s = .ok ((), s.drawn.wroteV y w) ∨ writeV y w s = .ok ((), s.drawn.noPending.wroteV y w) := by
  have hit : p.writesV y = true := by simp [Pending.writesV_v ht]
  unfold writeV
  rcases overwrite_single hp (Pending.isLocal_v ht) (hit := fun q => q.writesV y) hit with h | h
  · exact .inl (by rw [M.bind_ok h]; rfl)
  · exact .inr (by rw [M.bind_ok h]; rfl)

end

/-! ### Operands that no pending result concerns -/

theorem readG_free {s : State} {a : GReg} (ha : isPort a = false) (h : s.me.pend.any (fun p => p.writesG a) = false) :
    readG a s = .ok (s.me.rd a, s) := by
  unfold readG
  simp only [ha, Bool.false_eq_true, if_false]
  rw [M.bind_ok (settle_none h)]; rfl

theorem readV_free {s : State} {x : VReg} (h : s.me.pend.any (fun p => p.writesV x) = false) : readV x s = .ok (s.me.v[x.val], s) := by
  unfold readV
  rw [M.bind_ok (settle_none h)]; rfl

theorem writeG_free {s : State} {d : GReg} (hd : isPort d = false) (h : s.me.pend.any (fun p => p.writesG d) = false) (w : Word) :
    writeG d w s = .ok ((), s.wrote d w) := by
  rw [writeG_run h, State.put, if_neg (by simp [hd])]

theorem writeV_free {s : State} {y : VReg} (h : s.me.pend.any (fun p => p.writesV y) = false) (w : VWord) :
    writeV y w s = .ok ((), s.wroteV y w) := by
  unfold writeV
  rw [M.bind_ok (overwrite_none h)]; rfl

theorem State.wrote_pend (s : State) (a : GReg) (w : Word) : (s.wrote a w).me.pend = s.me.pend := by
  rw [State.wrote, State.setMe_me, Ctx.wr]
  split <;> rfl

theorem State.wroteV_pend (s : State) (a : VReg) (w : VWord) : (s.wroteV a w).me.pend = s.me.pend := by
  rw [State.wroteV, State.setMe_me]; rfl

/-! ### addi and vmov in the window -/

/-- A vmov of any type but q4 is one read and one write. -/
theorem vmov_run {s t u : State} {x y : VReg} {q : QType} {w : VWord} (hq : q.val < 7) (hi : issue [] [] [x] [y] s = .ok ((), s))
    (hr : readV x s = .ok (w, t)) (hw : writeV y w t = .ok ((), u)) : exec (.vmov y x q) s = .next u.done := by
  have h7 : q ≠ 7 := fun e => by subst e; exact absurd hq (by decide)
  refine runBundle_ok ?_
  simp only [h7, if_false]
  rw [M.bind_ok (M.require_run (by simp [h7]) 0 13 s), M.bind_ok hi, M.bind_ok hr]
  exact hw

theorem addi_run {s t u : State} {d a : GReg} {imm : Int} {w : Word} (hi : issue [a] [d] [] [] s = .ok ((), s))
    (hr : readG a s = .ok (w, t)) (hw : writeG d (w + BitVec.ofInt 64 imm) t = .ok ((), u)) : exec (.addi d a imm) s = .next u.done :=
  runBundle_ok (by unfold unary; rw [M.bind_ok hi, M.bind_ok hr]; exact hw)

/-- A result that has reserved no place comes in on its own (R159). -/
theorem longLatencyComplete_first {s : State} {p : Pending} (hp : s.me.pend = [p]) (hl : p.isLocal = true) :
    exec (.longLatencyComplete 0) s = .next (s.noPending.deliver s.cur p).stepped := by
  refine runStep_ok ?_
  rw [M.bind_ok (M.get_run s)]
  simp only [hp, List.getElem?_cons_zero]
  rw [M.bind_ok (M.await_run hl _ s)]
  rfl

/-- A context whose window is over is not ready (R61). -/
theorem State.ready_windowClosed {s : State} {c : CtxId} (hw : (s.ctx c).windowClosed = true) (hb : (s.ctx c).breaks = false) :
    s.ready c = false := by
  simp [State.ready, hw, hb]

section
variable {s : State} {p : Pending} (hp : s.me.pend = [p])
include hp

theorem addi_pendingSource {d a : GReg} (imm : Int) (ht : p.target = .g a) (hn : p.place = none) (hd : isPort d = false)
    (ha : isPort a = false) (h0 : a ≠ 0) (hne : a ≠ d) (hs : s.me.status.getLsbD 2 = false) :
    exec (.addi d a imm) s = .next (s.drawn.wrote d (s.me.rd a + BitVec.ofInt 64 imm)).done ∨
    exec (.addi d a imm) s = .next ((s.drawn.noPending.wrote a p.gval).wrote d (p.gval + BitVec.ofInt 64 imm)).done := by
  have hi := issue_plain (reads := [a]) (writes := [d]) (vreads := []) (vwrites := []) hs (by simpa using ha) (by simpa using hd)
  rcases readG_pending hp ht hn ha h0 with hr | hr
  · exact .inl (addi_run hi hr (writeG_free hd (by simp [hp, Pending.writesG_g ht, hne]) _))
  · exact .inr (addi_run hi hr (writeG_free hd (by simp [State.wrote_pend]) _))

theorem addi_pendingDest {d a : GReg} (imm : Int) (ht : p.target = .g d) (hd : isPort d = false)
    (ha : isPort a = false) (hne : a ≠ d) (hs : s.me.status.getLsbD 2 = false) :
    exec (.addi d a imm) s = .next (s.drawn.wrote d (s.me.rd a + BitVec.ofInt 64 imm)).done ∨
    exec (.addi d a imm) s = .next (s.drawn.noPending.wrote d (s.me.rd a + BitVec.ofInt 64 imm)).done := by
  have hi := issue_plain (reads := [a]) (writes := [d]) (vreads := []) (vwrites := []) hs (by simpa using ha) (by simpa using hd)
  have hr := readG_free (s := s) (a := a) ha (by simp [hp, Pending.writesG_g ht, Ne.symm hne])
  rcases writeG_pending hp ht hd (s.me.rd a + BitVec.ofInt 64 imm) with hw | hw
  · exact .inl (addi_run hi hr hw)
  · exact .inr (addi_run hi hr hw)

theorem vmov_pendingSource {x y : VReg} {q : QType} (hq : q.val < 7) (ht : p.target = .v x) (hne : x ≠ y)
    (hs : s.me.status.getLsbD 2 = false) :
    exec (.vmov y x q) s = .next (s.drawn.wroteV y s.me.v[x.val]).done ∨
    exec (.vmov y x q) s = .next ((s.drawn.noPending.wroteV x p.vval).wroteV y p.vval).done := by
  have hi := issue_plain (reads := []) (writes := []) (vreads := [x]) (vwrites := [y]) hs (by simp) (by simp)
  rcases readV_pending hp ht with hr | hr
  · exact .inl (vmov_run hq hi hr (writeV_free (by simp [hp, Pending.writesV_v ht, hne]) _))
  · exact .inr (vmov_run hq hi hr (writeV_free (by simp [State.wroteV_pend]) _))

theorem vmov_pendingDest {x y : VReg} {q : QType} (hq : q.val < 7) (ht : p.target = .v y) (hne : x ≠ y)
    (hs : s.me.status.getLsbD 2 = false) :
    exec (.vmov y x q) s = .next (s.drawn.wroteV y s.me.v[x.val]).done ∨
    exec (.vmov y x q) s = .next (s.drawn.noPending.wroteV y s.me.v[x.val]).done := by
  have hi := issue_plain (reads := []) (writes := []) (vreads := [x]) (vwrites := [y]) hs (by simp) (by simp)
  have hr := readV_free (x := x) (s := s) (by simp [hp, Pending.writesV_v ht, Ne.symm hne])
  rcases writeV_pending hp ht s.me.v[x.val] with hw | hw
  · exact .inl (vmov_run hq hi hr hw)
  · exact .inr (vmov_run hq hi hr hw)

theorem addi_debug {d a : GReg} (imm : Int) (ht : p.target = .g a ∨ p.target = .g d) (hs : s.me.status.getLsbD 2 = true) :
    exec (.addi d a imm) s = .next (s.trapped (s.me.withDetail { cls := 0, detail := 16, info := p.pc })) := by
  refine runBundle_trap (M.bind_error (issue_debug hs hp ?_))
  rcases ht with ht | ht <;> simp [Pending.writesG_g ht]

theorem vmov_debug {x y : VReg} {q : QType} (hq : q.val < 7) (ht : p.target = .v x ∨ p.target = .v y)
    (hs : s.me.status.getLsbD 2 = true) :
    exec (.vmov y x q) s = .next (s.trapped (s.me.withDetail { cls := 0, detail := 16, info := p.pc })) := by
  have h7 : q ≠ 7 := fun e => by subst e; exact absurd hq (by decide)
  refine runBundle_trap ?_
  simp only [h7, if_false]
  rw [M.bind_ok (M.require_run (by simp [h7]) 0 13 s)]
  refine M.bind_error (issue_debug hs hp ?_)
  rcases ht with ht | ht <;> simp [Pending.writesV_v ht]

end

/-- Settles O12: `settle` and `overwrite` take one free bit for a single pending result, and each of its values gives one of the outcomes. -/
theorem pendingResults : Obligations.PendingResults := by
  intro s d a x y q imm p hp hn
  refine ⟨fun hd ha ht hne ha0 _ => ⟨addi_debug hp imm ht, fun hs hta => addi_pendingSource hp imm hta hn hd ha ha0 hne hs,
      fun hs htd => addi_pendingDest hp imm htd hd ha hne hs⟩,
    fun hq ht hne => ⟨vmov_debug hp hq ht, fun hs htx => vmov_pendingSource hp hq htx hne hs, fun hs hty => vmov_pendingDest hp hq hty hne hs⟩,
    fun hl hb => State.ready_windowClosed (?_ : s.me.windowClosed = true) hb, fun r ht => ?_, fun r ht => ?_⟩
  · simp [Ctx.windowClosed, hp, hl]
  · rw [longLatencyComplete_first hp (Pending.isLocal_g ht), ← State.noPending_cur, State.deliver_g ht hn]; rfl
  · rw [longLatencyComplete_first hp (Pending.isLocal_v ht), ← State.noPending_cur, State.deliver_v ht]; rfl

end Sys2Proof.Machine
end

section
/-! SUPPORT. The dies (R52 to R54, R78): a trap and a stall leave them, and a rope leader's retiring bundle moves its rope on. -/

namespace Sys2Proof.Machine

/-! ### Taking a cause leaves the dies -/

@[simp] theorem State.onPlace_dies (s : State) (c : CtxId) (d : GReg) (p : Reserved) (f : Nat → List PortPlace → List PortPlace) :
    (s.onPlace c d p f).dies = s.dies := by
  unfold State.onPlace
  split
  · rfl
  · dsimp only [State.setHomeBank]; split <;> rfl

@[simp] theorem State.deliver_dies (s : State) (c : CtxId) (p : Pending) : (s.deliver c p).dies = s.dies := by
  unfold State.deliver
  split
  · split <;> simp
  · split <;> simp
  · rfl
  · rfl

@[simp] theorem State.finishPending_dies (s : State) (c : CtxId) : (s.finishPending c).dies = s.dies := by
  have fold : ∀ (ps : List Pending) (u : State), (ps.foldl (fun u p => u.deliver c p) u).dies = u.dies := fun ps => by
    induction ps with
    | nil => exact fun _ => rfl
    | cons p ps ih => exact fun u => (ih _).trans (u.deliver_dies c p)
  exact fold _ _

@[simp] theorem State.endLease_dies (s : State) (c : CtxId) : (s.endLease c).dies = s.dies := by
  unfold State.endLease
  dsimp only
  split
  · split <;> rfl
  · rfl

@[simp] theorem State.leaveSprint_dies (s : State) (c : CtxId) : (s.leaveSprint c).dies = s.dies := by
  unfold State.leaveSprint
  dsimp only
  split <;> rfl

/-- Writing the areas of a record changes nothing but memory (R384). -/
theorem State.writeAreas_eq (s : State) (r : Nat) (x : Ctx) : ∃ m, s.writeAreas r x = { s with mem := m } := by
  have fold : ∀ (as : List (Nat × List Word)) (u : State), ∃ m, as.foldl (fun u a => u.storeWords (r + a.1) a.2) u = { u with mem := m } := fun as => by
    induction as with
    | nil => exact fun u => ⟨u.mem, rfl⟩
    | cons a as ih => exact fun u => ih (u.storeWords (r + a.1) a.2)
  unfold State.writeAreas
  obtain ⟨m, hm⟩ := fold x.areas ((s.zeroRange (r + 256) 65280).store (r + 24) 8 x.pc.toNat)
  dsimp only
  rw [hm]
  exact ⟨_, rfl⟩

/-- Writing a context's record changes nothing but memory (R384). -/
theorem State.writeRecord_eq (s : State) (c : CtxId) (n : Nat) : ∃ m, s.writeRecord c n = { s with mem := m } := by
  unfold State.writeRecord
  dsimp only
  split
  · exact ⟨s.mem, rfl⟩
  · exact State.writeAreas_eq _ _ _

@[simp] theorem State.writeRecord_dies (s : State) (c : CtxId) (n : Nat) : (s.writeRecord c n).dies = s.dies := by
  obtain ⟨m, hm⟩ := s.writeRecord_eq c n
  rw [hm]

@[simp] theorem State.ringNumber_dies (s : State) : s.ringNumber.2.dies = s.dies := rfl
@[simp] theorem State.store_dies (s : State) (loc n x : Nat) : (s.store loc n x).dies = s.dies := rfl

@[simp] theorem State.park_dies (s : State) (c : CtxId) (t : Trap) : (s.park c t).dies = s.dies := by
  unfold State.park
  extract_lets s1 s2 s3 s4 x s5 s6 n s7 s8 s9
  have left : s4.dies = s.dies := (s3.leaveSprint_dies c).trans ((s1.endLease_dies c).trans (s.finishPending_dies c))
  have recorded : s7.dies = s4.dies := (s6.ringNumber_dies).trans (s5.writeRecord_dies c 4)
  have pointed : s8.dies = s7.dies := by
    show (ite _ _ _ : State).dies = _
    split
    · rfl
    · exact State.store_dies _ _ _ _
  have killed : s9.dies = s8.dies := by
    show State.dies (match x.team with | some t => s8.setTeam t { s8.team t with killed := true } | none => s8) = _
    split <;> rfl
  exact killed.trans (pointed.trans (recorded.trans left))

/-- Taking a cause leaves every rope. -/
@[simp] theorem State.takeTrap_dies (s : State) (c : CtxId) (t : Trap) : (s.takeTrap c t).dies = s.dies := by
  unfold State.takeTrap
  dsimp only
  split
  · rfl
  · split <;> simp

theorem State.trapped_dies (s : State) (t : Trap) : (s.trapped t).dies = s.dies := s.takeTrap_dies s.cur t

/-! ### A leader's rope after its bundle -/

/-- Context 0 of core 0 leads a rope, at the bundle before byte 4. -/
def ropeLeader : State :=
  let s := State.reset.setDie 0 { Die.reset 0 with ropes := [⟨1, 0, 1, [0], [(0, 0)], [], 0⟩], ropeNext := 2 }
  s.setMe { s.me with run := .running, npc := 4, rope := some ⟨0, 1, 0, true, true, false⟩ }

/-- The address that follows the leader's latest bundle is part of the rope, which its die holds. -/
theorem ropeLeader_nop : ((ropeLeader.die 0).ropes.map Rope.next, (ropeLeader.done.die 0).ropes.map Rope.next) = ([0], [4]) := by decide

theorem ropeLeader_dies : ropeLeader.done.dies ≠ ropeLeader.dies := fun h => by
  have same : (ropeLeader.done.die 0).ropes.map Rope.next = (ropeLeader.die 0).ropes.map Rope.next :=
    congrArg (fun ds : Table Die => (ds.get Die.reset 0).ropes.map Rope.next) h
  have moved := ropeLeader_nop
  rw [same, Prod.mk.injEq] at moved
  exact absurd (moved.1.symm.trans moved.2) (by decide)

/-- Refutes O9: the statement lists the dies among what stays as it was, and a die holds its ropes (R52). A nop of a rope's leader neither
traps nor stalls; as it retires it is forwarded (R53, R78), and the rope's next address goes from 0 to 4. -/
theorem not_registerFrame : ¬ Obligations.RegisterFrame := by
  intro h
  have leaves : ropeLeader.done.dies = ropeLeader.dies := by
    rcases h .nop [] [] ropeLeader ropeLeader.done rfl (runBundle_ok (m := pure ()) rfl) with ⟨c, hc⟩ | ⟨w, hw⟩ | ⟨-, hpackage, -⟩
    · rw [hc]; exact ropeLeader.trapped_dies c
    · rw [hw]; rfl
    · obtain ⟨-, -, hdies, -⟩ := hpackage
      exact hdies
  exact ropeLeader_dies leaves

end Sys2Proof.Machine
end

section
/-! SUPPORT. Frames: what a bundle that retires, reads its registers, writes a result or accesses memory leaves as it was. Each frame says
which fields of the state may differ; every other field is then the same by it. -/

namespace Sys2Proof.Machine

/-! ### Folds and sequences that keep a relation -/

theorem foldl_keeps {σ α : Type} {R : σ → σ → Prop} (hr : ∀ s, R s s) (ht : ∀ s t u, R s t → R t u → R s u) {f : σ → α → σ}
    (hf : ∀ s a, R s (f s a)) (l : List α) (s : σ) : R s (l.foldl f s) := by
  induction l generalizing s with
  | nil => exact hr s
  | cons a l ih => exact ht _ _ _ (hf s a) (ih _)

/-- Whatever a step that completes leaves, it relates to where the step began. -/
def M.Keeps {α : Type} (R : State → State → Prop) (m : M α) : Prop := ∀ s a t, m s = .ok (a, t) → R s t

section
variable {α β : Type} {R : State → State → Prop}

theorem M.Keeps.bind (ht : ∀ s t u, R s t → R t u → R s u) {m : M α} {f : α → M β} (hm : M.Keeps R m) (hf : ∀ a, M.Keeps R (f a)) :
    M.Keeps R (m >>= f) := fun s b t h => by
  obtain ⟨a, u, hu, hb⟩ := M.bind_inv h
  exact ht _ _ _ (hm s a u hu) (hf a u b t hb)

/-- A sequence that reads the state first. -/
theorem M.Keeps.get {f : State → M β} (hf : ∀ s b t, f s s = .ok (b, t) → R s t) : M.Keeps R (get >>= f) := fun s b t h => by
  rw [M.bind_ok (M.get_run s)] at h
  exact hf s b t h

theorem M.Keeps.pure (hr : ∀ s, R s s) (a : α) : M.Keeps R (Pure.pure a : M α) := fun s b t h => by
  cases h; exact hr s

theorem M.Keeps.modify {f : State → State} (hf : ∀ s, R s (f s)) : M.Keeps R (modify f : M Unit) := fun s b t h => by
  cases h; exact hf s

theorem M.Keeps.modifyMe {f : Ctx → Ctx} (hf : ∀ s, R s (s.setMe (f s.me))) : M.Keeps R (modifyMe f) := fun s b t h => by
  cases h; exact hf s

theorem M.Keeps.getMe (hr : ∀ s, R s s) : M.Keeps R Machine.getMe := fun s b t h => by
  cases h; exact hr s

theorem M.Keeps.raise (c : Trap) : M.Keeps R (Machine.raise c : M α) := fun _ _ _ h => by cases h

theorem M.Keeps.await (hr : ∀ s, R s s) (ok : Bool) (w : Wait) : M.Keeps R (await ok w) := fun s b t h => by
  cases ok
  · cases h
  · cases h; exact hr s

theorem M.Keeps.require (hr : ∀ s, R s s) (ok : Bool) (c d : Nat) : M.Keeps R (require ok c d) := fun s b t h => by
  cases ok
  · cases h
  · cases h; exact hr s

theorem M.Keeps.mapM (hr : ∀ s, R s s) (ht : ∀ s t u, R s t → R t u → R s u) {f : α → M β} (hf : ∀ a, M.Keeps R (f a)) (xs : List α) :
    M.Keeps R (xs.mapM f) := by
  induction xs with
  | nil => rw [List.mapM_nil]; exact .pure hr _
  | cons x xs ih =>
    rw [List.mapM_cons]
    exact .bind ht (hf x) fun b => .bind ht ih fun bs => .pure hr _

theorem M.Keeps.forM (hr : ∀ s, R s s) (ht : ∀ s t u, R s t → R t u → R s u) {f : α → M PUnit} (hf : ∀ a, M.Keeps R (f a)) (xs : List α) :
    M.Keeps R (xs.forM f) := by
  induction xs with
  | nil => exact .pure hr _
  | cons x xs ih => exact .bind ht (hf x) fun _ => ih

end

/-! ### A bundle that retires (R78, R430) -/

theorem State.done_rest (s : State) : s.done = { s with ctxs := s.done.ctxs, cores := s.done.cores, dies := s.done.dies, stalled := [] } := by
  unfold State.done State.retire State.retireCtx
  dsimp only
  obtain ⟨ds, h | ⟨r, h⟩⟩ := State.ropeStep_cases ((s.setCtx s.cur (s.ctx s.cur).retired).setCore (coreOf s.cur) _) s.cur (s.ctx s.cur) <;>
    rw [h] <;> rfl

section
variable (s : State)

@[simp] theorem State.done_banks : s.done.banks = s.banks := by rw [s.done_rest]
@[simp] theorem State.done_ridges : s.done.ridges = s.ridges := by rw [s.done_rest]
@[simp] theorem State.done_teams : s.done.teams = s.teams := by rw [s.done_rest]
@[simp] theorem State.done_parts : s.done.parts = s.parts := by rw [s.done_rest]

@[simp] theorem State.done_bank (b : Nat) : s.done.bank b = s.bank b := State.bank_congr s.done_banks b
@[simp] theorem State.done_ridge (r : Nat) : s.done.ridge r = s.ridge r := congrArg (fun t : Table Ridge => t.get Ridge.reset r) s.done_ridges
@[simp] theorem State.done_team (t : Nat) : s.done.team t = s.team t := congrArg (fun m : Table Team => m.get Team.none t) s.done_teams
@[simp] theorem State.done_part (p : Nat) : s.done.part p = s.part p := congrArg (fun m : Table Part => m.get Part.empty p) s.done_parts

theorem State.done_ctx_other {c : CtxId} (h : c ≠ s.cur) : s.done.ctx c = s.ctx c := s.retireCtx_ctx_other h

theorem State.done_keepsOthers : s.keepsOthers s.done s.cur := fun _ h => s.done_ctx_other h

end

theorem State.ropeStep_cores (s : State) (c : CtxId) (x : Ctx) : (s.ropeStep c x).cores = s.cores := by
  obtain ⟨ds, h | ⟨r, h⟩⟩ := s.ropeStep_cases c x <;> exact (congrArg State.cores h).trans rfl

/-- Retiring counts the bundle and notes who issued; a core keeps everything else. -/
theorem State.done_core (s : State) (c : CoreId) : ∃ n l, s.done.core c = { s.core c with counts := n, last := l } := by
  obtain ⟨n, hn⟩ : ∃ n, ∀ c, (s.retireCtx s.cur).core c = if c = coreOf s.cur then { s.core c with counts := n } else s.core c := by
    refine ⟨((s.retireCtx s.cur).core (coreOf s.cur)).counts, fun c => ?_⟩
    have core : ∀ c, (s.retireCtx s.cur).core c = Table.get Core.reset (Table.put s.cores (coreOf s.cur) _) c := fun c =>
      congrArg (fun ks : Table Core => ks.get Core.reset c) (State.ropeStep_cores _ _ _)
    rw [core, core, Table.get_put, Table.get_put_same]
    split
    · rename_i h; subst h; rfl
    · rfl
  have hcur : (s.retireCtx s.cur).cur = s.cur := s.retireCtx_cur s.cur
  have hdone : s.done.core c = if c = coreOf s.cur then { (s.retireCtx s.cur).core (coreOf s.cur) with last := ctxNum s.cur } else (s.retireCtx s.cur).core c := by
    show (State.noteIssue (s.retireCtx s.cur)).core c = _
    unfold State.noteIssue State.myCore
    rw [hcur]
    exact Table.get_put ..
  rw [hdone]
  by_cases h : c = coreOf s.cur
  · subst h; rw [if_pos rfl, hn, if_pos rfl]; exact ⟨_, _, rfl⟩
  · rw [if_neg h, hn, if_neg h]; exact ⟨_, _, rfl⟩

theorem State.done_myCore (s : State) : ∃ n l, s.done.myCore = { s.myCore with counts := n, last := l } := by
  rw [State.myCore, State.done_cur]; exact s.done_core _

/-- Retiring keeps every register of the context (R61). -/
theorem State.keepsRegisters_done {s t : State} {gs : List GReg} {vs : List VReg} {ks : List Nat} (h : s.keepsRegisters t gs vs ks) :
    s.keepsRegisters t.done gs vs ks := by
  obtain ⟨hcur, hg, hv, hk⟩ := h
  obtain ⟨dg, dv, dk, -⟩ := t.done_registers
  exact ⟨t.done_cur.trans hcur, fun r hp hr => (dg r).trans (hg r hp hr), fun r hr => (dv r).trans (hv r hr), fun n hn => (dk n).trans (hk n hn)⟩

theorem State.keepsOthers_trans {s t u : State} {c : CtxId} (h : s.keepsOthers t c) (h' : t.keepsOthers u c) : s.keepsOthers u c :=
  fun d hd => (h' d hd).trans (h d hd)

theorem State.keepsOthers_done {s t : State} {c : CtxId} (h : s.keepsOthers t c) (hc : t.cur = c) : s.keepsOthers t.done c :=
  State.keepsOthers_trans h (hc ▸ t.done_keepsOthers)

/-! ### Reading register operands (R15, R17) -/

/-- Reading register operands takes words out of the context's ports, and changes nothing else. -/
structure State.Pops (s t : State) : Prop where
  rest : t = { s with ctxs := t.ctxs, banks := t.banks }
  others : s.keepsOthers t s.cur
  me : ∃ m e q d, t.me = { s.me with msg := m, evt := e, mres := q, done := d }
  bank : ∀ b, ∃ l, t.bank b = { s.bank b with links := l }

theorem State.Pops.refl (s : State) : s.Pops s := ⟨rfl, fun _ _ => rfl, ⟨_, _, _, _, rfl⟩, fun _ => ⟨_, rfl⟩⟩

theorem State.Pops.cur {s t : State} (h : s.Pops t) : t.cur = s.cur := by rw [h.rest]

theorem State.Pops.trans {s t u : State} (h : s.Pops t) (h' : t.Pops u) : s.Pops u := by
  refine ⟨?_, ?_, ?_, fun b => ?_⟩
  · rw [h'.rest, h.rest]
  · exact State.keepsOthers_trans h.others (h.cur ▸ h'.others)
  · obtain ⟨_, _, _, _, e⟩ := h.me
    obtain ⟨_, _, _, _, e'⟩ := h'.me
    rw [e', e]; exact ⟨_, _, _, _, rfl⟩
  · obtain ⟨_, e⟩ := h.bank b
    obtain ⟨_, e'⟩ := h'.bank b
    rw [e', e]; exact ⟨_, rfl⟩

theorem State.pops_setMe {s : State} (m e q d : List Word) : s.Pops (s.setMe { s.me with msg := m, evt := e, mres := q, done := d }) :=
  ⟨rfl, s.keepsOthers_setMe _, ⟨_, _, _, _, s.setMe_me _⟩, fun _ => ⟨_, rfl⟩⟩

theorem State.pops_dropPort (s : State) (r : GReg) : s.Pops (s.dropPort s.cur r) := by
  unfold State.dropPort
  dsimp only
  split
  case h_5 =>
    refine ⟨rfl, fun _ _ => rfl, ⟨_, _, _, _, rfl⟩, fun b => ?_⟩
    by_cases h : b = bankOf s.cur
    · subst h; exact ⟨_, State.setBank_bank ..⟩
    · exact ⟨_, State.setBank_bank_other _ _ _ _ h⟩
  all_goals exact s.pops_setMe _ _ _ _

theorem State.Reads.pops {s t : State} {rs : List GReg} {ws : List Word} (h : s.Reads rs ws t) : s.Pops t := by
  induction rs generalizing s ws with
  | nil =>
    cases ws with
    | nil => exact (h : t = s) ▸ State.Pops.refl s
    | cons w ws => exact absurd h (by simp [State.Reads])
  | cons r rs ih =>
    cases ws with
    | nil => exact absurd h (by simp [State.Reads])
    | cons w ws =>
      unfold State.Reads at h
      split at h
      · exact (s.pops_dropPort r).trans (ih h.2)
      · exact ih h.2

theorem State.Pops.keepsRegisters {s t : State} (h : s.Pops t) : s.keepsRegisters t [] [] [] := by
  obtain ⟨_, _, _, _, e⟩ := h.me
  exact ⟨h.cur, fun r _ _ => by rw [e]; rfl, fun r _ => by rw [e], fun n _ => by rw [e]; rfl⟩

/-! ### Register operands of a bundle -/

/-- A cause of a class other than 0 is taken as it is raised (R88, R422). -/
theorem runBundle_cause {m : M Unit} {s : State} {t : Trap} (h : m s = .error (.trap t)) (hc : t.cls ≠ 0) : runBundle m s = .next (s.trapped t) := by
  rw [runBundle_trap h, Ctx.withDetail, if_neg fun h0 => hc h0.1]

/-- Registers that are free stay so where fewer of them are named. -/
theorem State.clear_noWrites {s : State} {rs ws : List GReg} {vr vw : List VReg} (h : s.clear rs ws vr vw = true) : s.clear rs [] vr vw = true := by
  simp only [State.clear, Bool.and_eq_true, List.all_eq_true, List.append_nil, List.all_nil, and_true] at *
  obtain ⟨⟨⟨⟨pend, links⟩, -⟩, -⟩, -⟩ := h
  exact ⟨fun p hp => ⟨fun r hr => (pend p hp).1 r (List.mem_append_left _ hr), (pend p hp).2⟩, links⟩

/-- A bundle of one register operand, up to what it does with the word. -/
theorem issue_read_one {s t : State} {a : GReg} {ws : List GReg} {x : Word} (hc : s.clear [a] ws [] [] = true) (hr : s.Reads [a] [x] t)
    (f : Word → M Unit) : (issue [a] ws [] [] >>= fun _ => readG a >>= f) s = f x t := by
  obtain ⟨u, hread, hrest, -⟩ := State.readG_run (State.clear_pend hc (by simp)) hr
  obtain rfl : t = u := hrest
  rw [M.bind_ok (issue_run hc hr), M.bind_ok hread]

/-- A bundle of two register operands, up to what it does with the words. -/
theorem issue_read_two {s t : State} {a b : GReg} {ws : List GReg} {x y : Word} (hc : s.clear [a, b] ws [] [] = true)
    (hr : s.Reads [a, b] [x, y] t) (f : Word → Word → M Unit) :
    (issue [a, b] ws [] [] >>= fun _ => readG a >>= fun x => readG b >>= f x) s = f x y t := by
  obtain ⟨u, ha, hu, pu, -⟩ := State.readG_run (State.clear_pend hc (by simp)) hr
  obtain ⟨v, hb, hv, -⟩ := State.readG_run (by rw [pu]; exact State.clear_pend hc (by simp)) hu
  obtain rfl : t = v := hv
  rw [M.bind_ok (issue_run hc hr), M.bind_ok ha, M.bind_ok hb]

/-- A result after reads goes to its register (R17, R117). -/
theorem writeG_reads {s t : State} {rs ws : List GReg} {xs : List Word} {d : GReg} (hc : s.clear rs ws [] [] = true) (hd : d ∈ ws)
    (hr : s.Reads rs xs t) (w : Word) : writeG d w t = .ok ((), t.put d w) := by
  refine writeG_run ?_ w
  obtain ⟨_, _, _, _, e⟩ := hr.pops.me
  rw [e]
  exact State.clear_pend hc (.inr hd)

theorem State.Pops.myCore {s t : State} (h : s.Pops t) : t.myCore = s.myCore := by
  rw [h.rest]; rfl

@[simp] theorem State.setCore_myCore (s : State) (k : Core) : (s.setCore (coreOf s.cur) k).myCore = k := State.setCore_core ..

end Sys2Proof.Machine
end

section
/-! SUPPORT. Accesses (R127 to R129, R201 to R210, R414 to R421): what finding and reading an access's locations leaves as it was. -/

namespace Sys2Proof.Machine

/-! ### The caches hold tags only (R201 to R210) -/

/-- Only what the caches and the directory hold may differ. -/
def State.ButCaches (s t : State) : Prop := t = { s with l1s := t.l1s, l2s := t.l2s, dirs := t.dirs }

theorem State.ButCaches.refl (s : State) : s.ButCaches s := rfl

theorem State.ButCaches.trans {s t u : State} (h : s.ButCaches t) (h' : t.ButCaches u) : s.ButCaches u := by
  unfold State.ButCaches at *
  rw [h', h]

theorem State.butCaches_foldl {α : Type} {f : State → α → State} (hf : ∀ (s : State) a, s.ButCaches (f s a)) (l : List α) (s : State) :
    s.ButCaches (l.foldl f s) := foldl_keeps State.ButCaches.refl (fun _ _ _ => State.ButCaches.trans) hf l s

theorem State.butCaches_setDir (s : State) (line : Nat) (d : Dir) : s.ButCaches (s.setDir line d) := rfl
theorem State.butCaches_setL1 (s : State) (c : CoreId) (ls : List L1Line) : s.ButCaches (s.setL1 c ls) := rfl
theorem State.butCaches_setL2 (s : State) (b : Nat) (ls : List L2Line) : s.ButCaches (s.setL2 b ls) := rfl
theorem State.butCaches_dropL1 (s : State) (line : Nat) (c : CoreId) : s.ButCaches (s.dropL1 line c) := rfl
theorem State.butCaches_dropProxy (s : State) (line slice : Nat) : s.ButCaches (s.dropProxy line slice) := rfl

theorem State.butCaches_dropCopies (s : State) (line : Nat) (keep : Option CoreId) : s.ButCaches (s.dropCopies line keep) :=
  (State.butCaches_foldl (fun u c => u.butCaches_dropL1 line c) _ s).trans (State.butCaches_foldl (fun u p => u.butCaches_dropProxy line p) _ _)

theorem State.butCaches_share (s : State) (line : Nat) (c : Option CoreId) : s.ButCaches (s.share line c) := by
  unfold State.share
  dsimp only
  split
  · exact .refl s
  · split
    · exact .refl s
    · exact (s.butCaches_setL1 _ _).trans (State.butCaches_setDir _ _ _)

theorem State.butCaches_hold (s : State) (busy : Nat → Bool) (slice : Nat) (e : L2Line) : s.ButCaches (s.hold busy slice e) := by
  unfold State.hold
  extract_lets b others rivals ways listed
  have hlisted : ∀ u : State, u.ButCaches (listed u) := fun u => by
    show u.ButCaches (ite _ _ _)
    split
    exacts [u.butCaches_setDir _ _, .refl u]
  have hfound : ∀ (u : State) (ls : List L2Line), s.ButCaches u → s.ButCaches (listed (u.setL2 b ls)) := fun u ls hu =>
    hu.trans ((u.butCaches_setL2 b ls).trans (hlisted _))
  split
  · exact hfound s _ (.refl s)
  · split
    · exact .refl s
    · split
      · exact .refl s
      · split
        · exact .refl s
        · split
          · exact .refl s
          · refine hfound (ite _ _ _) _ ?_
            split
            exacts [s.butCaches_dropProxy _ _, .refl s]

theorem State.butCaches_fillL1 (s : State) (busy : Nat → Bool) (c : CoreId) (e : L1Line) : s.ButCaches (s.fillL1 busy c e) := by
  unfold State.fillL1
  dsimp only
  split
  · exact .refl s
  · exact ((s.butCaches_setL1 _ _).trans (State.butCaches_setDir _ _ _)).trans (State.butCaches_foldl (fun u (f : L1Line) => u.butCaches_dropL1 f.line c) _ _)

theorem State.butCaches_reach (s : State) (busy : Nat → Bool) (k : Reach) (c : CoreId) (e : L2Line) (cacheable : Bool) :
    s.ButCaches (s.reach busy k c e cacheable) := by
  unfold State.reach
  extract_lets line home held fill u w
  have hheld : ∀ u : State, u.ButCaches (held u) := fun u => u.butCaches_hold _ _ _
  have hfill : ∀ (x : Bool) (u : State), u.ButCaches (fill x u) := fun x u => u.butCaches_fillL1 _ _ _
  split
  · split
    · exact (s.butCaches_share _ _).trans (hheld _)
    · split
      · exact s.butCaches_setL1 _ _
      · refine State.ButCaches.trans (((s.butCaches_share _ _).trans (hheld _) : s.ButCaches u).trans ?_) (hfill _ w)
        show u.ButCaches (match u.proxySlice e.part line c with | some p => u.hold busy p { e with proxy := true } | none => u)
        split
        exacts [u.butCaches_hold _ _ _, .refl u]
  · split
    · exact ((s.butCaches_dropCopies _ _).trans (hheld _)).trans (hfill _ _)
    · exact (s.butCaches_dropCopies _ _).trans (hheld _)
  · exact (s.butCaches_share _ _).trans (hheld _)
  · exact (s.butCaches_dropCopies _ _).trans (hheld _)

theorem State.butCaches_reachLines (s : State) (acc : Acc) (l : Leaf) (va len : Nat) : s.ButCaches (s.reachLines acc l va len) :=
  State.butCaches_foldl (fun u _ => u.butCaches_reach _ _ _ _ _) _ s

/-! ### Accesses -/

/-- What an access may change beside memory: the caches, the marks of ordered tasks, the translation caches, and of the context its pins, what
a store to an SC page waits for, and a fault it has met. -/
structure State.Accessed (s t : State) : Prop where
  rest : t = { s with ctxs := t.ctxs, cores := t.cores, l1s := t.l1s, l2s := t.l2s, dirs := t.dirs, marks := t.marks }
  others : s.keepsOthers t s.cur
  me : ∃ ps st ow od f, t.me = { s.me with pins := ps, strict := st, owes := ow, owed := od, faulted := f }
  core : ∀ c, ∃ tlb, t.core c = { s.core c with tlb := tlb }

theorem State.Accessed.refl (s : State) : s.Accessed s := ⟨rfl, fun _ _ => rfl, ⟨_, _, _, _, _, rfl⟩, fun _ => ⟨_, rfl⟩⟩

theorem State.Accessed.cur {s t : State} (h : s.Accessed t) : t.cur = s.cur := by rw [h.rest]
theorem State.Accessed.mem {s t : State} (h : s.Accessed t) : t.mem = s.mem := by rw [h.rest]
theorem State.Accessed.banks {s t : State} (h : s.Accessed t) : t.banks = s.banks := by rw [h.rest]

theorem State.Accessed.trans {s t u : State} (h : s.Accessed t) (h' : t.Accessed u) : s.Accessed u := by
  refine ⟨?_, ?_, ?_, fun c => ?_⟩
  · rw [h'.rest, h.rest]
  · exact State.keepsOthers_trans h.others (h.cur ▸ h'.others)
  · obtain ⟨_, _, _, _, _, e⟩ := h.me
    obtain ⟨_, _, _, _, _, e'⟩ := h'.me
    rw [e', e]; exact ⟨_, _, _, _, _, rfl⟩
  · obtain ⟨_, e⟩ := h.core c
    obtain ⟨_, e'⟩ := h'.core c
    rw [e', e]; exact ⟨_, rfl⟩

theorem State.Accessed.keepsRegisters {s t : State} (h : s.Accessed t) : s.keepsRegisters t [] [] [] := by
  obtain ⟨_, _, _, _, _, e⟩ := h.me
  exact ⟨h.cur, fun r _ _ => by rw [e]; rfl, fun r _ => by rw [e], fun n _ => by rw [e]; rfl⟩

theorem State.ButCaches.accessed {s t : State} (h : s.ButCaches t) : s.Accessed t := by
  unfold State.ButCaches at h
  rw [h]
  exact ⟨rfl, fun _ _ => rfl, ⟨_, _, _, _, _, rfl⟩, fun _ => ⟨_, rfl⟩⟩

theorem State.accessed_setMe (s : State) (ps : List Pin) (st : Bool) (ow : List (Nat × BitVec 32)) (od : List Nat) (f : Option Trap) :
    s.Accessed (s.setMe { s.me with pins := ps, strict := st, owes := ow, owed := od, faulted := f }) :=
  ⟨rfl, s.keepsOthers_setMe _, ⟨_, _, _, _, _, s.setMe_me _⟩, fun _ => ⟨_, rfl⟩⟩

theorem State.accessed_touch (s : State) (e : TlbEntry) : s.Accessed (s.setCore (coreOf s.cur) (s.myCore.touch e)) := by
  refine ⟨rfl, fun _ _ => rfl, ⟨_, _, _, _, _, rfl⟩, fun c => ?_⟩
  by_cases h : c = coreOf s.cur
  · subst h; exact ⟨_, State.setCore_core ..⟩
  · exact ⟨_, State.setCore_core_other _ _ _ _ h⟩

theorem State.accessed_marks (s : State) (m : Table Marks) : s.Accessed { s with marks := m } :=
  ⟨rfl, fun _ _ => rfl, ⟨_, _, _, _, _, rfl⟩, fun _ => ⟨_, rfl⟩⟩

/-- A step of an access. -/
def M.Accesses {α : Type} (m : M α) : Prop := M.Keeps State.Accessed m

section
variable {α β : Type}

theorem M.Accesses.bind {m : M α} {f : α → M β} (hm : m.Accesses) (hf : ∀ a, (f a).Accesses) : (m >>= f).Accesses :=
  M.Keeps.bind (R := State.Accessed) (fun _ _ _ => .trans) hm hf

theorem M.Accesses.pure (a : α) : M.Accesses (Pure.pure a) := M.Keeps.pure State.Accessed.refl a

theorem M.Accesses.readState {f : State → M β} (hf : ∀ s, (f s).Accesses) : (MonadState.get >>= f).Accesses := M.Keeps.get fun s b t h => hf s s b t h

theorem M.Accesses.get : M.Accesses MonadState.get := fun s a t h => by cases h; exact .refl s

theorem M.Accesses.getMe : Machine.getMe.Accesses := M.Keeps.getMe State.Accessed.refl

theorem M.Accesses.raise (c : Trap) : M.Accesses (Machine.raise c : M α) := M.Keeps.raise c

theorem M.Accesses.await (ok : Bool) (w : Wait) : M.Accesses (Machine.await ok w) := M.Keeps.await State.Accessed.refl ok w

/-- A step of an access that changes the context's pins only. -/
theorem M.Accesses.setPins (f : Ctx → List Pin) : M.Accesses (modifyMe (fun x => { x with pins := f x })) :=
  M.Keeps.modifyMe fun s => s.accessed_setMe _ _ _ _ _

theorem M.Accesses.touch (f : Core → TlbEntry) : M.Accesses (modifyCore (fun k => k.touch (f k))) := fun s a t h => by
  cases h; exact s.accessed_touch _

end

theorem translate_accesses (acc : Acc) (va : Nat) : (translate acc va).Accesses := by
  refine .readState fun s => ?_
  dsimp only
  split
  · exact .bind (.setPins _) fun _ => .pure _
  · split
    · split
      · exact .raise _
      · exact .bind (.touch _) fun _ => .pure _
    · refine .bind (.await _ _) fun _ => ?_
      split
      · exact .raise _
      · exact .bind (.touch _) fun _ => .pure _

theorem underPins_accesses {α β : Type} {f : α → M β} (hf : ∀ a, (f a).Accesses) (xs : List α) : (underPins f xs).Accesses := by
  refine .bind .getMe fun x => ?_
  refine .bind (M.Keeps.mapM (R := State.Accessed) .refl (fun _ _ _ => .trans) (fun a => ?_) xs) fun rs => ?_
  · exact M.Accesses.bind (.setPins _) fun _ => .bind (hf a) fun _ => .bind .getMe fun _ => .pure _
  · exact .bind (.setPins _) fun _ => .pure _

theorem keepPins_accesses {α : Type} {m : M α} (hm : m.Accesses) : (keepPins m).Accesses :=
  .bind .getMe fun _ => .bind hm fun _ => .bind (.setPins _) fun _ => .pure _

theorem locatePiece_accesses (acc : Acc) (va len : Nat) : (locatePiece acc va len).Accesses := by
  have reach : ∀ l : Leaf, M.Accesses (do
      modify (fun s : State => s.reachLines acc l va len)
      pure (run (l.pa va) len)) := fun l =>
    .bind (M.Keeps.modify fun s => (s.butCaches_reachLines acc l va len).accessed) fun _ => .pure _
  have strict : M.Accesses (modifyMe (fun x => { x with strict := true, owes := [], owed := [] })) :=
    M.Keeps.modifyMe fun s => s.accessed_setMe _ _ _ _ _
  refine .bind (translate_accesses acc va) fun l => ?_
  dsimp only
  split
  · exact .bind (.raise _) fun _ => by
      split
      · refine .bind .get fun s => .bind (.await _ _) fun _ => ?_
        split
        exacts [.bind strict fun _ => reach l, reach l]
      · exact reach l
  · split
    · refine .bind .get fun s => .bind (.await _ _) fun _ => ?_
      split
      exacts [.bind strict fun _ => reach l, reach l]
    · exact reach l

theorem aperture_accesses (ea : Word) (n : Nat) : (aperture ea n).Accesses := by
  refine .readState fun s => ?_
  split
  · exact .raise _
  · split
    · exact .raise _
    · split
      · exact .raise _
      · exact .bind (.await _ _) fun _ => .pure _

theorem physical_accesses (ea : Word) (n : Nat) : (physical ea n).Accesses := by
  unfold physical
  split
  exacts [.pure _, fun _ _ _ h => by cases h]

theorem locate_accesses (acc : Acc) (ea : Word) (n : Nat) : (locate acc ea n).Accesses := by
  unfold locate
  split
  · exact .bind (aperture_accesses ea n) fun _ => .pure _
  · refine .readState fun s => ?_
    split
    · exact physical_accesses ea n
    · have parts := underPins_accesses (f := fun p : Nat × Nat => locatePiece acc p.1 p.2) (fun p => locatePiece_accesses acc p.1 p.2)
        (pieces (n / 4096 + 2) ea.toNat n)
      exact .bind parts fun _ => .pure _

theorem M.await_inv {ok : Bool} {w : Wait} {s t : State} {a : Unit} (h : await ok w s = .ok (a, t)) : ok = true ∧ t = s := by
  cases ok
  · cases h
  · cases h; exact ⟨rfl, rfl⟩

theorem M.ite_inv {α : Type} {p : Prop} [Decidable p] {m m' : M α} {s : State} {r : Except Stop (α × State)}
    (h : (if p then m else m') s = r) : (p ∧ m s = r) ∨ (¬p ∧ m' s = r) := by
  by_cases hp : p
  · exact .inl ⟨hp, by rwa [if_pos hp] at h⟩
  · exact .inr ⟨hp, by rwa [if_neg hp] at h⟩

theorem meetLine_accesses (write : Bool) (line : Nat) : (meetLine write line).Accesses := by
  intro s a t h
  unfold meetLine at h
  rw [M.bind_ok (M.get_run s)] at h
  cases ht : s.me.task with
  | none =>
    simp only [ht] at h
    exact (M.await_inv h).2 ▸ .refl s
  | some r =>
    simp only [ht] at h
    obtain ⟨_, u, hu, h⟩ := M.bind_inv h
    obtain ⟨-, rfl⟩ := M.await_inv hu
    have marked : ∀ m : Table Marks, (set ({ u with marks := m } : State) : M Unit) u = .ok (a, t) → u.Accessed t := fun m h => by
      cases h; exact u.accessed_marks m
    rcases M.ite_inv h with ⟨-, h⟩ | ⟨-, h⟩
    · cases h
    · rcases M.ite_inv h with ⟨-, h⟩ | ⟨-, h⟩
      · rcases M.ite_inv h with ⟨-, h⟩ | ⟨-, h⟩
        · rcases M.ite_inv h with ⟨-, h⟩ | ⟨-, h⟩
          · cases hm : List.argmax u.keyOf ((u.marksOf line).readers ++ (u.marksOf line).writers).dedup <;> simp only [hm] at h <;> cases h
          · cases h
        · exact marked _ h
      · cases h; exact .refl _

theorem consume_accesses (locs : List Nat) : (consume locs).Accesses := by
  refine .readState fun s => ?_
  split
  · exact .pure _
  · exact M.Keeps.modifyMe fun s => s.accessed_setMe _ _ _ _ _

theorem meet_accesses (write : Bool) (locs : List Nat) : (meet write locs).Accesses :=
  .readState fun _ => .bind (.await _ _) fun _ => M.Keeps.forM (R := State.Accessed) .refl (fun _ _ _ => .trans) (meetLine_accesses write) _

theorem readBytes_accesses (locs : List Nat) : (readBytes locs).Accesses :=
  .bind (meet_accesses false locs) fun _ => .bind (consume_accesses locs) fun _ => .readState fun _ => .pure _

theorem loadBytes_accesses (acc : Acc) (ea : Word) (n : Nat) : (loadBytes acc ea n).Accesses :=
  .bind (locate_accesses acc ea n) fun locs => .bind (.readState fun _ => .await _ _) fun _ => readBytes_accesses locs

theorem loadNat_accesses (acc : Acc) (ea : Word) (n : Nat) : (loadNat acc ea n).Accesses := .bind (loadBytes_accesses acc ea n) fun _ => .pure _

theorem loadWord_accesses (acc : Acc) (ea : Word) : (loadWord acc ea).Accesses := .bind (loadNat_accesses acc ea 8) fun _ => .pure _

/-! ### An access that meets nothing -/

/-- Lines that no engine has claimed and no task has marked are met without a wait, by a context without a task (R187, R224). -/
theorem meet_run {s : State} (write : Bool) {locs : List Nat} (ht : s.me.task = none) (h : ∀ l ∈ linesOf locs, l ∉ s.claims ∧ s.marksOf l = ⟨[], []⟩) :
    meet write locs s = .ok ((), s) := by
  have line : ∀ l ∈ linesOf locs, meetLine write l s = .ok ((), s) := fun l hl => by
    unfold meetLine
    rw [M.bind_ok (M.get_run s)]
    simp only [ht, (h l hl).2]
    exact M.await_run rfl _ s
  have lines : ∀ ls : List Nat, (∀ l ∈ ls, meetLine write l s = .ok ((), s)) → (ls.forM (meetLine write)) s = .ok ((), s) := fun ls hls => by
    induction ls with
    | nil => rfl
    | cons l ls ih =>
      show (meetLine write l >>= fun _ => ls.forM (meetLine write)) s = _
      rw [M.bind_ok (hls l (List.mem_cons_self ..))]
      exact ih fun k hk => hls k (List.mem_cons_of_mem _ hk)
  unfold meet
  rw [M.bind_ok (M.get_run s), M.bind_ok (M.await_run ?_ _ s)]
  · exact lines _ line
  · simp only [Bool.not_eq_true', List.any_eq_false, List.contains_iff_mem]
    exact fun l hl => (h l hl).1

/-- A plain load of locations that nothing else uses gives their bytes (R127). -/
theorem loadBytes_run {s t : State} {acc : Acc} {ea : Word} {n : Nat} {locs : List Nat} (hl : locate acc ea n s = .ok (locs, t))
    (hu : t.unshared locs) (hf : t.landed locs) : loadBytes acc ea n s = .ok (t.loadAt locs, t) := by
  obtain ⟨ht, hlines⟩ := hu
  have clean : (linesOf locs).find? t.poison.contains = none :=
    List.find?_eq_none.mpr fun l hl => by simpa using (hlines l hl).2.1
  have consumes : consume locs t = .ok ((), t) := by
    unfold consume
    rw [M.bind_ok (M.get_run t)]
    simp only [clean]
    rfl
  unfold loadBytes
  rw [M.bind_ok hl]
  have own : awaitOwn locs t = .ok ((), t) := M.await_run (ok := !t.inFlight locs) (by rw [hf]; rfl) _ t
  rw [M.bind_ok own]
  unfold readBytes
  rw [M.bind_ok (meet_run false ht fun l hl => ⟨(hlines l hl).1, (hlines l hl).2.2⟩), M.bind_ok consumes]
  rfl

theorem loadWord_run {s t : State} {acc : Acc} {ea : Word} {locs : List Nat} (hl : locate acc ea 8 s = .ok (locs, t))
    (hu : t.unshared locs) (hf : t.landed locs) : loadWord acc ea s = .ok (BitVec.ofNat 64 (t.numberAt locs), t) := by
  unfold loadWord loadNat
  refine M.bind_ok (a := t.numberAt locs) ?_
  rw [M.bind_ok (loadBytes_run hl hu hf)]
  rfl

/-! ### How many locations an access has (R127) -/

/-- The pieces of a run of bytes cover it. -/
theorem pieces_length : ∀ (k va n : Nat), 0 < k → n ≤ 4096 * k - va % 4096 → ((pieces k va n).map Prod.snd).sum = n := by
  intro k
  induction k with
  | zero => omega
  | succ k ih =>
    intro va n _ hn
    unfold pieces
    split
    · simp_all
    · rename_i h0
      simp only [List.map_cons, List.sum_cons]
      by_cases hfit : n ≤ 4096 - va % 4096
      · have rest : pieces k ((va + min n (4096 - va % 4096)) % 2 ^ 64) (n - min n (4096 - va % 4096)) = [] := by
          have hz : n - min n (4096 - va % 4096) = 0 := by omega
          rw [hz]
          cases k <;> simp [pieces]
        rw [rest]
        simp only [List.map_nil, List.sum_nil]
        omega
      · have hpage : ((va + min n (4096 - va % 4096)) % 2 ^ 64) % 4096 = 0 := by omega
        rw [ih _ _ (by omega) (by omega)]
        omega

/-- What the parts of an access give, part by part. -/
theorem underPins_forall₂ {α β : Type} {f : α → M β} {P : α → β → Prop} (hf : ∀ a s b t, f a s = .ok (b, t) → P a b) {xs : List α} {s t : State}
    {bs : List β} (h : underPins f xs s = .ok (bs, t)) : List.Forall₂ P xs bs := by
  have parts : ∀ {g : α → M (β × List Pin)}, (∀ a s b t, g a s = .ok (b, t) → P a b.1) → ∀ (xs : List α) (s t : State) (rs : List (β × List Pin)),
      xs.mapM g s = .ok (rs, t) → List.Forall₂ P xs (rs.map Prod.fst) := fun {g} hg xs => by
    induction xs with
    | nil =>
      intro s t rs h
      rw [List.mapM_nil] at h
      cases h; exact .nil
    | cons x xs ih =>
      intro s t rs h
      rw [List.mapM_cons] at h
      obtain ⟨b, u, hb, h⟩ := M.bind_inv h
      obtain ⟨bs, v, hbs, h⟩ := M.bind_inv h
      cases h
      exact .cons (hg x s b u hb) (ih u _ bs hbs)
  unfold underPins at h
  rw [M.bind_ok (M.getMe_run s)] at h
  obtain ⟨rs, u, hrs, h⟩ := M.bind_inv h
  obtain ⟨_, v, -, h⟩ := M.bind_inv h
  cases h
  refine parts (fun a s b t hb => ?_) xs _ _ rs hrs
  obtain ⟨_, u, -, hb⟩ := M.bind_inv hb
  obtain ⟨r, v, hr, hb⟩ := M.bind_inv hb
  rw [M.bind_ok (M.getMe_run v)] at hb
  cases hb
  exact hf a u r _ hr

theorem locatePiece_length {acc : Acc} {va len : Nat} {s t : State} {locs : List Nat} (h : locatePiece acc va len s = .ok (locs, t)) :
    locs.length = len := by
  have last : ∀ (l : Leaf) (m : M Unit) (s : State), (m >>= fun _ => (Pure.pure (run (l.pa va) len) : M (List Nat))) s = .ok (locs, t) → locs.length = len :=
    fun l m s h => by
      obtain ⟨_, u, -, h⟩ := M.bind_inv h
      cases h; simp [run]
  obtain ⟨l, u, -, h⟩ := M.bind_inv h
  rcases M.ite_inv h with ⟨-, h⟩ | ⟨-, h⟩
  · cases h
  · rcases M.ite_inv h with ⟨-, h⟩ | ⟨-, h⟩
    · obtain ⟨_, _, -, h⟩ := M.bind_inv h
      obtain ⟨_, _, -, h⟩ := M.bind_inv h
      rcases M.ite_inv h with ⟨-, h⟩ | ⟨-, h⟩
      · obtain ⟨_, _, -, h⟩ := M.bind_inv h
        exact last l _ _ h
      · exact last l _ _ h
    · exact last l _ _ h

theorem map_length_of_forall₂ {ps : List (Nat × Nat)} {ls : List (List Nat)} (h : List.Forall₂ (fun p l => l.length = p.2) ps ls) :
    ls.map List.length = ps.map Prod.snd := by
  induction h with
  | nil => rfl
  | cons hp _ ih => simp only [List.map_cons, hp, ih]

/-- An access of n bytes has n locations. -/
theorem locate_length {acc : Acc} {ea : Word} {n : Nat} {s t : State} {locs : List Nat} (h : locate acc ea n s = .ok (locs, t)) :
    locs.length = n := by
  unfold locate at h
  rcases M.ite_inv h with ⟨-, h⟩ | ⟨-, h⟩
  · obtain ⟨⟨_, v⟩, u, -, h⟩ := M.bind_inv h
    cases h; simp [run]
  · rw [M.bind_ok (M.get_run s)] at h
    rcases M.ite_inv h with ⟨-, h⟩ | ⟨-, h⟩
    · rcases M.ite_inv h with ⟨-, h⟩ | ⟨-, h⟩ <;> cases h
      simp [run]
    · obtain ⟨parts, u, hparts, h⟩ := M.bind_inv h
      cases h
      have each := underPins_forall₂ (P := fun (p : Nat × Nat) (ls : List Nat) => ls.length = p.2)
        (fun p _ _ _ hp => locatePiece_length hp) hparts
      rw [List.length_flatten, ← pieces_length (n / 4096 + 2) ea.toNat n (by omega) (by omega)]
      exact congrArg List.sum (map_length_of_forall₂ each)

/-- A number that n locations hold. -/
theorem leNat_lt : ∀ bs : List Byte, leNat bs < 256 ^ bs.length
  | [] => by simp [leNat]
  | b :: bs => by
    have := leNat_lt bs
    have := b.isLt
    simp only [leNat, List.length_cons, Nat.pow_succ]
    omega

theorem State.numberAt_lt (s : State) (locs : List Nat) : s.numberAt locs < 256 ^ locs.length := by
  have h := leNat_lt (s.loadAt locs)
  rwa [State.loadAt, List.length_map] at h

end Sys2Proof.Machine
end

section
/-! SUPPORT. The array's lease, the format context and the status of jobs (R56, R176, R177, R179, R190, R191, R197, R410). -/

namespace Sys2Proof.Machine

/-! ### Leases (R56, R177, R190, R410) -/

theorem State.myLease_held {s : State} {l : Lease} (h : (s.ridge s.myRidge).lease = some l) (hc : l.ctx = s.cur) : s.myLease = some l := by
  simp [State.myLease, h, hc]

theorem mlease_held {s : State} {d : GReg} {l : Lease} (hc : s.clear [] [d] [] [] = true) (h : s.myLease = some l) :
    exec (.mlease d) s = .next (s.put d (if s.me.wait = .lease then 64 else BitVec.ofNat 64 (0x80 ||| l.left))).done := by
  refine runBundle_ok ?_
  rw [M.bind_ok (issue_noReads hc), M.bind_ok (M.get_run s)]
  simp only [h]
  exact writeG_run (State.clear_pend hc (by simp)) _

theorem mlease_waits {s : State} {d : GReg} (hc : s.clear [] [d] [] [] = true) (h : s.myLease = none) :
    exec (.mlease d) s = .next (s.noteStall .lease) := by
  refine runBundle_wait ?_
  rw [M.bind_ok (issue_noReads hc), M.bind_ok (M.get_run s)]
  simp only [h]
  rfl

theorem State.endLease_held {s : State} {l : Lease} (h : (s.ridge s.myRidge).lease = some l) (hc : l.ctx = s.cur) :
    s.endLease s.cur = s.setRidge s.myRidge { s.ridge s.myRidge with lease := none } := by
  have h' : (s.ridge (ridgeOf (coreOf s.cur))).lease = some l := h
  unfold State.endLease
  simp only [h', hc, if_true]
  rfl

theorem State.endLease_notHeld {s : State} (h : ∀ m, (s.ridge s.myRidge).lease = some m → m.ctx ≠ s.cur) : s.endLease s.cur = s := by
  unfold State.endLease
  dsimp only
  split
  · rename_i l hl; rw [if_neg (h l hl)]
  · rfl

theorem exec_mfree (s : State) : exec .mfree s = .next (s.endLease s.cur).done :=
  runBundle_ok (m := modify fun s : State => s.endLease s.cur) rfl

/-- The arbiter's choice takes the idle array, from now on (R410). -/
theorem exec_leaseGrant {s : State} {i : Nat} {credit : Table Int} {c : CtxId} {more : List CtxId} (hl : (s.ridge (ridgeOf s.focus)).lease = none)
    (hf : (s.ridge (ridgeOf s.focus)).flips = [])
    (hw : weigh (s.ridge (ridgeOf s.focus)).credit (s.ridge (ridgeOf s.focus)).contenders (s.ridge (ridgeOf s.focus)).lastGrant
      (s.leaseContenders (ridgeOf s.focus)) = some (i, credit)) (hc : s.leaseWaiters (ridgeOf s.focus * 8 + i) = c :: more) :
    exec .leaseGrant s = .next (s.setRidge (ridgeOf s.focus) { s.ridge (ridgeOf s.focus) with
      lease := some ⟨c, 64, s.time⟩, credit, contenders := (s.leaseContenders (ridgeOf s.focus)).map Prod.fst, lastGrant := i }).stepped := by
  refine runStep_ok ?_
  rw [M.bind_ok (M.get_run s)]
  dsimp only
  rw [M.bind_ok (M.await_run (by simp [hl, hf]) _ s)]
  simp only [hw, hc]
  rfl

theorem exec_leaseTimeout {s : State} {l : Lease} (hl : (s.ridge (ridgeOf s.focus)).lease = some l) (ht : l.since + 50000 ≤ s.time) :
    exec .leaseTimeout s = .next (s.setRidge (ridgeOf s.focus) { s.ridge (ridgeOf s.focus) with lease := none }).stepped := by
  refine runStep_ok ?_
  rw [M.bind_ok (M.get_run s)]
  simp only [hl]
  rw [M.bind_ok (M.await_run (by simpa using ht) _ s)]
  rfl

/-! ### mfmt (R172, R176, R191) -/

/-- The format pairs of a ridge (R172). -/
theorem pairValid_iff (broad : Bool) (ta tb : Nat) : pairValid broad ta tb = true ↔
    (ta, tb) ∈ (if broad then [(1, 1), (2, 2), (2, 3), (3, 2), (3, 3), (6, 6)] else [(7, 7)]) := by
  cases broad
  · simp [pairValid]
  · simp [pairValid]; tauto

section
variable {s t u : State} {a : GReg} {q : QType} {x : Word} {locs : List Nat} (hc : s.clear [a] [] [] [] = true) (hr : s.Reads [a] [x] t)
  (hq : q ≠ 0 ∧ q ≠ 4 ∧ q ≠ 5) (hx : x.toNat % 8 = 0) (hl : locate .load x 8 t = .ok (locs, u)) (hu : u.unshared locs) (hf : u.landed locs)
include hc hr hq hx hl hu hf

/-- mfmt up to its checks of the format word. -/
theorem exec_mfmt : exec (.mfmt a q) s = runBundle (fun _ => (do
    require (decide (u.numberAt locs < 64)) 4 0
    require (pairValid (broadCore (coreOf (← get).cur)) (u.numberAt locs % 8) (u.numberAt locs / 8) && u.numberAt locs / 8 == q.val) 4 3
    modifyCore (fun k => { k with ta := ⟨u.numberAt locs % 8, Nat.mod_lt _ (by decide)⟩, tb := q, ovf := false })) u) s := by
  have word : (BitVec.ofNat 64 (u.numberAt locs)).toNat = u.numberAt locs := by
    have small := u.numberAt_lt locs
    rw [locate_length hl] at small
    exact Nat.mod_eq_of_lt small
  refine runBundle_congr ?_
  obtain ⟨h0, h4, h5⟩ := hq
  have ht : typed q s = .ok ((), s) := M.require_run (by simp [h0, h4, h5]) 0 19 s
  rw [M.bind_ok ht, issue_read_one hc hr,
    M.bind_ok (M.require_run (by simpa using hx) 4 0 t), M.bind_ok (loadWord_run hl hu hf)]
  simp only [word]

theorem mfmt_range (hw : 64 ≤ u.numberAt locs) : exec (.mfmt a q) s = .next (s.trapped { cls := 4, detail := 0 }) := by
  rw [exec_mfmt hc hr hq hx hl hu hf]
  refine runBundle_cause ?_ (by decide)
  exact M.bind_error (M.require_trap (by simpa using hw) 4 0 u)

theorem mfmt_badPair (hw : u.numberAt locs < 64)
    (hp : pairValid (broadCore (coreOf s.cur)) (u.numberAt locs % 8) (u.numberAt locs / 8) = false ∨ u.numberAt locs / 8 ≠ q.val) :
    exec (.mfmt a q) s = .next (s.trapped { cls := 4, detail := 3 }) := by
  have hcur : u.cur = s.cur := (locate_accesses _ _ _ _ _ _ hl).cur.trans hr.pops.cur
  rw [exec_mfmt hc hr hq hx hl hu hf]
  refine runBundle_cause ?_ (by decide)
  rw [M.bind_ok (M.require_run (by simpa using hw) 4 0 u), M.bind_ok (M.get_run u), hcur]
  refine M.bind_error (M.require_trap ?_ 4 3 u)
  rcases hp with hp | hp
  · rw [hp]; rfl
  · simp [hp]

theorem mfmt_sets (hw : u.numberAt locs < 64)
    (hp : pairValid (broadCore (coreOf s.cur)) (u.numberAt locs % 8) (u.numberAt locs / 8) = true) (hb : u.numberAt locs / 8 = q.val) :
    exec (.mfmt a q) s = .next (u.setCore (coreOf u.cur)
      { u.myCore with ta := ⟨u.numberAt locs % 8, Nat.mod_lt _ (by decide)⟩, tb := q, ovf := false }).done := by
  have hcur : u.cur = s.cur := (locate_accesses _ _ _ _ _ _ hl).cur.trans hr.pops.cur
  rw [exec_mfmt hc hr hq hx hl hu hf]
  refine runBundle_ok ?_
  rw [M.bind_ok (M.require_run (by simpa using hw) 4 0 u), M.bind_ok (M.get_run u),
    M.bind_ok (M.require_run (by rw [hcur, hp, hb]; simp) 4 3 u)]
  rfl

end

/-! ### mwait and mpoll (R179, R197) -/

section
variable {s t : State} {a d : GReg} {x : Word} (hc : s.clear [a] [d] [] [] = true) (hr : s.Reads [a] [x] t) (hx : x.toNat < 65536)
include hc hr hx

theorem job_notIssued (hn : 32768 ≤ (s.myCore.jobNewest.toNat + 65536 - x.toNat) % 65536) :
    exec (.mwait a) s = .next (s.trapped { cls := 4, detail := 4 }) ∧ exec (.mpoll d a) s = .next (s.trapped { cls := 4, detail := 4 }) := by
  have check : checkJob x t = .error (.trap { cls := 4, detail := 4 }) := by
    unfold checkJob
    rw [M.bind_ok (M.require_run (by simpa using hx) 4 0 t), M.bind_ok (M.get_run t), hr.pops.myCore]
    exact M.bind_error (M.require_trap (by simpa [notIssued, Nat.mod_eq_of_lt hx] using hn) 4 4 t)
  refine ⟨runBundle_cause ?_ (by decide), runBundle_cause ?_ (by decide)⟩
  · rw [issue_read_one (State.clear_noWrites hc) hr]
    exact M.bind_error check
  · rw [issue_read_one hc hr]
    exact M.bind_error check

theorem job_issued (hn : (s.myCore.jobNewest.toNat + 65536 - x.toNat) % 65536 < 32768) : let job := jobStatus s.myCore.jobs x.toNat
    exec (.mwait a) s = .next (if job.done then t.done else s.noteStall .other) ∧
    exec (.mpoll d a) s = .next (t.put d (if job.done then BitVec.ofNat 64 (1 + job.fault.toNat * 2 + job.ovf.toNat * 4) else 0)).done := by
  intro job
  have check : checkJob x t = .ok (job, t) := by
    unfold checkJob
    rw [M.bind_ok (M.require_run (by simpa using hx) 4 0 t), M.bind_ok (M.get_run t), hr.pops.myCore]
    rw [M.bind_ok (M.require_run (by simpa [notIssued, Nat.mod_eq_of_lt hx] using hn) 4 4 t)]
    rfl
  constructor
  · cases hd : job.done
    · refine runBundle_wait ?_
      rw [issue_read_one (State.clear_noWrites hc) hr, M.bind_ok check]
      exact M.await_wait hd .other t
    · refine runBundle_ok ?_
      rw [issue_read_one (State.clear_noWrites hc) hr, M.bind_ok check]
      exact M.await_run hd .other t
  · refine runBundle_ok ?_
    rw [issue_read_one hc hr, M.bind_ok check]
    exact writeG_reads hc (by simp) hr _

end

/-- Settles O23, from one lemma for each outcome of each instruction and step. -/
theorem matrixControl : Obligations.MatrixControl := by
  refine ⟨fun s d l i credit c more => ⟨fun hc => ⟨fun hl hctx => mlease_held hc (State.myLease_held hl hctx), fun h => mlease_waits hc h⟩,
    fun hl hctx => ?_, fun h => ?_, fun hl hf hw hwait => ?_, fun hl ht => exec_leaseTimeout hl ht⟩,
    fun s t u a d q x locs => ⟨fun hc hr h0 h4 h5 hx hl hu hf => ?_, fun hc hr hx => ⟨job_notIssued hc hr hx, job_issued hc hr hx⟩⟩⟩
  · rw [exec_mfree, State.endLease_held hl hctx]
  · rw [exec_mfree, State.endLease_notHeld h]
  · refine ⟨_, exec_leaseGrant hl hf hw hwait, ?_, ?_, ?_, rfl, rfl⟩ <;>
      exact (congrArg _ (State.setRidge_ridge s _ _)).trans rfl
  · have hq : q ≠ 0 ∧ q ≠ 4 ∧ q ≠ 5 := ⟨h0, h4, h5⟩
    have access := locate_accesses _ _ _ _ _ _ hl
    refine ⟨mfmt_range hc hr hq hx hl hu hf, fun hw hp => mfmt_badPair hc hr hq hx hl hu hf hw (hp.imp_left fun hp => ?_), fun hw hp hb => ?_⟩
    · rwa [← Bool.not_eq_true, pairValid_iff]
    · refine ⟨_, mfmt_sets hc hr hq hx hl hu hf hw ((pairValid_iff _ _ _).mpr hp) hb, ?_⟩
      obtain ⟨n, last, hcore⟩ := State.done_myCore (u.setCore (coreOf u.cur)
        { u.myCore with ta := ⟨u.numberAt locs % 8, Nat.mod_lt _ (by decide)⟩, tb := q, ovf := false })
      rw [State.setCore_myCore] at hcore
      rw [hcore]
      refine ⟨rfl, rfl, rfl, ?_, ?_, State.keepsRegisters_done access.keepsRegisters⟩
      · rw [State.done_mem, State.setCore_mem, access.mem, hr.pops.rest]
      · have others : s.keepsOthers u s.cur := State.keepsOthers_trans hr.pops.others (hr.pops.cur ▸ access.others)
        exact State.keepsOthers_done (t := u.setCore (coreOf u.cur) _) others (access.cur.trans hr.pops.cur)

end Sys2Proof.Machine
end

section
/-! SUPPORT. Messages (R41, R42, R251): what msend checks, waits for and sends. -/

namespace Sys2Proof.Machine

/-! ### Counters of a core (R430) -/

/-- A bundle that retires is no item sent or received. -/
theorem State.done_sent (s : State) (c : CoreId) (p : Nat) :
    ((s.done.core c).count p).sent = ((s.core c).count p).sent ∧ ((s.done.core c).count p).recv = ((s.core c).count p).recv := by
  have counts : ∀ (k : Core) (q : Nat), ((k.counts.put q { k.count q with icount := (k.count q).icount + 1 }).get (fun _ => ⟨0, 0, 0⟩) p).sent = (k.count p).sent ∧
      ((k.counts.put q { k.count q with icount := (k.count q).icount + 1 }).get (fun _ => ⟨0, 0, 0⟩) p).recv = (k.count p).recv := fun k q => by
    rw [Table.get_put]
    split
    · rename_i h; subst h; exact ⟨rfl, rfl⟩
    · exact ⟨rfl, rfl⟩
  have retired : ∀ c, (((s.retireCtx s.cur).core c).count p).sent = ((s.core c).count p).sent ∧
      (((s.retireCtx s.cur).core c).count p).recv = ((s.core c).count p).recv := fun c => by
    have core : (s.retireCtx s.cur).core c = Table.get Core.reset (Table.put s.cores (coreOf s.cur) _) c :=
      congrArg (fun ks : Table Core => ks.get Core.reset c) (State.ropeStep_cores _ _ _)
    rw [core, Table.get_put]
    split
    · rename_i h; subst h; exact counts _ _
    · exact ⟨rfl, rfl⟩
  have issued : s.done.core c = Table.get Core.reset (Table.put (s.retireCtx s.cur).cores (coreOf (s.retireCtx s.cur).cur) _) c := rfl
  rw [issued, Table.get_put]
  split
  · rename_i h; subst h; exact retired _
  · exact retired c

theorem State.countSent_core (s : State) (c : CtxId) : ((s.countSent c).core (coreOf c)).count (s.ctx c).part =
    { (s.core (coreOf c)).count (s.ctx c).part with sent := ((s.core (coreOf c)).count (s.ctx c).part).sent + 1 } := by
  unfold State.countSent State.countSentAt
  rw [State.setCore_core]
  exact Table.get_put_same ..

/-! ### Ports (R16, R17) -/

theorem present_words (ws : List Word) : present (ws.map .word) = ws := by
  induction ws with
  | nil => rfl
  | cons w ws ih => simp only [List.map_cons, present, ih]

/-- A queue with a reserved place offers fewer words than it has places. -/
theorem present_reserved {n : Nat} {q : List PortPlace} (h : .held n ∈ q) : (present q).length < q.length := by
  induction q with
  | nil => cases h
  | cons p q ih =>
    cases p with
    | word w => simpa [present] using ih (by simpa using h)
    | held m => simp [present]

/-- Words padded to a length, one by one. -/
theorem padTo_eq_map (n : Nat) (ws : List Word) : padTo n ws = (List.range n).map (fun i => ws.getD i 0) := by
  apply List.ext_getElem
  · simp [padTo]; omega
  · intro i h h'
    have hi : i < n := by simpa using h'
    simp only [padTo, List.getElem_append, List.getElem_map, List.getElem_range]
    split
    · rename_i hlen
      simp only [List.length_take] at hlen
      simp [show i < ws.length by omega]
    · rename_i hlen
      simp only [List.length_take] at hlen
      simp [show ws.length ≤ i by omega]

/-! ### What a context without a task or choice point logs (R305, R321) -/

theorem Ctx.speculates_none {x : Ctx} (h : x.task = none) : x.speculates = false := by simp [Ctx.speculates, h]

/-- With no ordered task and no choice point open, no irrevocable mark is pushed (R303, R321). -/
theorem logMark_run {s : State} (page op : Nat) (ht : s.me.task = none) (hc : s.me.choice = 0) : logMark page op s = .ok ((), s) := by
  unfold logMark
  rw [M.bind_ok (M.getMe_run s), M.bind_ok (M.await_run (by simp [Ctx.speculates_none ht]) _ s), if_neg (by simp [hc])]
  rfl

/-! ### The header (R41) -/

theorem placeOf_lt {c : Nat} (h : c < 1032) : placeOf c < 1024 := by
  by_cases hs : 1024 ≤ c
  · simp only [placeOf, isService, hs, decide_true, if_true]; omega
  · simp only [placeOf, isService, hs, decide_false, Bool.false_eq_true, if_false]; omega

/-- The fields of a message's header are the values that it was made of. -/
theorem messageHeader_fields {epoch len gid place hid : Nat} (he : epoch < 256) (hl : len < 256) (hg : gid < 2 ^ 21) (hp : place < 1024) (hh : hid < 256) :
    let w := messageHeader epoch len gid place hid
    field w 63 56 = epoch ∧ field w 55 48 = len ∧ field w 46 26 = gid ∧ field w 25 16 = place ∧ field w 7 0 = hid := by
  have word : (messageHeader epoch len gid place hid).toNat = epoch * 2 ^ 56 + len * 2 ^ 48 + gid * 2 ^ 26 + place * 2 ^ 16 + hid := by
    rw [messageHeader, BitVec.toNat_ofNat]
    omega
  simp only [field, word]
  omega

/-! ### msend (R251) -/

/-- The packages that a job has. -/
theorem State.inJob_iff (s : State) (g : Nat) : s.inJob g = true ↔ g ∈ s.podMap.map Prod.fst := by
  simp [State.inJob]

/-- The destination and header of an msend are such as R251 asks for. -/
def State.sendable (s : State) (dst h : Word) : Bool :=
  !destReserved dst && decide (h.toNat < 65536) &&
    (if destPackage dst == s.gid then s.inPart s.me.part (destPlace dst) else s.inJob (destPackage dst))

/-- The header of the message that the current context sends. -/
def State.sendHeader (s : State) (h : Word) (ws : List Word) : Word :=
  messageHeader (field h 15 8) (min ws.length 6) s.gid (placeOf (coreOf s.cur)) (field h 7 0)

/-- The message that the current context sends. -/
def State.sendMessage (s : State) (dst h : Word) (ws : List Word) : Message :=
  { dest := if destPackage dst == s.gid then .core (destPlace dst) else .package (destPackage dst), place := destPlace dst, part := s.me.part,
    team := s.myTeam, words := messageWords (s.sendHeader h ws) ws, crossing := none, src := some s.cur, owner := s.me.source }

/-- The state once a message is in the outbox. -/
def State.sends (s : State) (m : Message) : State :=
  let u := s.setMe { s.me with asm := [] }
  (u.setBank (bankOf u.cur) { u.myBank with outbox := u.myBank.outbox ++ [m] }).countSent u.cur

section
variable {s t : State} {a b : GReg} {dst h : Word} (hc : s.clear [a, b] [] [] [] = true) (hr : s.Reads [a, b] [dst, h] t)
include hc hr

theorem msend_bad (hb : t.sendable dst h = false) : exec (.msend a b) s = .next (s.trapped { cls := 4, detail := 9 }) := by
  refine runBundle_cause ?_ (by decide)
  rw [issue_read_two hc hr, M.bind_ok (M.get_run t)]
  exact M.bind_error (M.require_trap hb 4 9 t)

theorem msend_full (hg : t.sendable dst h = true) (hf : 4 ≤ t.myBank.outbox.length ∨ ∃ n, .held n ∈ t.me.asm) :
    exec (.msend a b) s = .next (s.noteStall .other) := by
  refine runBundle_wait ?_
  rw [issue_read_two hc hr, M.bind_ok (M.get_run t)]
  refine (M.bind_ok (M.require_run hg 4 9 t)).trans (M.bind_error (M.await_wait ?_ _ t))
  rcases hf with hf | ⟨n, hn⟩
  · simp [show ¬t.myBank.outbox.length < 4 by omega]
  · simp [(present_reserved hn).ne]

theorem msend_sends {ws : List Word} (hg : t.sendable dst h = true) (hf : t.myBank.outbox.length < 4) (ha : t.me.asm = ws.map .word)
    (ht : t.me.task = none) (hch : t.me.choice = 0) : exec (.msend a b) s = .next (t.sends (t.sendMessage dst h ws)).done := by
  refine runBundle_ok ?_
  rw [issue_read_two hc hr, M.bind_ok (M.get_run t)]
  refine (M.bind_ok (M.require_run hg 4 9 t)).trans ?_
  have words : present t.me.asm = ws := by rw [ha, present_words]
  rw [words, M.bind_ok (M.await_run (by simp [hf, ha]) _ t), M.bind_ok (logMark_run 4 14 ht hch)]
  rfl

end

/-- What a bad destination or header is, by R251. -/
theorem State.sendable_false (s : State) (dst h : Word) : s.sendable dst h = false ↔
    field dst 63 37 ≠ 0 ∨ field dst 15 10 ≠ 0 ∨ 65536 ≤ h.toNat ∨ (field dst 36 16 = s.gid ∧ s.inPart s.me.part (field dst 9 0) = false) ∨
      (field dst 36 16 ≠ s.gid ∧ field dst 36 16 ∉ s.podMap.map Prod.fst) := by
  rw [← s.inJob_iff, Bool.not_eq_true]
  have hrange : ¬65536 ≤ h.toNat ↔ h.toNat < 65536 := Nat.not_le
  by_cases hown : field dst 36 16 = s.gid <;>
    simp [State.sendable, destReserved, destPackage, destPlace, hown] <;> tauto

/-- What sending a message changes. -/
theorem State.sends_leaves (s : State) (m : Message) : (s.sends m).cur = s.cur ∧ (s.sends m).mem = s.mem ∧ s.keepsOthers (s.sends m) s.cur ∧
    (s.sends m).me = { s.me with asm := [] } ∧ (s.sends m).myBank.outbox = s.myBank.outbox ++ [m] ∧
    ((s.sends m).myCore.count s.me.part).sent = (s.myCore.count s.me.part).sent + 1 := by
  refine ⟨rfl, rfl, s.keepsOthers_setMe _, s.setMe_me _, ?_, ?_⟩
  · exact congrArg Bank.outbox (State.setBank_bank (s.setMe { s.me with asm := [] }) _ _)
  · have me : ((s.setMe { s.me with asm := [] }).setBank (bankOf s.cur) { s.myBank with outbox := s.myBank.outbox ++ [m] }).ctx s.cur =
        { s.me with asm := [] } := s.setMe_me _
    have core := State.countSent_core ((s.setMe { s.me with asm := [] }).setBank (bankOf s.cur) { s.myBank with outbox := s.myBank.outbox ++ [m] }) s.cur
    rw [me] at core
    exact congrArg Counts.sent core

theorem State.Pops.myBank {s t : State} (h : s.Pops t) : ∃ l, t.myBank = { s.myBank with links := l } := by
  rw [State.myBank, h.cur]; exact h.bank _

/-- Settles O29: msend by its three outcomes, with the message's words and header from `padTo_eq_map` and `messageHeader_fields`. -/
theorem messageSend : Obligations.MessageSend := by
  intro s t a b dst h hc hr gid place own bad
  obtain ⟨_, _, _, _, hme⟩ := hr.pops.me
  obtain ⟨_, hbank⟩ := hr.pops.myBank
  have hgid : t.gid = s.gid := by rw [State.gid, hr.pops.rest]; rfl
  have hbad : t.sendable dst h = false ↔ bad := by
    have hpart : ∀ c, t.inPart t.me.part c = s.inPart s.me.part c := fun c => by rw [hme, State.inPart, State.part, hr.pops.rest]; rfl
    have hpod : t.podMap = s.podMap := by rw [hr.pops.rest]
    rw [State.sendable_false, hgid, hpart, hpod]
    rfl
  have hgood : ¬bad → t.sendable dst h = true := fun hb => by rwa [← hbad, Bool.not_eq_false] at hb
  refine ⟨fun hb => msend_bad hc hr (hbad.mpr hb), fun hb hf => msend_full hc hr (hgood hb) ?_, fun ws hb hf ha ht hch => ?_⟩
  · rw [hbank, hme]
    exact hf.imp_left fun h4 => h4.ge
  · rw [← (show t.me.asm = s.me.asm by rw [hme])] at ha
    refine ⟨_, t.sendMessage dst h ws, t.sendHeader h ws,
      msend_sends hc hr (hgood hb) (by rwa [hbank]) ha (by rw [hme]; exact ht) (by rw [hme]; exact hch), ?_⟩
    obtain ⟨cur, mem, others, me, outbox, sent⟩ := t.sends_leaves (t.sendMessage dst h ws)
    have hsent := (t.sends (t.sendMessage dst h ws)).done_sent (coreOf s.cur) s.me.part
    have hpart : t.me.part = s.me.part := by rw [hme]
    have headerFields : own < 2 ^ 21 → coreOf s.cur < 1032 → let head := t.sendHeader h ws
        field head 63 56 = field h 15 8 ∧ field head 55 48 = min ws.length 6 ∧ field head 46 26 = own ∧
          field head 25 16 = placeOf (coreOf s.cur) ∧ field head 7 0 = field h 7 0 := fun ho hcore => by
      rw [State.sendHeader, hgid, hr.pops.cur]
      exact messageHeader_fields (Nat.mod_lt _ (by decide)) (by omega) ho (placeOf_lt hcore) (Nat.mod_lt _ (by decide))
    refine ⟨?_, ?_, ?_, headerFields, ?_, ?_, hpart, congrArg some hr.pops.cur, ?_, ?_, ?_, State.keepsRegisters_done ?_⟩
    · rw [State.myBank, State.done_cur, State.done_bank]
      exact outbox.trans (by rw [hbank])
    · obtain ⟨r, hdone⟩ := (t.sends (t.sendMessage dst h ws)).done_me
      rw [hdone, me]; rfl
    · rw [← padTo_eq_map]; rfl
    · simp only [State.sendMessage, hgid, beq_iff_eq]; rfl
    · show t.myTeam = s.myTeam
      rw [State.myTeam, hbank]; rfl
    · rw [State.myCore, State.done_cur, cur, hr.pops.cur, hsent.1, ← hpart, ← hr.pops.myCore, ← sent, State.myCore, cur, hr.pops.cur]
    · rw [State.done_mem, mem, hr.pops.rest]
    · exact State.keepsOthers_done (State.keepsOthers_trans hr.pops.others (hr.pops.cur ▸ others)) (cur.trans hr.pops.cur)
    · exact ⟨cur, fun r _ _ => by rw [me]; rfl, fun r _ => by rw [me], fun n _ => by rw [me]; rfl⟩

end Sys2Proof.Machine
end

section
/-! SUPPORT. Handler tables and spawns (R40, R43, R44, R47, R252, R253): what hset notes at every member, and what spawn checks and pushes. -/

namespace Sys2Proof.Machine

/-! ### hset (R40, R252) -/

/-- Changes of several banks, each once. -/
theorem State.foldl_setBank (f : Bank → Bank) (bs : List Nat) (s : State) : ∃ m : Table Bank,
    bs.foldl (fun s b => s.setBank b (f (s.bank b))) s = { s with banks := m } ∧
    (bs.Nodup → ∀ b, m.get Bank.reset b = if b ∈ bs then f (s.bank b) else s.bank b) := by
  induction bs generalizing s with
  | nil => exact ⟨s.banks, rfl, fun _ b => by simp [State.bank]⟩
  | cons c bs ih =>
    obtain ⟨m, hm, hget⟩ := ih (s.setBank c (f (s.bank c)))
    refine ⟨m, hm, fun hnd b => ?_⟩
    obtain ⟨hc, hnd⟩ := List.nodup_cons.mp hnd
    rw [hget hnd b]
    by_cases hb : b = c
    · subst hb; simp [hc]
    · simp [hb, State.setBank_bank_other]

/-- Changes of several bank images. -/
theorem State.foldl_images (f : Bank → Bank) (es : List (CoreId × Nat)) (s : State) : ∃ m : Table Bank,
    es.foldl (fun (s : State) e => { s with images := s.images.put e.2 (f (s.images.get Bank.reset e.2)) }) s = { s with images := m } := by
  induction es generalizing s with
  | nil => exact ⟨s.images, rfl⟩
  | cons e es ih => exact ih _

/-- The state once every member of a team has noted a handler's entry (R40). -/
def State.notesHandler (s : State) (team n : Nat) (code : Word) : State :=
  let s := s.setTeam team { s.team team with handlers := (s.team team).handlers.put n code }
  let note (b : Bank) : Bank := { b with hsets := b.hsets ++ [(n, code)] }
  let s := (s.banksOf team).foldl (fun s b => s.setBank b (note (s.bank b))) s
  (s.team team).saved.foldl (fun (s : State) e => { s with images := s.images.put e.2 (note (s.images.get Bank.reset e.2)) }) s

/-- The banks that hold a team's members, in a state that differs from another in what is of no account there. -/
theorem State.banksOf_congr {s u : State} {team : Nat} (hm : (u.team team).members = (s.team team).members)
    (hb : ∀ b, u.bankTeam b = s.bankTeam b) : u.banksOf team = s.banksOf team := by
  simp only [State.banksOf, hm, hb]

theorem State.notesHandler_leaves (s : State) (team n : Nat) (code : Word) (hnd : (s.banksOf team).Nodup) : let v := s.notesHandler team n code
    v = { s with teams := v.teams, banks := v.banks, images := v.images } ∧ (v.team team).handlers.get (fun _ => 0) n = code ∧
      ∀ b, b ∈ s.banksOf team → (v.bank b).hsets = (s.bank b).hsets ++ [(n, code)] := by
  unfold State.notesHandler
  extract_lets _ u note w v
  have hbanks : u.banksOf team = s.banksOf team := State.banksOf_congr (by rw [State.setTeam_team]) fun _ => rfl
  obtain ⟨m, hw, hget⟩ := State.foldl_setBank note (u.banksOf team) u
  obtain ⟨m', hv⟩ := State.foldl_images note (w.team team).saved w
  have hu : u.team team = { s.team team with handlers := (s.team team).handlers.put n code } := State.setTeam_team ..
  rw [show v = _ from hv, show w = _ from hw]
  refine ⟨rfl, ?_, fun b hb => ?_⟩
  · show (u.team team).handlers.get _ n = code
    rw [hu]; exact Table.get_put_same ..
  · show (m.get Bank.reset b).hsets = _
    rw [hget (hbanks ▸ hnd) b, if_pos (hbanks ▸ hb)]
    rfl

section
variable {s t : State} {a : GReg} {x : Word} (hc : s.clear [a] [] [] [] = true) (hr : s.Reads [a] [x] t)
include hc hr

theorem hset_range {n : Nat} (hn : 256 ≤ n) : exec (.hset a n) s = .next (s.trapped (s.me.withDetail { cls := 0, detail := 9 })) := by
  refine runBundle_trap ?_
  rw [issue_read_one hc hr]
  exact M.bind_error (M.require_trap (by simpa using hn) 0 9 t)

theorem hset_notes {n team : Nat} (hn : n < 256) (ht : t.myBank.team = some team) :
    exec (.hset a n) s = .next (t.notesHandler team n (x &&& ~~~1#64)).done := by
  refine runBundle_ok ?_
  rw [issue_read_one hc hr, M.bind_ok (M.require_run (by simpa using hn) 0 9 t), M.bind_ok (M.get_run t)]
  simp only [ht]
  rfl

end

/-! ### A wait in evwait that ends (R261) -/

/-- What the end of context 0's wait leaves: of the contexts it touches that one, whose registers stay. -/
structure State.Wakes (s t : State) (c : CtxId) : Prop where
  rest : t = { s with ctxs := t.ctxs, cores := t.cores, dies := t.dies }
  others : s.keepsOthers t c
  ctx : ∃ st rn wt pd pn bs rp pc, t.ctx c = { s.ctx c with strict := st, run := rn, wait := wt, pend := pd, pins := pn, barrier := bs, rope := rp, pc := pc }

theorem State.wake0_wakes (s : State) (b : Nat) : s.Wakes (s.wake0 b) (ctxIn b 0) := by
  unfold State.wake0
  dsimp only
  split
  · have rest : ∀ (u : State) (c : CtxId), u.retireCtx c = { u with ctxs := (u.retireCtx c).ctxs, cores := (u.retireCtx c).cores, dies := (u.retireCtx c).dies } :=
      fun u c => by
        unfold State.retireCtx
        dsimp only
        obtain ⟨ds, h | ⟨r, h⟩⟩ := State.ropeStep_cases ((u.setCtx c (u.ctx c).retired).setCore (coreOf c) _) c (u.ctx c) <;> rw [h] <;> rfl
    refine ⟨rest _ _, fun d hd => ?_, ?_⟩
    · rw [State.retireCtx_ctx_other _ hd, State.setCtx_ctx_other _ _ _ _ hd]
    · obtain ⟨r, hr⟩ := State.retireCtx_ctx (s.setCtx (ctxIn b 0) { s.ctx (ctxIn b 0) with run := .running }) (ctxIn b 0)
      rw [hr, State.setCtx_ctx]
      exact ⟨_, _, _, _, _, _, _, _, rfl⟩
  · exact ⟨rfl, fun _ _ => rfl, ⟨_, _, _, _, _, _, _, _, rfl⟩⟩

theorem State.Wakes.keepsRegisters {s t : State} {c : CtxId} (h : s.Wakes t c) : s.keepsRegisters t [] [] [] := by
  have cur : t.cur = s.cur := by rw [h.rest]
  by_cases hc : s.cur = c
  · obtain ⟨_, _, _, _, _, _, _, _, e⟩ := h.ctx
    have me : t.me = t.ctx c := by rw [State.me, cur, hc]
    have me' : s.me = s.ctx c := by rw [State.me, hc]
    exact ⟨cur, fun r _ _ => by rw [me, me', e]; rfl, fun r _ => by rw [me, me', e], fun n _ => by rw [me, me', e]; rfl⟩
  · have me : t.me = s.me := by rw [State.me, cur, h.others _ hc, State.me]
    exact ⟨cur, fun r _ _ => by rw [me], fun r _ => by rw [me], fun n _ => by rw [me]⟩

theorem State.keepsRegisters_trans {s t u : State} (h : s.keepsRegisters t [] [] []) (h' : t.keepsRegisters u [] [] []) : s.keepsRegisters u [] [] [] := by
  obtain ⟨c, g, v, k⟩ := h
  obtain ⟨c', g', v', k'⟩ := h'
  exact ⟨c'.trans c, fun r hp hr => (g' r hp hr).trans (g r hp hr), fun r hr => (v' r hr).trans (v r hr), fun n hn => (k' n hn).trans (k n hn)⟩

/-! ### An event that enters a bank (R37, R261) -/

section
variable (s : State) (b : Nat) (f : Bank → Bank)

theorem State.enter_wakes : (s.setBank b (f (s.bank b))).Wakes (s.enter b f) (ctxIn b 0) := State.wake0_wakes _ b

theorem State.enter_banks : (s.enter b f).banks = (s.setBank b (f (s.bank b))).banks := by rw [(s.enter_wakes b f).rest]

@[simp] theorem State.enter_bank : (s.enter b f).bank b = f (s.bank b) :=
  (State.bank_congr (s.enter_banks b f) b).trans (State.setBank_bank ..)

@[simp] theorem State.enter_mem : (s.enter b f).mem = s.mem := by rw [(s.enter_wakes b f).rest]; rfl

@[simp] theorem State.enter_cur : (s.enter b f).cur = s.cur := by rw [(s.enter_wakes b f).rest]; rfl

theorem State.enter_keepsRegisters : s.keepsRegisters (s.enter b f) [] [] [] := (s.enter_wakes b f).keepsRegisters

theorem State.enter_keepsOthers : s.keepsOthers (s.enter b f) (ctxIn b 0) := (s.enter_wakes b f).others

end

/-! ### spawn (R43, R44, R253) -/

theorem aligned_run {ea : Word} {n : Nat} (h : ea.toNat % n = 0) (s : State) : aligned ea n s = .ok ((), s) := by
  rw [aligned, if_pos h]; rfl

theorem aligned_trap {ea : Word} {n : Nat} (h : ea.toNat % n ≠ 0) (s : State) :
    aligned ea n s = .error (.trap { cls := 2, detail := 6, addr := ea }) := by
  rw [aligned, if_neg h]; rfl

theorem loadPacket_accesses (ea : Word) : (loadPacket ea).Accesses := by
  have hal : M.Accesses (aligned ea 16) := by unfold aligned; split; exacts [.pure _, .raise _]
  exact .bind hal fun _ => .bind (keepPins_accesses (loadWord_accesses _ _)) fun _ =>
    .bind (M.Keeps.require State.Accessed.refl _ _ _) fun _ => loadBytes_accesses _ _ _

/-- What an access leaves of the bank of the context and of what bounds its deque. -/
theorem State.Accessed.deque {s t : State} (h : s.Accessed t) : t.myBank = s.myBank ∧ t.team = s.team ∧
    (∀ b, t.orphaned b = s.orphaned b) ∧ (∀ b, t.spillCap b = s.spillCap b) ∧ ∀ b i, t.spillLoc b i = s.spillLoc b i := by
  have bank : t.bank = s.bank := by rw [h.rest]; rfl
  have team : t.team = s.team := by rw [h.rest]; rfl
  have size : ∀ b, t.scratchSize b = s.scratchSize b := fun b => by
    obtain ⟨_, e⟩ := h.core (b / 2)
    rw [State.scratchSize, e]; rfl
  refine ⟨by rw [State.myBank, bank, h.cur]; rfl, team, fun b => ?_, fun b => ?_, fun b i => ?_⟩
  · simp only [State.orphaned, bank, team, size]
  · simp only [State.spillCap, bank, team]
  · simp only [State.spillLoc, State.spillCap, bank, team]

theorem State.Pops.deque {s t : State} (h : s.Pops t) : (∀ b, t.orphaned b = s.orphaned b) ∧ (∀ b, t.spillCap b = s.spillCap b) ∧
    ∀ b i, t.spillLoc b i = s.spillLoc b i := by
  have team : t.team = s.team := by rw [h.rest]; rfl
  have size : ∀ b, t.scratchSize b = s.scratchSize b := fun b => by rw [h.rest]; rfl
  have bank : ∀ b, (t.bank b).team = (s.bank b).team ∧ (t.bank b).spillCount = (s.bank b).spillCount := fun b => by
    obtain ⟨_, e⟩ := h.bank b
    rw [e]; exact ⟨rfl, rfl⟩
  refine ⟨fun b => ?_, fun b => ?_, fun b i => ?_⟩
  · simp only [State.orphaned, bank, team, size]
  · simp only [State.spillCap, bank, team]
  · simp only [State.spillLoc, State.spillCap, bank, team]

section
variable {s t : State} {a : GReg} {x : Word} (hc : s.clear [a] [] [] [] = true) (hr : s.Reads [a] [x] t)
include hc hr

theorem spawn_misaligned (hx : x.toNat % 16 ≠ 0) : exec (.spawn a) s = .next (s.trapped { cls := 2, detail := 6, addr := x }) := by
  refine runBundle_cause ?_ (Nat.succ_ne_zero 1)
  rw [issue_read_one hc hr]
  exact M.bind_error (M.bind_error (aligned_trap hx t))

theorem spawn_malformed {u : State} {header : Word} (hx : x.toNat % 16 = 0) (hh : keepPins (loadWord .load x) t = .ok (header, u))
    (hb : packetBad header.toNat = true) : exec (.spawn a) s = .next (s.trapped { cls := 4, detail := 22 }) := by
  refine runBundle_cause ?_ (by decide)
  rw [issue_read_one hc hr]
  refine M.bind_error ?_
  unfold loadPacket
  rw [M.bind_ok (aligned_run hx t), M.bind_ok hh]
  exact M.bind_error (M.require_trap (by simp [hb]) 4 22 u)

variable {u : State} {p : List Byte} (hl : loadPacket x t = .ok (p, u))
include hl

theorem spawn_closed (hcl : u.myBank.closed = true) : exec (.spawn a) s = .next (s.trapped { cls := 4, detail := 21 }) := by
  refine runBundle_cause ?_ (by decide)
  rw [issue_read_one hc hr, M.bind_ok hl, M.bind_ok (M.get_run u)]
  exact M.bind_error (M.require_trap (by simp [hcl]) 4 21 u)

variable (hcl : u.myBank.closed = false) (ho : u.orphaned (bankOf u.cur) = false)
include hcl ho

theorem spawn_full (hd : 64 ≤ u.myBank.deque.length) (hsp : u.spillCap (bankOf u.cur) ≤ u.myBank.spillCount) :
    exec (.spawn a) s = .next (s.noteStall .other) := by
  refine runBundle_wait ?_
  rw [issue_read_one hc hr, M.bind_ok hl, M.bind_ok (M.get_run u), M.bind_ok (M.require_run (by simp [hcl, ho]) 4 21 u)]
  exact M.bind_error (M.await_wait (by simp [hd, hsp, ← Nat.not_le]) _ u)

theorem spawn_pushes (ht : u.me.task = none) (hch : u.me.choice = 0) (hex : u.myBank.exited = false)
    (hroom : u.myBank.deque.length < 64 ∨ (u.myBank.spillCount < u.spillCap (bankOf u.cur) ∧
      u.openTo none (run (u.spillLoc (bankOf u.cur) (u.myBank.spillHead + u.myBank.spillCount)) 256) = true)) :
    exec (.spawn a) s = .next (u.pushTask (bankOf u.cur) p).done := by
  refine runBundle_ok ?_
  rw [issue_read_one hc hr, M.bind_ok hl, M.bind_ok (M.get_run u), M.bind_ok (M.require_run (by simp [hcl, ho]) 4 21 u),
    M.bind_ok (M.await_run (by simpa using hroom) _ u), M.bind_ok (logMark_run 4 16 ht hch)]
  simp only [hex]
  rfl

end

theorem State.pushTask_head {s : State} {b : Nat} (p : List Byte) (h : (s.bank b).deque.length < 64) :
    s.pushTask b p = s.enter b (fun x => { x with deque := p :: x.deque }) := by
  unfold State.pushTask
  simp only [show ¬64 ≤ (s.bank b).deque.length by omega, decide_false, Bool.false_eq_true, if_false]

theorem State.pushTask_spills {s : State} {b : Nat} (p : List Byte) (h : 64 ≤ (s.bank b).deque.length) {old : List Byte}
    (hold : (s.bank b).deque.getLast? = some old) : s.pushTask b p =
      ({ s with mem := s.mem.writes (s.spillLoc b ((s.bank b).spillHead + (s.bank b).spillCount)) (old ++ List.replicate (256 - old.length) 0) } : State).enter b
        (fun x => { x with deque := p :: x.deque.dropLast, spillCount := x.spillCount + 1 }) := by
  unfold State.pushTask
  simp only [h, decide_true, if_true, List.getLastD_eq_getLast?, hold, Option.getD_some]

/-- Settles O30: hset and spawn by their outcomes. -/
theorem handlersAndSpawns : Obligations.HandlersAndSpawns := by
  intro s t u a n team x p hc hr
  obtain ⟨_, _, _, _, hme⟩ := hr.pops.me
  obtain ⟨_, hbank⟩ := hr.pops.myBank
  have pops := hr.pops
  refine ⟨fun hn => hset_range hc hr hn, fun hn ht hnd => ?_, fun hx => spawn_misaligned hc hr hx,
    fun header hx hh hb => spawn_malformed hc hr hx hh hb, fun hl hcl => ?_, fun hl hcl ho => ?_⟩
  · have banksOf : t.banksOf team = s.banksOf team := State.banksOf_congr (by rw [pops.rest]; rfl) fun b => by
      obtain ⟨_, e⟩ := pops.bank b
      rw [State.bankTeam, e]; rfl
    obtain ⟨rest, handlers, hsets⟩ := t.notesHandler_leaves team n (x &&& ~~~1#64) (by rwa [banksOf])
    have cur : (t.notesHandler team n (x &&& ~~~1#64)).cur = t.cur := by rw [rest]
    have ctx : (t.notesHandler team n (x &&& ~~~1#64)).ctx = t.ctx := by rw [rest]; rfl
    refine ⟨_, hset_notes hc hr hn (by rw [hbank]; exact ht), ?_, fun b hb => ?_, ?_, ?_, State.keepsRegisters_done ?_⟩
    · rw [State.done_team]; exact handlers
    · obtain ⟨_, e⟩ := pops.bank b
      rw [State.done_bank, hsets b (banksOf ▸ hb), e]
    · rw [State.done_mem, rest, pops.rest]
    · exact State.keepsOthers_done (fun c h => by rw [ctx]; exact pops.others c h) (cur.trans pops.cur)
    · have me : (t.notesHandler team n (x &&& ~~~1#64)).me = t.me := by rw [State.me, cur, ctx]; rfl
      exact ⟨cur, fun _ _ _ => by rw [me], fun _ _ => by rw [me], fun _ _ => by rw [me]⟩
  · have access := loadPacket_accesses _ _ _ _ hl
    exact spawn_closed hc hr hl (by rw [access.deque.1, hbank]; exact hcl)
  · have access := loadPacket_accesses _ _ _ _ hl
    obtain ⟨ubank, teams, uorphaned, ucap, uloc⟩ := access.deque
    obtain ⟨torphaned, tcap, tloc⟩ := pops.deque
    have cur : u.cur = s.cur := access.cur.trans pops.cur
    obtain ⟨_, _, _, _, _, ume⟩ := access.me
    have bank := ubank.trans hbank
    have ho' : u.orphaned (bankOf u.cur) = false := by rw [uorphaned, torphaned, cur]; exact ho
    have hcl' : u.myBank.closed = false := by rw [bank]; exact hcl
    have cap : u.spillCap (bankOf u.cur) = (s.team s.myTeam).spillSize / 256 := by rw [ucap, tcap, cur]; rfl
    have loc : ∀ i, u.spillLoc (bankOf s.cur) i = s.spillLoc (bankOf s.cur) i := fun i => (uloc _ i).trans (tloc _ i)
    have bank' : u.bank (bankOf s.cur) = u.myBank := by rw [State.myBank, cur]
    have mem : u.mem = s.mem := by rw [access.mem, pops.rest]
    have others : s.keepsOthers u s.cur := State.keepsOthers_trans pops.others (pops.cur ▸ access.others)
    have outcome : ∀ {m : Memory} (f : Bank → Bank), let v := (({ u with mem := m } : State).enter (bankOf s.cur) f).done
        v.myBank = f u.myBank ∧ v.mem = m ∧ t.keepsRegisters v [] [] [] ∧ ∀ c, c ≠ s.cur → c ≠ ctxIn (bankOf s.cur) 0 → v.ctx c = s.ctx c := fun {m} f => by
      refine ⟨?_, ?_, State.keepsRegisters_done (State.keepsRegisters_trans access.keepsRegisters
        (State.enter_keepsRegisters ({ u with mem := m } : State) _ f)), fun c hcur h0 => ?_⟩
      · rw [State.myBank, State.done_cur, State.enter_cur, cur, State.done_bank, State.enter_bank, ← bank']; rfl
      · rw [State.done_mem, State.enter_mem]
      · rw [State.done_ctx_other _ (by rwa [State.enter_cur, cur]), State.enter_keepsOthers _ _ f c h0]
        exact others c hcur
    have task : s.me.task = none → u.me.task = none := fun h => by rw [ume, hme]; exact h
    have choice : s.me.choice = 0 → u.me.choice = 0 := fun h => by rw [ume, hme]; exact h
    have exited : s.myBank.exited = false → u.myBank.exited = false := fun h => by rw [bank]; exact h
    refine ⟨fun hd hsp => spawn_full hc hr hl hcl' ho' (by rw [bank]; exact hd) (by rw [bank, cap]; exact hsp), fun ht hch hex hd => ?_,
      fun ht hch hex hd hsp hopen old hold => ?_⟩
    · have hd' : u.myBank.deque.length < 64 := by rw [bank]; exact hd
      have run := spawn_pushes hc hr hl hcl' ho' (task ht) (choice hch) (exited hex) (.inl hd')
      rw [cur, State.pushTask_head p (by rw [bank']; exact hd')] at run
      obtain ⟨vbank, vmem, vregs, vothers⟩ := outcome (m := u.mem) fun x => { x with deque := p :: x.deque }
      exact ⟨_, run, by rw [vbank, bank], by rw [vbank, bank], vmem.trans mem, vregs, vothers⟩
    · have hd' : 64 ≤ u.myBank.deque.length := by rw [bank]; exact hd
      have hold' : u.myBank.deque.getLast? = some old := by rw [bank]; exact hold
      have hsp' : u.myBank.spillCount < u.spillCap (bankOf u.cur) := by rw [bank, cap]; exact hsp
      have hopen' : u.openTo none (run (u.spillLoc (bankOf u.cur) (u.myBank.spillHead + u.myBank.spillCount)) 256) = true := by
        rw [bank, cur]; exact hopen
      have run := spawn_pushes hc hr hl hcl' ho' (task ht) (choice hch) (exited hex) (.inr ⟨hsp', hopen'⟩)
      rw [cur, State.pushTask_spills p (by rw [bank']; exact hd') (by rw [bank']; exact hold')] at run
      obtain ⟨vbank, vmem, -, -⟩ := outcome (m := u.mem.writes (u.spillLoc (bankOf s.cur) ((u.bank (bankOf s.cur)).spillHead + (u.bank (bankOf s.cur)).spillCount))
        (old ++ List.replicate (256 - old.length) 0)) fun x => { x with deque := p :: x.deque.dropLast, spillCount := x.spillCount + 1 }
      exact ⟨_, run, by rw [vbank, bank], by rw [vbank, bank], by rw [vmem, mem, loc, bank', bank]⟩

end Sys2Proof.Machine
end

section
/-! SUPPORT. Codelet and join records (R48 to R51, R254, R255): arming, decrementing and waiting for them. -/

namespace Sys2Proof.Machine

/-! ### Numbers in memory (R2) -/

theorem State.load_store_same (s : State) (loc n x : Nat) : (s.store loc n x).load loc n = x % 256 ^ n := by
  have h := s.mem.bytes_writes_same loc (leBytes n x)
  rw [leBytes_length] at h
  rw [State.load, State.store, h, leNat_leBytes]

/-- A number that fits is read back. -/
theorem State.load_store_fits (s : State) (loc : Nat) {n x : Nat} (h : x < 256 ^ n) : (s.store loc n x).load loc n = x := by
  rw [State.load_store_same, Nat.mod_eq_of_lt h]

theorem State.load_store_other (s : State) {loc n a m : Nat} (x : Nat) (h : a + m ≤ loc ∨ loc + n ≤ a) : (s.store loc n x).load a m = s.load a m := by
  rw [State.load, State.store, Memory.bytes_writes_other _ (by rwa [leBytes_length]), State.load]

theorem State.load_lt (s : State) (loc n : Nat) : s.load loc n < 256 ^ n := by
  have h := leNat_lt (s.mem.bytes loc n)
  rwa [Memory.bytes_length] at h

theorem State.read_store_other (s : State) {loc n a : Nat} (x : Nat) (h : a < loc ∨ loc + n ≤ a) : (s.store loc n x).mem.read a = s.mem.read a :=
  Memory.read_writes_other _ _ _ _ (by rwa [leBytes_length])

theorem State.load_congr {s t : State} (h : t.mem = s.mem) (loc n : Nat) : t.load loc n = s.load loc n := by rw [State.load, h, State.load]

/-- Only memory may differ. -/
def State.ButMemory (s t : State) : Prop := t = { s with mem := t.mem }

theorem State.ButMemory.refl (s : State) : s.ButMemory s := rfl

theorem State.ButMemory.trans {s t u : State} (h : s.ButMemory t) (h' : t.ButMemory u) : s.ButMemory u := by
  unfold State.ButMemory at *
  rw [h', h]

theorem State.butMemory_store (s : State) (loc n x : Nat) : s.ButMemory (s.store loc n x) := rfl

section
variable {s t : State} (h : s.ButMemory t)
include h

theorem State.ButMemory.cur : t.cur = s.cur := by rw [h]
theorem State.ButMemory.banks : t.banks = s.banks := by rw [h]
theorem State.ButMemory.bank : t.bank = s.bank := by rw [h]; rfl
theorem State.ButMemory.ctx : t.ctx = s.ctx := by rw [h]; rfl
theorem State.ButMemory.core : t.core = s.core := by rw [h]; rfl
theorem State.ButMemory.me : t.me = s.me := by rw [State.me, h.cur, h.ctx, State.me]

theorem State.ButMemory.keepsRegisters : s.keepsRegisters t [] [] [] :=
  ⟨h.cur, fun _ _ _ => by rw [h.me], fun _ _ => by rw [h.me], fun _ _ => by rw [h.me]⟩

end

/-- A location is none of n from another on. -/
theorem notMem_run {loc n a : Nat} (h : a ∉ (List.range n).map (loc + ·)) : a < loc ∨ loc + n ≤ a := by
  by_contra hn
  exact h (List.mem_map.mpr ⟨a - loc, List.mem_range.mpr (by omega), by omega⟩)

/-! ### Records (R254) -/

/-- What finding a record or waiting for earlier accesses looks at, after reading register operands. -/
theorem State.Pops.records {s t : State} (h : s.Pops t) : t.me.part = s.me.part ∧ t.quiet = s.quiet ∧ t.contextWord t.cur = s.contextWord s.cur ∧
    t.me.task = s.me.task ∧ t.me.choice = s.me.choice := by
  obtain ⟨_, _, _, _, e⟩ := h.me
  have part : t.me.part = s.me.part := by rw [e]
  have unack : t.me.unack = s.me.unack := by rw [e]
  have cores : t.core = s.core := by rw [h.rest]; rfl
  have parts : t.part = s.part := by rw [h.rest]; rfl
  refine ⟨part, ?_, ?_, by rw [e], by rw [e]⟩
  · show ((t.me.unack == 0) && (t.core (coreOf t.cur)).acks.isEmpty) = ((s.me.unack == 0) && (s.core (coreOf s.cur)).acks.isEmpty)
    rw [unack, cores, h.cur]
  · have ctx : (t.ctx t.cur).part = (s.ctx s.cur).part := part
    rw [h.cur] at ctx
    simp only [State.contextWord, State.relCore, State.activeBank, ctx, cores, parts, h.cur]
    rfl

theorem recordFor_malformed {s : State} {h : Word} (hr : s.recordOf s.me.part h = none) :
    recordFor h s = .error (.trap { cls := 4, detail := 8, addr := h }) := by
  unfold recordFor
  rw [M.bind_ok (M.get_run s)]
  simp only [hr]
  rfl

theorem recordFor_run {s : State} {h : Word} {r : CoreId × Served × Nat} (hr : s.recordOf s.me.part h = some r) (hc : lineOf r.2.2 ∉ s.claims) :
    recordFor h s = .ok (r, s) := by
  unfold recordFor
  rw [M.bind_ok (M.get_run s)]
  simp only [hr]
  rw [M.bind_ok (M.await_run (by simpa using hc) _ s)]
  rfl

theorem publish_run {s : State} {op : Nat} {c : CoreId} (hq : s.quiet = true) (hc : c = coreOf s.cur ∨ (s.me.task = none ∧ s.me.choice = 0)) :
    publish op c s = .ok ((), s) := by
  unfold publish
  rw [M.bind_ok (M.get_run s), M.bind_ok (M.await_run hq _ s), M.bind_ok (M.get_run s)]
  split
  · rename_i hne
    obtain ⟨ht, hch⟩ := hc.resolve_left hne
    exact logMark_run 4 op ht hch
  · rfl

/-- The state once a record is armed (R48, R50, R254). -/
def State.arms (s : State) (h : Word) (v : Served) (loc : Nat) (n : Word) : State :=
  if h.getLsbD 0 then ((s.store loc 4 n.toNat).store (loc + 8) 8 0).store (loc + 16) 8 (s.contextWord s.cur).toNat
  else
    let s := (s.store (loc + 8) 4 n.toNat).store (loc + 24) 8 0
    if n = 0 then s.readyAt v (h &&& ~~~(1 : Word)) else s

section
variable {s t : State} {a b : GReg} {h n : Word} (hc : s.clear [a, b] [] [] [] = true) (hr : s.Reads [a, b] [h, n] t)
include hc hr

theorem cdarm_range (hn : 2 ^ 32 ≤ n.toNat) : exec (.cdarm a b) s = .next (s.trapped (s.me.withDetail { cls := 0, detail := 9 })) := by
  refine runBundle_trap ?_
  rw [issue_read_two hc hr]
  exact M.bind_error (M.require_trap (by simpa using hn) 0 9 t)

theorem cddec_range (hn : 2 ^ 32 ≤ n.toNat) : exec (.cddec a b) s = .next (s.trapped (s.me.withDetail { cls := 0, detail := 9 })) := by
  refine runBundle_trap ?_
  rw [issue_read_two hc hr]
  exact M.bind_error (M.require_trap (by simpa using hn) 0 9 t)

variable (hn : n.toNat < 2 ^ 32)
include hn

theorem cdarm_malformed (hm : t.recordOf t.me.part h = none) : exec (.cdarm a b) s = .next (s.trapped { cls := 4, detail := 8, addr := h }) := by
  refine runBundle_cause ?_ (Nat.succ_ne_zero 3)
  rw [issue_read_two hc hr, M.bind_ok (M.require_run (by simpa using hn) 0 9 t)]
  exact M.bind_error (recordFor_malformed hm)

theorem cddec_malformed (hm : t.recordOf t.me.part h = none) : exec (.cddec a b) s = .next (s.trapped { cls := 4, detail := 8, addr := h }) := by
  refine runBundle_cause ?_ (Nat.succ_ne_zero 3)
  rw [issue_read_two hc hr, M.bind_ok (M.require_run (by simpa using hn) 0 9 t)]
  exact M.bind_error (recordFor_malformed hm)

variable {c : CoreId} {v : Served} {loc : Nat} (hm : t.recordOf t.me.part h = some (c, v, loc)) (hl : lineOf loc ∉ t.claims) (hq : t.quiet = true)
  (ho : c = coreOf t.cur ∨ (t.me.task = none ∧ t.me.choice = 0))
include hm hl hq ho

theorem cdarm_arms : exec (.cdarm a b) s = .next (t.arms h v loc n).done := by
  refine runBundle_ok ?_
  rw [issue_read_two hc hr, M.bind_ok (M.require_run (by simpa using hn) 0 9 t), M.bind_ok (recordFor_run hm hl)]
  dsimp only
  rw [M.bind_ok (publish_run hq ho)]
  rfl

theorem cddec_decrements : exec (.cddec a b) s = .next (t.decrementAt h v loc n.toNat .normal).done := by
  refine runBundle_ok ?_
  rw [issue_read_two hc hr, M.bind_ok (M.require_run (by simpa using hn) 0 9 t), M.bind_ok (recordFor_run hm hl)]
  dsimp only
  rw [M.bind_ok (publish_run hq ho)]
  rfl

end

/-- An armed join counts its children, and names its owner (R50). -/
theorem State.arms_join {s : State} {h : Word} (v : Served) (loc : Nat) {n : Word} (hj : h.getLsbD 0 = true) (hn : n.toNat < 2 ^ 32) :
    let u := s.arms h v loc n
    (s.ButMemory u ∧ u.load loc 4 = n.toNat ∧ u.load (loc + 8) 8 = 0 ∧ u.load (loc + 16) 8 = (s.contextWord s.cur).toNat ∧
      s.keepsMemory u ((List.range 24).map (loc + ·))) := by
  unfold State.arms
  rw [if_pos hj]
  have owner : (s.contextWord s.cur).toNat < 256 ^ 8 := by have := (s.contextWord s.cur).isLt; omega
  refine ⟨((State.butMemory_store _ _ _ _).trans (State.butMemory_store _ _ _ _)).trans (State.butMemory_store _ _ _ _), ?_, ?_,
    State.load_store_fits _ _ owner, fun a ha => ?_⟩
  · rw [State.load_store_other _ _ (by omega), State.load_store_other _ _ (by omega), State.load_store_fits _ _ (by omega)]
  · rw [State.load_store_other _ _ (by omega), State.load_store_fits _ _ (by decide)]
  · have out := notMem_run ha
    rw [State.read_store_other _ _ (by omega), State.read_store_other _ _ (by omega), State.read_store_other _ _ (by omega)]

/-- An armed codelet counts what it waits for (R48). -/
theorem State.arms_codelet {s : State} {h : Word} (v : Served) (loc : Nat) {n : Word} (hj : h.getLsbD 0 = false) (hn : n.toNat < 2 ^ 32) (h0 : n ≠ 0) :
    let u := s.arms h v loc n
    (s.ButMemory u ∧ u.load (loc + 8) 4 = n.toNat ∧ u.load (loc + 24) 8 = 0 ∧
      s.keepsMemory u ((List.range 24).map (loc + 8 + ·))) := by
  unfold State.arms
  rw [if_neg (by rw [hj]; decide)]
  dsimp only
  rw [if_neg h0]
  refine ⟨(State.butMemory_store _ _ _ _).trans (State.butMemory_store _ _ _ _), ?_, State.load_store_fits _ _ (by decide), fun a ha => ?_⟩
  · rw [State.load_store_other _ _ (by omega), State.load_store_fits _ _ (by omega)]
  · have out := notMem_run ha
    rw [State.read_store_other _ _ (by omega), State.read_store_other _ _ (by omega)]

/-! ### A decrement at its owner (R49, R254) -/

/-- The location of a record's count (R48, R50). -/
def countLoc (join : Bool) (loc : Nat) : Nat := if join then loc else loc + 8

/-- A join's status halves are written before its count (R51). -/
def State.notesEnding (s : State) (join : Bool) (loc : Nat) (e : Ending) : State :=
  if join then s.store (loc + 8) 4 (endingStatus e (s.load (loc + 8) 4)) else s

theorem State.butMemory_notesEnding (s : State) (join : Bool) (loc : Nat) (e : Ending) : s.ButMemory (s.notesEnding join loc e) := by
  unfold State.notesEnding
  split
  exacts [s.butMemory_store _ _ _, .refl s]

theorem State.notesEnding_count (s : State) (join : Bool) (loc : Nat) (e : Ending) :
    (s.notesEnding join loc e).load (countLoc join loc) 4 = s.load (countLoc join loc) 4 := by
  unfold State.notesEnding
  cases join
  · rfl
  · exact State.load_store_other _ _ (.inl (Nat.add_le_add_left (show 4 ≤ 8 by decide) loc))

section
variable {s : State} {h : Word} {v : Served} {loc n : Nat} {e : Ending}

/-- A decrement of a settled record changes no count (R254). -/
theorem State.decrementAt_zero (hz : s.load (countLoc (h.getLsbD 0) loc) 4 = 0) : s.decrementAt h v loc n e = s.notesEnding (h.getLsbD 0) loc e := by
  unfold State.decrementAt
  extract_lets join at_ count u
  rw [if_pos (.inr hz)]
  rfl

/-- A decrement that leaves something to count. -/
theorem State.decrementAt_counts (h0 : n ≠ 0) (hlt : n < s.load (countLoc (h.getLsbD 0) loc) 4) :
    s.decrementAt h v loc n e = (s.notesEnding (h.getLsbD 0) loc e).store (countLoc (h.getLsbD 0) loc) 4 (s.load (countLoc (h.getLsbD 0) loc) 4 - n) := by
  unfold State.decrementAt
  extract_lets join at_ count u w x
  have hlt' : n < count := hlt
  rw [if_neg (by omega), if_neg (by omega)]
  show (if count < n then _ else w) = _
  rw [if_neg (by omega)]
  rfl

/-- A codelet's last decrement makes it ready at its owner (R49). -/
theorem State.decrementAt_last (h0 : n ≠ 0) (heq : s.load (loc + 8) 4 = n) (hj : h.getLsbD 0 = false) :
    s.decrementAt h v loc n e = (s.store (loc + 8) 4 0).readyAt v (h &&& ~~~(1 : Word)) := by
  unfold State.decrementAt
  simp only [hj, Bool.false_eq_true, if_false, heq, h0, or_self, Nat.lt_irrefl, Nat.sub_self, Nat.le_refl, and_self, if_true]

end

/-- A record enters its owner's ready ring, where there is room (R49). -/
theorem State.readyAt_bank {s : State} {v : Served} (addr : Word) (hi : v.image = 0) (ho : (s.bank v.bank).open = true)
    (hh : (s.bank v.bank).readyHeld = []) (hr : (s.bank v.bank).ready.length < 256) :
    (s.readyAt v addr).mem = s.mem ∧ ((s.readyAt v addr).bank v.bank).ready = (s.bank v.bank).ready ++ [addr] := by
  have served : s.servedBank v = s.bank v.bank := by rw [State.servedBank, if_pos hi]
  have enters : s.readyAt v addr = s.enter v.bank (·.pushReady addr) := by
    simp only [State.readyAt, served, ho, if_true, State.enterServed, State.setServedBank, hi]
    rfl
  rw [enters, State.enter_mem, State.enter_bank, Bank.pushReady, if_pos (by simp [hh, hr])]
  exact ⟨rfl, rfl⟩

/-! ### jwait (R51, R255) -/

section
variable {s t : State} {a d : GReg} {h : Word} (hc : s.clear [a] [d] [] [] = true) (hr : s.Reads [a] [h] t)
include hc hr

theorem jwait_codelet (hj : h.getLsbD 0 = false) : exec (.jwait d a) s = .next (s.trapped { cls := 4, detail := 8, addr := h }) := by
  refine runBundle_cause ?_ (Nat.succ_ne_zero 3)
  rw [issue_read_one hc hr, if_pos (by rw [hj]; rfl)]
  rfl

variable {c : CoreId} {v : Served} {loc : Nat} (hj : h.getLsbD 0 = true) (hm : t.recordOf t.me.part h = some (c, v, loc))
  (hl : lineOf loc ∉ t.claims) (hf : t.landed (run loc 16))
include hj hm hl hf

theorem jwait_waits (hz : t.load loc 4 ≠ 0) : exec (.jwait d a) s = .next (s.noteStall .other) := by
  have own : awaitOwn (run loc 16) t = .ok ((), t) := M.await_run (ok := !t.inFlight (run loc 16)) (by rw [hf]; rfl) _ t
  refine runBundle_wait ?_
  rw [issue_read_one hc hr, if_neg (by rw [hj]; decide)]
  dsimp only
  rw [M.bind_ok (recordFor_run hm hl)]
  dsimp only
  rw [M.bind_ok own, M.bind_ok (M.get_run t)]
  exact M.bind_error (M.await_wait (by simpa using hz) _ t)

theorem jwait_settled (hz : t.load loc 4 = 0) (hp : t.poison = []) :
    exec (.jwait d a) s = .next ((t.setMe t.me.acquire).put d (t.word (loc + 8))).done := by
  have own : awaitOwn (run loc 16) t = .ok ((), t) := M.await_run (ok := !t.inFlight (run loc 16)) (by rw [hf]; rfl) _ t
  have clean : consume (run loc 16) t = .ok ((), t) := by
    have none : (linesOf (run loc 16)).find? t.poison.contains = none := List.find?_eq_none.mpr fun l _ => by simp [hp]
    unfold consume
    rw [M.bind_ok (M.get_run t)]
    simp only [none]
    rfl
  have free : (t.setMe t.me.acquire).me.pend.any (fun p => p.writesG d) = false := by
    obtain ⟨_, _, _, _, e⟩ := hr.pops.me
    rw [State.setMe_me, Ctx.acquire, e]
    exact State.clear_pend hc (by simp)
  refine runBundle_ok ?_
  rw [issue_read_one hc hr, if_neg (by rw [hj]; decide)]
  dsimp only
  rw [M.bind_ok (recordFor_run hm hl)]
  dsimp only
  rw [M.bind_ok own, M.bind_ok (M.get_run t), M.bind_ok (M.await_run (by simpa using hz) _ t), M.bind_ok clean,
    M.bind_ok (M.modifyMe_run _ t)]
  exact writeG_run free _

end

/-- The address of a codelet's record is its handle (R49). -/
theorem handle_codelet {h : Word} (hj : h.getLsbD 0 = false) : h &&& ~~~(1 : Word) = h := by
  apply BitVec.eq_of_getLsbD_eq
  intro i hi
  rw [show (1 : Word) = 1#64 from rfl, BitVec.getLsbD_and, BitVec.getLsbD_not, BitVec.getLsbD_one]
  by_cases h0 : i = 0
  · rw [h0, hj, Bool.false_and]
  · simp [h0, hi]

/-- Settles O31: arming and decrementing by `State.arms` and the cases of `State.decrementAt`, jwait by its three outcomes. -/
theorem codeletsAndJoins : Obligations.CodeletsAndJoins := by
  intro s t d a b h n v loc join settled
  refine ⟨fun hc hr => ?_, fun hc hr => ?_⟩
  · obtain ⟨part, quiet, owner, task, choice⟩ := hr.pops.records
    have mem : t.mem = s.mem := by rw [hr.pops.rest]
    refine ⟨fun hn => ⟨cdarm_range hc hr hn, cddec_range hc hr hn⟩,
      fun hn hm => ⟨cdarm_malformed hc hr hn (by rwa [part]), cddec_malformed hc hr hn (by rwa [part])⟩, fun hn c hm ho hs hcl h0 => ?_⟩
    obtain ⟨hq, hline⟩ := hs
    rw [← part] at hm
    rw [← hcl] at hline
    rw [← quiet] at hq
    have ho' : c = coreOf t.cur ∨ (t.me.task = none ∧ t.me.choice = 0) := by rwa [hr.pops.cur, task, choice]
    have h0' : n.toNat ≠ 0 := fun e => h0 (BitVec.eq_of_toNat_eq e)
    have count : ∀ at_, s.load at_ 4 = t.load at_ 4 := fun at_ => (State.load_congr mem at_ 4).symm
    refine ⟨⟨_, cdarm_arms hc hr hn hm hline hq ho', State.keepsRegisters_done ?_, fun hj => ?_, fun hj => ?_⟩,
      _, cddec_decrements hc hr hn hm hline hq ho', ?_⟩
    · cases hj : h.getLsbD 0
      · exact (State.arms_codelet v loc hj hn h0).1.keepsRegisters
      · exact (State.arms_join v loc hj hn).1.keepsRegisters
    · obtain ⟨-, hcount, hstatus, hname, hkeeps⟩ := State.arms_join (s := t) v loc hj hn
      rw [← owner, State.load_congr (State.done_mem _), State.load_congr (State.done_mem _), State.load_congr (State.done_mem _)]
      exact ⟨hcount, hstatus, hname, fun a ha => by rw [State.done_mem, ← mem]; exact hkeeps a ha⟩
    · obtain ⟨-, hcount, hflags, hkeeps⟩ := State.arms_codelet (s := t) v loc hj hn h0
      rw [State.load_congr (State.done_mem _), State.load_congr (State.done_mem _)]
      exact ⟨hcount, hflags, fun a ha => by rw [State.done_mem, ← mem]; exact hkeeps a ha⟩
    · intro at_ cnt
      have hat : at_ = countLoc (h.getLsbD 0) loc := rfl
      have hcnt : cnt = t.load at_ 4 := count at_
      have small : t.load at_ 4 < 256 ^ 4 := t.load_lt at_ 4
      rw [State.load_congr (State.done_mem _)]
      refine ⟨fun _ hlt => ?_, fun _ heq hj hi hopen hheld hroom => ?_, fun hz => ?_⟩
      · rw [State.done_banks, State.decrementAt_counts h0' (hcnt ▸ hlt), hat, State.load_store_fits _ _ (by rw [← hat]; omega), hcnt, hat]
        exact ⟨rfl, ((State.butMemory_notesEnding ..).trans (State.butMemory_store _ _ _ _)).banks⟩
      · have hj' : h.getLsbD 0 = false := hj
        have hat' : at_ = loc + 8 := by rw [hat, hj']; rfl
        have bank : (t.store (loc + 8) 4 0).bank v.bank = t.bank v.bank := congrFun (t.butMemory_store _ _ _).bank _
        obtain ⟨hmem, hready⟩ := State.readyAt_bank (s := t.store (loc + 8) 4 0) h hi (by rwa [bank]) (by rwa [bank]) (by rwa [bank])
        rw [State.decrementAt_last h0' (by rw [heq, hcnt, hat']) hj', handle_codelet hj', State.done_bank, hat', State.load_congr hmem]
        exact ⟨State.load_store_fits _ _ (by decide), hready.trans (by rw [bank])⟩
      · rw [State.decrementAt_zero (hat ▸ hcnt ▸ hz), hat, State.notesEnding_count, ← hat, ← hcnt, hz]
  · obtain ⟨part, -, -, -, -⟩ := hr.pops.records
    have mem : t.mem = s.mem := by rw [hr.pops.rest]
    have word : s.word (loc + 8) = t.word (loc + 8) := by rw [State.word, ← State.load_congr mem, State.word]
    refine ⟨fun hj => jwait_codelet hc hr hj, fun c hj hm hcl hline hf => ?_⟩
    rw [← part] at hm
    rw [← hcl] at hline
    rw [← State.load_congr mem, word]
    exact ⟨jwait_waits hc hr hj hm hline hf, fun hz hp => jwait_settled hc hr hj hm hline hf hz (by rw [hr.pops.rest]; exact hp)⟩

end Sys2Proof.Machine
end

section
/-! LEMMAS for O35. A rope that a context leaves, a member that others keep alive, the ends of events and members (R33, R45, R54, R261), and the
service calls (R264, R373). -/

namespace Sys2Proof.Machine

/-- Registers that are free stay so where fewer of them are named. -/
theorem State.clear_subset {s : State} {rs rs' ws ws' : List GReg} {vr vw : List VReg} (h : s.clear rs ws vr vw = true) (hr : rs' ⊆ rs)
    (hw : ws' ⊆ ws) : s.clear rs' ws' vr vw = true := by
  simp only [State.clear, Bool.and_eq_true, List.all_eq_true] at *
  obtain ⟨⟨⟨⟨pend, reads⟩, writes⟩, room⟩, buffer⟩ := h
  have both : ∀ r, r ∈ rs' ++ ws' → r ∈ rs ++ ws := fun r hm =>
    (List.mem_append.mp hm).elim (fun m => List.mem_append_left _ (hr m)) fun m => List.mem_append_right _ (hw m)
  exact ⟨⟨⟨⟨fun p hp => ⟨fun r hm => (pend p hp).1 r (both r hm), (pend p hp).2⟩, fun r hm => reads r (hr hm)⟩, fun r hm => writes r (hw hm)⟩,
    fun r hm => room r (hw hm)⟩, fun r hm => buffer r (hw hm)⟩

/-! ### A context that leaves its rope, and its lease (R54, R454) -/

/-- A step that takes a context out of its rope, and does nothing else outside the ropes of a die and the lease of a ridge. -/
structure State.Unropes (s t : State) (c : CtxId) : Prop where
  rest : t = { s with dies := t.dies, ridges := t.ridges, ctxs := t.ctxs }
  ctx : ∃ r, t.ctx c = { s.ctx c with rope := r }
  others : s.keepsOthers t c

namespace State.Unropes
variable {s t u : State} {c : CtxId}

theorem trans (h : s.Unropes t c) (h' : t.Unropes u c) : s.Unropes u c where
  rest := by rw [h'.rest, h.rest]
  ctx := by
    obtain ⟨r, e⟩ := h.ctx
    obtain ⟨q, e'⟩ := h'.ctx
    exact ⟨q, by rw [e', e]⟩
  others := fun d hd => (h'.others d hd).trans (h.others d hd)

variable (h : s.Unropes t c)
include h

theorem mem : t.mem = s.mem := by rw [h.rest]
theorem cur : t.cur = s.cur := by rw [h.rest]
theorem bank : t.bank = s.bank := by rw [h.rest]; rfl
theorem team : t.team = s.team := by rw [h.rest]; rfl

end State.Unropes

theorem State.quitRope_unropes (s : State) (c : CtxId) : s.Unropes (s.quitRope c) c := by
  unfold State.quitRope
  split
  case h_1 => exact ⟨rfl, ⟨_, rfl⟩, fun _ _ => rfl⟩
  case h_2 p _ =>
    dsimp only
    split
    · exact ⟨rfl, ⟨none, State.setCtx_ctx _ _ _⟩, fun d hd => State.setCtx_ctx_other _ _ _ _ hd⟩
    · exact ⟨rfl, ⟨none, State.setCtx_ctx _ _ _⟩, fun d hd => State.setCtx_ctx_other _ _ _ _ hd⟩

theorem State.leaveSprint_unropes (s : State) (c : CtxId) : s.Unropes (s.leaveSprint c) c := by
  unfold State.leaveSprint
  dsimp only
  split
  · exact ⟨rfl, ⟨_, rfl⟩, fun _ _ => rfl⟩
  · exact ⟨rfl, ⟨_, rfl⟩, fun _ _ => rfl⟩

/-! ### A team that goes on (R33) -/

/-- A team with a member that has not departed goes on. -/
theorem State.settleTeam_stays {s : State} {b team : Nat} {m : CoreId} (ht : (s.bank b).team = some team) (hm : m ∈ (s.team team).members)
    (hd : m ∉ (s.team team).departed) : s.settleTeam b = s := by
  have live : s.teamOver team = false := by
    have : (s.team team).members.all (s.team team).departed.contains = false :=
      List.all_eq_false.mpr ⟨m, hm, by simpa using hd⟩
    simp only [State.teamOver, this, Bool.and_false, Bool.false_and]
  simp only [State.settleTeam, ht, State.tryEndTeam, live, Bool.false_eq_true, if_false]

/-! ### A store of what is there -/

theorem leBytes_leNat : ∀ bs : List Byte, leBytes bs.length (leNat bs) = bs
  | [] => rfl
  | b :: bs => by
    have hb := b.isLt
    rw [List.length_cons, leBytes, leNat, show (b.toNat + 256 * leNat bs) / 256 = leNat bs by omega, leBytes_leNat bs]
    congr 1
    apply BitVec.eq_of_toNat_eq
    rw [BitVec.toNat_ofNat]
    omega

theorem Memory.bytes_getElem? (m : Memory) (a : Nat) {n i : Nat} (h : i < n) : (m.bytes a n)[i]? = some (m.read (a + i)) := by
  induction n generalizing a i with
  | zero => exact absurd h (by omega)
  | succ n ih =>
    cases i with
    | zero => rfl
    | succ i =>
      rw [Memory.bytes, List.getElem?_cons_succ, ih (a + 1) (by omega)]
      congr 2
      omega

theorem Memory.read_writes_bytes (m : Memory) (a n b : Nat) : (m.writes a (m.bytes a n)).read b = m.read b := by
  have len := m.bytes_length a n
  by_cases hb : b < a ∨ a + n ≤ b
  · exact Memory.read_writes_other _ _ _ _ (by rw [len]; exact hb)
  · have same := Memory.bytes_writes_same m a (m.bytes a n)
    rw [len] at same
    have at_ := congrArg (fun l => l[b - a]?) same
    rw [Memory.bytes_getElem? _ _ (by omega), Memory.bytes_getElem? _ _ (by omega), show a + (b - a) = b by omega] at at_
    exact Option.some.inj at_

theorem State.read_store_load (s : State) (loc n a : Nat) : (s.store loc n (s.load loc n)).mem.read a = s.mem.read a := by
  have same := leBytes_leNat (s.mem.bytes loc n)
  rw [Memory.bytes_length] at same
  rw [State.store, State.load, same]
  exact Memory.read_writes_bytes _ _ _ _

/-! ### The end of a handler's event (R45, R261) -/

/-- A normal ending decrements a join's count alone (R45, R51). -/
theorem State.decrementAt_join {s : State} {h : Word} {v : Served} {loc n : Nat} (hj : h.getLsbD 0 = true) (hc : s.load loc 4 = n + 1) :
    s.decrementAt h v loc 1 .normal = (s.store (loc + 8) 4 (s.load (loc + 8) 4)).store loc 4 n := by
  unfold State.decrementAt
  simp only [hj, if_true, hc, endingStatus, Nat.succ_ne_zero, or_self, if_false, Nat.add_sub_cancel, Bool.true_eq_false, and_false]
  rw [if_neg (by omega)]

theorem Ctx.kImage_dormant (x : Ctx) {n : Nat} (h : n ∉ [32, 33]) : x.dormant.kImage n = x.kImage n := by
  obtain ⟨h32, h33⟩ : n ≠ 32 ∧ n ≠ 33 := by simpa using h
  unfold Ctx.kImage
  split
  case h_14 => exact absurd rfl h32
  case h_15 => exact absurd rfl h33
  all_goals rfl

/-- An event ends at a state in which its successors have been decremented (R45). -/
structure State.EndsEvent (s t : State) (m : Memory) : Prop where
  rest : t = { s with mem := m, dies := t.dies, ridges := t.ridges, ctxs := t.ctxs }
  me : ∃ r, t.me = { s.me.dormant with rope := r }
  others : s.keepsOthers t s.cur

theorem State.endEvent_ends {s u : State} {e : Ending} (hs : s.succeedAll s.me.part e s.me.successors = u) (hu : s.ButMemory u) :
    s.EndsEvent (s.endEvent s.cur e) u.mem := by
  have quits := u.quitRope_unropes s.cur
  obtain ⟨r, left⟩ := quits.ctx
  have ended : s.endEvent s.cur e = (u.quitRope s.cur).setCtx s.cur ((u.quitRope s.cur).ctx s.cur).dormant := by
    rw [State.endEvent, ← hs]; rfl
  rw [ended]
  refine ⟨?_, ⟨r, ?_⟩, fun d hd => ?_⟩
  · have rest : u.quitRope s.cur = { s with mem := u.mem, dies := (u.quitRope s.cur).dies, ridges := (u.quitRope s.cur).ridges, ctxs := (u.quitRope s.cur).ctxs } := by
      refine quits.rest.trans ?_
      generalize (u.quitRope s.cur).dies = ds
      generalize (u.quitRope s.cur).ridges = rs
      generalize (u.quitRope s.cur).ctxs = cs
      rw [hu]
    rw [rest]
    rfl
  · have cur : (u.quitRope s.cur).cur = s.cur := quits.cur.trans hu.cur
    rw [State.me, State.setCtx_cur, cur, State.setCtx_ctx, left, hu.ctx]
    rfl
  · rw [State.setCtx_ctx_other _ _ _ _ hd, quits.others d hd, hu.ctx]

namespace State.EndsEvent
variable {s t : State} {m : Memory} (h : s.EndsEvent t m)
include h

theorem cur : t.cur = s.cur := by rw [h.rest]
theorem mem : t.mem = m := by rw [h.rest]
theorem bank : t.bank = s.bank := by rw [h.rest]; rfl
theorem team : t.team = s.team := by rw [h.rest]; rfl

theorem keepsRegisters : s.keepsRegisters t [] [] [32, 33] := by
  obtain ⟨r, me⟩ := h.me
  exact ⟨h.cur, fun _ _ _ => by rw [me]; rfl, fun _ _ => by rw [me]; rfl, fun n hn => by rw [me]; exact s.me.kImage_dormant hn⟩

/-- The context's next bundle is the one that follows, and it rests (R45). -/
theorem done_fields : t.done.me.run = .dormant ∧ t.done.me.event = none ∧ t.done.me.choice = 0 ∧ t.done.me.trailTop = s.me.trailBase ∧
    t.done.me.pc = s.me.npc := by
  obtain ⟨q, done⟩ := t.done_me
  obtain ⟨r, me⟩ := h.me
  rw [done, me]
  exact ⟨rfl, rfl, rfl, rfl, rfl⟩

theorem done_others : s.keepsOthers t.done s.cur := fun d hd => by
  rw [t.done_ctx_other (by rwa [h.cur]), h.others d hd]

end State.EndsEvent

section
variable {s u : State} {team : Nat} {m : CoreId} (hc : ctxNum s.cur ≠ 0) (hk : s.me.task = none) (ht : s.myBank.team = some team)
  (hm : m ∈ (s.team team).members) (hd : m ∉ (s.team team).departed)
include hc hk ht hm hd

/-- evwait ends the event of a handler whose team goes on. -/
theorem evwait_ends (hw : awaitSuccessors s.cur s = .ok ((), s)) (hs : s.succeedAll s.me.part .normal s.me.successors = u) (hu : s.ButMemory u) :
    exec .evwait s = .next (s.endEvent s.cur .normal).done := by
  have ends := State.endEvent_ends hs hu
  have stays : (s.endEvent s.cur .normal).settleTeam (bankOf s.cur) = s.endEvent s.cur .normal :=
    State.settleTeam_stays (team := team) (by rw [ends.bank]; exact ht) (by rw [ends.team]; exact hm) (by rw [ends.team]; exact hd)
  have task : s.me.task.isSome = false := by rw [hk]; rfl
  show execEvwait s = _
  rw [execEvwait, if_neg hc, if_neg (by rw [task]; decide)]
  refine runBundle_ok ?_
  rw [M.bind_ok hw, ← stays]
  rfl

end

/-! ### Service calls (R33, R47, R264, R373) -/

/-- A service call's answer, in the state that its work left (R264, R373). -/
def State.answers (s v : State) (call : Nat) (w : Word) : State :=
  ((v.setMe { v.me with
    sepc := s.me.npc, scause := BitVec.ofNat 64 call
    status := if isService (coreOf s.cur) then s.me.status ||| 1 else s.me.status &&& ~~~1 }).wrote 1 w).done

theorem Ctx.stub_returns (x : Ctx) (svec : Word) (n : Nat) (service : Bool) : (x.enterStub svec n).leaveStub service =
    { x with sepc := x.npc, scause := BitVec.ofNat 64 n, status := if service then x.status ||| 1 else x.status &&& ~~~1 } := by
  have user : (x.status ||| 1) &&& ~~~1 = x.status &&& ~~~1 := by
    apply BitVec.eq_of_getLsbD_eq
    intro i hi
    simp only [BitVec.getLsbD_and, BitVec.getLsbD_or, BitVec.getLsbD_not]
    cases x.status.getLsbD i <;> cases BitVec.getLsbD (1 : Word) i <;> simp
  cases service
  · simp only [Ctx.leaveStub, Ctx.enterStub, Bool.false_eq_true, if_false, user]
  · rfl

/-- A service call that returns, once its work is done (R264). -/
theorem serviceReturn_run {s v : State} (cur : v.cur = s.cur) (me : v.me = s.me)
    (hp : s.me.pend.any (fun p => p.writesG 1) = false) (n : Nat) (w : Word) {m : M Unit} (hm : m s = (serviceReturn n w) v) :
    runBundle m s = .next (s.answers v n w) := by
  refine runBundle_ok ?_
  rw [hm]
  unfold serviceReturn
  rw [M.bind_ok (M.get_run v), M.bind_ok (M.modifyMe_run _ v)]
  have free : (v.setMe ((v.me.enterStub v.myCore.svec n).leaveStub (isService (coreOf v.cur)))).me.pend.any (fun p => p.writesG 1) = false := by
    rw [State.setMe_me, Ctx.stub_returns, me]; exact hp
  rw [writeG_run free, Ctx.stub_returns, State.put, if_neg (by decide), cur, me]

section
variable {s : State} (hc : s.clear [1, 2] [1] [] [] = true)
include hc

theorem serviceAnswer_free : s.me.pend.any (fun p => p.writesG 1) = false := State.clear_pend hc (.inl (by simp))

theorem issue_answer : issue [] [1] [] [] s = .ok ((), s) := issue_noReads (State.clear_subset hc (List.nil_subset _) (List.Subset.refl _))

theorem scallExit_refused (h : ctxNum s.cur ≠ 0) : exec .scallExit s = .next (s.answers s 0 (BitVec.allOnes 64)) := by
  refine serviceReturn_run rfl rfl (serviceAnswer_free hc) 0 refused ?_
  rw [M.bind_ok (issue_answer hc), M.bind_ok (M.get_run s), if_pos h]

theorem scallTimerArm_run (f : Word → Word → M Unit) :
    (issue [1, 2] [1] [] [] >>= fun _ => readG 1 >>= fun x => readG 2 >>= f x) s = f (s.me.rd 1) (s.me.rd 2) s :=
  issue_read_two hc ⟨rfl, rfl, rfl⟩ f

theorem scallTimerArm_arms {hid : Option Nat} {n : Nat} (ht : timerTarget (s.me.rd 2) = some hid) (hf : s.myCore.freeTimer = some n) :
    exec .scallTimerArm s = .next (s.answers (s.setCore (coreOf s.cur)
      { s.myCore with timers := s.myCore.timers.put n (some ⟨(s.me.rd 1).toNat, s.myTeam, hid⟩) }) 1 (BitVec.ofNat 64 n)) := by
  refine serviceReturn_run (State.setCore_cur s _ _) (State.setCore_ctx s _ _ _) (serviceAnswer_free hc) 1 _ ?_
  rw [scallTimerArm_run hc]
  dsimp only
  rw [M.bind_ok (M.get_run s), ht, hf]
  rfl

theorem scallTimerArm_refused (h : timerTarget (s.me.rd 2) = none ∨ s.myCore.freeTimer = none) :
    exec .scallTimerArm s = .next (s.answers s 1 (BitVec.allOnes 64)) := by
  refine serviceReturn_run rfl rfl (serviceAnswer_free hc) 1 refused ?_
  rw [scallTimerArm_run hc, M.bind_ok (M.get_run s)]
  rcases h with h | h
  · rw [h]
  · rw [h]
    cases timerTarget (s.me.rd 2) <;> rfl

theorem scallTimerCancel_run (f : Word → M Unit) : (issue [1] [1] [] [] >>= fun _ => readG 1 >>= f) s = f (s.me.rd 1) s :=
  have reads : s.Reads [1] [s.me.rd 1] s := ⟨rfl, rfl⟩
  issue_read_one (State.clear_subset hc (by simp) (List.Subset.refl _)) reads f

theorem scallTimerCancel_cancels (hk : (s.me.rd 1).toNat < 8) (ht : (s.myCore.timers.get (fun _ => none) (s.me.rd 1).toNat).isSome = true) :
    exec .scallTimerCancel s = .next (s.answers (s.setCore (coreOf s.cur)
      { s.myCore with timers := s.myCore.timers.put (s.me.rd 1).toNat none }) 2 0) := by
  refine serviceReturn_run (State.setCore_cur s _ _) (State.setCore_ctx s _ _ _) (serviceAnswer_free hc) 2 0 ?_
  rw [scallTimerCancel_run hc]
  dsimp only
  rw [M.bind_ok (M.get_run s), if_pos (by simp [hk, ht])]
  rfl

theorem scallTimerCancel_refused (h : 8 ≤ (s.me.rd 1).toNat ∨ s.myCore.timers.get (fun _ => none) (s.me.rd 1).toNat = none) :
    exec .scallTimerCancel s = .next (s.answers s 2 (BitVec.allOnes 64)) := by
  refine serviceReturn_run rfl rfl (serviceAnswer_free hc) 2 refused ?_
  rw [scallTimerCancel_run hc]
  have no : (decide ((s.me.rd 1).toNat < 8) && (s.myCore.timers.get (fun _ => none) (s.me.rd 1).toNat).isSome) = false := by
    rcases h with h | h
    · simp [show ¬(s.me.rd 1).toNat < 8 by omega]
    · simp [h]
  rw [M.bind_ok (M.get_run s), no, if_neg (by decide)]

theorem scallDestroyDeque_closes : exec .scallDestroyDeque s = .next (s.answers (s.setBank (bankOf s.cur) { s.myBank with closed := true }) 3 0) := by
  refine serviceReturn_run (State.setBank_cur s _ _) (State.setBank_ctx s _ _ _) (serviceAnswer_free hc) 3 0 ?_
  rw [M.bind_ok (issue_answer hc)]
  rfl

theorem scallRefused_answers {imm : Nat} (h : imm < 1024) : exec (.scallRefused imm) s = .next (s.answers s imm (BitVec.allOnes 64)) := by
  refine serviceReturn_run rfl rfl (serviceAnswer_free hc) imm refused ?_
  rw [M.bind_ok (issue_answer hc), M.bind_ok (M.require_run (by simpa using h) 0 9 s)]

theorem scallRefused_range {imm : Nat} (h : 1024 ≤ imm) : exec (.scallRefused imm) s = .next (s.trapped (s.me.withDetail { cls := 0, detail := 9 })) := by
  refine runBundle_trap ?_
  rw [M.bind_ok (issue_answer hc)]
  exact M.bind_error (M.require_trap (by simpa using h) 0 9 s)

end

/-! ### scall 0 (R33) -/

/-- A member departs: its bank is empty, and its team has one member fewer (R33). -/
theorem State.endMember_leaves {s : State} {b team : Nat} (ht : (s.bank b).team = some team) : let u := s.endMember b false
    u.cur = s.cur ∧ u.ctx = s.ctx ∧ u.bank b = { (s.bank b).emptied with exited := true } ∧ u.team team = (s.team team).depart (b / 2) false := by
  have counted : ∀ n, s.ButMemory (s.undeliverable team n) := fun n => by
    unfold State.undeliverable
    split
    exacts [.refl s, s.butMemory_store _ _ _]
  have eq : s.endMember b false = ((s.undeliverable team (s.bank b).queued).setBank b { (s.bank b).emptied with exited := true }).setTeam team
      (((s.undeliverable team (s.bank b).queued).team team).depart (b / 2) false) := by
    unfold State.endMember
    simp only [ht]
    rfl
  have but := counted (s.bank b).queued
  have teams : (s.undeliverable team (s.bank b).queued).team = s.team := by rw [but]; rfl
  dsimp only
  rw [eq, State.setTeam_team, teams]
  refine ⟨but.cur, but.ctx, ?_, rfl⟩
  rw [State.setTeam_bank, State.setBank_bank]

theorem State.exitMember_leaves {s : State} {team : Nat} (ht : s.myBank.team = some team) : let u := s.exitMember s.cur false
    u.cur = s.cur ∧ (∃ r, u.me = { s.me.dropTrail with run := .exited, rope := r }) ∧ u.myBank = { s.myBank.emptied with exited := true } ∧
      u.team team = (s.team team).depart (coreOf s.cur) false := by
  have left := (s.leaveSprint_unropes s.cur).trans ((s.leaveSprint s.cur).quitRope_unropes s.cur)
  generalize hv : (s.leaveSprint s.cur).quitRope s.cur = v at left
  have noted : ∀ (w : State) (r n : Nat), w.ButMemory (w.recordState r n) := fun w r n => by
    unfold State.recordState
    split
    exacts [.refl w, w.butMemory_store _ _ _]
  have but := noted (v.setCtx s.cur { (v.ctx s.cur).dropTrail with run := .exited }) (v.ctx s.cur).record 6
  generalize hw : (v.setCtx s.cur { (v.ctx s.cur).dropTrail with run := .exited }).recordState (v.ctx s.cur).record 6 = w at but
  have eq : s.exitMember s.cur false = w.endMember (bankOf s.cur) false := by
    rw [State.exitMember, hv, hw]
  have bank : w.bank = s.bank := but.bank.trans left.bank
  have teams : w.team = s.team := by rw [but]; exact left.team
  obtain ⟨hcur, hctx, hbank, hteam⟩ := State.endMember_leaves (s := w) (b := bankOf s.cur) (team := team) (by rw [bank]; exact ht)
  obtain ⟨r, rope⟩ := left.ctx
  dsimp only
  rw [eq, State.myBank, State.me, hcur, hctx, hteam, teams]
  have cur : w.cur = s.cur := but.cur.trans left.cur
  rw [cur, hbank, bank]
  refine ⟨rfl, ⟨r, ?_⟩, rfl, congrArg (fun c => (s.team team).depart c false) ?_⟩
  · rw [but.ctx, State.setCtx_ctx, rope]; rfl
  · exact Nat.div_div_eq_div_mul s.cur 8 2

theorem Team.depart_fields {t : Team} {c : CoreId} (h : c ∉ t.departed) (killed : Bool) :
    (t.depart c killed).members = t.members ∧ (t.depart c killed).departed = t.departed ++ [c] := by
  rw [Team.depart, if_neg (by simpa using h)]
  exact ⟨rfl, rfl⟩

/-- scall 0 as it leaves the state before its bundle retires (R33, R373). -/
def State.exits (s : State) : State := (s.setMe (s.me.enterStub s.myCore.svec 0)).exitMember s.cur false

theorem State.exits_leaves {s : State} {team : Nat} (ht : s.myBank.team = some team) (hx : coreOf s.cur ∉ (s.team team).departed) :
    s.exits.cur = s.cur ∧ (∃ r, s.exits.me = { (s.me.enterStub s.myCore.svec 0).dropTrail with run := .exited, rope := r }) ∧
    s.exits.myBank = { s.myBank.emptied with exited := true } ∧
    (s.exits.team team).members = (s.team team).members ∧ (s.exits.team team).departed = (s.team team).departed ++ [coreOf s.cur] := by
  obtain ⟨hcur, ⟨r, hme⟩, hbank, hteam⟩ := State.exitMember_leaves (s := s.setMe (s.me.enterStub s.myCore.svec 0)) ht
  rw [State.setMe_me] at hme
  obtain ⟨members, departed⟩ := Team.depart_fields hx false
  exact ⟨hcur, ⟨r, hme⟩, hbank, (congrArg Team.members hteam).trans members, (congrArg Team.departed hteam).trans departed⟩

/-- scall 0 of a context 0 whose team goes on. -/
theorem scallExit_exits {s : State} {team : Nat} {m : CoreId} (hc : s.clear [1, 2] [1] [] [] = true) (h0 : ctxNum s.cur = 0)
    (ht : s.myBank.team = some team) (hm : m ∈ (s.team team).members) (hd : m ∉ (s.team team).departed) (hne : m ≠ coreOf s.cur)
    (hx : coreOf s.cur ∉ (s.team team).departed) : exec .scallExit s = .next s.exits.done := by
  obtain ⟨hcur, -, hbank, members, departed⟩ := State.exits_leaves ht hx
  have stays : s.exits.settleTeam (bankOf s.cur) = s.exits := by
    refine State.settleTeam_stays (team := team) (m := m) ?_ (by rwa [members]) ?_
    · rw [State.myBank, hcur] at hbank
      exact (congrArg Bank.team hbank).trans ht
    · rw [departed]
      exact fun h => (List.mem_append.mp h).elim hd fun e => hne (List.mem_singleton.mp e)
  refine runBundle_ok ?_
  rw [M.bind_ok (issue_answer hc), M.bind_ok (M.get_run s), if_neg (by simp [h0]), M.bind_ok (M.get_run s), M.bind_ok (M.modifyMe_run _ s), ← stays]
  rfl

/-- Settles O35: evwait by the ends of an event, the service calls by `serviceReturn_run`, scall 0 by the end of a member. -/
theorem contextsAndServices : Obligations.ContextsAndServices := by
  refine ⟨fun s => ⟨fun h0 hw => ?_, fun h0 hw => ?_, fun h0 hk => ?_, fun team m src tag h0 hk ht hm hd => ⟨fun he => ?_, fun h c v loc n he hj hr hl hq hcl => ?_⟩,
    rfl, fun hh => ?_, fun hh => ?_⟩, fun s n m team imm => ?_⟩
  · show execEvwait s = _
    rw [execEvwait, if_pos h0, if_neg (by rw [hw]; decide)]
  · show execEvwait s = _
    rw [execEvwait, if_pos h0, if_pos hw]
    rfl
  · show execEvwait s = _
    rw [execEvwait, if_neg h0, if_pos hk]
    rfl
  · have none : s.me.successors = [] := by rw [Ctx.successors, he]
    have waits : awaitSuccessors s.cur s = .ok ((), s) := by
      unfold awaitSuccessors
      rw [M.bind_ok (M.get_run s)]
      exact M.await_run (by rw [show (s.ctx s.cur).successors = [] from none]; rfl) _ s
    have ends := State.endEvent_ends (s := s) (u := s) (e := .normal) (by rw [none]; rfl) (.refl s)
    obtain ⟨run, event, choice, trail, pc⟩ := ends.done_fields
    exact ⟨_, evwait_ends h0 hk ht hm hd waits (by rw [none]; rfl) (.refl s), run, event, choice, trail, pc, (State.done_mem _).trans ends.mem,
      ends.done_others, State.keepsRegisters_done ends.keepsRegisters⟩
  · have one : s.me.successors = [h] := by rw [Ctx.successors, he]
    have waits : awaitSuccessors s.cur s = .ok ((), s) := by
      unfold awaitSuccessors
      rw [M.bind_ok (M.get_run s)]
      refine M.await_run ?_ _ s
      rw [show (s.ctx s.cur).successors = [h] from one]
      have free : s.successorsFree (s.ctx s.cur).part [h] = true := by
        simp only [State.successorsFree, List.all_cons, List.all_nil, Bool.and_true, show s.recordOf (s.ctx s.cur).part h = some (c, v, loc) from hr]
        simpa using hcl
      rw [free, show s.quietOf s.cur = true from hq]
      rfl
    have counted : s.succeedAll s.me.part .normal s.me.successors = (s.store (loc + 8) 4 (s.load (loc + 8) 4)).store loc 4 n := by
      rw [one]
      show s.succeed s.me.part .normal h = _
      simp only [State.succeed, hr]
      exact State.decrementAt_join hj hl
    have but := (s.butMemory_store (loc + 8) 4 (s.load (loc + 8) 4)).trans (State.butMemory_store _ loc 4 n)
    have ends := State.endEvent_ends counted but
    have mem := (State.done_mem (s.endEvent s.cur .normal)).trans ends.mem
    have small := s.load_lt loc 4
    have small' := s.load_lt (loc + 8) 4
    refine ⟨_, evwait_ends h0 hk ht hm hd waits counted but, ends.done_fields.1, ?_, ?_, fun a ha => ?_⟩
    · rw [State.load_congr mem]; exact State.load_store_fits _ _ (by omega)
    · refine (State.load_congr mem _ _).trans ?_
      rw [State.load_store_other _ _ (by omega), State.load_store_fits _ _ small']
    · have out := notMem_run ha
      rw [mem, State.read_store_other _ _ (by omega), State.read_store_load]
  · refine runBundle_ok ?_
    rw [M.bind_ok (M.getMe_run s), M.bind_ok (M.require_run hh 0 21 s)]
    rfl
  · refine runBundle_trap ?_
    rw [M.bind_ok (M.getMe_run s)]
    exact M.bind_error (M.require_trap hh 0 21 s)
  · intro answer free hc
    refine ⟨scallExit_refused hc, fun h0 ht hm hd hne hx => ?_, fun hh hf => ?_, fun h1 h2 => scallTimerArm_refused hc (.inl ?_),
      fun hf => scallTimerArm_refused hc (.inr hf), ⟨scallTimerCancel_cancels hc, scallTimerCancel_refused hc⟩,
      scallDestroyDeque_closes hc, scallRefused_answers hc, scallRefused_range hc⟩
    · obtain ⟨hcur, ⟨r, hme⟩, hbank, -, departed⟩ := State.exits_leaves ht hx
      obtain ⟨q, hdone⟩ := s.exits.done_me
      have bank : s.exits.done.myBank = { s.myBank.emptied with exited := true } := by
        rw [State.myBank, State.done_cur, State.done_bank]; exact hbank
      refine ⟨_, scallExit_exits hc h0 ht hm hd hne hx, ?_⟩
      rw [bank, hdone, hme, State.done_team]
      exact ⟨rfl, rfl, rfl, rfl, rfl, rfl, rfl, rfl, departed⟩
    · refine scallTimerArm_arms hc (hid := if (s.me.rd 2).toNat < 256 then some (s.me.rd 2).toNat else none) ?_ hf
      unfold timerTarget
      split
      · rfl
      · rw [if_pos (hh.resolve_left ‹_›)]
    · rw [timerTarget, if_neg (by omega), if_neg h2]

end Sys2Proof.Machine
end

section
/-! REFUTATION of O33. A fetch miss that a walker completes takes the context out of its table and puts it back, and in a table whose keys do
not rise that makes a second entry: the running task of an id is then another one, and the walk that had to wait for a speculative writer
no longer waits (R224, R414). -/

namespace Sys2Proof.Machine

/-- A context that runs task 1, in a team's domain. -/
def taskedIn (team : Nat) (x : Ctx) : Ctx :=
  { x with run := .running
           task := some ⟨{ id := 1, team, h := 0, rank := 0, packet := [], crossing := false, time := 0, parent := none }, true, false, false, false⟩ }

/-- Context 0 misses a fetch whose walk reads a line that task 1 has written; task 1 is listed first for another team, at a key out of order. -/
def unsorted : State :=
  { State.reset with
    ctxs := [(5, taskedIn 7 (Ctx.reset 5)), (0, { taskedIn 3 (Ctx.reset 0) with miss := some 0 })]
    marks := [(0, ⟨[], [1]⟩)] }

/-- The fetch miss of the current context that a step leaves. -/
def missAfter (o : Host.Outcome State Fault Refusal) : Option Word := match o with | .next t => t.me.miss | _ => some 0

theorem unsorted_waits : unsorted.walkFree unsorted.me.part (0 : Word).toNat = false := by decide

theorem unsorted_walks : missAfter (exec .translationWalk unsorted) = none := by decide

/-- Refutes O33, at a table whose keys do not rise (the statement ranges over every state): in `unsorted` the walk has to wait as the context
stands, and does not wait once its miss has been taken. -/
theorem not_arrivalAndStealing : ¬ Obligations.ArrivalAndStealing := by
  intro h
  obtain ⟨-, -, -, -, -, -, -, waits, -⟩ := h.1 unsorted 0 0 0 ⟨.core 0, 0, 0, 0, [], none, none, 0⟩ [] ⟨0, 0, 0, 0⟩ ⟨0, 0, none⟩
    ⟨.g 0, 0, 0, 0, 0, none⟩ 0 0 ⟨0, 0, 0, 0⟩ [] { cls := 0, detail := 0 }
  have same := waits rfl rfl unsorted_waits
  have walked := unsorted_walks
  rw [same] at walked
  exact absurd walked (by decide)

end Sys2Proof.Machine
end

section
/-! REFUTATION of O39. A context that takes a position of a rope retires its rfollow as a follower, and that follower strays at once where
its next bundle is not the leader's (R54): its place is then detached. -/

namespace Sys2Proof.Machine

/-- Context 0 of core 0, beside a rope that core 1 leads, whose leader goes on at 0x1000: g2 names the rope and g3 a free position. -/
def besideRope : State :=
  let s := State.reset.setDie 0 { State.reset.die 0 with ropes := [⟨5, 1, 3, [1], [(16, 0)], [], 0x1000⟩] }
  s.setMe { s.me with g := (s.me.g.set 2 5).set 3 1 }

/-- The rope place of the current context that a step leaves. -/
def ropeAfter (o : Host.Outcome State Fault Refusal) : Option RopePlace := match o with | .next t => t.me.rope | _ => none

theorem besideRope_strays : ropeAfter (exec (.rfollow 2 3) besideRope) = some ⟨0, 5, 1, false, false, false⟩ := by decide

/-- Refutes O39: in `besideRope` the next bundle of the context is not the leader's, and it takes its position detached. -/
theorem not_ropesAndHandles : ¬ Obligations.RopesAndHandles := by
  intro h
  let r : Rope := ⟨5, 1, 3, [1], [(16, 0)], [], 0x1000⟩
  obtain ⟨-, follows, -⟩ := h.1 besideRope besideRope 0 2 3 0 5 1 ⟨0, 0, 0, false, false, false⟩ r 0
  have reads : besideRope.Reads [2, 3] [5, 1] besideRope := ⟨by decide, by decide, rfl⟩
  obtain ⟨-, found⟩ := follows (by decide) reads
  obtain ⟨-, takes⟩ := found (by decide) rfl
  obtain ⟨u, step, place, -⟩ := takes (by decide) (by decide) (by decide) (by decide) (by decide) (by decide)
  have strayed := besideRope_strays
  rw [step] at strayed
  exact absurd (place.symm.trans strayed) (by decide)

end Sys2Proof.Machine
end

section
/-! REFUTATION of O49. A die without grids has no expiry to take where a team has one entry in the table of teams. In a table that lists a
team twice, the second entry's expiry is due by the grid that the first one names, on another die, and the decision expires the team
(R406, R407). -/

namespace Sys2Proof.Machine

/-- A grid with teams that have not started. -/
def waitingGrid : Grid :=
  { id := 3, part := 0, desc := 0, rcb := 0, nteams := 2, dies := 0, team0 := 0, status := 0, cores := 0, ext := 0, prio := 0, slots := 0, next := 0
    ended := 0, faulted := 0, chargedCores := 0, chargedRidges := 0, words := [] }

/-- Team 0 is listed twice: as a resident team of a grid of die 1, and as one whose expiry die 0 has deferred. -/
def listedTwice : State :=
  { State.reset with
    parts := [(0, { Part.empty 0 with valid := true })]
    dies := [(1, { Die.reset 1 with grids := [waitingGrid] })]
    teams := [(0, { Team.none 0 with state := .resident, die := 1, grid := 3 }), (0, { Team.none 0 with state := .resident, deferred := true })] }

/-- The state of team 0 that a step leaves. -/
def teamAfter (o : Host.Outcome State Fault Refusal) : TeamState := match o with | .next t => (t.team 0).state | _ => .none

theorem listedTwice_expires : teamAfter (exec .dispenserDecision listedTwice) = .leaving := by decide +kernel

/-- Refutes O49, at a table that lists a team twice (the statement ranges over every state): in `listedTwice` die 0 has neither a queue nor
grids, and its decision changes the teams. -/
theorem not_scheduling : ¬ Obligations.Scheduling := by
  intro h
  obtain ⟨-, -, -, decides, -⟩ := h listedTwice 0 0 waitingGrid [] 0
  obtain ⟨none, -⟩ := decides rfl (by decide) (by decide) rfl
  obtain ⟨t, step, teams, -⟩ := none rfl
  have expired := listedTwice_expires
  rw [step] at expired
  have kept : (t.team 0).state = (listedTwice.team 0).state := by rw [State.team, teams]; rfl
  exact absurd (kept.symm.trans expired) (by decide)

end Sys2Proof.Machine
end

section
/-! SUPPORT. Ranges of memory that are copied or cleared (R385, R389, R442): what each byte then reads. -/

namespace Sys2Proof.Machine

theorem rising_le {α : Type} {lo : Nat} {t : List (Nat × α)} (h : risingFrom lo t = true) : ∀ e ∈ t, lo ≤ e.1 := by
  induction t generalizing lo with
  | nil => exact nofun
  | cons c t ih =>
    simp only [risingFrom, Bool.and_eq_true, decide_eq_true_eq] at h
    intro e he
    rcases List.mem_cons.mp he with rfl | he
    · exact h.1
    · have := ih h.2 e he
      omega

/-! ### Memory without some of its entries -/

theorem Memory.read_filter (q : Nat → Bool) (m : Memory) (a : Nat) :
    Memory.read (m.filter (fun c => q c.1)) a = if q a then m.read a else Memory.unlisted := by
  induction m with
  | nil => exact (ite_self _).symm
  | cons e m ih =>
    obtain ⟨j, x⟩ := e
    by_cases hj : q j
    · rw [List.filter_cons_of_pos (p := fun c : Host.Cell => q c.1) hj, Memory.read, Memory.read, ih]
      by_cases h : j = a
      · subst h; simp [hj]
      · simp [h]
    · rw [List.filter_cons_of_neg (p := fun c : Host.Cell => q c.1) hj, Memory.read, ih]
      by_cases h : j = a
      · subst h; simp [hj]
      · simp [h]

/-- A byte outside a range. -/
def outside (dst n a : Nat) : Bool := decide (a < dst) || decide (dst + n ≤ a)

theorem outside_of {dst n a : Nat} (h : a < dst ∨ dst + n ≤ a) : outside dst n a = true := by simpa [outside] using h
theorem outside_not {dst n i : Nat} (h : i < n) : outside dst n (dst + i) = false := by
  have h1 : ¬dst + i < dst := by omega
  have h2 : ¬dst + n ≤ dst + i := by omega
  simp only [outside, h1, h2, decide_false, Bool.or_self]

section
variable (s : State) (src dst n : Nat)

theorem State.read_zeroRange_inside {i : Nat} (h : i < n) : (s.zeroRange dst n).mem.read (dst + i) = 0 := by
  have cleared := Memory.read_filter (outside dst n) s.mem (dst + i)
  rw [outside_not h] at cleared
  exact cleared

theorem State.read_zeroRange_outside {a : Nat} (h : a < dst ∨ dst + n ≤ a) : (s.zeroRange dst n).mem.read a = s.mem.read a := by
  have kept := Memory.read_filter (outside dst n) s.mem a
  rw [outside_of h] at kept
  exact kept

end

/-! ### Entries that are written at another place -/

/-- The entries of a range, at their new place. -/
def movedCells (src dst n : Nat) (m : Memory) : List Host.Cell :=
  (m.filter (fun c => decide (src ≤ c.1) && decide (c.1 < src + n))).map (fun c => (dst + (c.1 - src), c.2))

/-- Memory with some bytes written one by one. -/
def Memory.overlay (base : Memory) (cs : List Host.Cell) : Memory := cs.foldl (fun m c => m.write c.1 c.2) base

theorem Memory.overlay_cons (base : Memory) (c : Host.Cell) (cs : List Host.Cell) : base.overlay (c :: cs) = (base.write c.1 c.2).overlay cs := rfl

theorem movedCells_cons (src dst n : Nat) (c : Host.Cell) (m : Memory) : movedCells src dst n (c :: m) =
    if src ≤ c.1 ∧ c.1 < src + n then (dst + (c.1 - src), c.2) :: movedCells src dst n m else movedCells src dst n m := by
  simp only [movedCells, List.filter_cons, Bool.and_eq_true, decide_eq_true_eq]
  split <;> rfl

/-- What a byte of the destination reads once the entries of the source are written over a memory. -/
theorem Memory.read_overlay_moved {src dst n i : Nat} (hi : i < n) {m : Memory} {lo : Nat} (hm : risingFrom lo m = true) (base : Memory) :
    (base.overlay (movedCells src dst n m)).read (dst + i) = if (m.map Prod.fst).contains (src + i) then m.read (src + i) else base.read (dst + i) := by
  induction m generalizing base lo with
  | nil => rfl
  | cons c m ih =>
    obtain ⟨k, x⟩ := c
    simp only [risingFrom, Bool.and_eq_true, decide_eq_true_eq] at hm
    obtain ⟨-, rest⟩ := hm
    rw [movedCells_cons, Memory.read]
    dsimp only
    by_cases hk : k = src + i
    · have absent : (m.map Prod.fst).contains (src + i) = false := by
        rw [← hk]
        refine Bool.eq_false_iff.mpr fun listed => ?_
        obtain ⟨e, he, hek⟩ := List.mem_map.mp (List.contains_iff_mem.mp listed)
        have := rising_le rest e he
        omega
      rw [if_pos (by omega), Memory.overlay_cons, ih rest, absent, if_neg (by decide), Memory.read_write, if_pos (by omega), if_pos (by simp [hk]), if_pos hk]
    · have same : (((k, x) :: m).map Prod.fst).contains (src + i) = (m.map Prod.fst).contains (src + i) := by
        simp [Ne.symm hk]
      rw [same, if_neg hk]
      split
      case isTrue inside =>
        have apart : ¬dst + i = dst + (k - src) := by omega
        simp only [Memory.overlay_cons, ih rest, Memory.read_write, apart, if_false]
      case isFalse => rw [ih rest]

theorem Memory.read_overlay_other {src dst n a : Nat} (ha : a < dst ∨ dst + n ≤ a) (m base : Memory) :
    (base.overlay (movedCells src dst n m)).read a = base.read a := by
  induction m generalizing base with
  | nil => rfl
  | cons c m ih =>
    rw [movedCells_cons]
    split
    · rw [Memory.overlay_cons, ih, Memory.read_write, if_neg (by omega)]
    · exact ih base

theorem Memory.read_absent : ∀ {m : Memory} {a : Nat}, (m.map Prod.fst).contains a = false → m.read a = Memory.unlisted
  | [], _, _ => rfl
  | (k, x) :: m, a, h => by
    simp only [List.map_cons, List.contains_cons, Bool.or_eq_false_iff, beq_eq_false_iff_ne] at h
    rw [Memory.read, if_neg (Ne.symm h.1)]
    exact Memory.read_absent h.2

section
variable {s : State} (src dst : Nat) {n : Nat}

theorem State.copyRange_mem (s : State) (src dst n : Nat) : (s.copyRange src dst n).mem =
    Memory.overlay (s.mem.filter (fun c => outside dst n c.1)) (movedCells src dst n s.mem) := rfl

/-- A byte of the destination of a copy reads as the source's did. -/
theorem State.read_copyRange_inside (hs : s.Inv) {i : Nat} (h : i < n) : (s.copyRange src dst n).mem.read (dst + i) = s.mem.read (src + i) := by
  have rising : risingFrom 0 s.mem = true := (Bool.and_eq_true_iff.mp hs).1
  rw [State.copyRange_mem, Memory.read_overlay_moved h rising, Memory.read_filter (outside dst n), outside_not h]
  cases listed : (s.mem.map Prod.fst).contains (src + i)
  · exact (Memory.read_absent listed).symm
  · rfl

theorem State.read_copyRange_outside {a : Nat} (h : a < dst ∨ dst + n ≤ a) : (s.copyRange src dst n).mem.read a = s.mem.read a := by
  rw [State.copyRange_mem, Memory.read_overlay_other h, Memory.read_filter (outside dst n), outside_of h]
  rfl

end

end Sys2Proof.Machine
end

section
/-! SUPPORT. Bank images (R385, R389): what moving a range, writing an image and taking one change, and where the bytes then are. -/

namespace Sys2Proof.Machine

theorem Table.get_map_cases {α : Type} (f : α → α) (d : Nat → α) (t : Table α) (k : Nat) :
    Table.get d (t.map (fun e => (e.1, f e.2))) k = f (Table.get d t k) ∨ Table.get d (t.map (fun e => (e.1, f e.2))) k = Table.get d t k := by
  induction t with
  | nil => exact .inr rfl
  | cons e t ih =>
    obtain ⟨j, x⟩ := e
    by_cases h : j = k
    · subst h; exact .inl (by simp [Table.get])
    · simpa [Table.get, h] using ih

/-! ### A range that moves (R34, R343) -/

/-- What the units that move bytes change: memory and its poison, and the places where engines, surveys and packets find those bytes. -/
structure State.Moved (s t : State) : Prop where
  rest : t = { s with mem := t.mem, poison := t.poison, cores := t.cores, ridges := t.ridges, packets := t.packets }
  core : ∀ c, ∃ v w, t.core c = { s.core c with survey := v, waitingSurveys := w }
  ridge : ∀ r, ∃ j w k, t.ridge r = { s.ridge r with jobs := j, walks := w, copies := k }

theorem State.Moved.trans {s t u : State} (h : s.Moved t) (h' : t.Moved u) : s.Moved u where
  rest := by rw [h'.rest, h.rest]
  core := fun c => by
    obtain ⟨_, _, e⟩ := h.core c
    obtain ⟨_, _, e'⟩ := h'.core c
    exact ⟨_, _, by rw [e', e]⟩
  ridge := fun r => by
    obtain ⟨_, _, _, e⟩ := h.ridge r
    obtain ⟨_, _, _, e'⟩ := h'.ridge r
    exact ⟨_, _, _, by rw [e', e]⟩

theorem State.ButMemory.moved {s t : State} (h : s.ButMemory t) : s.Moved t where
  rest := by rw [h]
  core := fun c => ⟨_, _, by rw [h]; rfl⟩
  ridge := fun r => ⟨_, _, _, by rw [h]; rfl⟩

theorem State.relocate_moved (s : State) (src dst n : Nat) : s.Moved (s.relocate src dst n) := by
  unfold State.relocate
  extract_lets f lines job copy survey core
  refine ⟨rfl, fun c => ?_, fun r => ?_⟩
  · rcases Table.get_map_cases core Core.reset s.cores c with h | h
    · exact ⟨_, _, h⟩
    · exact ⟨_, _, h⟩
  · rcases Table.get_map_cases (fun g : Ridge => { g with jobs := g.jobs.map job, walks := g.walks.map job, copies := g.copies.map copy }) Ridge.reset
      s.ridges r with h | h
    · exact ⟨_, _, _, h⟩
    · exact ⟨_, _, _, h⟩

theorem State.duplicate_moved (s : State) (src dst n : Nat) : s.Moved (s.duplicate src dst n) := ⟨rfl, fun _ => ⟨_, _, rfl⟩, fun _ => ⟨_, _, _, rfl⟩⟩

theorem State.moveRange_moved (s : State) (src dst n : Nat) : s.Moved (s.moveRange src dst n) :=
  (s.relocate_moved src dst n).trans (State.duplicate_moved _ src dst n)

theorem State.moveRange_mem (s : State) (src dst n : Nat) : (s.moveRange src dst n).mem = (s.copyRange src dst n).mem := rfl

/-! ### Writes in a range -/

/-- A step that writes memory in a range, in canonical form, and changes nothing else. -/
structure State.WritesIn (s t : State) (lo n : Nat) : Prop where
  but : s.ButMemory t
  inv : s.Inv → t.Inv
  read : ∀ a, a < lo ∨ lo + n ≤ a → t.mem.read a = s.mem.read a

theorem State.WritesIn.refl (s : State) (lo n : Nat) : s.WritesIn s lo n := ⟨.refl s, id, fun _ _ => rfl⟩

theorem State.WritesIn.trans {s t u : State} {lo n : Nat} (h : s.WritesIn t lo n) (h' : t.WritesIn u lo n) : s.WritesIn u lo n :=
  ⟨h.but.trans h'.but, h'.inv ∘ h.inv, fun a ha => (h'.read a ha).trans (h.read a ha)⟩

theorem State.butMemory_storeWords (s : State) (loc : Nat) (ws : List Word) : s.ButMemory (s.storeWords loc ws) := rfl

theorem State.storeWords_writesIn (s : State) {lo n loc : Nat} {ws : List Word} (h : lo ≤ loc) (h' : loc + 8 * ws.length ≤ lo + n) :
    s.WritesIn (s.storeWords loc ws) lo n :=
  ⟨rfl, State.inv_storeWords loc ws, fun a ha => Memory.read_writes_other _ _ _ _ (by rw [wordBytes_length]; omega)⟩

theorem State.zeroRange_writesIn (s : State) (lo n : Nat) : s.WritesIn (s.zeroRange lo n) lo n :=
  ⟨rfl, State.inv_zeroRange lo n, fun _ ha => s.read_zeroRange_outside lo n ha⟩

/-! ### An image that is written (R385) -/

/-- Writes a contour slot's records into an image. -/
def State.writeSlot (s : State) (a : Nat) (e : Nat × Slot) : State :=
  if e.1 < 1024 then (s.storeWords (a + 65536 + 32 * e.1) e.2.words.1).storeWords (a + 98304 + 32 * e.1) e.2.words.2 else s

theorem State.writeSlot_writesIn (s : State) (a : Nat) (e : Nat × Slot) : s.WritesIn (s.writeSlot a e) (a + 65536) 65536 := by
  unfold State.writeSlot
  split
  · have len : e.2.words.1.length = 4 ∧ e.2.words.2.length = 4 := ⟨rfl, rfl⟩
    obtain ⟨l1, l2⟩ := len
    exact (s.storeWords_writesIn (by omega) (by rw [l1]; omega)).trans (State.storeWords_writesIn _ (by omega) (by rw [l2]; omega))
  · exact .refl s _ _

theorem State.writeSlots_writesIn (a : Nat) : ∀ (es : List (Nat × Slot)) (s : State), s.WritesIn (es.foldl (fun s e => s.writeSlot a e) s) (a + 65536) 65536
  | [], s => .refl s _ _
  | e :: es, s => (s.writeSlot_writesIn a e).trans (State.writeSlots_writesIn a es _)

/-- An image's ticket and contour slots. -/
def State.writeHead (s : State) (b a : Nat) : State :=
  (s.bank b).slots.foldl (fun s e => s.writeSlot a e) ((s.zeroRange a 131072).storeWords a [BitVec.ofNat 64 a])

theorem State.writeImage_eq (s : State) (b a : Nat) : s.writeImage b a = (s.writeHead b a).moveRange (bankLoc b 0) (a + 131072) (s.bankData b) := by
  have but : (s.zeroRange a 131072).ButMemory (s.writeHead b a) := (State.butMemory_storeWords _ a _).trans (State.writeSlots_writesIn a _ _).but
  have data : (s.writeHead b a).bankData b = s.bankData b := by
    unfold State.bankData
    rw [but.core]
    rfl
  rw [← data]
  rfl

theorem State.writeHead_writesIn (s : State) (b a : Nat) : s.WritesIn (s.writeHead b a) a 131072 := by
  refine (s.zeroRange_writesIn a 131072).trans ((State.storeWords_writesIn (loc := a) (ws := [BitVec.ofNat 64 a]) _ (Nat.le_refl a) (by simp)).trans ?_)
  have slots := State.writeSlots_writesIn a (s.bank b).slots ((s.zeroRange a 131072).storeWords a [BitVec.ofNat 64 a])
  exact ⟨slots.but, slots.inv, fun x hx => slots.read x (by omega)⟩

theorem State.writeHead_ticket (s : State) (b : Nat) {a : Nat} (ha : a < 2 ^ 64) : (s.writeHead b a).load a 8 = a := by
  have slots := State.writeSlots_writesIn a (s.bank b).slots ((s.zeroRange a 131072).storeWords a [BitVec.ofNat 64 a])
  have bytes : (s.writeHead b a).mem.bytes a 8 = ((s.zeroRange a 131072).storeWords a [BitVec.ofNat 64 a]).mem.bytes a 8 :=
    Memory.bytes_congr fun x h1 h2 => slots.read x (by omega)
  have stored := State.word_storeWords_same (s.zeroRange a 131072) a (BitVec.ofNat 64 a)
  have small := State.load_lt ((s.zeroRange a 131072).storeWords a [BitVec.ofNat 64 a]) a 8
  have number := congrArg BitVec.toNat stored
  rw [State.word, BitVec.toNat_ofNat, BitVec.toNat_ofNat, Nat.mod_eq_of_lt (by omega), Nat.mod_eq_of_lt ha] at number
  rw [State.load, bytes]
  exact number

theorem State.writeImage_moved (s : State) (b a : Nat) : s.Moved (s.writeImage b a) := by
  rw [State.writeImage_eq]
  exact (s.writeHead_writesIn b a).but.moved.trans (State.moveRange_moved _ _ _ _)

section
variable {s : State} (hs : s.Inv) (b : Nat) {a : Nat} (ha : a + 131072 ≤ 2 ^ 47)
include ha

include hs in
/-- The scratch and trail of a bank are in its image. -/
theorem State.writeImage_data {i : Nat} (hi : i < s.bankData b) : (s.writeImage b a).mem.read (a + 131072 + i) = s.mem.read (bankLoc b i) := by
  have head := s.writeHead_writesIn b a
  have far : a + 131072 ≤ bankLoc b i := by unfold bankLoc; omega
  have at_ : bankLoc b i = bankLoc b 0 + i := by unfold bankLoc; omega
  rw [State.writeImage_eq, State.moveRange_mem, State.read_copyRange_inside _ _ (head.inv hs) hi, ← at_]
  exact head.read _ (.inr far)

theorem State.writeImage_ticket : (s.writeImage b a).load a 8 = a := by
  have bytes : (s.writeImage b a).mem.bytes a 8 = (s.writeHead b a).mem.bytes a 8 :=
    Memory.bytes_congr fun x h1 h2 => by
      rw [State.writeImage_eq, State.moveRange_mem, State.read_copyRange_outside _ _ (.inl (by omega))]
  rw [State.load, bytes]
  exact s.writeHead_ticket b (by omega)

end

/-! ### Banks and images (R34, R385) -/

/-- What a bank's exchange with an image leaves of cores, ridges, contexts, and of what runs. -/
structure State.Exchanges (s t : State) : Prop where
  core : ∀ c, ∃ v w l, t.core c = { s.core c with survey := v, waitingSurveys := w, lastImage := l }
  ridge : ∀ r, ∃ j w k, t.ridge r = { s.ridge r with jobs := j, walks := w, copies := k }
  ctx : ∀ c, ∃ p, t.ctx c = { s.ctx c with pend := p }

theorem State.Exchanges.refl (s : State) : s.Exchanges s := ⟨fun _ => ⟨_, _, _, rfl⟩, fun _ => ⟨_, _, _, rfl⟩, fun _ => ⟨_, rfl⟩⟩

theorem State.Exchanges.trans {s t u : State} (h : s.Exchanges t) (h' : t.Exchanges u) : s.Exchanges u where
  core := fun c => by
    obtain ⟨_, _, _, e⟩ := h.core c
    obtain ⟨_, _, _, e'⟩ := h'.core c
    exact ⟨_, _, _, by rw [e', e]⟩
  ridge := fun r => by
    obtain ⟨_, _, _, e⟩ := h.ridge r
    obtain ⟨_, _, _, e'⟩ := h'.ridge r
    exact ⟨_, _, _, by rw [e', e]⟩
  ctx := fun c => by
    obtain ⟨_, e⟩ := h.ctx c
    obtain ⟨_, e'⟩ := h'.ctx c
    exact ⟨_, by rw [e', e]⟩

theorem State.Moved.exchanges {s t : State} (h : s.Moved t) : s.Exchanges t where
  core := fun c => by obtain ⟨_, _, e⟩ := h.core c; exact ⟨_, _, _, e⟩
  ridge := h.ridge
  ctx := fun c => ⟨_, by rw [h.rest]; rfl⟩

/-- A state with the same cores, ridges and contexts. -/
theorem State.Exchanges.of_eq {s t : State} (hc : t.cores = s.cores) (hr : t.ridges = s.ridges) (hx : t.ctxs = s.ctxs) : s.Exchanges t where
  core := fun c => ⟨_, _, _, congrArg (fun m : Table Core => m.get Core.reset c) hc⟩
  ridge := fun r => ⟨_, _, _, congrArg (fun m : Table Ridge => m.get Ridge.reset r) hr⟩
  ctx := fun c => ⟨_, congrArg (fun m : Table Ctx => m.get Ctx.reset c) hx⟩

theorem State.rehome_exchanges (s : State) (old new : Home) : s.Exchanges (s.rehome old new) := by
  unfold State.rehome
  extract_lets f
  refine ⟨fun _ => ⟨_, _, _, rfl⟩, fun _ => ⟨_, _, _, rfl⟩, fun c => ?_⟩
  rcases Table.get_map_cases f Ctx.reset s.ctxs c with h | h
  · exact ⟨_, h⟩
  · exact ⟨_, h⟩

theorem State.setLastImage_exchanges (s : State) (c : CoreId) (l : Table Nat) : s.Exchanges (s.setCore c { s.core c with lastImage := l }) where
  core := fun d => by
    by_cases h : d = c
    · subst h; exact ⟨_, _, _, State.setCore_core _ _ _⟩
    · exact ⟨_, _, _, State.setCore_core_other _ _ _ _ h⟩
  ridge := fun _ => ⟨_, _, _, rfl⟩
  ctx := fun _ => ⟨_, rfl⟩

/-- A team that a bank's exchange with an image concerns: where its member is, and the core's latest image of its partition. -/
def State.notesImage (s : State) (m : Option Nat) (c : CoreId) (f : Team → Team) (g : Team → Table Nat → Table Nat) : State :=
  match m with
  | some t => (s.setTeam t (f (s.team t))).setCore c { s.core c with lastImage := g (s.team t) (s.core c).lastImage }
  | none => s

theorem State.notesImage_leaves (s : State) (m : Option Nat) (c : CoreId) (f : Team → Team) (g : Team → Table Nat → Table Nat) :
    let t := s.notesImage m c f g
    s.Exchanges t ∧ t.banks = s.banks ∧ t.images = s.images ∧ t.mem = s.mem := by
  cases m with
  | none => exact ⟨.refl s, rfl, rfl, rfl⟩
  | some t =>
    exact ⟨State.Exchanges.trans (t := s.setTeam t (f (s.team t))) (.of_eq rfl rfl rfl) (State.setLastImage_exchanges _ c _), rfl, rfl, rfl⟩

theorem State.bankToImage_eq (s : State) (b a : Nat) : s.bankToImage b a =
    (((State.rehome { s.writeImage b a with images := (s.writeImage b a).images.put a { s.bank b with size := (s.writeImage b a).scratchSize b } }
      (.bank b) (.image a)).notesImage (s.bank b).team (b / 2) (fun k => { k with saved := (b / 2, a) :: k.saved.filter (fun e => e.1 != b / 2) })
      (fun k l => l.put k.part a)).setBank b { Bank.reset b with image := a }) := by
  unfold State.bankToImage State.notesImage
  rfl

/-- A bank that goes to an image is empty, and its queues are the image's (R34, R385). -/
theorem State.bankToImage_leaves (s : State) (b a : Nat) : let t := s.bankToImage b a
    s.Exchanges t ∧ t.bank b = { Bank.reset b with image := a } ∧ t.images.get Bank.reset a = { s.bank b with size := s.scratchSize b } ∧
      t.mem = (s.writeImage b a).mem := by
  have moved : s.Exchanges (s.writeImage b a) := (s.writeImage_moved b a).exchanges
  have size : (s.writeImage b a).scratchSize b = s.scratchSize b := by
    obtain ⟨_, _, _, e⟩ := moved.core (b / 2)
    rw [State.scratchSize, e]; rfl
  dsimp only
  rw [State.bankToImage_eq, size]
  generalize hw : s.writeImage b a = w at *
  have homes := State.rehome_exchanges { w with images := w.images.put a { s.bank b with size := s.scratchSize b } } (.bank b) (.image a)
  have homesImages : (State.rehome { w with images := w.images.put a { s.bank b with size := s.scratchSize b } } (.bank b) (.image a)).images =
    w.images.put a { s.bank b with size := s.scratchSize b } := rfl
  have homesMem : (State.rehome { w with images := w.images.put a { s.bank b with size := s.scratchSize b } } (.bank b) (.image a)).mem = w.mem := rfl
  generalize State.rehome _ (.bank b) (.image a) = v at *
  obtain ⟨left, -, images, mem⟩ := v.notesImage_leaves (s.bank b).team (b / 2) (fun k => { k with saved := (b / 2, a) :: k.saved.filter (fun e => e.1 != b / 2) })
    (fun k l => l.put k.part a)
  have emptied : (v.notesImage (s.bank b).team (b / 2) (fun k => { k with saved := (b / 2, a) :: k.saved.filter (fun e => e.1 != b / 2) })
    (fun k l => l.put k.part a)).Exchanges (State.setBank _ b { Bank.reset b with image := a }) := .of_eq rfl rfl rfl
  have listed : w.Exchanges { w with images := w.images.put a { s.bank b with size := s.scratchSize b } } := .of_eq rfl rfl rfl
  refine ⟨moved.trans (listed.trans (homes.trans (left.trans emptied))), State.setBank_bank _ _ _, ?_, ?_⟩
  · rw [State.setBank_images, images, homesImages, Table.get_put_same]
  · rw [State.setBank_mem, mem, homesMem]

theorem State.inv_setBank {s : State} (h : s.Inv) (b : Nat) (x : Bank) : (s.setBank b x).Inv := h

/-- A bank filled from an image's queues and bytes, before its team notes it. -/
def State.fillBank (s : State) (b a : Nat) : State :=
  let kept := s.images.get Bank.reset (s.load a 8)
  let v := (s.setBank b { kept with slots := s.imageSlots a kept, outbox := (s.bank b).outbox ++ kept.outbox, image := 0, size := 0 }).moveRange
    (a + 131072) (bankLoc b 0) (s.bankData b)
  State.rehome { v with images := v.images.drop (s.load a 8) } (.image (s.load a 8)) (.bank b)

theorem State.imageToBank_eq (s : State) (b a : Nat) : s.imageToBank b a =
    (s.fillBank b a).notesImage (s.images.get Bank.reset (s.load a 8)).team (b / 2) (fun k => { k with saved := k.saved.filter (fun e => e.1 != b / 2) })
      (fun k l => l.drop k.part) := by
  unfold State.imageToBank State.notesImage
  rfl

theorem State.fillBank_leaves (s : State) (b a : Nat) : let t := s.fillBank b a
    let kept := s.images.get Bank.reset (s.load a 8)
    s.Exchanges t ∧ (∃ sl o, t.bank b = { kept with slots := sl, outbox := o, image := 0, size := 0 }) ∧
      (s.Inv → ∀ i, i < s.bankData b → t.mem.read (bankLoc b i) = s.mem.read (a + 131072 + i)) := by
  unfold State.fillBank
  extract_lets kept v
  have moved : State.Moved _ v := State.moveRange_moved _ _ _ _
  have filled : ∀ x, s.Exchanges (s.setBank b x) := fun x => .of_eq rfl rfl rfl
  have dropped : v.Exchanges { v with images := v.images.drop (s.load a 8) } := .of_eq rfl rfl rfl
  refine ⟨(filled _).trans (moved.exchanges.trans (dropped.trans (State.rehome_exchanges _ _ _))), ⟨s.imageSlots a kept, (s.bank b).outbox ++ kept.outbox, ?_⟩,
    fun hs i hi => ?_⟩
  · show v.bank b = _
    rw [moved.rest]; exact State.setBank_bank _ _ _
  · have at_ : bankLoc b i = bankLoc b 0 + i := by unfold bankLoc; omega
    show v.mem.read (bankLoc b i) = _
    rw [at_, State.moveRange_mem, State.read_copyRange_inside _ _ (State.inv_setBank hs _ _) hi]
    rfl

/-- A bank that comes from an image has the queues that its ticket names, and its bytes are those of the image (R385). -/
theorem State.imageToBank_leaves (s : State) (b a : Nat) : let t := s.imageToBank b a
    let kept := s.images.get Bank.reset (s.load a 8)
    s.Exchanges t ∧ (∃ sl o, t.bank b = { kept with slots := sl, outbox := o, image := 0, size := 0 }) ∧
      (s.Inv → ∀ i, i < s.bankData b → t.mem.read (bankLoc b i) = s.mem.read (a + 131072 + i)) := by
  dsimp only
  rw [State.imageToBank_eq]
  obtain ⟨front, ⟨sl, o, bank⟩, read⟩ := s.fillBank_leaves b a
  obtain ⟨left, banks, -, mem⟩ := (s.fillBank b a).notesImage_leaves (s.images.get Bank.reset (s.load a 8)).team (b / 2)
    (fun k => { k with saved := k.saved.filter (fun e => e.1 != b / 2) }) (fun k l => l.drop k.part)
  exact ⟨front.trans left, ⟨sl, o, (State.bank_congr banks b).trans bank⟩, fun hs i hi => by rw [mem]; exact read hs i hi⟩

end Sys2Proof.Machine
end

section
/-! SUPPORT. Registry records (R384, R389): what a context's record holds once it is written, and stages and spills of slots and banks. -/

namespace Sys2Proof.Machine

/-! ### Words in memory that a range of writes leaves -/

theorem State.WritesIn.load {s t : State} {lo n : Nat} (h : s.WritesIn t lo n) {a m : Nat} (ha : a + m ≤ lo ∨ lo + n ≤ a) : t.load a m = s.load a m := by
  have bytes : t.mem.bytes a m = s.mem.bytes a m := Memory.bytes_congr fun b h1 h2 => h.read b (by omega)
  rw [State.load, bytes, State.load]

theorem State.WritesIn.word {s t : State} {lo n : Nat} (h : s.WritesIn t lo n) {a : Nat} (ha : a + 8 ≤ lo ∨ lo + n ≤ a) : t.word a = s.word a := by
  rw [State.word, h.load ha, State.word]

/-- A word of an array that has been stored. -/
theorem State.word_storeWords_at (s : State) (loc : Nat) {ws : List Word} {i : Nat} {w : Word} (h : ws[i]? = some w) :
    (s.storeWords loc ws).word (loc + 8 * i) = w := by
  induction ws generalizing s loc i with
  | nil => exact absurd h (by simp)
  | cons x ws ih =>
    rw [State.storeWords_cons]
    cases i with
    | zero =>
      obtain rfl : x = w := by simpa using h
      rw [State.word_storeWords_other _ (.inl (by omega))]
      exact State.word_storeWords_same s loc x
    | succ i =>
      have next := ih (s.storeWords loc [x]) (loc + 8) (i := i) (by simpa using h)
      rwa [show loc + 8 * (i + 1) = loc + 8 + 8 * i by omega]

/-! ### A record's areas (R384) -/

theorem padTo_length (n : Nat) (ws : List Word) : (padTo n ws).length = n := by rw [padTo_eq_map, List.length_map, List.length_range]

theorem Ctx.streamWords_length (x : Ctx) : x.streamWords.length ≤ 5632 := by
  have two : ∀ (es : List Sender), (es.flatMap (Sender.words x.source)).length = 2 * es.length := fun es => by
    induction es with
    | nil => rfl
    | cons e es ih => rw [List.flatMap_cons, List.length_append, ih, List.length_cons]; simp [Sender.words]; omega
  rw [Ctx.streamWords, two, List.length_take]
  omega

theorem vecWords_length (v : Vector VWord 32) : (v.toList.flatMap vecWords).length = 2048 := by
  have words : ∀ (vs : List VWord), (vs.flatMap vecWords).length = 64 * vs.length := fun vs => by
    induction vs with
    | nil => rfl
    | cons v vs ih => rw [List.flatMap_cons, List.length_append, ih, List.length_cons]; simp [vecWords]; omega
  rw [words, Vector.length_toList]

/-- A record once its pc and general registers are written, and its other areas cleared. -/
def State.writeGeneral (s : State) (r : Nat) (x : Ctx) : State :=
  ((s.zeroRange (r + 256) 65280).store (r + 24) 8 x.pc.toNat).storeWords (r + 256) (0 :: x.g.toList.drop 1)

/-- The areas after the general registers. -/
theorem State.writeAreas_rest (s : State) (r : Nat) (x : Ctx) : (s.writeGeneral r x).WritesIn (s.writeAreas r x) (r + 768) 64768 := by
  have msgs : (padTo 8 x.msg ++ padTo 4 x.evt ++ padTo 64 x.mres ++ padTo 16 x.done).length = 92 := by simp only [List.length_append, padTo_length]
  have pins := padTo_length 64 (x.livePins.flatMap Pin.words)
  have streams := x.streamWords_length
  have vectors := vecWords_length x.v
  have area : ∀ (u : State) {off : Nat} {ws : List Word}, 768 ≤ off → off + 8 * ws.length ≤ 65536 → u.WritesIn (u.storeWords (r + off) ws) (r + 768) 64768 :=
    fun u off ws h1 h2 => u.storeWords_writesIn (by omega) (by omega)
  exact (area (off := 768) _ (by decide) (by simp)).trans ((area (off := 1792) _ (by decide) (by simp)).trans
    ((area (off := 2048) _ (by decide) (by rw [msgs]; decide)).trans ((area (off := 3072) _ (by decide) (by rw [pins]; decide)).trans
      ((area (off := 20480) _ (by decide) (by show 20480 + 8 * x.streamWords.length ≤ 65536; omega)).trans (area (off := 4096) _ (by decide) (by rw [vectors]; decide))))))

section
variable (s : State) (r : Nat) (x : Ctx)

theorem State.writeAreas_general {q : GReg} (hq : q ≠ 0) : (s.writeAreas r x).word (r + 256 + 8 * q.val) = x.rd q := by
  have small := q.isLt
  have pos : q.val ≠ 0 := fun h => hq (Fin.ext h)
  rw [(s.writeAreas_rest r x).word (.inl (by omega))]
  refine State.word_storeWords_at _ _ ?_
  obtain ⟨k, hk⟩ : ∃ k, q.val = k + 1 := ⟨q.val - 1, by omega⟩
  rw [hk, List.getElem?_cons_succ, List.getElem?_drop, Nat.add_comm 1 k, ← hk, Ctx.rd, if_neg hq]
  simp

theorem State.writeAreas_pc : (s.writeAreas r x).word (r + 24) = x.pc := by
  have small := x.pc.isLt
  rw [(s.writeAreas_rest r x).word (.inl (by omega)), State.writeGeneral, State.word_storeWords_other _ (.inl (by omega)), State.word,
    State.load_store_fits _ _ (by omega)]
  simp

/-- The header of a record keeps its bytes but the pc's. -/
theorem State.writeAreas_header {a n : Nat} (h : a + n ≤ r + 24) : (s.writeAreas r x).load a n = s.load a n := by
  have general : (s.zeroRange (r + 256) 65280).WritesIn (s.writeGeneral r x) (r + 24) 744 := by
    refine State.WritesIn.trans (t := (s.zeroRange (r + 256) 65280).store (r + 24) 8 x.pc.toNat) ?_ (State.storeWords_writesIn _ (by omega) ?_)
    · exact ⟨State.butMemory_store _ _ _ _, State.inv_store _ _ _, fun b hb => State.read_store_other _ _ (by omega)⟩
    · simp
  rw [(s.writeAreas_rest r x).load (.inl (by omega)), general.load (.inl (by omega)), (s.zeroRange_writesIn _ _).load (.inl (by omega))]

end

/-- A context's record once it is written: its state, its pc and its general registers (R384). -/
theorem State.writeRecord_holds {s : State} {c : CtxId} (h : (s.ctx c).record ≠ 0) {n : Nat} (hn : n < 16) : let t := s.writeRecord c n
    let r := (s.ctx c).record
    t.word (r + 24) = (s.ctx c).pc ∧ t.load (r + 6) 1 % 16 = n ∧ ∀ q : GReg, q ≠ 0 → t.word (r + 256 + 8 * q.val) = (s.ctx c).rd q := by
  unfold State.writeRecord
  dsimp only
  rw [if_neg h]
  have small := s.load_lt ((s.ctx c).record + 6) 1
  refine ⟨State.writeAreas_pc _ _ _, ?_, fun q hq => State.writeAreas_general _ _ _ hq⟩
  rw [State.writeAreas_header _ _ _ (by omega), State.load_store_fits _ _ (by omega)]
  omega

/-! ### A slot that is spilled (R389) -/

/-- A context's record as it leaves its bank. -/
def State.writesOut (s : State) (c : CtxId) (r : Nat) : State := (s.setCtx c { s.ctx c with pend := [], record := r }).writeRecord c 3

theorem State.ctxToRecord_eq {s : State} {c : CtxId} (hp : (s.ctx c).pend = []) (r : Nat) : s.ctxToRecord c r =
    State.setCtx { s.writesOut c r with saved := (s.writesOut c r).saved.put r ((s.writesOut c r).ctx c) } c
      { Ctx.reset c with source := 2 ^ 59 + c, record := r, run := .exited, out := true } := by
  have finished : s.finishPending c = s.setCtx c { s.ctx c with pend := [] } := by
    unfold State.finishPending
    simp only [hp]
    rfl
  have placed : (s.setCtx c { s.ctx c with pend := [] }).setCtx c { (s.setCtx c { s.ctx c with pend := [] }).ctx c with record := r } =
      s.setCtx c { s.ctx c with pend := [], record := r } := by
    rw [State.setCtx_ctx, State.setCtx_setCtx]
  unfold State.ctxToRecord State.writesOut
  rw [finished, ← placed]

/-- A context whose results have all come, once it is written out. -/
theorem State.ctxToRecord_leaves {s : State} {c : CtxId} {r : Nat} (hp : (s.ctx c).pend = []) (hr : r ≠ 0) : let t := s.ctxToRecord c r
    t.cores = s.cores ∧ (t.ctx c).run = .exited ∧ (t.saved.get Ctx.reset r).g = (s.ctx c).g ∧ t.word (r + 24) = (s.ctx c).pc ∧
      t.load (r + 6) 1 % 16 = 3 ∧ (∀ q : GReg, q ≠ 0 → t.word (r + 256 + 8 * q.val) = (s.ctx c).rd q) ∧ s.keepsOthers t c := by
  have ctx : (s.setCtx c { s.ctx c with pend := [], record := r }).ctx c = { s.ctx c with pend := [], record := r } := State.setCtx_ctx _ _ _
  obtain ⟨hpc, hstate, hg⟩ := State.writeRecord_holds (s := s.setCtx c { s.ctx c with pend := [], record := r }) (c := c) (n := 3)
    (by rw [ctx]; exact hr) (by decide)
  rw [ctx] at hpc hstate hg
  obtain ⟨m, hm⟩ := State.writeRecord_eq (s.setCtx c { s.ctx c with pend := [], record := r }) c 3
  have out : s.writesOut c r = { s.setCtx c { s.ctx c with pend := [], record := r } with mem := m } := hm
  have outCtx : (s.writesOut c r).ctx = (s.setCtx c { s.ctx c with pend := [], record := r }).ctx := by rw [out]; rfl
  have outCores : (s.writesOut c r).cores = s.cores := by rw [out]; rfl
  dsimp only
  rw [State.ctxToRecord_eq hp]
  refine ⟨outCores, ?_, ?_, hpc, hstate, hg, fun d hd => ?_⟩
  · rw [State.setCtx_ctx]
  · rw [State.setCtx_saved, Table.get_put_same, outCtx, ctx]
  · rw [State.setCtx_ctx_other _ _ _ _ hd]
    exact (congrFun outCtx d).trans (State.setCtx_ctx_other _ _ _ _ hd)

/-! ### A slot that is staged (R389) -/

theorem State.reseat_eq (s : State) (c : CtxId) : ∃ ds, s.reseat c = { s with dies := ds } := by
  unfold State.reseat
  split
  · exact ⟨s.dies, rfl⟩
  · exact ⟨_, rfl⟩

theorem State.recordToCtx_eq (s : State) (c : CtxId) {r : Nat} (n : Nat) (hr : r ≠ 0) : ∃ ds, s.recordToCtx c r n =
    State.store { s.setCtx c (s.readRecord r c) with saved := s.saved.drop r, dies := ds } (r + 6) 1 (s.load (r + 6) 1 / 16 * 16 + n) := by
  obtain ⟨ds, hd⟩ := State.reseat_eq { s.setCtx c (s.readRecord r c) with saved := s.saved.drop r } c
  refine ⟨ds, ?_⟩
  unfold State.recordToCtx
  dsimp only
  rw [State.setCtx_saved, hd, State.recordState, if_neg hr]
  rfl

/-- A context that comes from a record holds what the record holds, and the record shows its state. -/
theorem State.recordToCtx_leaves (s : State) (c : CtxId) {r : Nat} (n : Nat) (hr : r ≠ 0) : let t := s.recordToCtx c r n
    t.cores = s.cores ∧ t.ctx c = s.readRecord r c ∧ t.mem = (s.store (r + 6) 1 (s.load (r + 6) 1 / 16 * 16 + n)).mem ∧ s.keepsOthers t c := by
  obtain ⟨ds, h⟩ := s.recordToCtx_eq c n hr
  dsimp only
  rw [h]
  exact ⟨rfl, State.setCtx_ctx _ _ _, rfl, fun d hd => State.setCtx_ctx_other _ _ _ _ hd⟩

theorem State.nameTeam_leaves (s : State) (b r : Nat) : (s.nameTeam b r).cores = s.cores ∧ (s.nameTeam b r).ctxs = s.ctxs ∧ (s.nameTeam b r).mem = s.mem := by
  unfold State.nameTeam
  extract_lets t
  split
  · exact ⟨rfl, rfl, rfl⟩
  · exact ⟨rfl, rfl, rfl⟩

/-- The registers of a context that a record holds (R384). -/
theorem State.readRecord_holds (s : State) (r : Nat) (id : CtxId) : (s.readRecord r id).pc = s.word (r + 24) ∧
    (∀ q : GReg, 1 ≤ q.val → q.val ≤ 55 → (s.readRecord r id).rd q = s.word (r + 256 + 8 * q.val)) ∧
    ∀ q : VReg, (s.readRecord r id).v[q.val] = BitVec.ofNat 4096 (s.load (r + 4096 + 512 * q.val) 512) := by
  unfold State.readRecord
  extract_lets x senders y pins vec
  refine ⟨rfl, fun q h1 h2 => ?_, fun q => ?_⟩
  · have pos : q ≠ 0 := fun h => by rw [h] at h1; exact absurd h1 (by decide)
    have inside : ¬(q.val = 0 ∨ 56 ≤ q.val) := by omega
    rw [Ctx.rd, if_neg pos, Vector.getElem_ofFn]
    exact if_neg inside
  · rw [Vector.getElem_ofFn]

/-! ### Stages and spills that end (R389) -/

theorem State.endOp_core (s : State) (c : CoreId) (slot : Nat) (valid : BitVec 9) :
    (s.endOp c slot valid).core c = { s.core c with ops := (s.core c).ops.drop 1, busy := (s.core c).busy &&& ~~~slotBit slot, valid } :=
  State.setCore_core _ _ _

theorem State.takeActions_noBank {valid : BitVec 9} (h : valid.getLsbD 8 = false) (s : State) (b : Nat) : s.takeActions b valid = s := by
  rw [State.takeActions, if_neg (by rw [h]; decide)]

theorem State.takeActions_none {s : State} {b : Nat} (h : ∀ n, n < 8 → (s.ctx (ctxIn b n)).action = none) (valid : BitVec 9) : s.takeActions b valid = s := by
  have kept : ∀ ns : List Nat, (∀ n ∈ ns, n < 8) → ns.foldl (fun s n => match (s.ctx (ctxIn b n)).action with
      | some a => if valid.getLsbD n then State.resolve s (ctxIn b n) a else s
      | none => s) s = s := fun ns hn => by
    induction ns with
    | nil => rfl
    | cons n ns ih =>
      simp only [List.foldl_cons, h n (hn n (List.mem_cons_self ..))]
      exact ih fun m hm => hn m (List.mem_cons_of_mem _ hm)
  rw [State.takeActions]
  split
  · exact kept _ fun n hn => List.mem_range.mp hn
  · rfl

theorem slotBit_eight {slot : Nat} (h : slot < 8) (v : BitVec 9) : (v ||| slotBit slot).getLsbD 8 = v.getLsbD 8 := by
  have other : (slotBit slot).getLsbD 8 = false := by
    have all : ∀ n : Fin 8, (slotBit n.val).getLsbD 8 = false := by decide
    exact all ⟨slot, h⟩
  rw [BitVec.getLsbD_or, other, Bool.or_false]

section
variable {s : State} {slot src : Nat} {rest : List SlotOp}

/-- The state of a slot that a stage has filled, before its operation ends. -/
def State.stagesSlot (s : State) (slot src : Nat) : State :=
  let b := s.shadowBank s.focus
  let n := (s.recordToCtx (ctxIn b slot) src 2).nameTeam b src
  n.setCtx (ctxIn b slot) { n.ctx (ctxIn b slot) with team := (n.bank b).team }

theorem stageComplete_run {m : State} (hk : (s.core s.focus).ops = .stage slot src :: rest)
    (hc : (s.setCore s.focus { s.core s.focus with ops := [] }).claims = [])
    (hm : (if slot < 8 then s.stagesSlot slot src else s.imageToBank (s.shadowBank s.focus) src) = m) :
    exec .stageComplete s = .next (((m.endOp s.focus slot ((m.core s.focus).valid ||| slotBit slot)).takeActions (s.shadowBank s.focus)
      ((m.core s.focus).valid ||| slotBit slot)).stepped) := by
  subst hm
  refine runStep_ok ?_
  rw [M.bind_ok (M.get_run s)]
  dsimp only
  simp only [hk, List.head?_cons]
  rw [M.bind_ok (M.await_run (by rw [hc]; rfl) _ s)]
  split <;> rfl

theorem spillComplete_run {m : State} (hk : (s.core s.focus).ops = .spill slot src :: rest)
    (hw : slot < 8 → s.hasWork (ctxIn (s.shadowBank s.focus) slot) = false)
    (hm : (if slot < 8 then s.spillSlot (ctxIn (s.shadowBank s.focus) slot) src else s.spillBank (s.shadowBank s.focus) src) = m) :
    exec .spillComplete s = .next ((m.endOp s.focus slot (m.core s.focus).valid).stepped) := by
  subst hm
  refine runStep_ok ?_
  rw [M.bind_ok (M.get_run s)]
  dsimp only
  simp only [hk, List.head?_cons]
  by_cases h : slot < 8
  · simp only [if_pos h]
    rw [M.bind_ok (M.bind_ok (M.await_run (by rw [hw h]; rfl) _ s))]
    rfl
  · simp only [if_neg h]
    rfl

theorem spillComplete_waits (hk : (s.core s.focus).ops = .spill slot src :: rest) (h8 : slot < 8)
    (hw : s.hasWork (ctxIn (s.shadowBank s.focus) slot) = true) : exec .spillComplete s = .next s := by
  refine runStep_wait (w := .other) ?_
  rw [M.bind_ok (M.get_run s)]
  dsimp only
  simp only [hk, List.head?_cons, if_pos h8]
  exact M.bind_error (M.bind_error (M.await_wait (by rw [hw]; rfl) _ s))

end

end Sys2Proof.Machine
end

section
/-! SUPPORT. What a bank swap leaves alone (R391, R440): which bank of each core is active, and the ridges' lists of swapped cores, through the end
of a context's place, the bank that comes from its image, and the actions that a staged bank's contexts take. -/

namespace Sys2Proof.Machine

/-- A step that changes no core's active bank and no ridge's list of swapped cores. -/
structure State.KeepsSwaps (s t : State) : Prop where
  active : ∀ c, (t.core c).active = (s.core c).active
  flips : ∀ r, (t.ridge r).flips = (s.ridge r).flips

namespace State.KeepsSwaps

theorem refl (s : State) : s.KeepsSwaps s := ⟨fun _ => rfl, fun _ => rfl⟩
theorem trans (s t u : State) (h : s.KeepsSwaps t) (h' : t.KeepsSwaps u) : s.KeepsSwaps u :=
  ⟨fun c => (h'.active c).trans (h.active c), fun r => (h'.flips r).trans (h.flips r)⟩

/-- A step that leaves the cores and the ridges. -/
theorem of_eq {s t : State} (hc : t.cores = s.cores) (hr : t.ridges = s.ridges) : s.KeepsSwaps t :=
  ⟨fun c => congrArg (fun m : Table Core => (m.get Core.reset c).active) hc, fun r => congrArg (fun m : Table Ridge => (m.get Ridge.reset r).flips) hr⟩

theorem setCtx (s : State) (c : CtxId) (x : Ctx) : s.KeepsSwaps (s.setCtx c x) := of_eq rfl rfl
theorem setBank (s : State) (b : Nat) (x : Bank) : s.KeepsSwaps (s.setBank b x) := of_eq rfl rfl
theorem setTeam (s : State) (t : Nat) (x : Team) : s.KeepsSwaps (s.setTeam t x) := of_eq rfl rfl
theorem setPart (s : State) (p : Nat) (x : Part) : s.KeepsSwaps (s.setPart p x) := of_eq rfl rfl
theorem setDie (s : State) (d : Nat) (x : Die) : s.KeepsSwaps (s.setDie d x) := of_eq rfl rfl
theorem store (s : State) (loc n x : Nat) : s.KeepsSwaps (s.store loc n x) := of_eq rfl rfl

theorem setCore {s : State} {c : CoreId} {x : Core} (h : x.active = (s.core c).active) : s.KeepsSwaps (s.setCore c x) where
  active := fun d => by
    by_cases hd : d = c
    · subst hd; rw [State.setCore_core, h]
    · rw [State.setCore_core_other _ _ _ _ hd]
  flips := fun _ => rfl

theorem setRidge {s : State} {r : Nat} {g : Ridge} (h : g.flips = (s.ridge r).flips) : s.KeepsSwaps (s.setRidge r g) where
  active := fun _ => rfl
  flips := fun q => by
    by_cases hq : q = r
    · subst hq; rw [State.setRidge_ridge, h]
    · rw [State.setRidge_ridge_other _ _ _ _ hq]

theorem foldl {α : Type} {f : State → α → State} (hf : ∀ (s : State) a, s.KeepsSwaps (f s a)) (l : List α) (s : State) : s.KeepsSwaps (l.foldl f s) :=
  foldl_keeps refl trans hf l s

end State.KeepsSwaps

theorem State.Exchanges.keepsSwaps {s t : State} (h : s.Exchanges t) : s.KeepsSwaps t where
  active := fun c => by obtain ⟨_, _, _, e⟩ := h.core c; rw [e]
  flips := fun r => by obtain ⟨_, _, _, e⟩ := h.ridge r; rw [e]

theorem State.ButMemory.keepsSwaps {s t : State} (h : s.ButMemory t) : s.KeepsSwaps t := h.moved.exchanges.keepsSwaps

/-! ### A context's place in a bank -/

section
variable (s : State) (c : CtxId)

theorem State.endLease_keepsSwaps : s.KeepsSwaps (s.endLease c) := by
  unfold State.endLease
  dsimp only
  split
  · split
    · exact .setRidge rfl
    · exact .refl s
  · exact .refl s

theorem State.leaveSprint_keepsSwaps : s.KeepsSwaps (s.leaveSprint c) := by
  unfold State.leaveSprint
  dsimp only
  split
  · exact .setRidge rfl
  · exact .refl s

theorem State.quitRope_keepsSwaps : s.KeepsSwaps (s.quitRope c) := by
  unfold State.quitRope
  split
  · exact .refl s
  · dsimp only
    split
    · exact .trans _ _ _ (.setDie s _ _) (.setCtx _ c _)
    · exact .trans _ _ _ (.setDie s _ _) (.setCtx _ c _)

theorem State.detach_keepsSwaps : s.KeepsSwaps (s.detach c) := by
  unfold State.detach
  split
  · exact .refl s
  · split
    · exact .setCtx s c _
    · split
      · exact .refl s
      · exact .foldl (fun (s : State) (m : CtxId × Nat) => .setCtx s m.1 _) _ s

theorem State.leaveBank_keepsSwaps : s.KeepsSwaps (s.leaveBank c) :=
  .trans _ _ _ (s.endLease_keepsSwaps c) (.trans _ _ _ (State.detach_keepsSwaps _ c) (.trans _ _ _ (State.leaveSprint_keepsSwaps _ c)
    (.trans _ _ _ (.setCtx _ c _) (.setCtx _ c _))))

theorem State.recordState_keepsSwaps (r n : Nat) : s.KeepsSwaps (s.recordState r n) := by
  unfold State.recordState
  split
  · exact .refl s
  · exact .store s _ _ _

theorem State.showState_keepsSwaps : s.KeepsSwaps (s.showState c) := s.recordState_keepsSwaps _ _

theorem State.recordToCtx_keepsSwaps (r n : Nat) : s.KeepsSwaps (s.recordToCtx c r n) := by
  unfold State.recordToCtx
  extract_lets x s1 s2
  have front : s.KeepsSwaps s2 := .of_eq rfl rfl
  obtain ⟨ds, hd⟩ := s2.reseat_eq c
  have seated : s2.KeepsSwaps (s2.reseat c) := by rw [hd]; exact .of_eq rfl rfl
  exact .trans _ _ _ front (.trans _ _ _ seated (State.recordState_keepsSwaps _ r n))

theorem State.enterBank_keepsSwaps (valid : BitVec 9) : s.KeepsSwaps (s.enterBank valid c) := by
  unfold State.enterBank
  dsimp only
  split
  · exact .setCtx s c _
  · refine .trans _ _ _ ?_ (.setCtx _ c _)
    split
    · exact s.recordToCtx_keepsSwaps c _ _
    · exact .refl s

/-! ### A context that parks (R425) -/

theorem State.deliver_keepsSwaps (p : Pending) : s.KeepsSwaps (s.deliver c p) := by
  have place : ∀ (d : GReg) (r : Reserved) f, s.KeepsSwaps (s.onPlace c d r f) := fun d r f => by
    unfold State.onPlace State.setHomeBank
    cases r with
    | buffer n => exact .setCtx s c _
    | link h n => cases h <;> exact .of_eq rfl rfl
  unfold State.deliver
  split
  · split
    · exact place _ _ _
    · exact .setCtx s c _
  · split
    · exact place _ _ _
    · exact .setCtx s c _
  · exact .setCtx s c _
  · exact .setCtx s c _

theorem State.finishPending_keepsSwaps : s.KeepsSwaps (s.finishPending c) :=
  .trans _ _ _ (.setCtx s c _) (.foldl (fun s p => s.deliver_keepsSwaps c p) _ _)

theorem State.writeRecord_keepsSwaps (n : Nat) : s.KeepsSwaps (s.writeRecord c n) := by
  obtain ⟨m, hm⟩ := s.writeRecord_eq c n
  rw [hm]
  exact .of_eq rfl rfl

theorem State.park_keepsSwaps (t : Trap) : s.KeepsSwaps (s.park c t) := by
  unfold State.park
  extract_lets s1 s2 s3 s4 x s5 s6 n s7 s8 s9
  have written : s.KeepsSwaps s6 := .trans _ _ _ (s.finishPending_keepsSwaps c) (.trans _ _ _ (State.endLease_keepsSwaps _ c) (.trans _ _ _ (.setCtx _ c _)
    (.trans _ _ _ (State.leaveSprint_keepsSwaps _ c) (.trans _ _ _ (.setCtx _ c _) (State.writeRecord_keepsSwaps _ c 4)))))
  have numbered : s6.KeepsSwaps s7 := .store _ _ _ _
  have noted : s7.KeepsSwaps s8 := by
    show s7.KeepsSwaps (if x.record = 0 then s7 else _)
    split
    · exact .refl s7
    · exact .store _ _ _ _
  have killed : s8.KeepsSwaps s9 := by
    show s8.KeepsSwaps (match x.team with | some t => _ | none => s8)
    cases x.team with
    | none => exact .refl s8
    | some t => exact .setTeam _ _ _
  exact .trans _ _ _ written (.trans _ _ _ numbered (.trans _ _ _ noted (.trans _ _ _ killed (.of_eq rfl rfl))))

end

/-! ### Events, members and teams that end (R33, R45) -/

theorem State.ropeStep_keepsSwaps (s : State) (c : CtxId) (x : Ctx) : s.KeepsSwaps (s.ropeStep c x) := by
  obtain ⟨ds, h | ⟨r, h⟩⟩ := s.ropeStep_cases c x
  · rw [h]; exact .of_eq rfl rfl
  · rw [h]; exact .of_eq rfl rfl

theorem State.retireCtx_keepsSwaps (s : State) (c : CtxId) : s.KeepsSwaps (s.retireCtx c) := by
  unfold State.retireCtx
  refine .trans _ _ _ ?_ (State.ropeStep_keepsSwaps _ c _)
  exact .trans _ _ _ (.setCtx s c _) (.setCore rfl)

theorem State.wake0_keepsSwaps (s : State) (b : Nat) : s.KeepsSwaps (s.wake0 b) := by
  unfold State.wake0
  dsimp only
  split
  · exact .trans _ _ _ (.setCtx s _ _) (State.retireCtx_keepsSwaps _ _)
  · exact .refl s

theorem State.undeliverable_keepsSwaps (s : State) (t n : Nat) : s.KeepsSwaps (s.undeliverable t n) := by
  unfold State.undeliverable
  split
  · exact .refl s
  · exact .store s _ _ _

theorem State.enterServed_keepsSwaps (s : State) (v : Served) (f : Bank → Bank) : s.KeepsSwaps (s.enterServed v f) := by
  have set : ∀ x, s.KeepsSwaps (s.setServedBank v x) := fun x => by
    unfold State.setServedBank
    split
    · exact .setBank s _ _
    · exact .of_eq rfl rfl
  have waked : ∀ (u : State) (t c : Nat), u.KeepsSwaps (u.wakeRecord t c) := fun u t c => by
    unfold State.wakeRecord
    dsimp only
    split
    · exact .refl u
    · exact .of_eq rfl rfl
  unfold State.enterServed
  dsimp only
  split
  · exact .trans _ _ _ (set _) (State.wake0_keepsSwaps _ _)
  · exact .trans _ _ _ (set _) (waked _ _ _)

theorem State.decrementAt_keepsSwaps (s : State) (h : Word) (v : Served) (loc n : Nat) (e : Ending) : s.KeepsSwaps (s.decrementAt h v loc n e) := by
  have ready : ∀ (u : State) (a : Word), u.KeepsSwaps (u.readyAt v a) := fun u a => by
    unfold State.readyAt
    dsimp only
    split
    · exact u.enterServed_keepsSwaps v _
    · exact u.undeliverable_keepsSwaps _ _
  unfold State.decrementAt
  extract_lets join at_ count s1 s2 s3
  have status : s.KeepsSwaps s1 := by
    show s.KeepsSwaps (if join then _ else s)
    split
    · exact .store s _ _ _
    · exact .refl s
  have counted : s.KeepsSwaps s2 := .trans _ _ _ status (.store s1 _ _ _)
  have noted : s.KeepsSwaps s3 := .trans _ _ _ counted (by
    show s2.KeepsSwaps (if count < n then _ else s2)
    split
    · exact .store s2 _ _ _
    · exact .refl s2)
  split
  · exact status
  · show s.KeepsSwaps (if count ≤ n ∧ join = false then _ else s3)
    split
    · exact .trans _ _ _ noted (ready s3 _)
    · exact noted

theorem State.succeedAll_keepsSwaps (s : State) (part : Nat) (e : Ending) (hs : List Word) : s.KeepsSwaps (s.succeedAll part e hs) := by
  refine .foldl (fun s h => ?_) hs s
  unfold State.succeed
  split
  · exact s.decrementAt_keepsSwaps _ _ _ _ _
  · exact .of_eq rfl rfl

theorem State.endEvent_keepsSwaps (s : State) (c : CtxId) (e : Ending) : s.KeepsSwaps (s.endEvent c e) :=
  .trans _ _ _ (s.succeedAll_keepsSwaps _ _ _) (.trans _ _ _ (State.quitRope_keepsSwaps _ c) (.setCtx _ c _))

theorem State.endMember_keepsSwaps (s : State) (b : Nat) (killed : Bool) : s.KeepsSwaps (s.endMember b killed) := by
  unfold State.endMember
  dsimp only
  split
  · exact .refl s
  · exact .trans _ _ _ (s.undeliverable_keepsSwaps _ _) (.trans _ _ _ (.setBank _ b _) (.setTeam _ _ _))

theorem State.exitMember_keepsSwaps (s : State) (c : CtxId) (killed : Bool) : s.KeepsSwaps (s.exitMember c killed) :=
  .trans _ _ _ (s.leaveSprint_keepsSwaps c) (.trans _ _ _ (State.quitRope_keepsSwaps _ c) (.trans _ _ _ (.setCtx _ c _)
    (.trans _ _ _ (State.recordState_keepsSwaps _ _ 6) (State.endMember_keepsSwaps _ _ killed))))

theorem State.ButCaches.keepsSwaps {s t : State} (h : s.ButCaches t) : s.KeepsSwaps t := by
  rw [h]; exact .of_eq rfl rfl

theorem State.generation_keepsSwaps (s : State) (part line : Nat) : s.KeepsSwaps (s.generation part line) := .of_eq rfl rfl

/-- An unwound task is no task of any queue. -/
theorem State.forgetTask_keepsSwaps (s : State) (vs : List Nat) (id : Nat) : s.KeepsSwaps (((s.markAborts vs).clearMarks id).discardChildren id) :=
  .of_eq rfl rfl

theorem State.undoTask_keepsSwaps (s : State) (base : Nat) (x : Ctx) (t : Task) : s.KeepsSwaps (s.undoTask base x t).1 := by
  have stamps : ∀ (u : State) (locs : List Nat), u.KeepsSwaps (u.stampHomes x.part locs) := fun u locs => by
    unfold State.stampHomes
    refine .foldl (fun u l => ?_) _ u
    exact .trans _ _ _ (u.butCaches_dropCopies l none).keepsSwaps (State.generation_keepsSwaps _ _ _)
  have restored : s.KeepsSwaps (s.unwind base x x.trailBase.toNat).1 :=
    State.KeepsSwaps.foldl (f := fun (s : State) (r : Nat × Word) => (s.store r.1 8 r.2.toNat).stampHomes x.part [r.1])
      (fun s r => .trans _ _ _ (.store s r.1 8 r.2.toNat) (stamps _ _)) (s.restores base x x.trailBase.toNat) s
  exact .trans _ _ _ restored (State.forgetTask_keepsSwaps _ _ _)

theorem State.killHandler_keepsSwaps (s : State) (c : CtxId) : s.KeepsSwaps (s.killHandler c) := by
  unfold State.killHandler
  dsimp only
  split
  · exact s.endEvent_keepsSwaps c _
  · exact .trans _ _ _ (s.undoTask_keepsSwaps _ _ _) (.trans _ _ _ (.setTeam _ _ _) (.trans _ _ _ (State.quitRope_keepsSwaps _ c) (.setCtx _ c _)))

theorem State.countEnded_keepsSwaps (s : State) (k : Team) : s.KeepsSwaps (s.countEnded k) := by
  have charged : ∀ (u : State) (rcb : Nat) (f : Nat → Nat → Nat) (m n : Nat), u.KeepsSwaps (u.charge rcb f m n) := fun u rcb f m n =>
    .foldl (fun u r => .trans _ _ _ (.store u _ _ _) (.store _ _ _ _)) _ u
  unfold State.countEnded
  extract_lets d
  split
  · exact .refl s
  · extract_lets g s1 s2
    split
    · exact .setDie s _ _
    · refine .trans s s1 _ (.setDie s k.die _) (.trans s1 s2 _ ?_ (charged _ _ _ _ _))
      show s1.KeepsSwaps (if g.status = 0 then s1 else _)
      split
      · exact .refl s1
      · exact .store s1 _ _ _

theorem State.vacate_keepsSwaps (s : State) (b : Nat) : s.KeepsSwaps (s.vacate b) := by
  have left : ∀ (u : State) (n : Nat), u.KeepsSwaps (((u.endLease (ctxIn b n)).leaveSprint (ctxIn b n)).quitRope (ctxIn b n)) := fun u n =>
    .trans _ _ _ (u.endLease_keepsSwaps _) (.trans _ _ _ (State.leaveSprint_keepsSwaps _ _) (State.quitRope_keepsSwaps _ _))
  exact .trans _ _ _ (.foldl left _ s) (.trans _ _ _ (.foldl (fun u n => .setCtx u _ _) _ _) (.setBank _ b _))

/-- What the cores hold for a team's surveys is forgotten; their banks stay as they are. -/
theorem State.mapCores_keepsSwaps (s : State) {f : Core → Core} (hf : ∀ k, (f k).active = k.active) :
    s.KeepsSwaps { s with cores := s.cores.map (fun (e : Nat × Core) => (e.1, f e.2)) } where
  active := fun c => by
    rcases Table.get_map_cases f Core.reset s.cores c with h | h
    · exact (congrArg Core.active h).trans (hf _)
    · exact congrArg Core.active h
  flips := fun _ => rfl

theorem Core.promote_active (k : Core) : k.promote.active = k.active := by
  unfold Core.promote
  split <;> rfl

theorem State.endTeam_keepsSwaps (s : State) (t : Nat) : s.KeepsSwaps (s.endTeam t) := by
  unfold State.endTeam
  extract_lets k s1 p s2 s3 forget s4
  have vacated : s.KeepsSwaps s1 := .foldl (fun s b => s.vacate_keepsSwaps b) _ s
  have forgotten : s3.KeepsSwaps s4 := s3.mapCores_keepsSwaps (f := fun k => (forget k).promote) fun k => Core.promote_active (forget k)
  exact .trans _ _ _ vacated (.trans _ _ _ (.setPart _ _ _) (.trans _ _ _ (.setTeam _ _ _) (.trans _ _ _ forgotten (State.countEnded_keepsSwaps _ k))))

theorem State.settleTeam_keepsSwaps (s : State) (b : Nat) : s.KeepsSwaps (s.settleTeam b) := by
  unfold State.settleTeam
  split
  · unfold State.tryEndTeam
    split
    · exact s.endTeam_keepsSwaps _
    · exact .refl s
  · exact .refl s

/-! ### The actions that a staged bank's contexts take (R395, R429) -/

theorem State.resolve_keepsSwaps (s : State) (c : CtxId) (action : Nat) : s.KeepsSwaps (s.resolve c action) := by
  have shown : ∀ x, s.KeepsSwaps ((s.setCtx c x).showState c) := fun x => .trans _ _ _ (.setCtx s c x) (State.showState_keepsSwaps _ c)
  unfold State.resolve
  extract_lets x ready t s1 s2
  have ended : s1.KeepsSwaps s2 := by
    show s1.KeepsSwaps (if ctxNum c = 0 then _ else _)
    split
    · exact s1.exitMember_keepsSwaps c true
    · exact s1.killHandler_keepsSwaps c
  split
  · exact shown _
  · exact shown _
  · split
    · exact .trans _ _ _ (.setCtx s c _) (State.park_keepsSwaps _ c _)
    · exact shown _
  · exact .trans _ _ _ (.setCtx s c _) (.trans _ _ _ ended (.trans _ _ _ (State.showState_keepsSwaps _ c) (State.settleTeam_keepsSwaps _ _)))

theorem State.takeActions_keepsSwaps (s : State) (b : Nat) (valid : BitVec 9) : s.KeepsSwaps (s.takeActions b valid) := by
  unfold State.takeActions
  split
  · refine .foldl (fun s n => ?_) _ s
    split
    · split
      · exact s.resolve_keepsSwaps _ _
      · exact .refl s
    · exact .refl s
  · exact .refl s

/-! ### A flip (R391) -/

/-- A flip exchanges the banks of its core, and keeps the other cores' and every ridge's list. -/
theorem State.flip_leaves (s : State) (c : CoreId) : ((s.flip c).core c).active = 1 - (s.core c).active ∧
    ∀ r, ((s.flip c).ridge r).flips = (s.ridge r).flips := by
  unfold State.flip
  extract_lets k old new s1 s2 s3 _ s4 s5 s6
  have left : s.KeepsSwaps s1 := .foldl (fun s n => s.leaveBank_keepsSwaps _) _ s
  have filled : s1.KeepsSwaps s2 := by
    show s1.KeepsSwaps (if (s1.bank new).image = 0 then s1 else _)
    split
    · exact .refl s1
    · exact (s1.imageToBank_leaves new _).1.keepsSwaps
  have entered : s2.KeepsSwaps s3 := .foldl (fun s n => s.enterBank_keepsSwaps _ _) _ s2
  have before : s.KeepsSwaps s3 := .trans _ _ _ left (.trans _ _ _ filled entered)
  have shown : s4.KeepsSwaps s5 := .foldl (fun s n => .trans _ _ _ (s.showState_keepsSwaps _) (State.showState_keepsSwaps _ _)) _ s4
  have marked : s5.KeepsSwaps s6 := .foldl (fun s p => .setPart s p _) _ s5
  have after : s4.KeepsSwaps (s6.takeActions new 0x1FF) := .trans _ _ _ shown (.trans _ _ _ marked (s6.takeActions_keepsSwaps new _))
  refine ⟨(after.active c).trans ?_, fun r => (after.flips r).trans (before.flips r)⟩
  show ((s3.setCore c _).core c).active = _
  rw [State.setCore_core]

end Sys2Proof.Machine
end

section
/-! LEMMAS for O48. A context that moves to another core (R58), the ridge's state at its areas (R442), and a swap at its armed time (R440). -/

namespace Sys2Proof.Machine

/-! ### A context that moves (R58) -/

/-- A step that changes no context but its place in a rope. -/
def State.ButRopes (s t : State) : Prop := ∀ c, ∃ r, t.ctx c = { s.ctx c with rope := r }

theorem State.ButRopes.refl (s : State) : s.ButRopes s := fun _ => ⟨_, rfl⟩

theorem State.ButRopes.trans (s t u : State) (h : s.ButRopes t) (h' : t.ButRopes u) : s.ButRopes u := fun c => by
  obtain ⟨_, e⟩ := h c
  obtain ⟨_, e'⟩ := h' c
  exact ⟨_, by rw [e', e]⟩

theorem Ctx.detached_eq (x : Ctx) : ∃ r, x.detached = { x with rope := r } := by
  unfold Ctx.detached
  split
  · split <;> exact ⟨_, rfl⟩
  · exact ⟨_, rfl⟩

theorem State.setDetached_butRopes (s : State) (c : CtxId) : s.ButRopes (s.setCtx c (s.ctx c).detached) := fun d => by
  by_cases h : d = c
  · subst h
    obtain ⟨r, e⟩ := (s.ctx d).detached_eq
    exact ⟨r, by rw [State.setCtx_ctx, e]⟩
  · exact ⟨_, by rw [State.setCtx_ctx_other _ _ _ _ h]⟩

theorem State.detach_butRopes (s : State) (c : CtxId) : s.ButRopes (s.detach c) := by
  unfold State.detach
  split
  · exact .refl s
  · split
    · exact s.setDetached_butRopes c
    · split
      · exact .refl s
      · exact foldl_keeps State.ButRopes.refl State.ButRopes.trans (fun (s : State) (m : CtxId × Nat) => s.setDetached_butRopes m.1) _ s

/-- What a context gives up where it moves: its lease, its rope's followers, a sprint lease. -/
def State.givesUp (s : State) (c : CtxId) : State := ((s.endLease c).detach c).leaveSprint c

theorem State.givesUp_butRopes (s : State) (c : CtxId) : s.ButRopes (s.givesUp c) := by
  have lease : s.ButRopes (s.endLease c) := by
    unfold State.endLease
    dsimp only
    split
    · split
      · exact fun _ => ⟨_, rfl⟩
      · exact .refl s
    · exact .refl s
  have sprint : ∀ u : State, u.ButRopes (u.leaveSprint c) := fun u => by
    unfold State.leaveSprint
    dsimp only
    split
    · exact fun _ => ⟨_, rfl⟩
    · exact .refl u
  exact .trans _ _ _ lease (.trans _ _ _ (State.detach_butRopes _ c) (sprint _))

/-- A context and the dormant one whose place it takes change places. -/
theorem State.migrate_ctx (s : State) {old new : CtxId} (h : new ≠ old) :
    (s.migrate old new).ctx new = ((s.givesUp old).ctx old).placedAt ((s.givesUp old).ctx new) ∧
    (s.migrate old new).ctx old = ((s.givesUp old).ctx new).placedAt ((s.givesUp old).ctx old) := by
  have record : ∀ (u : State) (r : Nat) (c : CtxId), (u.placeRecord r c).ctx = u.ctx := fun u r c => by
    unfold State.placeRecord
    split <;> rfl
  have seat : ∀ (u : State) (c : CtxId), (u.reseat c).ctx = u.ctx := fun u c => by
    obtain ⟨ds, e⟩ := u.reseat_eq c
    rw [e]; rfl
  unfold State.migrate
  extract_lets g x y v w
  rw [record, record]
  have placed : w.ctx = v.ctx := (seat _ _).trans ((seat _ _).trans rfl)
  rw [placed]
  exact ⟨(State.setCtx_ctx_other _ _ _ _ h).trans (State.setCtx_ctx _ _ _), State.setCtx_ctx _ _ _⟩

theorem State.freeHandler_dormant {s : State} {b : Nat} {c : CtxId} (h : s.freeHandler b = some c) : (s.ctx c).run = .dormant := by
  have free := List.find?_some h
  simp only [Bool.and_eq_true, beq_iff_eq] at free
  exact free.1.1.1

section
variable {s : State}

theorem contextMigrate_waits (h : s.me.migrating = false ∨ s.hasWork s.cur = true ∨ s.hasMail s.cur = true) : exec .contextMigrate s = .next s := by
  refine runStep_wait (w := .other) ?_
  rw [M.bind_ok (M.get_run s)]
  refine M.bind_error (M.await_wait ?_ _ s)
  rcases h with h | h | h <;> simp [h]

variable (hm : s.me.migrating = true) (hw : s.hasWork s.cur = false) (hl : s.hasMail s.cur = false)
include hm hw hl

theorem contextMigrate_stays (hp : (s.wantedExt s.cur).bind (s.refuge s.cur) = none) :
    exec .contextMigrate s = .next (s.setMe { s.me with migrating := false, wait := .none }).stepped := by
  refine runStep_ok ?_
  rw [M.bind_ok (M.get_run s), M.bind_ok (M.await_run (by simp [hm, hw, hl]) _ s)]
  simp only [hp, Option.bind_none]
  rfl

theorem contextMigrate_moves {dest : CoreId} {new : CtxId} (hp : (s.wantedExt s.cur).bind (s.refuge s.cur) = some dest)
    (hf : s.freeHandler (s.activeBank dest) = some new) :
    exec .contextMigrate s = .next (State.stepped { s.migrate s.cur new with cur := new, focus := coreOf new }) := by
  refine runStep_ok ?_
  rw [M.bind_ok (M.get_run s), M.bind_ok (M.await_run (by simp [hm, hw, hl]) _ s)]
  simp only [hp, Option.bind_some, hf]
  rfl

end

/-! ### The ridge's state (R442) -/

theorem ridgeLoc_add (r i : Nat) : ridgeLoc r i = ridgeLoc r 0 + i := by unfold ridgeLoc; omega

section
variable (s : State) (r out_ in_ : Nat)

/-- A ridge's state that goes to its area, where it has one. -/
def State.sendRidge : State := if out_ = 0 then s else s.moveRange (ridgeLoc r 0) out_ ridgeBytes

theorem State.sendRidge_moved : s.Moved (s.sendRidge r out_) := by
  unfold State.sendRidge
  split
  · exact State.ButMemory.moved (.refl s)
  · exact s.moveRange_moved _ _ _

theorem State.exchangeRidge_keepsSwaps : s.KeepsSwaps (s.exchangeRidge r out_ in_) := by
  show s.KeepsSwaps (if in_ = 0 then _ else (s.sendRidge r out_).moveRange in_ (ridgeLoc r 0) ridgeBytes)
  have sent := (s.sendRidge_moved r out_).exchanges.keepsSwaps
  split
  · exact .trans _ _ _ sent (.of_eq rfl rfl)
  · exact .trans _ _ _ sent (State.moveRange_moved _ _ _ _).exchanges.keepsSwaps

/-- A ridge that takes nothing is zero. -/
theorem State.exchangeRidge_clears {i : Nat} (hi : i < ridgeBytes) : (s.exchangeRidge r out_ 0).mem.read (ridgeLoc r i) = 0 := by
  rw [ridgeLoc_add]
  exact State.read_zeroRange_inside (s.sendRidge r out_) (ridgeLoc r 0) ridgeBytes hi

/-- What a ridge held is in its area. -/
theorem State.exchangeRidge_sends (hs : s.Inv) (ho : out_ ≠ 0) (hlow : out_ + ridgeBytes ≤ 2 ^ 47) {i : Nat} (hi : i < ridgeBytes) :
    (s.exchangeRidge r out_ 0).mem.read (out_ + i) = s.mem.read (ridgeLoc r i) := by
  have far : out_ + i < ridgeLoc r 0 := by
    have : 2 ^ 47 ≤ ridgeLoc r 0 := by unfold ridgeLoc; omega
    omega
  have sent : (s.sendRidge r out_).mem = (s.copyRange (ridgeLoc r 0) out_ ridgeBytes).mem := by
    rw [State.sendRidge, if_neg ho, State.moveRange_mem]
  refine (State.read_zeroRange_outside (s.sendRidge r out_) (ridgeLoc r 0) ridgeBytes (.inl far)).trans ?_
  rw [sent, State.read_copyRange_inside _ _ hs hi, ← ridgeLoc_add]

/-- What an area held is in the ridge. -/
theorem State.exchangeRidge_takes (hs : s.Inv) (hn : in_ ≠ 0) {i : Nat} (hi : i < ridgeBytes) :
    (s.exchangeRidge r 0 in_).mem.read (ridgeLoc r i) = s.mem.read (in_ + i) := by
  have taken : s.exchangeRidge r 0 in_ = s.moveRange in_ (ridgeLoc r 0) ridgeBytes := by
    rw [State.exchangeRidge, if_pos rfl]
    exact if_neg hn
  rw [taken, State.moveRange_mem, ridgeLoc_add r i, State.read_copyRange_inside _ _ hs hi]

end

section
variable {s : State}

theorem ridgeFlip_waits (h : (s.ridge (ridgeOf s.focus)).flips = [] ∨ (s.ridge (ridgeOf s.focus)).jobs ≠ []) : exec .ridgeFlip s = .next s := by
  refine runStep_wait (w := .other) ?_
  rw [M.bind_ok (M.get_run s)]
  refine M.bind_error (M.await_wait ?_ _ s)
  rcases h with h | h
  · simp [h]
  · simp [h]

theorem ridgeFlip_exchanges (hf : (s.ridge (ridgeOf s.focus)).flips ≠ []) (hj : (s.ridge (ridgeOf s.focus)).jobs = [])
    (ht : ∀ i, i < 8 → (s.core (ridgeOf s.focus * 8 + i)).swapt = BitVec.allOnes 64) :
    exec .ridgeFlip s = .next ((s.setRidge (ridgeOf s.focus) { s.ridge (ridgeOf s.focus) with flips := [] }).exchangeRidge (ridgeOf s.focus)
      (s.ridge (ridgeOf s.focus)).rsout.toNat (s.ridge (ridgeOf s.focus)).rsin.toNat).stepped := by
  refine runStep_ok ?_
  rw [M.bind_ok (M.get_run s)]
  refine (M.bind_ok (M.await_run ?_ _ s)).trans rfl
  have idle : (List.range 8).any (fun i => decide ((s.core (ridgeOf s.focus * 8 + i)).swapt.toNat ≤ s.time) &&
      ((s.core (ridgeOf s.focus * 8 + i)).swapt != BitVec.allOnes 64)) = false := by
    rw [List.any_eq_false]
    intro i hi
    simp [ht i (List.mem_range.mp hi)]
  rw [idle]
  simp [hf, hj]

/-! ### A swap at its armed time (R440) -/

theorem swapTimeDue_waits (h : ¬((s.core s.focus).swapt ≠ BitVec.allOnes 64 ∧ (s.core s.focus).swapt.toNat ≤ s.time)) :
    exec .swapTimeDue s = .next s := by
  refine runStep_wait (w := .other) ?_
  rw [M.bind_ok (M.get_run s)]
  refine M.bind_error (M.await_wait ?_ _ s)
  simpa [Classical.not_and_iff_not_or_not] using h

variable (hd : (s.core s.focus).swapt ≠ BitVec.allOnes 64 ∧ (s.core s.focus).swapt.toNat ≤ s.time)
include hd

theorem swapTimeDue_missed (h : s.timeLock = false ∨ (s.core s.focus).valid.getLsbD 8 = false) :
    exec .swapTimeDue s = .next (((s.setCore s.focus { s.core s.focus with swapt := BitVec.allOnes 64 }).postNoctx
      ((s.bankPart (s.activeBank s.focus)).getD 0) { cls := 6, detail := 18 }).stepped) := by
  refine runStep_ok ?_
  rw [M.bind_ok (M.get_run s)]
  refine (M.bind_ok (M.await_run (by simpa using hd) _ s)).trans ?_
  rw [if_pos h]
  rfl

variable (hl : s.timeLock = true) (hv : (s.core s.focus).valid.getLsbD 8 = true)
include hl hv

theorem swapTimeDue_busy (hb : (s.core s.focus).busy ≠ 0) : exec .swapTimeDue s = .next s := by
  refine runStep_wait (w := .other) ?_
  rw [M.bind_ok (M.get_run s)]
  refine (M.bind_ok (M.await_run (by simpa using hd) _ s)).trans ?_
  rw [if_neg (by simp [hl, hv])]
  exact M.bind_error (M.await_wait (by simpa using hb) _ s)

/-- A core whose banks are exchanged, its old slots' spills under way, and its ridge's list. -/
def State.swaps (s : State) : State :=
  let u := s.flip s.focus
  let ops := u.switchSpills s.focus
  let v := u.setCore s.focus { u.core s.focus with swapt := BitVec.allOnes 64, ops, busy := ops.foldl (fun b o => b ||| slotBit o.slot) 0 }
  v.setRidge (ridgeOf s.focus) { v.ridge (ridgeOf s.focus) with flips := (v.ridge (ridgeOf s.focus)).flips ++ [s.focus] }

theorem swapTimeDue_swaps (hb : (s.core s.focus).busy = 0) : exec .swapTimeDue s = .next s.swaps.stepped := by
  refine runStep_ok ?_
  rw [M.bind_ok (M.get_run s)]
  refine (M.bind_ok (M.await_run (by simpa using hd) _ s)).trans ?_
  rw [if_neg (by simp [hl, hv])]
  refine (M.bind_ok (M.await_run (by simp [hb]) _ s)).trans ?_
  rfl

end

theorem State.swaps_leaves (s : State) : (s.swaps.core s.focus).active = 1 - (s.core s.focus).active ∧ (s.swaps.core s.focus).swapt = BitVec.allOnes 64 ∧
    (s.swaps.ridge (ridgeOf s.focus)).flips = (s.ridge (ridgeOf s.focus)).flips ++ [s.focus] := by
  obtain ⟨active, flips⟩ := s.flip_leaves s.focus
  unfold State.swaps
  generalize s.flip s.focus = u at active flips ⊢
  extract_lets w ops _ v
  rw [State.setRidge_core, State.setRidge_ridge]
  have core : v.core s.focus = { w.core s.focus with swapt := BitVec.allOnes 64, ops, busy := ops.foldl (fun b o => b ||| slotBit o.slot) 0 } :=
    State.setCore_core _ _ _
  have ridge : v.ridge (ridgeOf s.focus) = w.ridge (ridgeOf s.focus) := State.setCore_ridge _ _ _ _
  rw [core, ridge]
  exact ⟨active, rfl, congrArg (· ++ [s.focus]) (flips _)⟩

/-! ### The obligation -/

section
variable {s : State} {slot src : Nat} {rest : List SlotOp}

/-- A core whose stage or spill has ended. -/
theorem State.endOp_ended {m : State} {k : Core} {ops : List SlotOp} {o : SlotOp} (hm : (m.core s.focus).ops = o :: ops) (hb : (m.core s.focus).busy = k.busy)
    (valid : BitVec 9) : let t := m.endOp s.focus slot valid
    (t.core s.focus).ops = ops ∧ (t.core s.focus).busy = k.busy &&& ~~~(1#9 <<< slot) ∧ (t.core s.focus).valid = valid := by
  dsimp only
  rw [State.endOp_core, hm, hb]
  exact ⟨rfl, rfl, rfl⟩

theorem Ctx.rd_team (x : Ctx) (tm : Option Nat) (r : GReg) : ({ x with team := tm } : Ctx).rd r = x.rd r := rfl

/-- A slot that has been filled from its record, and named its bank's team (R389). -/
theorem State.stagesSlot_leaves (s : State) (slot : Nat) (h0 : src ≠ 0) : let c := ctxIn (s.shadowBank s.focus) slot
    let m := s.stagesSlot slot src
    m.cores = s.cores ∧ (∃ tm, m.ctx c = { s.readRecord src c with team := tm }) ∧
      m.mem = (s.store (src + 6) 1 (s.load (src + 6) 1 / 16 * 16 + 2)).mem ∧ s.keepsOthers m c := by
  intro c m
  obtain ⟨cores, ctx, mem, others⟩ := s.recordToCtx_leaves c 2 h0
  obtain ⟨named, ctxs, namedMem⟩ := (s.recordToCtx c src 2).nameTeam_leaves (s.shadowBank s.focus) src
  have namedCtx : ((s.recordToCtx c src 2).nameTeam (s.shadowBank s.focus) src).ctx = (s.recordToCtx c src 2).ctx :=
    funext fun d => congrArg (fun m : Table Ctx => m.get Ctx.reset d) ctxs
  refine ⟨named.trans cores, ⟨(((s.recordToCtx c src 2).nameTeam (s.shadowBank s.focus) src).bank (s.shadowBank s.focus)).team,
    (State.setCtx_ctx _ _ _).trans ?_⟩, namedMem.trans mem, fun d hd => (State.setCtx_ctx_other _ _ _ _ hd).trans ?_⟩
  · show ({ ((s.recordToCtx c src 2).nameTeam (s.shadowBank s.focus) src).ctx c with team := _ } : Ctx) = _
    rw [namedCtx, ctx]
  · rw [namedCtx]
    exact others d hd

/-- A slot that a stage fills (R389). -/
theorem stageComplete_slot (hk : (s.core s.focus).ops = .stage slot src :: rest)
    (hc : (s.setCore s.focus { s.core s.focus with ops := [] }).claims = []) (h8 : slot < 8) (h0 : src ≠ 0)
    (hv : (s.core s.focus).valid.getLsbD 8 = false) : let k := s.core s.focus
    let c := ctxIn (s.shadowBank s.focus) slot
    ∃ t, exec .stageComplete s = .next t ∧ ((t.core s.focus).ops = rest ∧ (t.core s.focus).busy = k.busy &&& ~~~(1#9 <<< slot) ∧
        (t.core s.focus).valid = k.valid ||| 1#9 <<< slot) ∧ (t.ctx c).pc = s.word (src + 24) ∧
      (∀ r : GReg, 1 ≤ r.val → r.val ≤ 55 → (t.ctx c).rd r = s.word (src + 256 + 8 * r.val)) ∧
      (∀ r : VReg, (t.ctx c).v[r.val] = BitVec.ofNat 4096 (s.load (src + 4096 + 512 * r.val) 512)) ∧
      t.load (src + 6) 1 = s.load (src + 6) 1 / 16 * 16 + 2 ∧ s.keepsMemory t [src + 6] ∧ s.keepsOthers t c := by
  dsimp only
  have run := stageComplete_run (m := s.stagesSlot slot src) hk hc (if_pos h8)
  obtain ⟨cores, ⟨tm, filled⟩, memory, others⟩ := s.stagesSlot_leaves slot h0
  obtain ⟨hpc, hg, hvec⟩ := s.readRecord_holds src (ctxIn (s.shadowBank s.focus) slot)
  generalize s.stagesSlot slot src = m at *
  have core : m.core s.focus = s.core s.focus := congrArg (fun ks : Table Core => ks.get Core.reset s.focus) cores
  rw [core, State.takeActions_noBank (by rw [slotBit_eight h8]; exact hv)] at run
  have small := s.load_lt (src + 6) 1
  have after : ∀ d v, ((m.endOp s.focus slot v).stepped).ctx d = m.ctx d := fun _ _ => rfl
  have afterMem : ∀ v, ((m.endOp s.focus slot v).stepped).mem = m.mem := fun _ => rfl
  refine ⟨_, run, State.endOp_ended (k := s.core s.focus) (by rw [core, hk]) (by rw [core]) _, ?_, fun r h1 h2 => ?_, fun r => ?_, ?_, fun a ha => ?_,
    fun d hd => (after d _).trans (others d hd)⟩
  · rw [after, filled]; exact hpc
  · rw [after, filled, Ctx.rd_team]; exact hg r h1 h2
  · rw [after, filled]; exact hvec r
  · rw [State.load_congr ((afterMem _).trans memory), State.load_store_fits _ _ (by omega)]
  · rw [afterMem, memory]
    have ne : a ≠ src + 6 := by simpa using ha
    exact State.read_store_other _ _ (by omega)

/-- A bank that a stage fills (R385, R389). -/
theorem stageComplete_bank (hk : (s.core s.focus).ops = .stage 8 src :: rest)
    (hc : (s.setCore s.focus { s.core s.focus with ops := [] }).claims = []) (hs : s.Inv)
    (ha : ∀ n, n < 8 → (s.ctx (ctxIn (s.shadowBank s.focus) n)).action = none) : let k := s.core s.focus
    let b := s.shadowBank s.focus
    let kept := s.images.get Bank.reset (s.load src 8)
    ∃ t, exec .stageComplete s = .next t ∧ ((t.core s.focus).ops = rest ∧ (t.core s.focus).busy = k.busy &&& ~~~(1#9 <<< 8) ∧
        (t.core s.focus).valid = k.valid ||| 1#9 <<< 8) ∧ (t.bank b).team = kept.team ∧ (t.bank b).inbox = kept.inbox ∧
      (t.bank b).deque = kept.deque ∧ (t.bank b).image = 0 ∧ ∀ i, i < s.bankData b → t.mem.read (bankLoc b i) = s.mem.read (src + 131072 + i) := by
  dsimp only
  have run := stageComplete_run (m := s.imageToBank (s.shadowBank s.focus) src) hk hc (if_neg (by decide))
  obtain ⟨front, ⟨sl, o, bank⟩, read⟩ := s.imageToBank_leaves (s.shadowBank s.focus) src
  generalize s.imageToBank (s.shadowBank s.focus) src = m at *
  obtain ⟨_, _, _, core⟩ := front.core s.focus
  have still : ∀ v n, n < 8 → ((m.endOp s.focus 8 v).ctx (ctxIn (s.shadowBank s.focus) n)).action = none := fun v n hn => by
    obtain ⟨_, e⟩ := front.ctx (ctxIn (s.shadowBank s.focus) n)
    have same : (m.endOp s.focus 8 v).ctx (ctxIn (s.shadowBank s.focus) n) = m.ctx (ctxIn (s.shadowBank s.focus) n) := rfl
    rw [same, e]
    exact ha n hn
  have valid : (m.core s.focus).valid = (s.core s.focus).valid := by rw [core]
  rw [State.takeActions_none (still _), valid] at run
  have afterBank : ∀ v, ((m.endOp s.focus 8 v).stepped).bank (s.shadowBank s.focus) = m.bank (s.shadowBank s.focus) := fun _ => rfl
  refine ⟨_, run, State.endOp_ended (k := s.core s.focus) (by rw [core]; exact hk) (by rw [core]) _, ?_⟩
  rw [afterBank, bank]
  exact ⟨rfl, rfl, rfl, rfl, read hs⟩

/-- A slot that a spill writes out (R384, R389). -/
theorem spillComplete_slot (hk : (s.core s.focus).ops = .spill slot src :: rest) (h8 : slot < 8) (h0 : src ≠ 0)
    (ho : (s.ctx (ctxIn (s.shadowBank s.focus) slot)).out = false) (hw : s.hasWork (ctxIn (s.shadowBank s.focus) slot) = false)
    (hp : (s.ctx (ctxIn (s.shadowBank s.focus) slot)).pend = []) : let k := s.core s.focus
    let c := ctxIn (s.shadowBank s.focus) slot
    let x := s.ctx c
    ∃ t, exec .spillComplete s = .next t ∧ ((t.core s.focus).ops = rest ∧ (t.core s.focus).busy = k.busy &&& ~~~(1#9 <<< slot) ∧
        (t.core s.focus).valid = k.valid) ∧ (t.ctx c).run = .exited ∧ (t.saved.get Ctx.reset src).g = x.g ∧ t.word (src + 24) = x.pc ∧
      t.load (src + 6) 1 % 16 = 3 ∧ (∀ r : GReg, r ≠ 0 → t.word (src + 256 + 8 * r.val) = x.rd r) ∧ s.keepsOthers t c := by
  dsimp only
  have spilled : s.spillSlot (ctxIn (s.shadowBank s.focus) slot) src = s.ctxToRecord (ctxIn (s.shadowBank s.focus) slot) src := if_pos ho
  have run := spillComplete_run (m := s.ctxToRecord (ctxIn (s.shadowBank s.focus) slot) src) hk (fun _ => hw) ((if_pos h8).trans spilled)
  obtain ⟨cores, gone, saved, pc, state, regs, others⟩ := State.ctxToRecord_leaves hp h0
  generalize s.ctxToRecord (ctxIn (s.shadowBank s.focus) slot) src = m at *
  have core : m.core s.focus = s.core s.focus := congrArg (fun ks : Table Core => ks.get Core.reset s.focus) cores
  rw [core] at run
  exact ⟨_, run, State.endOp_ended (k := s.core s.focus) (by rw [core, hk]) (by rw [core]) _, gone, saved, pc, state, regs, others⟩

/-- A bank that a spill writes out (R385, R389). -/
theorem spillComplete_bank (hk : (s.core s.focus).ops = .spill 8 src :: rest) (hs : s.Inv) (hlow : src + 131072 ≤ 2 ^ 47)
    (hi : (s.bank (s.shadowBank s.focus)).image = 0) : let k := s.core s.focus
    let b := s.shadowBank s.focus
    ∃ t, exec .spillComplete s = .next t ∧ ((t.core s.focus).ops = rest ∧ (t.core s.focus).busy = k.busy &&& ~~~(1#9 <<< 8) ∧
        (t.core s.focus).valid = k.valid) ∧ (t.bank b).team = none ∧ (t.bank b).image = src ∧
      t.images.get Bank.reset src = { s.bank b with size := s.scratchSize b } ∧ t.load src 8 = src ∧
      ∀ i, i < s.bankData b → t.mem.read (src + 131072 + i) = s.mem.read (bankLoc b i) := by
  dsimp only
  have spilled : s.spillBank (s.shadowBank s.focus) src = s.bankToImage (s.shadowBank s.focus) src := if_pos hi
  have run := spillComplete_run (m := s.bankToImage (s.shadowBank s.focus) src) hk (fun h => absurd h (by decide)) ((if_neg (by decide)).trans spilled)
  obtain ⟨front, bank, image, mem⟩ := s.bankToImage_leaves (s.shadowBank s.focus) src
  generalize s.bankToImage (s.shadowBank s.focus) src = m at *
  obtain ⟨_, _, _, core⟩ := front.core s.focus
  have valid : (m.core s.focus).valid = (s.core s.focus).valid := by rw [core]
  have afterBank : ∀ v, ((m.endOp s.focus 8 v).stepped).bank (s.shadowBank s.focus) = m.bank (s.shadowBank s.focus) := fun _ => rfl
  have afterMem : ∀ v, ((m.endOp s.focus 8 v).stepped).mem = m.mem := fun _ => rfl
  rw [valid] at run
  refine ⟨_, run, State.endOp_ended (k := s.core s.focus) (by rw [core]; exact hk) (by rw [core]) _, ?_⟩
  rw [afterBank, bank, afterMem, mem, State.load_congr ((afterMem _).trans mem)]
  exact ⟨rfl, rfl, image, State.writeImage_ticket _ hlow, fun i hi => State.writeImage_data hs _ hlow hi⟩

end

/-- The exchange of a ridge's state (R442). -/
theorem ridgeFlip_leaves {s : State} (hf : (s.ridge (ridgeOf s.focus)).flips ≠ []) (hj : (s.ridge (ridgeOf s.focus)).jobs = [])
    (ht : ∀ i, i < 8 → (s.core (ridgeOf s.focus * 8 + i)).swapt = BitVec.allOnes 64) (hs : s.Inv) : let r := ridgeOf s.focus
    let g := s.ridge r
    ∃ t, exec .ridgeFlip s = .next t ∧ (t.ridge r).flips = [] ∧ (g.rsin = 0 → ∀ i, i < ridgeBytes → t.mem.read (ridgeLoc r i) = 0) ∧
      (g.rsout ≠ 0 → g.rsin = 0 → g.rsout.toNat + ridgeBytes ≤ 2 ^ 47 → ∀ i, i < ridgeBytes → t.mem.read (g.rsout.toNat + i) = s.mem.read (ridgeLoc r i)) ∧
      (g.rsout = 0 → g.rsin ≠ 0 → ∀ i, i < ridgeBytes → t.mem.read (ridgeLoc r i) = s.mem.read (g.rsin.toNat + i)) := by
  intro r g
  have kept := (s.setRidge r { g with flips := [] }).exchangeRidge_keepsSwaps r g.rsout.toNat g.rsin.toNat
  have inv : (s.setRidge r { g with flips := [] }).Inv := hs
  have zero : ∀ w : Word, w ≠ 0 → w.toNat ≠ 0 := fun w h e => h (BitVec.eq_of_toNat_eq e)
  refine ⟨_, ridgeFlip_exchanges hf hj ht, (kept.flips _).trans (by rw [State.setRidge_ridge]), fun hn i hi => ?_, fun ho hn hlow i hi => ?_,
    fun ho hn i hi => ?_⟩
  · show (State.exchangeRidge _ _ _ g.rsin.toNat).mem.read _ = _
    rw [hn]
    exact State.exchangeRidge_clears _ _ _ hi
  · show (State.exchangeRidge _ _ _ g.rsin.toNat).mem.read _ = _
    rw [hn]
    exact State.exchangeRidge_sends _ _ _ inv (zero _ ho) hlow hi
  · show (State.exchangeRidge _ _ g.rsout.toNat _).mem.read _ = _
    rw [ho]
    exact State.exchangeRidge_takes _ _ _ inv (zero _ hn) hi

/-- A context that moves takes a dormant one's place, and that one takes its (R58). -/
theorem contextMigrate_leaves {s : State} {dest : CoreId} {new : CtxId} (hm : s.me.migrating = true) (hw : s.hasWork s.cur = false)
    (hl : s.hasMail s.cur = false) (hp : (s.wantedExt s.cur).bind (s.refuge s.cur) = some dest) (hf : s.freeHandler (s.activeBank dest) = some new)
    (hr : s.me.run = .running) : ∃ t, exec .contextMigrate s = .next t ∧ t.cur = new ∧ t.focus = coreOf new ∧ (t.ctx new).pc = s.me.pc ∧
      (t.ctx new).run = .running ∧ (t.ctx new).migrating = false ∧ (t.ctx new).team = s.me.team ∧ (∀ r, (t.ctx new).rd r = s.me.rd r) ∧
      (∀ r : VReg, (t.ctx new).v[r.val] = s.me.v[r.val]) ∧ (t.ctx s.cur).run = .dormant := by
  have apart : new ≠ s.cur := fun e => by
    have rests := State.freeHandler_dormant hf
    rw [e] at rests
    exact absurd (hr.symm.trans rests) (by decide)
  obtain ⟨moved, left⟩ := s.migrate_ctx apart
  obtain ⟨q, gives⟩ := s.givesUp_butRopes s.cur s.cur
  obtain ⟨q', takes⟩ := s.givesUp_butRopes s.cur new
  rw [gives] at moved
  rw [takes] at left
  have after : ∀ (u : State) (a f d : Nat), (State.stepped { u with cur := a, focus := f }).ctx d = u.ctx d := fun _ _ _ _ => rfl
  refine ⟨_, contextMigrate_moves hm hw hl hp hf, rfl, rfl, ?_⟩
  rw [after, after, moved, left]
  exact ⟨rfl, hr, rfl, rfl, fun _ => rfl, fun _ => rfl, State.freeHandler_dormant hf⟩

/-- Settles O48: stages and spills by what records and images hold, a flip by `State.flip_leaves`, the ridge's state by
`State.exchangeRidge`'s cases, a context's move by `State.migrate_ctx`. -/
theorem bankSteps : Obligations.BankSteps := by
  intro s slot src rest new dest c k b x ended
  refine ⟨fun hk hc => ⟨fun h8 h0 hv => stageComplete_slot hk hc h8 h0 hv, fun h8 hs ha => ?_⟩,
    fun hk => ⟨fun h8 h0 ho hw hp => spillComplete_slot hk h8 h0 ho hw hp, spillComplete_waits hk, fun h8 hs hlow hi => ?_⟩,
    ⟨swapTimeDue_waits, fun hd hm => ?_, swapTimeDue_busy, fun hd hl hv hb => ⟨_, swapTimeDue_swaps hd hl hv hb, ?_⟩⟩,
    ⟨ridgeFlip_waits, ridgeFlip_leaves⟩, ⟨contextMigrate_waits, fun hm hw hl => ⟨contextMigrate_stays hm hw hl, contextMigrate_leaves hm hw hl⟩⟩⟩
  · subst h8; exact stageComplete_bank hk hc hs ha
  · subst h8; exact spillComplete_bank hk hs hlow hi
  · have core : ∀ (u : State) (p : Nat) (t : Trap), (u.postNoctx p t).stepped.core = u.core := fun _ _ _ => rfl
    refine ⟨_, _, swapTimeDue_missed hd hm, ?_, ?_, rfl⟩
    · rw [core, State.setCore_core]
    · rw [core, State.setCore_core]
  · have core : ∀ u : State, u.stepped.core = u.core := fun _ => rfl
    have ridge : ∀ u : State, u.stepped.ridge = u.ridge := fun _ => rfl
    rw [core, ridge]
    exact s.swaps_leaves

end Sys2Proof.Machine
end

section
/-! SUPPORT. Decoding what the encoder writes (R70 to R96): what the words of a bundle scan to, the fields that they give back, and that no
check of R87 refuses fields that a row of the opcode map carries. -/

namespace Sys2Proof

/-! ### Fields that a row carries -/

/-- A register field that its use admits (R73, R84, R117). -/
@[simp] def Use.carries : Use → Fin 64 → Bool
  | .none, x => x == 0
  | .g, _ => true
  | .v, x => decide (x.val < 32)
  | .code, x => decide (x.val < 8)

/-- A stream field that its use admits (R75, R85). -/
@[simp] def XsUse.carries : XsUse → Option XS → Bool
  | .none, x => x.isNone
  | .sid, x => (x.map XS.cls).getD 0 == 0
  | _, _ => true

/-- An immediate that its use admits in a width (R81, R82, R84, R144, R170). -/
@[simp] def ImmUse.carries (use : ImmUse) (w : Nat) (q : QType) (i : Int) : Bool :=
  match use with
  | .none | .zero => i == 0
  | .misc => i == 0 || i == 1
  | .signed => fitsSigned w i
  | .natural max => decide (0 ≤ i) && fitsNatural w i.toNat && decide (i.toNat ≤ max)
  | .lane => decide (0 ≤ i) && fitsNatural w i.toNat && decide (i.toNat < 4096 / Sys2Proof.lane q)

/-- Whether the fields need an XR word (R73, R94). -/
def Fields.needsXr (F : Fields) : Bool := high F.d || high F.a || high F.b
/-- Whether the fields need an XP word (R74, R94). -/
def Fields.needsXp (F : Fields) : Bool := F.page != 0 || F.la != 0 || F.q != 0
/-- How many XI words the fields leave room for (R76). -/
def Fields.room (F : Fields) : Nat := Sys2Proof.room F.needsXr F.needsXp F.xs.isSome

/-- The registers are those that the row names, and none that R19, R20, R22 or R135 refuses. -/
def Row.carriesRegs (row : Row) (F : Fields) : Bool :=
  row.d.carries F.d && row.a.carries F.a && row.b.carries F.b && (row.d != .code || decide (F.d.val < 5)) &&
  (!row.dest || writable F.d) && (!row.pair || isPair F.d) &&
  (!row.pairD || blockPair F.q (vreg F.d)) && (!row.pairA || blockPair F.q (vreg F.a))

/-- The modifiers are those that the row takes (R74, R75, R84, R85). -/
def Row.carriesMods (row : Row) (F : Fields) : Bool :=
  (row.f || !F.f) && (row.q || F.q == 0) && (!row.sizes || decide (F.q.val < 4)) && (row.la || F.la == 0) && row.xs.carries F.xs

/-- The immediate is one that the bundle has room for (R76, R81). -/
def Row.carriesImm (row : Row) (F : Fields) : Bool := row.imm.carries (immBits row.fmt + 11 * F.room) F.q F.imm

/-- Fields that a bundle of the row carries and no check of R87 refuses. -/
def Row.carries (row : Row) (F : Fields) : Bool := row.carriesRegs F && row.carriesMods F && row.carriesImm F

/-! ### The rows of the opcode map -/

/-- A format without a register field leaves it unused (R71). -/
def Row.usesByFormat (row : Row) : Bool :=
  match row.fmt with
  | .rr => true
  | .ri => row.b == .none
  | .di => row.a == .none && row.b == .none
  | .br => row.d == .none
  | .sy => row.d == .none && row.a == .none && row.b == .none

/-- What holds of each row (R71, R81, R95): the RR rows are those without an immediate, and the only ones with the f bit. -/
def Row.regular (row : Row) : Bool :=
  row.usesByFormat && ((row.fmt == .rr) == (row.imm == .none)) && (row.fmt == .rr || !row.f)

theorem regular_of_getElem? {rows : List Row} {op : Nat} {row : Row} (hall : rows.all Row.regular = true) (hlen : rows.length ≤ 50)
    (h : rows[op]? = some row) : op < 50 ∧ row.regular = true := by
  obtain ⟨hop, rfl⟩ := List.getElem?_eq_some_iff.mp h
  exact ⟨by omega, List.all_eq_true.mp hall _ (List.getElem_mem hop)⟩

/-- A row stands on a page that a k.EXT bit lists, at an op whose base word is none of XR, XI, XP and XS (R70, R95). -/
theorem rowOf_regular {page op : Nat} {row : Row} (h : rowOf page op = some row) : page < 15 ∧ op < 50 ∧ row.regular = true := by
  unfold rowOf at h
  split at h
  case h_12 => cases h
  all_goals exact ⟨by decide, regular_of_getElem? (by decide) (by decide) h⟩

/-! ### What the encoder's words scan to -/

/-- How many XI words the encoder writes (R94). -/
def Row.xiUsed (row : Row) (F : Fields) : Nat := if row.imm = .none then 0 else xiCount row.fmt row.imm F.imm
/-- The immediate as the number that its width holds (R81). -/
def Row.immNumber (row : Row) (F : Fields) : Nat := (F.imm % (2 ^ (immBits row.fmt + 11 * row.xiUsed F) : Int)).toNat
/-- The XP word, where one is needed (R74). -/
def Fields.xpWord (F : Fields) : Option IWord :=
  if F.page = 0 ∧ F.la = 0 ∧ F.q = 0 then none else some (word16 (0xF000 + F.page * 128 + F.la.val * 8 + F.q.val))
/-- The XS word, where one is needed (R75). -/
def Fields.xsWord (F : Fields) : Option IWord := F.xs.map (fun x => word16 (0xF800 + x.sid.val * 32 + x.cls.val * 8))
/-- The XR word, where one is needed (R73). -/
def Fields.xrWord (F : Fields) : Option IWord :=
  if F.d.val < 8 ∧ F.a.val < 8 ∧ F.b.val < 8 then none else some (word16 (0xE000 + F.d.val / 8 * 64 + F.a.val / 8 * 8 + F.b.val / 8))
/-- The XI words (R81). -/
def Row.xiOf (row : Row) (F : Fields) : List IWord := xiWords (row.immNumber F / 2 ^ immBits row.fmt) (row.xiUsed F)

theorem emit_eq (row : Row) (F : Fields) : emit row F =
    F.xpWord.toList ++ F.xsWord.toList ++ F.xrWord.toList ++ row.xiOf F ++ [baseWord row F (row.immNumber F)] := by
  have xp : F.xpWord.toList = if F.page = 0 ∧ F.la = 0 ∧ F.q = 0 then [] else [word16 (0xF000 + F.page * 128 + F.la.val * 8 + F.q.val)] := by
    unfold Fields.xpWord; split <;> rfl
  have xs : F.xsWord.toList = match F.xs with | none => [] | some x => [word16 (0xF800 + x.sid.val * 32 + x.cls.val * 8)] := by
    unfold Fields.xsWord; cases F.xs <;> rfl
  have xr : F.xrWord.toList = if F.d.val < 8 ∧ F.a.val < 8 ∧ F.b.val < 8 then []
      else [word16 (0xE000 + F.d.val / 8 * 64 + F.a.val / 8 * 8 + F.b.val / 8)] := by
    unfold Fields.xrWord; split <;> rfl
  rw [xp, xs, xr]
  rfl

/-- Words with the positions that they stand at. -/
def placed (pos : Nat) (ws : List IWord) : List (Nat × IWord) := ws.mapIdx (fun i w => (pos + i, w))
/-- A word with its position, where there is one. -/
def placedOpt (pos : Nat) (w : Option IWord) : Option (Nat × IWord) := w.map (fun w => (pos, w))

@[simp] theorem placed_length (pos : Nat) (ws : List IWord) : (placed pos ws).length = ws.length := List.length_mapIdx

theorem placed_cons (pos : Nat) (w : IWord) (ws : List IWord) : placed pos (w :: ws) = (pos, w) :: placed (pos + 1) ws := by
  simp only [placed, List.mapIdx_cons, Nat.add_zero]
  congr 2
  funext i w
  rw [Nat.add_assoc, Nat.add_comm 1 i]

theorem placed_words (pos : Nat) (ws : List IWord) : (placed pos ws).map Prod.snd = ws := by
  induction ws generalizing pos with
  | nil => rfl
  | cons w ws ih => rw [placed_cons, List.map_cons, ih]

@[simp] theorem wordOf_placedOpt (pos : Nat) (w : Option IWord) : wordOf (placedOpt pos w) = w.getD 0 := by cases w <;> rfl
@[simp] theorem placedOpt_isSome (pos : Nat) (w : Option IWord) : (placedOpt pos w).isSome = w.isSome := by cases w <;> rfl

/-- One of XR, XI, XP and XS by its kind, bits [12:11] (R72). -/
def isKind (k : Nat) (w : IWord) : Prop := isPrefix w = true ∧ w.toNat / 2048 % 4 = k

theorem scan_xr {pos : Nat} {b : Bundle} {x : IWord} (ws : List IWord) (hx : isKind 0 x) (hp : pos < 4) (hb : b.xr = none) :
    scan pos b (x :: ws) = scan (pos + 1) { b with xr := some (pos, x) } ws := by
  obtain ⟨hx, hk⟩ := hx
  simp [scan, hx, hk, Nat.not_le.mpr hp, hb]

theorem scan_xi {pos : Nat} {b : Bundle} {x : IWord} (ws : List IWord) (hx : isKind 1 x) (hp : pos < 4) (hb : b.xi.length < 3) :
    scan pos b (x :: ws) = scan (pos + 1) { b with xi := b.xi ++ [(pos, x)] } ws := by
  obtain ⟨hx, hk⟩ := hx
  simp [scan, hx, hk, Nat.not_le.mpr hp, Nat.not_le.mpr hb]

theorem scan_xp {pos : Nat} {b : Bundle} {x : IWord} (ws : List IWord) (hx : isKind 2 x) (hp : pos < 4) (hb : b.xp = none) :
    scan pos b (x :: ws) = scan (pos + 1) { b with xp := some (pos, x) } ws := by
  obtain ⟨hx, hk⟩ := hx
  simp [scan, hx, hk, Nat.not_le.mpr hp, hb]

theorem scan_xs {pos : Nat} {b : Bundle} {x : IWord} (ws : List IWord) (hx : isKind 3 x) (hp : pos < 4) (hb : b.xs = none) :
    scan pos b (x :: ws) = scan (pos + 1) { b with xs := some (pos, x) } ws := by
  obtain ⟨hx, hk⟩ := hx
  simp [scan, hx, hk, Nat.not_le.mpr hp, hb]

theorem scan_base {pos : Nat} {b : Bundle} {x : IWord} (ws : List IWord) (hx : isPrefix x = false) :
    scan pos b (x :: ws) = .ok ({ b with base := x, count := pos }, ws) := by simp [scan, hx]

/-- A word that may be absent is read into its place of the bundle. -/
theorem scan_optional {pos : Nat} {b : Bundle} {w : Option IWord} (set : Option (Nat × IWord) → Bundle) (ws : List IWord)
    (absent : set none = b) (read : ∀ x ∈ w, scan pos b (x :: ws) = scan (pos + 1) (set (some (pos, x))) ws) :
    scan pos b (w.toList ++ ws) = scan (pos + w.toList.length) (set (placedOpt pos w)) ws := by
  cases w with
  | none => exact congrArg (scan pos · ws) absent.symm
  | some x => exact read x rfl

theorem scan_xis {pos : Nat} {b : Bundle} (xi ws : List IWord) (hk : ∀ x ∈ xi, isKind 1 x) (hp : pos + xi.length ≤ 4)
    (hb : b.xi.length + xi.length ≤ 3) : scan pos b (xi ++ ws) = scan (pos + xi.length) { b with xi := b.xi ++ placed pos xi } ws := by
  induction xi generalizing pos b with
  | nil => simp [placed]
  | cons x xi ih =>
    rw [List.length_cons] at hp hb
    rw [List.cons_append, scan_xi _ (hk x (List.mem_cons_self ..)) (by omega) (by omega),
      ih (fun y hy => hk y (List.mem_cons_of_mem _ hy)) (by omega) (by simp; omega), placed_cons, List.length_cons]
    simp [Nat.add_assoc, Nat.add_comm 1]

/-- The bundle that the encoder's words are. -/
def bundleOf (row : Row) (F : Fields) : Bundle :=
  let xs := F.xpWord.toList.length
  let xr := xs + F.xsWord.toList.length
  let xi := xr + F.xrWord.toList.length
  { xp := placedOpt 0 F.xpWord, xs := placedOpt xs F.xsWord, xr := placedOpt xr F.xrWord, xi := placed xi (row.xiOf F),
    base := baseWord row F (row.immNumber F), count := xi + (row.xiOf F).length }

theorem word16_toNat {n : Nat} (h : n < 65536) : (word16 n).toNat = n := by simp [word16, Nat.mod_eq_of_lt h]

theorem bits_word16 {n hi lo : Nat} (h : n < 65536) : bits (word16 n) hi lo = n / 2 ^ lo % 2 ^ (hi + 1 - lo) := by
  rw [bits, word16_toNat h]

theorem isKind_word16 {n k : Nat} (h : n < 65536) (hp : n / 8192 = 7) (hk : n / 2048 % 4 = k) : isKind k (word16 n) :=
  ⟨by simpa [isPrefix, word16_toNat h] using hp, by rw [word16_toNat h, hk]⟩

theorem xpWord_kind {F : Fields} (hF : F.page < 15) : ∀ x ∈ F.xpWord, isKind 2 x := by
  intro x hx
  unfold Fields.xpWord at hx
  split at hx
  · cases hx
  · cases hx
    have := F.la.isLt
    have := F.q.isLt
    exact isKind_word16 (by omega) (by omega) (by omega)

theorem xsWord_kind (F : Fields) : ∀ x ∈ F.xsWord, isKind 3 x := by
  intro x hx
  obtain ⟨y, -, rfl⟩ := Option.map_eq_some_iff.mp hx
  have := y.sid.isLt
  have := y.cls.isLt
  exact isKind_word16 (by omega) (by omega) (by omega)

theorem xrWord_kind (F : Fields) : ∀ x ∈ F.xrWord, isKind 0 x := by
  intro x hx
  unfold Fields.xrWord at hx
  split at hx
  · cases hx
  · cases hx
    have := F.d.isLt
    have := F.a.isLt
    have := F.b.isLt
    exact isKind_word16 (by omega) (by omega) (by omega)

theorem xiWords_kind (u k : Nat) : ∀ x ∈ xiWords u k, isKind 1 x := by
  induction k with
  | zero => intro x hx; cases hx
  | succ k ih =>
    intro x hx
    rcases List.mem_cons.mp hx with rfl | hx
    · exact isKind_word16 (by omega) (by omega) (by omega)
    · exact ih x hx

@[simp] theorem xiWords_length (u k : Nat) : (xiWords u k).length = k := by
  induction k with
  | zero => rfl
  | succ k ih => rw [xiWords, List.length_cons, ih]

/-- A base word as a number: the op above ten bits of fields (R70, R71). -/
theorem baseWord_toNat (row : Row) (F : Fields) (u : Nat) (hop : F.op < 50) : (baseWord row F u).toNat = F.op * 1024 +
    match row.fmt with
    | .rr => F.d.val % 8 * 128 + F.a.val % 8 * 16 + F.b.val % 8 * 2 + F.f.toNat
    | .ri => F.d.val % 8 * 128 + F.a.val % 8 * 16 + u % 16
    | .di => F.d.val % 8 * 128 + u % 128
    | .br => F.a.val % 8 * 128 + F.b.val % 8 * 16 + u % 16
    | .sy => u % 1024 := by
  have := Bool.toNat_le F.f
  unfold baseWord
  cases row.fmt <;> dsimp only <;> rw [word16_toNat (by omega)] <;> omega

theorem baseWord_op (row : Row) (F : Fields) (u : Nat) (hop : F.op < 50) : (baseWord row F u).toNat / 1024 = F.op := by
  have := Bool.toNat_le F.f
  rw [baseWord_toNat row F u hop]
  cases row.fmt <;> dsimp only <;> omega

theorem baseWord_notPrefix (row : Row) (F : Fields) (u : Nat) (hop : F.op < 50) : isPrefix (baseWord row F u) = false := by
  have := baseWord_op row F u hop
  simp only [isPrefix, decide_eq_false_iff_not]
  omega

/-- The XP, XS and XR words number those that the fields need. -/
theorem needsXp_eq_false {F : Fields} : F.needsXp = false ↔ F.page = 0 ∧ F.la = 0 ∧ F.q = 0 := by
  simp [Fields.needsXp, and_assoc]

theorem xpWord_length (F : Fields) : F.xpWord.toList.length = F.needsXp.toNat := by
  unfold Fields.xpWord
  cases h : F.needsXp
  · rw [if_pos (needsXp_eq_false.mp h)]; rfl
  · rw [if_neg (fun e => by simp [needsXp_eq_false.mpr e] at h)]; rfl

theorem xsWord_length (F : Fields) : F.xsWord.toList.length = F.xs.isSome.toNat := by
  unfold Fields.xsWord
  cases F.xs <;> rfl

theorem high_eq_false {x : GReg} : high x = false ↔ x.val < 8 := by simp [high]

theorem needsXr_eq_false {F : Fields} : F.needsXr = false ↔ F.d.val < 8 ∧ F.a.val < 8 ∧ F.b.val < 8 := by
  simp [Fields.needsXr, high_eq_false, and_assoc]

theorem xrWord_length (F : Fields) : F.xrWord.toList.length = F.needsXr.toNat := by
  unfold Fields.xrWord
  cases h : F.needsXr
  · rw [if_pos (needsXr_eq_false.mp h)]; rfl
  · rw [if_neg (fun e => by simp [needsXr_eq_false.mpr e] at h)]; rfl

/-- The encoder's words are one bundle, and what follows them is left (R76, R94). -/
theorem scan_emit {row : Row} {F : Fields} (rest : List IWord) (hpage : F.page < 15) (hop : F.op < 50)
    (hxi : row.xiUsed F ≤ F.room) : scan 0 {} (emit row F ++ rest) = .ok (bundleOf row F, rest) := by
  have xpLe : F.xpWord.toList.length ≤ 1 := Option.length_toList_le
  have xsLe : F.xsWord.toList.length ≤ 1 := Option.length_toList_le
  have room : (row.xiOf F).length ≤ 3 ∧ F.xpWord.toList.length + F.xsWord.toList.length + F.xrWord.toList.length + (row.xiOf F).length ≤ 4 := by
    have xr := F.needsXr.toNat_le
    rw [xpWord_length, xsWord_length] at *
    rw [xrWord_length, Row.xiOf, xiWords_length]
    unfold Fields.room Sys2Proof.room at hxi
    omega
  obtain ⟨le3, le4⟩ := room
  rw [emit_eq]
  simp only [List.append_assoc]
  rw [scan_optional (fun o => { xp := o }) _ rfl (fun x hx => scan_xp _ (xpWord_kind hpage x hx) (by omega) rfl),
    scan_optional (fun o => { xp := placedOpt 0 F.xpWord, xs := o }) _ rfl (fun x hx => scan_xs _ (xsWord_kind F x hx) (by omega) rfl),
    scan_optional (fun o => { xp := placedOpt 0 F.xpWord, xs := placedOpt _ F.xsWord, xr := o }) _ rfl
      (fun x hx => scan_xr _ (xrWord_kind F x hx) (by omega) rfl),
    scan_xis (row.xiOf F) _ (xiWords_kind _ _) (by omega) (by simpa using le3), List.singleton_append,
    scan_base _ (baseWord_notPrefix row F _ hop)]
  simp [bundleOf]

/-! ### The fields of that bundle -/

@[simp] theorem bits_zero (hi lo : Nat) : bits 0#16 hi lo = 0 := by simp [bits]

theorem bits_eq {w : IWord} {hi lo x : Nat} (h : w.toNat / 2 ^ lo % 2 ^ (hi + 1 - lo) = x) : bits w hi lo = x := h

/-- The XP word gives back page, lookahead and q (R74). -/
theorem xpWord_bits {F : Fields} (hpage : F.page < 15) :
    bits (F.xpWord.getD 0) 10 7 * (if F.xpWord.isSome then 1 else 0) = F.page ∧ bits (F.xpWord.getD 0) 6 3 = F.la.val ∧
      bits (F.xpWord.getD 0) 2 0 = F.q.val := by
  have := F.la.isLt
  have := F.q.isLt
  unfold Fields.xpWord
  split
  · rename_i h
    obtain ⟨hp, hl, hq⟩ := h
    simp [hp, hl, hq]
  · simp only [Option.getD_some, Option.isSome_some, if_true]
    rw [bits_word16 (by omega), bits_word16 (by omega), bits_word16 (by omega)]
    omega

/-- The XR word gives back the high parts of the registers, and sets no reserved bit (R73). -/
theorem xrWord_bits (F : Fields) : bits (F.xrWord.getD 0) 8 6 = F.d.val / 8 ∧ bits (F.xrWord.getD 0) 5 3 = F.a.val / 8 ∧
    bits (F.xrWord.getD 0) 2 0 = F.b.val / 8 ∧ bits (F.xrWord.getD 0) 10 9 = 0 := by
  have := F.d.isLt
  have := F.a.isLt
  have := F.b.isLt
  unfold Fields.xrWord
  split
  · rename_i h
    obtain ⟨hd, ha, hb⟩ := h
    simp [Nat.div_eq_of_lt, hd, ha, hb]
  · simp only [Option.getD_some]
    rw [bits_word16 (by omega), bits_word16 (by omega), bits_word16 (by omega), bits_word16 (by omega)]
    omega

/-- The XS word gives back stream and class, and sets no reserved bit (R75). -/
theorem xsWord_bits (F : Fields) : bits (F.xsWord.getD 0) 4 3 = ((F.xs.map XS.cls).getD 0).val ∧ bits (F.xsWord.getD 0) 2 0 = 0 ∧
    ∀ x ∈ F.xs, bits (F.xsWord.getD 0) 10 5 = x.sid.val := by
  unfold Fields.xsWord
  cases F.xs with
  | none => simp
  | some x =>
    have := x.sid.isLt
    have := x.cls.isLt
    simp only [Option.map_some, Option.getD_some, Option.mem_some_iff, forall_eq']
    rw [bits_word16 (by omega), bits_word16 (by omega), bits_word16 (by omega)]
    omega

section
variable {row : Row} {F : Fields}

theorem bundleOf_page (hpage : F.page < 15) : (bundleOf row F).page = F.page := by
  simp only [Bundle.page, bundleOf, wordOf_placedOpt, placedOpt_isSome]
  exact (xpWord_bits hpage).1

theorem bundleOf_la (hpage : F.page < 15) : (bundleOf row F).la = F.la.val := by
  simp only [Bundle.la, bundleOf, wordOf_placedOpt]
  exact (xpWord_bits hpage).2.1

theorem bundleOf_q (hpage : F.page < 15) : (bundleOf row F).q = F.q.val := by
  simp only [Bundle.q, bundleOf, wordOf_placedOpt]
  exact (xpWord_bits hpage).2.2

theorem bundleOf_op (hop : F.op < 50) : (bundleOf row F).op = F.op := by
  have := baseWord_op row F (row.immNumber F) hop
  simp only [Bundle.op, bundleOf, bits]
  omega

theorem bundleOf_stream : (bundleOf row F).stream = F.xs := by
  obtain ⟨cls, -, sid⟩ := xsWord_bits F
  unfold Bundle.stream bundleOf Fields.xsWord placedOpt at *
  cases h : F.xs with
  | none => rfl
  | some x =>
    rw [h] at cls sid
    have hs := sid x rfl
    simp only [Option.map_some, Option.getD_some] at cls hs ⊢
    simp only [hs, cls, Nat.mod_eq_of_lt x.sid.isLt, Nat.mod_eq_of_lt x.cls.isLt]

theorem bundleOf_xs_isSome : (bundleOf row F).xs.isSome = F.xs.isSome := by
  simp [bundleOf, Fields.xsWord]

theorem bundleOf_xr_isSome : (bundleOf row F).xr.isSome = F.needsXr := by
  have := xrWord_length F
  rw [Option.length_toList] at this
  cases h : F.needsXr <;> cases h' : F.xrWord.isSome <;> simp_all [bundleOf]

theorem bundleOf_wordOf_xr : wordOf (bundleOf row F).xr = F.xrWord.getD 0 := wordOf_placedOpt ..

theorem bundleOf_wordOf_xs : wordOf (bundleOf row F).xs = F.xsWord.getD 0 := wordOf_placedOpt ..

theorem bundleOf_base : (bundleOf row F).base = baseWord row F (row.immNumber F) := rfl

/-- Field d comes back (R71, R73). -/
theorem bundleOf_reg_d (hop : F.op < 50) (absent : row.fmt = .br ∨ row.fmt = .sy → F.d = 0) :
    (bundleOf row F).reg row.fmt 0 = (F.d.val / 8, F.d.val % 8) := by
  have base := baseWord_toNat row F (row.immNumber F) hop
  rw [← bundleOf_base] at base
  have := Bool.toNat_le F.f
  refine Prod.ext (by rw [← (xrWord_bits F).1, ← bundleOf_wordOf_xr (row := row)]; rfl) ?_
  cases h : row.fmt <;> rw [h] at base absent
  case br | sy => exact (congrArg (·.val % 8) (absent (by decide))).symm
  case rr | ri | di => exact bits_eq (by dsimp only at base; omega)

/-- Field a comes back (R71, R73). -/
theorem bundleOf_reg_a (hop : F.op < 50) (absent : row.fmt = .di ∨ row.fmt = .sy → F.a = 0) :
    (bundleOf row F).reg row.fmt 1 = (F.a.val / 8, F.a.val % 8) := by
  have base := baseWord_toNat row F (row.immNumber F) hop
  rw [← bundleOf_base] at base
  have := Bool.toNat_le F.f
  refine Prod.ext (by rw [← (xrWord_bits F).2.1, ← bundleOf_wordOf_xr (row := row)]; rfl) ?_
  cases h : row.fmt <;> rw [h] at base absent
  case di | sy => exact (congrArg (·.val % 8) (absent (by decide))).symm
  case rr | ri | br => exact bits_eq (by dsimp only at base; omega)

/-- Field b comes back (R71, R73). -/
theorem bundleOf_reg_b (hop : F.op < 50) (absent : row.fmt = .ri ∨ row.fmt = .di ∨ row.fmt = .sy → F.b = 0) :
    (bundleOf row F).reg row.fmt 2 = (F.b.val / 8, F.b.val % 8) := by
  have base := baseWord_toNat row F (row.immNumber F) hop
  rw [← bundleOf_base] at base
  have := Bool.toNat_le F.f
  refine Prod.ext (by rw [← (xrWord_bits F).2.2.1, ← bundleOf_wordOf_xr (row := row)]; rfl) ?_
  cases h : row.fmt <;> rw [h] at base absent
  case ri | di | sy => exact (congrArg (·.val % 8) (absent (by decide))).symm
  case rr | br => exact bits_eq (by dsimp only at base; omega)

theorem regNum_of_reg {b : Bundle} {fmt : Format} {which : Nat} {x : Fin 64} (h : b.reg fmt which = (x.val / 8, x.val % 8)) :
    b.regNum fmt which = x := by
  have := x.isLt
  apply Fin.ext
  simp only [Bundle.regNum, h]
  omega

/-- The XI words shift their eleven bits each into the immediate (R81). -/
theorem foldl_xiWords (u k acc : Nat) :
    (xiWords u k).foldl (fun acc w => acc * 2 ^ 11 + bits w 10 0) acc = acc * 2 ^ (11 * k) + u % 2 ^ (11 * k) := by
  induction k generalizing acc with
  | zero => simp [xiWords, Nat.mod_one]
  | succ k ih =>
    have low : bits (word16 (0xE800 + u / 2 ^ (11 * k) % 2 ^ 11)) 10 0 = u / 2 ^ (11 * k) % 2 ^ 11 := by
      rw [bits_word16 (by omega)]
      omega
    rw [xiWords, List.foldl_cons, ih, low, Nat.mul_succ, Nat.pow_add, Nat.mod_mul]
    ring

theorem immNumber_lt (row : Row) (F : Fields) : row.immNumber F < 2 ^ (immBits row.fmt + 11 * row.xiUsed F) := by
  have pos : (0 : Int) < 2 ^ (immBits row.fmt + 11 * row.xiUsed F) := by positivity
  have := Int.emod_lt_of_pos F.imm pos
  have := Int.emod_nonneg F.imm pos.ne'
  unfold Row.immNumber
  zify
  omega

/-- The immediate comes back as a number in its width (R81). -/
theorem bundleOf_rawImm (hop : F.op < 50) :
    (bundleOf row F).rawImm row.fmt = (row.immNumber F, immBits row.fmt + 11 * row.xiUsed F) := by
  have base := baseWord_toNat row F (row.immNumber F) hop
  rw [← bundleOf_base] at base
  have low : (bundleOf row F).base.toNat % 2 ^ immBits row.fmt = row.immNumber F % 2 ^ immBits row.fmt := by
    cases h : row.fmt <;> rw [h] at base <;> dsimp only [immBits] at base ⊢ <;> omega
  have high : (bundleOf row F).xi.foldl (fun acc x => acc * 2 ^ 11 + bits x.2 10 0) 0 = row.immNumber F / 2 ^ immBits row.fmt := by
    have fold := foldl_xiWords (row.immNumber F / 2 ^ immBits row.fmt) (row.xiUsed F) 0
    have small : row.immNumber F / 2 ^ immBits row.fmt < 2 ^ (11 * row.xiUsed F) :=
      Nat.div_lt_of_lt_mul (by rw [← Nat.pow_add]; exact immNumber_lt row F)
    rw [Nat.zero_mul, Nat.zero_add, Nat.mod_eq_of_lt small] at fold
    rw [← fold, ← placed_words _ (xiWords _ _), List.foldl_map]
    rfl
  simp only [Bundle.rawImm, high, low, Nat.div_add_mod']
  simp [bundleOf, Row.xiOf, Nat.add_comm]

/-! ### The immediate -/

/-- Whether a width holds an immediate, by its use (R81): what the encoder asks. -/
def ImmUse.fits (use : ImmUse) (w : Nat) (i : Int) : Bool :=
  match use with
  | .signed => fitsSigned w i
  | _ => fitsNatural w i.toNat

theorem least_below_four {f : Nat → Bool} {r : Nat} (hr : r ≤ 3) (h : f r = true) :
    let k := if f 0 then 0 else if f 1 then 1 else if f 2 then 2 else 3
    k ≤ r ∧ f k = true := by
  intro k
  obtain rfl | rfl | rfl | rfl : r = 0 ∨ r = 1 ∨ r = 2 ∨ r = 3 := by omega
  all_goals cases h0 : f 0 <;> cases h1 : f 1 <;> cases h2 : f 2 <;> simp_all [k]

/-- The encoder takes no more XI words than a width that holds the immediate has, and enough (R94). -/
theorem xiCount_least {fmt : Format} {use : ImmUse} {i : Int} {r : Nat} (hr : r ≤ 3) (h : use.fits (immBits fmt + 11 * r) i = true) :
    xiCount fmt use i ≤ r ∧ use.fits (immBits fmt + 11 * xiCount fmt use i) i = true :=
  least_below_four (f := fun k => use.fits (immBits fmt + 11 * k) i) hr h

theorem ImmUse.carries_fits {use : ImmUse} {w : Nat} {q : QType} {i : Int} (hw : 1 ≤ w) (h : use.carries w q i = true) : use.fits w i = true := by
  have two : 2 ≤ 2 ^ w := Nat.le_self_pow (by omega) 2
  cases use <;> simp only [ImmUse.carries, ImmUse.fits, fitsNatural, Bool.and_eq_true, Bool.or_eq_true, beq_iff_eq, decide_eq_true_eq] at h ⊢
  case signed => exact h
  case natural | lane => exact h.1.2
  all_goals omega

theorem ImmUse.carries_nonneg {use : ImmUse} {w : Nat} {q : QType} {i : Int} (hu : use ≠ .signed) (h : use.carries w q i = true) : 0 ≤ i := by
  cases use <;> simp only [ImmUse.carries, Bool.and_eq_true, Bool.or_eq_true, beq_iff_eq, decide_eq_true_eq] at h
  case signed => exact absurd rfl hu
  all_goals omega

theorem xiUsed_le_room (hi : row.carriesImm F = true) (hn : row.imm ≠ .none → 1 ≤ immBits row.fmt) :
    row.xiUsed F ≤ F.room ∧ (row.imm ≠ .none → row.imm.fits (immBits row.fmt + 11 * row.xiUsed F) F.imm = true) := by
  unfold Row.xiUsed
  split
  · exact ⟨Nat.zero_le _, fun h => absurd ‹_› h⟩
  · rename_i h
    have least := xiCount_least (Nat.min_le_left ..) (ImmUse.carries_fits (by have := hn h; omega) hi)
    exact ⟨least.1, fun _ => least.2⟩

/-- A two's-complement number in a width that holds it (R81). -/
theorem signed_of_emod {w : Nat} {i : Int} (hw : 1 ≤ w) (h : fitsSigned w i = true) :
    (if (i % 2 ^ w).toNat < 2 ^ (w - 1) then ((i % 2 ^ w).toNat : Int) else ((i % 2 ^ w).toNat : Int) - 2 ^ w) = i := by
  have double : (2 : Int) ^ w = 2 * 2 ^ (w - 1) := by rw [← Int.pow_succ']; congr 1; omega
  have nat : ((2 ^ (w - 1) : Nat) : Int) = 2 ^ (w - 1) := by norm_cast
  simp only [fitsSigned, Bool.and_eq_true, decide_eq_true_eq] at h
  obtain ⟨lo, hi⟩ := h
  rw [double] at *
  generalize (2 : Int) ^ (w - 1) = p at *
  rcases le_or_gt 0 i with pos | neg
  · rw [Int.emod_eq_of_lt pos (by omega), if_pos (by omega)]
    omega
  · have wrapped : i % (2 * p) = i + 2 * p := by
      rw [← Int.add_emod_right, Int.emod_eq_of_lt (by omega) (by omega)]
    rw [wrapped, if_neg (by omega)]
    omega

theorem natural_of_emod {w : Nat} {i : Int} (pos : 0 ≤ i) (h : i.toNat < 2 ^ w) : ((i % 2 ^ w).toNat : Int) = i := by
  have lt : i < 2 ^ w := by zify at h; omega
  rw [Int.emod_eq_of_lt pos lt]
  omega

/-- The immediate comes back (R81). -/
theorem bundleOf_imm (hop : F.op < 50) (hi : row.carriesImm F = true) (hn : row.imm ≠ .none → 1 ≤ immBits row.fmt) :
    (bundleOf row F).imm row = F.imm := by
  have fits := (xiUsed_le_room hi hn).2
  simp only [Bundle.imm, bundleOf_rawImm hop]
  split
  · rename_i h
    rw [h] at fits hn
    exact signed_of_emod (by have := hn (by decide); omega) (fits (by decide))
  · rename_i h
    refine natural_of_emod (ImmUse.carries_nonneg h hi) ?_
    by_cases none : row.imm = .none
    · have zero : F.imm = 0 := by simpa [Row.carriesImm, none, ImmUse.carries] using hi
      rw [zero]
      exact Nat.two_pow_pos _
    · have fits := fits none
      cases use : row.imm <;> rw [use] at fits
      case signed => exact absurd use h
      all_goals exact of_decide_eq_true fits

end

/-! ### No check of R87 refuses it -/

/-- Fields that a row of the opcode map carries. -/
structure Row.Bears (row : Row) (F : Fields) : Prop where
  page : F.page < 15
  op : F.op < 50
  regular : row.regular = true
  regs : row.carriesRegs F = true
  mods : row.carriesMods F = true
  imm : row.carriesImm F = true

section
variable {row : Row} {F : Fields}

theorem bears_of_rowOf (hrow : rowOf F.page F.op = some row) (hc : row.carries F = true) : row.Bears F := by
  obtain ⟨page, op, regular⟩ := rowOf_regular hrow
  simp only [Row.carries, Bool.and_eq_true] at hc
  exact ⟨page, op, regular, hc.1.1, hc.1.2, hc.2⟩

theorem Row.Bears.uses (h : row.Bears F) : row.d.carries F.d = true ∧ row.a.carries F.a = true ∧ row.b.carries F.b = true := by
  have regs := h.regs
  simp only [Row.carriesRegs, Bool.and_eq_true] at regs
  obtain ⟨⟨⟨⟨⟨⟨⟨d, a⟩, b⟩, -⟩, -⟩, -⟩, -⟩, -⟩ := regs
  exact ⟨d, a, b⟩

theorem Row.Bears.formats (h : row.Bears F) :
    row.usesByFormat = true ∧ (row.fmt = .rr ↔ row.imm = .none) ∧ (row.f = true → row.fmt = .rr) := by
  have regular := h.regular
  simp only [Row.regular, Bool.and_eq_true] at regular
  obtain ⟨⟨uses, rr⟩, f⟩ := regular
  refine ⟨uses, ?_, ?_⟩
  · rw [← beq_iff_eq (a := row.fmt), ← beq_iff_eq (a := row.imm), beq_iff_eq.mp rr]
  · intro hf
    simpa [hf] using f

theorem Row.Bears.immBits_pos (h : row.Bears F) (hn : row.imm ≠ .none) : 1 ≤ immBits row.fmt := by
  have := (not_congr h.formats.2.1).mpr hn
  cases e : row.fmt
  case rr => exact absurd e this
  all_goals decide

theorem Use.eq_zero {u : Use} {x : Fin 64} (hu : u = .none) (h : u.carries x = true) : x = 0 := by
  subst hu
  exact beq_iff_eq.mp h

theorem Row.Bears.absent (h : row.Bears F) : (row.fmt = .br ∨ row.fmt = .sy → F.d = 0) ∧ (row.fmt = .di ∨ row.fmt = .sy → F.a = 0) ∧
    (row.fmt = .ri ∨ row.fmt = .di ∨ row.fmt = .sy → F.b = 0) := by
  obtain ⟨d, a, b⟩ := h.uses
  have uses := h.formats.1
  unfold Row.usesByFormat at uses
  cases e : row.fmt <;> simp only [e, Bool.and_eq_true, beq_iff_eq] at uses
  case rr => simp
  case ri => simp [Use.eq_zero uses b]
  case di => simp [Use.eq_zero uses.1 a, Use.eq_zero uses.2 b]
  case br => simp [Use.eq_zero uses d]
  case sy => simp [Use.eq_zero uses.1.1 d, Use.eq_zero uses.1.2 a, Use.eq_zero uses.2 b]

theorem Row.Bears.reg (h : row.Bears F) : (bundleOf row F).reg row.fmt 0 = (F.d.val / 8, F.d.val % 8) ∧
    (bundleOf row F).reg row.fmt 1 = (F.a.val / 8, F.a.val % 8) ∧ (bundleOf row F).reg row.fmt 2 = (F.b.val / 8, F.b.val % 8) := by
  obtain ⟨d, a, b⟩ := h.absent
  exact ⟨bundleOf_reg_d h.op d, bundleOf_reg_a h.op a, bundleOf_reg_b h.op b⟩

theorem Row.Bears.xiUsed_rr (h : row.Bears F) (e : row.fmt = .rr) : row.xiUsed F = 0 := if_pos (h.formats.2.1.mp e)

theorem Row.Bears.modifiers (h : row.Bears F) : (row.f = false → F.f = false) ∧ (row.q = false → F.q = 0) ∧
    (row.sizes = true → F.q.val < 4) ∧ (row.la = false → F.la = 0) := by
  have mods := h.mods
  simp only [Row.carriesMods, Bool.and_eq_true] at mods
  obtain ⟨⟨⟨⟨f, q⟩, sizes⟩, la⟩, -⟩ := mods
  refine ⟨fun e => ?_, fun e => ?_, fun e => ?_, fun e => ?_⟩
  · simpa [e] using f
  · simpa [e] using q
  · simpa [e] using sizes
  · simpa [e] using la

theorem Row.Bears.stream (h : row.Bears F) : (row.xs = .none → F.xs = none) ∧ (row.xs = .sid → (F.xs.map XS.cls).getD 0 = 0) := by
  have mods := h.mods
  simp only [Row.carriesMods, Bool.and_eq_true] at mods
  have xs := mods.2
  constructor <;> intro e <;> rw [e] at xs
  · exact Option.isNone_iff_eq_none.mp xs
  · exact beq_iff_eq.mp xs

/-- R87's step 6 finds nothing (R60, R85). -/
theorem Row.Bears.acceptance (h : row.Bears F) : acceptance (bundleOf row F) row = none := by
  unfold Sys2Proof.acceptance
  rw [if_neg, if_neg, if_neg, if_neg]
  · rintro ⟨no, ne⟩
    rw [bundleOf_la h.page, h.modifiers.2.2.2 no] at ne
    exact ne rfl
  · rintro ⟨no, isSome⟩
    rw [bundleOf_xs_isSome, h.stream.1 no] at isSome
    cases isSome
  · rintro ⟨sy, needed⟩
    obtain ⟨d, a, b⟩ := h.absent
    rw [bundleOf_xr_isSome, Fields.needsXr, d (.inr sy), a (.inr sy), b (.inr (.inr sy))] at needed
    cases needed
  · rintro ⟨rr, ne⟩
    simp [bundleOf, Row.xiOf, h.xiUsed_rr rr, xiWords, placed] at ne

theorem reservedField_eq_false {u : Use} {x : Fin 64} (h : u.carries x = true) :
    reservedField u (x.val / 8, x.val % 8) = false ∧ (u != .g && u != .v && (x.val / 8 != 0)) = false := by
  have := x.isLt
  cases u <;> simp [Use.carries] at h <;> simp [reservedField, h]

theorem Row.Bears.reservedXr (h : row.Bears F) : reservedXr (bundleOf row F) row = false := by
  obtain ⟨d, a, b⟩ := h.uses
  obtain ⟨rd, ra, rb⟩ := h.reg
  have none := (xrWord_bits F).2.2.2
  unfold Sys2Proof.reservedXr
  rw [rd, ra, rb, bundleOf_wordOf_xr, none, (reservedField_eq_false d).2, (reservedField_eq_false a).2, (reservedField_eq_false b).2]
  rfl

theorem Row.Bears.base_odd (h : row.Bears F) (rr : row.fmt = .rr) : (bundleOf row F).base.toNat % 2 = F.f.toNat := by
  have base := baseWord_toNat row F (row.immNumber F) h.op
  have := Bool.toNat_le F.f
  rw [← bundleOf_base, rr] at base
  dsimp only at base
  omega

theorem Row.Bears.bundle_imm (h : row.Bears F) : (bundleOf row F).imm row = F.imm := bundleOf_imm h.op h.imm h.immBits_pos

/-- An immediate that is not signed is the number that stands in the bundle. -/
theorem Row.Bears.immNumber (h : row.Bears F) (hs : row.imm ≠ .signed) : (row.immNumber F : Int) = F.imm := by
  have imm := h.bundle_imm
  unfold Bundle.imm at imm
  rw [bundleOf_rawImm h.op] at imm
  split at imm
  · contradiction
  · exact imm

/-- R87's step 7 finds nothing (R84). -/
theorem Row.Bears.reserved (h : row.Bears F) : reserved (bundleOf row F) row = none := by
  obtain ⟨d, a, b⟩ := h.uses
  obtain ⟨rd, ra, rb⟩ := h.reg
  obtain ⟨cls, low, -⟩ := xsWord_bits F
  unfold Sys2Proof.reserved
  rw [rd, ra, rb, h.reservedXr, (reservedField_eq_false d).1, (reservedField_eq_false a).1, (reservedField_eq_false b).1, bundleOf_q h.page,
    bundleOf_wordOf_xs, cls, low, bundleOf_rawImm h.op]
  rw [if_neg (by decide), if_neg, if_neg, if_neg (by decide), if_neg, if_neg (by decide), if_neg, if_neg]
  · rintro ⟨zero, ne⟩
    have number := h.immNumber (by rw [zero]; decide)
    have imm := h.imm
    rw [Row.carriesImm, zero] at imm
    rw [beq_iff_eq.mp imm] at number
    exact ne (Int.ofNat_eq_zero.mp number)
  · rintro ⟨rr, no, odd⟩
    rw [h.base_odd rr, h.modifiers.1 no] at odd
    cases odd
  · rintro ⟨sid, ne⟩
    rw [h.stream.2 sid] at ne
    exact ne rfl
  · rintro ⟨sizes, le⟩
    exact Nat.not_le.mpr (h.modifiers.2.2.1 sizes) le
  · rintro ⟨no, ne⟩
    rw [h.modifiers.2.1 no] at ne
    exact ne rfl

theorem Row.Bears.regNum (h : row.Bears F) : (bundleOf row F).regNum row.fmt 0 = F.d ∧ (bundleOf row F).regNum row.fmt 1 = F.a ∧
    (bundleOf row F).regNum row.fmt 2 = F.b := by
  obtain ⟨d, a, b⟩ := h.reg
  exact ⟨regNum_of_reg d, regNum_of_reg a, regNum_of_reg b⟩

theorem Use.lt_of_v {u : Use} {x : Fin 64} (hu : u = .v) (h : u.carries x = true) : x.val < 32 := by
  subst hu
  exact of_decide_eq_true h

theorem blockPair_ne {q : QType} {x : Fin 64} (h : blockPair q (vreg x) = true) (hq : q.val = 7) : x.val ≠ 31 := by
  intro hx
  have hv : vreg x = 31 := Fin.ext (by simp [vreg, hx])
  have hq : q = 7 := Fin.ext hq
  simp [blockPair, hv, hq] at h

/-- What R19, R20, R22 and R135 refuse is not among the fields. -/
theorem Row.Bears.registers (h : row.Bears F) : (row.d = .code → F.d.val < 5) ∧ (row.dest = true → F.d.val < 57 ∨ 60 ≤ F.d.val) ∧
    (row.pair = true → F.d.val ≤ 54) ∧ (row.pairD = true → F.q.val = 7 → F.d.val ≠ 31) ∧ (row.pairA = true → F.q.val = 7 → F.a.val ≠ 31) := by
  have regs := h.regs
  simp only [Row.carriesRegs, Bool.and_eq_true] at regs
  obtain ⟨⟨⟨⟨⟨-, code⟩, dest⟩, pair⟩, pairD⟩, pairA⟩ := regs
  refine ⟨fun e => ?_, fun e => ?_, fun e => ?_, fun e => ?_, fun e => ?_⟩
  · simpa [e] using code
  · simpa [e, writable] using dest
  · simpa [e, isPair] using pair
  · exact blockPair_ne (by simpa [e] using pairD)
  · exact blockPair_ne (by simpa [e] using pairA)

/-- R87's step 8 finds nothing (R19, R20, R22, R73). -/
theorem Row.Bears.ranges (h : row.Bears F) : ranges (bundleOf row F) row = none := by
  obtain ⟨d, a, b⟩ := h.uses
  obtain ⟨nd, na, nb⟩ := h.regNum
  obtain ⟨-, dest, pair, pairD, pairA⟩ := h.registers
  unfold Sys2Proof.ranges
  rw [nd, na, nb, bundleOf_q h.page]
  rw [if_neg, if_neg, if_neg, if_neg]
  · rintro ⟨isDest, -, lo, hi⟩
    have := dest isDest
    omega
  · rintro ⟨q, ⟨isD, e⟩ | ⟨isA, e⟩⟩
    · exact pairD isD q e
    · exact pairA isA q e
  · rintro ⟨isPair, lt⟩
    have := pair isPair
    omega
  · rintro (⟨v, le⟩ | ⟨v, le⟩ | ⟨v, le⟩)
    · exact Nat.not_le.mpr (Use.lt_of_v v d) le
    · exact Nat.not_le.mpr (Use.lt_of_v v a) le
    · exact Nat.not_le.mpr (Use.lt_of_v v b) le

/-- R87's step 9 finds nothing (R82, R135). -/
theorem Row.Bears.immRange (h : row.Bears F) : immRange (bundleOf row F) row = none := by
  have imm := h.imm
  have number := h.immNumber
  unfold Row.carriesImm at imm
  unfold Sys2Proof.immRange
  rw [bundleOf_rawImm h.op, h.reg.1]
  cases use : row.imm <;> rw [use] at imm number <;> simp only [ImmUse.carries, Bool.and_eq_true, Bool.or_eq_true, beq_iff_eq, decide_eq_true_eq] at imm ⊢
  case natural max =>
    have := number (by simp)
    exact if_neg (by omega)
  case misc =>
    have := number (by simp)
    exact if_neg (by omega)
  case lane =>
    have := number (by simp)
    simp only [bundleOf_q h.page, Nat.mod_eq_of_lt F.q.isLt, Fin.eta]
    exact if_neg (by omega)
  all_goals
    refine if_neg (fun ⟨code, le⟩ => ?_)
    have := h.registers.1 code
    omega

/-- misc has one of its two numbers (R144). -/
theorem Row.Bears.misc (h : row.Bears F) :
    ¬(row.imm = .misc ∧ 2 ≤ ((bundleOf row F).rawImm row.fmt).1 ∧ ((bundleOf row F).rawImm row.fmt).1 ≤ 1023) := by
  rintro ⟨misc, two, -⟩
  have number := h.immNumber (by rw [misc]; decide)
  have imm := h.imm
  rw [bundleOf_rawImm h.op] at two
  simp only [Row.carriesImm, misc, ImmUse.carries, Bool.or_eq_true, beq_iff_eq] at imm
  dsimp only at two
  omega

theorem Row.Bears.laterCause (h : row.Bears F) : laterCause (bundleOf row F) row = none := by
  unfold Sys2Proof.laterCause
  rw [h.acceptance, h.reserved, h.ranges, h.immRange]
  rfl

theorem Row.Bears.fields (h : row.Bears F) : (bundleOf row F).fields row = F := by
  obtain ⟨d, a, b⟩ := h.regNum
  have f : (row.f && decide ((bundleOf row F).base.toNat % 2 = 1)) = F.f := by
    cases hf : row.f
    · exact (h.modifiers.1 hf).symm
    · rw [h.base_odd (h.formats.2.2 hf)]
      cases F.f <;> rfl
  unfold Bundle.fields
  simp only [bundleOf_page h.page, bundleOf_op h.op, d, a, b, f, bundleOf_q h.page, bundleOf_la h.page, Nat.mod_eq_of_lt F.q.isLt,
    Nat.mod_eq_of_lt F.la.isLt, h.bundle_imm, bundleOf_stream]

theorem env_all_lists {p : Nat} (h : p < 21) : Env.all.ext.testBit p = true := by
  rw [Env.all, Nat.testBit_two_pow_sub_one]
  exact decide_eq_true h

theorem familyBit_lt {q f : Nat} (h : familyBit q = some f) : f < 21 := by
  unfold familyBit at h
  split at h <;> simp at h <;> omega

/-- Fields that their row carries decode from their words to the instruction that they spell, on a core that lists every page and family. -/
theorem decode_emit (rest : List IWord) (hrow : rowOf F.page F.op = some row) (hc : row.carries F = true) :
    decode Env.all (emit row F ++ rest) = .ok (build F, rest) := by
  have h := bears_of_rowOf hrow hc
  have page := bundleOf_page (row := row) h.page
  have assigned : (bundleOf row F).assigned Env.all = .ok (build F) := by
    unfold Bundle.assigned
    rw [if_neg (by rintro ⟨-, no⟩; cases no), page, bundleOf_op h.op, hrow]
    dsimp only
    rw [if_neg h.misc, h.laterCause]
    dsimp only
    rw [h.fields]
  have instr : (bundleOf row F).instr Env.all = .ok (build F) := by
    unfold Bundle.instr
    rw [page, env_all_lists (by have := h.page; omega), if_neg (by decide)]
    split
    · rename_i f hf
      have lt : f < 21 := by
        split at hf
        · exact familyBit_lt hf
        · cases hf
      rw [env_all_lists lt, if_neg (by decide)]
      exact assigned
    · exact assigned
  unfold decode
  rw [scan_emit rest h.page h.op (xiUsed_le_room h.imm h.immBits_pos).1]
  dsimp only
  rw [instr]

end

end Sys2Proof
end

section
/-! SUPPORT. The laws of every instruction's fields, as one. -/

namespace Sys2Proof.Laws.BuildFields

/-- The decoder's builder undoes the encoder's fields, whatever the instruction. -/
theorem statement (i : Instr) : Statement i :=
  match i with
  | .add .. => add _ _ _ _ | .sub .. => sub _ _ _ _ | .and .. => and _ _ _ _ | .or .. => or _ _ _ _ | .xor .. => xor _ _ _ _
  | .shl .. => shl _ _ _ _ | .shr .. => shr _ _ _ _ | .sra .. => sra _ _ _ _ | .mul .. => mul _ _ _ _ | .mulh .. => mulh _ _ _ _
  | .min .. => min _ _ _ _ | .max .. => max _ _ _ _ | .seq .. => seq _ _ _ _ | .slt .. => slt _ _ _ _ | .sel .. => sel _ _ _
  | .addi .. => addi _ _ _ | .andi .. => andi _ _ _ | .ori .. => ori _ _ _ | .xori .. => xori _ _ _ | .shli .. => shli _ _ _
  | .shri .. => shri _ _ _ | .srai .. => srai _ _ _ | .slti .. => slti _ _ _ | .li .. => li _ _ | .lih .. => lih _ _ | .pcrel .. => pcrel _ _
  | .ldb .. => ldb _ _ _ _ | .ldbn .. => ldbn _ _ _ _ | .ldh .. => ldh _ _ _ _ | .ldhn .. => ldhn _ _ _ _ | .ldw .. => ldw _ _ _ _
  | .ldwn .. => ldwn _ _ _ _ | .ldd .. => ldd _ _ _ _ | .stb .. => stb _ _ _ _ | .sth .. => sth _ _ _ _ | .stw .. => stw _ _ _ _
  | .std .. => std _ _ _ _ | .tch .. => tch _ _ _ _ | .lda .. => lda _ _ _ _ _ | .stl .. => stl _ _ _ _ _ | .beq .. => beq _ _ _
  | .bne .. => bne _ _ _ | .blt .. => blt _ _ _ | .bge .. => bge _ _ _ | .bltn .. => bltn _ _ _ | .bgen .. => bgen _ _ _ | .jmp .. => jmp _
  | .jal .. => jal _ | .jr .. => jr _ _ | .div .. => div _ _ _ _ _ | .divn .. => divn _ _ _ _ _ | .rem .. => rem _ _ _ _ _
  | .remn .. => remn _ _ _ _ _ | .popc .. => popc _ _ _ | .clz .. => clz _ _ _ | .ctz .. => ctz _ _ _ | .rot .. => rot _ _ _ _
  | .bswap .. => bswap _ _ _ | .bext .. => bext _ _ _ | .bins .. => bins _ _ _ | .fadd .. => fadd _ _ _ _ | .fsub .. => fsub _ _ _ _
  | .fmul .. => fmul _ _ _ _ | .fma .. => fma _ _ _ _ | .fdiv .. => fdiv _ _ _ _ | .fsqrt .. => fsqrt _ _ _ | .fmin .. => fmin _ _ _ _
  | .fmax .. => fmax _ _ _ _ | .feq .. => feq _ _ _ _ | .flt .. => flt _ _ _ _ | .fle .. => fle _ _ _ _ | .fcvt .. => fcvt _ _ _
  | .fcls .. => fcls _ _ _ | .kget .. => kget _ _ | .kput .. => kput _ _ | .rand .. => rand _ | .vld .. => vld _ _ _ _ _ | .vst .. => vst _ _ _ _
  | .vlds .. => vlds _ _ _ _ _ | .vsts .. => vsts _ _ _ _ | .vldx .. => vldx _ _ _ _ _ | .vstx .. => vstx _ _ _ _ | .vadd .. => vadd _ _ _ _
  | .vsub .. => vsub _ _ _ _ | .vmul .. => vmul _ _ _ _ | .vfma .. => vfma _ _ _ _ | .vmin .. => vmin _ _ _ _ | .vmax .. => vmax _ _ _ _
  | .vand .. => vand _ _ _ _ | .vor .. => vor _ _ _ _ | .vxor .. => vxor _ _ _ _ | .vshl .. => vshl _ _ _ _ | .vshr .. => vshr _ _ _ _
  | .vcmpeq .. => vcmpeq _ _ _ _ | .vcmplt .. => vcmplt _ _ _ _ | .vsel .. => vsel _ _ _ _ | .vcvt .. => vcvt _ _ _ _
  | .vpack4 .. => vpack4 _ _ _ _ _ | .vunpk4 .. => vunpk4 _ _ _ | .vredsum .. => vredsum _ _ _ | .vredmax .. => vredmax _ _ _
  | .vredmin .. => vredmin _ _ _ | .vbcast .. => vbcast _ _ _ | .vext .. => vext _ _ _ _ | .vins .. => vins _ _ _ _ | .vperm .. => vperm _ _ _ _
  | .vrcp .. => vrcp _ _ _ | .vrsq .. => vrsq _ _ _ | .vexp .. => vexp _ _ _ | .vscal .. => vscal _ _ _ _ | .vmov .. => vmov _ _ _
  | .vmcnt .. => vmcnt _ _ _ | .viota .. => viota _ _ | .mlease .. => mlease _ | .mfmt .. => mfmt _ _ | .mbld .. => mbld _ _ _ _
  | .mbldg .. => mbldg _ _ _ _ | .mmul .. => mmul _ _ _ _ | .mgath .. => mgath _ _ _ _ | .mzero .. => mzero _ _ | .mdrain .. => mdrain _ _ _
  | .mwalk .. => mwalk _ _ _ | .mwait .. => mwait _ | .mpoll .. => mpoll _ _ | .cpput .. => cpput _ | .cplaunch .. => cplaunch _
  | .cpgath .. => cpgath _ _ _ | .cpscat .. => cpscat _ _ _ | .cpwait .. => cpwait _ | .cpLaunchRead .. => cpLaunchRead _
  | .sgath .. => sgath _ _ _ _ _ | .aadd .. => aadd _ _ _ _ _ | .aand .. => aand _ _ _ _ _ | .aor .. => aor _ _ _ _ _ | .amin .. => amin _ _ _ _ _
  | .amax .. => amax _ _ _ _ _ | .axchg .. => axchg _ _ _ _ _ | .acas .. => acas _ _ _ _ | .afadd .. => afadd _ _ _ _ _ | .msend .. => msend _ _
  | .hset .. => hset _ _ | .spawn .. => spawn _ | .cdarm .. => cdarm _ _ | .cddec .. => cddec _ _ | .jwait .. => jwait _ _ | .fence .. => fence _
  | .fencea .. => fencea _ | .fencer .. => fencer _ | .sfence .. => sfence _ | .barr .. => barr _ | .barw .. => barw _ | .barx .. => barx _
  | .waitge .. => waitge _ _ | .carve .. => carve _ | .sprint .. => sprint _ _ | .sprintq .. => sprintq _ | .scallRefused .. => scallRefused _
  | .rst .. => rst _ _ _ _ _ | .rstv .. => rstv _ _ _ _ _ | .rstm .. => rstm _ _ _ _ | .raadd .. => raadd _ _ _ _ _ _
  | .rafadd .. => rafadd _ _ _ _ _ _ | .racas .. => racas _ _ _ _ _ | .raxchg .. => raxchg _ _ _ _ _ _ | .rreq .. => rreq _ _ _ | .rsl .. => rsl _ _
  | .rsetc .. => rsetc _ _ _ _ | .rclose .. => rclose _ _ _ _ | .tryChoice .. => tryChoice _ _ | .trySteal .. => trySteal _ _ | .cut .. => cut _
  | .mark .. => mark _ | .otask .. => otask _ _ | .ohoriz .. => ohoriz _ | .cvdef .. => cvdef _ _ | .cvslope .. => cvslope _ _
  | .cvquant .. => cvquant _ _ | .cvfan .. => cvfan _ _ | .cvrun .. => cvrun _ | .cvstop .. => cvstop _ | .cvread .. => cvread _ _
  | .cvguard .. => cvguard _ _ | .cvsurvey .. => cvsurvey _ _ | .rlead .. => rlead _ _ | .rfollow .. => rfollow _ _ | .thset .. => thset _ _ _
  | .thprio .. => thprio _ _ | .thevict .. => thevict _ | .thdemote .. => thdemote _ | .xprobe .. => xprobe _ _ | .skget .. => skget _ _
  | .skput .. => skput _ _ | .stage .. => stage _ _ | .spill .. => spill _ _ | .tlbinv .. => tlbinv _ _ | .pinrel .. => pinrel _
  | .gstop .. => gstop _ | .gresume .. => gresume _ | .adopt .. => adopt _ _ | .teamStart .. => teamStart _ | .quantumExpire .. => quantumExpire _
  | .yieldRequest .. => yieldRequest _ | .teamSwap .. => teamSwap _ | .messageArrive .. => messageArrive _
  | .horizonReduction .. => horizonReduction _ | .copyComplete .. => copyComplete _ | .barrierPhaseComplete .. => barrierPhaseComplete _ _
  | .timerFire .. => timerFire _ | .longLatencyComplete .. => longLatencyComplete _ | .streamCommit .. => streamCommit _
  | .streamAck .. => streamAck _ | .remoteAtomicResult .. => remoteAtomicResult _ | .fabricFailure .. => fabricFailure _
  | .requestArrive .. => requestArrive _ | .requestTimeout .. => requestTimeout _ | .ualinkReadRequest .. => ualinkReadRequest _
  | .stationLinkDown .. => stationLinkDown _ | .icefieldUpdate .. => icefieldUpdate _ | .biasWindow .. => biasWindow _
  | .temperatureSample .. => temperatureSample _ _ | .hotDwellExpire .. => hotDwellExpire _ | .uncorrectableError .. => uncorrectableError _
  | .heartWrite .. => heartWrite _ | .ploadWrite .. => ploadWrite _ | .stagectlWrite .. => stagectlWrite _ | .jobMessage .. => jobMessage _
  | .attestationRequest .. => attestationRequest _ | .powerGood .. => powerGood _ | .unassignedOpcode .. => unassignedOpcode _
  | .streamGapTimeout .. => streamGapTimeout _ | .brokenStreamClear .. => brokenStreamClear _ _ | .stationLinkUp .. => stationLinkUp _
  | .portLinkChange .. => portLinkChange _ _ | .serviceCoreRemoval .. => serviceCoreRemoval _ | .nop => nop | .brk => brk | .mfree => mfree
  | .evwait => evwait | .yield => yield | .uret => uret | .scallExit => scallExit | .scallTimerArm => scallTimerArm
  | .scallTimerCancel => scallTimerCancel | .scallDestroyDeque => scallDestroyDeque | .rbegin => rbegin | .rcommit => rcommit | .rslgo => rslgo
  | .fail => fail | .oend => oend | .oabort => oabort | .rdetach => rdetach | .rrejoin => rrejoin | .tret => tret | .swapgo => swapgo
  | .launchRecordTake => launchRecordTake | .dispenserDecision => dispenserDecision | .yieldDeadline => yieldDeadline
  | .handlerStart => handlerStart | .handlerTableApply => handlerTableApply | .stealRequest => stealRequest | .stealAnswer => stealAnswer
  | .stealReplyReceive => stealReplyReceive | .readyRingPush => readyRingPush | .otaskCommit => otaskCommit | .taskAbort => taskAbort
  | .contourCrossing => contourCrossing | .surveyFire => surveyFire | .leaseGrant => leaseGrant | .leaseTimeout => leaseTimeout
  | .matrixJobComplete => matrixJobComplete | .indexWalkComplete => indexWalkComplete | .doneWordPush => doneWordPush
  | .copyInterrupt => copyInterrupt | .translationWalk => translationWalk | .pinExpire => pinExpire | .contextMigrate => contextMigrate
  | .regionTimeout => regionTimeout | .regionFailure => regionFailure | .swapTimeDue => swapTimeDue | .ridgeFlip => ridgeFlip
  | .stageComplete => stageComplete | .spillComplete => spillComplete | .sprintLeaseExpire => sprintLeaseExpire | .systemFault => systemFault
  | .faultRecordPost => faultRecordPost | .watchdogExpire => watchdogExpire | .timeLockLost => timeLockLost
  | .storeAcknowledgement => storeAcknowledgement | .sprintEnergyCharge => sprintEnergyCharge | .biasHoldExpire => biasHoldExpire
  | .timeLockRegained => timeLockRegained | .serviceWarmRestart => serviceWarmRestart | .ridgeDrain => ridgeDrain

end Sys2Proof.Laws.BuildFields
end
section
/-! SUPPORT. Encoding and decoding (R71 to R96): the fields of a well-formed instruction are fields that its row carries, so its words decode to it;
and the words that the spec writes out. -/

namespace Sys2Proof

/-! ### Well-formed instructions -/

@[simp] theorem high_zero : high 0 = false := rfl
@[simp] theorem high_ofV (x : VReg) : high (ofV x) = highV x := rfl
@[simp] theorem high_ofCode (x : Fin 8) : high (ofCode x) = false := decide_eq_false (Nat.not_le.mpr x.isLt)
@[simp] theorem ofV_val (x : VReg) : (ofV x).val = x.val := rfl
@[simp] theorem ofCode_val (x : Fin 8) : (ofCode x).val = x.val := rfl

/-- A stream instruction has the XS word where its stream or its class is not 0 (R75, R94). -/
@[simp] theorem streamWord_isSome (sid : Fin 64) (cls : Fin 4) : (streamWord sid cls).isSome = (sid != 0 || cls != 0) := by
  unfold streamWord
  split
  · rename_i h
    simp [h]
  · rename_i h
    simpa [Classical.or_iff_not_imp_left] using h

/-- Three XI words hold no more than 37 bits of an RI immediate, so the limit of the rows that have none is never met (R81). -/
theorem fitsNatural_ri {xr xp xs : Bool} {n : Nat} (h : fitsNatural (4 + 11 * room xr xp xs) n = true) : n ≤ 2 ^ 43 := by
  have width : 2 ^ (4 + 11 * room xr xp xs) ≤ 2 ^ 37 := Nat.pow_le_pow_right (by decide) (by unfold room; omega)
  have := of_decide_eq_true h
  omega

theorem carries_eq (row : Row) (F : Fields) : row.carries F =
    (row.d.carries F.d && row.a.carries F.a && row.b.carries F.b && (row.d != .code || decide (F.d.val < 5)) && (!row.dest || writable F.d) &&
        (!row.pair || isPair F.d) && (!row.pairD || blockPair F.q (vreg F.d)) && (!row.pairA || blockPair F.q (vreg F.a)) &&
      ((row.f || !F.f) && (row.q || F.q == 0) && (!row.sizes || decide (F.q.val < 4)) && (row.la || F.la == 0) && row.xs.carries F.xs) &&
      row.imm.carries (immBits row.fmt + 11 * room (high F.d || high F.a || high F.b) (F.page != 0 || F.la != 0 || F.q != 0) F.xs.isSome)
        F.q F.imm) := rfl

/-- A well-formed instruction fills fields that its row carries (R95): `Instr.wf` asks of each instruction what its row asks of the fields, but
for the numbers that name another instruction, and the limits that no immediate reaches. -/
theorem carries_fields (i : Instr) (F : Fields) (hw : i.wf = true) (hf : i.fields = some F) :
    ∃ row, rowOf F.page F.op = some row ∧ row.carries F = true := by
  cases i with
  | andi d a imm | ori d a imm | xori d a imm =>
    cases hf
    simp only [Instr.wf, Bool.and_eq_true] at hw
    exact ⟨_, rfl, by simpa [carries_eq, immBits, hw] using fitsNatural_ri hw.2⟩
  | scallExit | scallTimerArm | scallTimerCancel | scallDestroyDeque =>
    cases hf
    exact ⟨_, rfl, by decide⟩
  | cpLaunchRead d =>
    cases hf
    have launch : fitsNatural (7 + 11 * room (high d) true false) 23 = true := by cases high d <;> decide
    exact ⟨_, rfl, by simpa [carries_eq, immBits, launch, Instr.wf] using hw⟩
  | _ =>
    -- Here the row's checks are the instruction's own, one by one; a step without an encoding fills no fields.
    cases hf
    all_goals
      refine ⟨_, rfl, ?_⟩
      simp_all [carries_eq, immBits, Instr.wf]

/-- Settles O55: a well-formed instruction fills fields that its row carries (`carries_fields`), these decode from their words
(`decode_emit`), and the decoder's builder gives the instruction back (`BuildFields.statement`). -/
theorem roundTrip : Obligations.RoundTrip := by
  intro i rest hw hsome
  obtain ⟨F, hf⟩ := Option.isSome_iff_exists.mp hsome
  obtain ⟨row, hrow, hc⟩ := carries_fields i F hw hf
  have words : encode i = emit row F := by
    unfold encode
    rw [hf]
    dsimp only
    rw [hrow]
  rw [words, decode_emit rest hrow hc, Laws.BuildFields.statement i hw F hf]

/-- Settles O53: the decoder runs on each of the words that the spec writes out. -/
theorem decodeSpecWords : Obligations.DecodeSpecWords := by
  unfold Obligations.DecodeSpecWords
  constructor
  · decide +kernel
  · decide +kernel

end Sys2Proof
end

section
/-! SUPPORT. Fetching a bundle (R77 to R80): what a hit in the translation cache leaves, one word, all words of a bundle, and the step that runs
them. -/

namespace Sys2Proof.Machine

/-! ### A core's translation cache -/

/-- The state with a core's translation cache replaced. -/
def State.caching (s : State) (k : CoreId) (tlb : List TlbEntry) : State := s.setCore k { s.core k with tlb := tlb }

theorem State.caching_core (s : State) (k j : CoreId) (tlb : List TlbEntry) :
    (s.caching k tlb).core j = { s.core j with tlb := if j = k then tlb else (s.core j).tlb } := by
  by_cases h : j = k
  · subst h
    rw [State.caching, State.setCore_core, if_pos rfl]
  · rw [State.caching, State.setCore_core_other _ _ _ _ h, if_neg h]

@[simp] theorem State.caching_caching (s : State) (k : CoreId) (t u : List TlbEntry) : (s.caching k t).caching k u = s.caching k u := by
  rw [State.caching, State.caching, State.caching, State.setCore_core, State.setCore_setCore]

/-- What serves the aperture does not turn on a translation cache. -/
theorem State.caching_served (s : State) (k : CoreId) (tlb : List TlbEntry) (part : Nat) (c : CoreId) :
    (s.caching k tlb).served part c = s.served part c := by
  have scratch : ∀ b, (s.caching k tlb).scratchSize b = s.scratchSize b := fun b => by
    unfold State.scratchSize
    rw [State.caching_core]
  unfold State.served State.activeBank State.shadowBank
  simp only [State.caching_core, scratch]
  rfl

theorem State.caching_destLocs (s : State) (k : CoreId) (tlb : List TlbEntry) (p : Packet) (addr : Word) (n : Nat) :
    (s.caching k tlb).destLocs p addr n = s.destLocs p addr n := by
  unfold State.destLocs
  simp only [State.caching_served]
  rfl

theorem State.caching_routedLines (s : State) (k : CoreId) (tlb : List TlbEntry) : (s.caching k tlb).routedLines = s.routedLines := by
  funext p
  unfold State.routedLines
  simp only [State.caching_destLocs]
  rfl

theorem Table.mem_put {α : Type} {t : Table α} {k : Nat} {x : α} {e : Nat × α} (h : e ∈ Table.put t k x) : e = (k, x) ∨ e ∈ t := by
  induction t with
  | nil => exact .inl (by simpa [Table.put] using h)
  | cons d t ih =>
    unfold Table.put at h
    split at h
    · simpa using h
    · split at h
      · rcases List.mem_cons.mp h with h | h
        · exact .inl h
        · exact .inr (List.mem_cons_of_mem _ h)
      · rcases List.mem_cons.mp h with h | h
        · exact .inr (h ▸ List.mem_cons_self ..)
        · exact (ih h).imp_right (List.mem_cons_of_mem _)

theorem Table.get_mem {α : Type} (d : Nat → α) (t : Table α) (k : Nat) : Table.get d t k = d k ∨ ∃ e ∈ t, e.2 = Table.get d t k := by
  induction t with
  | nil => exact .inl rfl
  | cons e t ih =>
    unfold Table.get
    split
    · exact .inr ⟨e, List.mem_cons_self .., rfl⟩
    · exact ih.imp_right (fun ⟨x, hx, hv⟩ => ⟨x, List.mem_cons_of_mem _ hx, hv⟩)

/-- What is listed for the cores and is no matter of a translation cache, and is empty for a core at reset, is listed without a change of that
cache too. -/
theorem State.caching_listed {β : Type} (s : State) (k : CoreId) (tlb : List TlbEntry) (f : Core → List β)
    (hf : ∀ (x : Core) (t : List TlbEntry), f { x with tlb := t } = f x) (reset : f (Core.reset k) = []) {b : β}
    (h : b ∈ (s.caching k tlb).cores.flatMap (fun e => f e.2)) : b ∈ s.cores.flatMap (fun e => f e.2) := by
  obtain ⟨e, he, hb⟩ := List.mem_flatMap.mp h
  rcases Table.mem_put he with rfl | he
  · rw [hf] at hb
    rcases Table.get_mem Core.reset s.cores k with none | ⟨d, hd, hv⟩
    · rw [State.core, none, reset] at hb
      cases hb
    · exact List.mem_flatMap.mpr ⟨d, hd, hv ▸ hb⟩
  · exact List.mem_flatMap.mpr ⟨e, he, hb⟩

/-- The lines that a core's spills claim (R390). -/
def Core.spillClaims (x : Core) : List Nat :=
  x.ops.flatMap (fun o => match o with
    | .spill n d => (List.range (if n < 8 then 512 else bankBytes x.cc x.staged / 128)).map (fun i => lineOf d + i)
    | .stage _ _ => [])

/-- A translation cache claims no line. -/
theorem State.caching_claims (s : State) (k : CoreId) (tlb : List TlbEntry) {l : Nat} (h : l ∈ (s.caching k tlb).claims) : l ∈ s.claims := by
  unfold State.claims at h ⊢
  rw [State.caching_routedLines] at h
  simp only [List.mem_append] at h ⊢
  rcases h with ((ridges | surveys) | ops) | packets
  · exact .inl (.inl (.inl ridges))
  · exact .inl (.inl (.inr (s.caching_listed k tlb (fun x => x.surveys.flatMap _) (fun _ _ => rfl) rfl surveys)))
  · exact .inl (.inr (s.caching_listed k tlb Core.spillClaims (fun _ _ => rfl) rfl ops))
  · exact .inr packets

/-! ### One instruction word (R77 to R80) -/

/-- A hit in the translation cache gives the word's locations, and makes its entry the most recently used one (R419). -/
theorem fetchLocs_run {s : State} {ea : Word} {e : TlbEntry} {l : Leaf} (ha : isAperture ea = false) (hs : isService (coreOf s.cur) = false)
    (hc : s.myCore.cached s.me.part ea.toNat = some e) (hl : s.checkLeaf s.me.part .fetch e.level ea.toNat e.pte = .ok l) (hsc : l.isSC = false) :
    fetchLocs ea s = .ok (run (l.pa ea.toNat) 2, s.setCore (coreOf s.cur) (s.myCore.touch e)) := by
  unfold fetchLocs
  rw [M.bind_ok (M.get_run s), if_neg (by simp [ha]), if_neg (by simp [hs])]
  simp only [hc, hl, hsc]
  rfl

/-- A word whose lines are neither claimed, marked nor poisoned, and to which no store waits to be seen (R80, R187, R224, R424). -/
theorem fetchWord_run {s t : State} {ea : Word} {locs : List Nat} (h : fetchLocs ea s = .ok (locs, t))
    (free : ∀ a ∈ locs, lineOf a ∉ t.claims ∧ lineOf a ∉ t.poison ∧ t.readable (lineOf a) = true ∧ t.oldByte t.cur a = none) :
    fetchWord ea s = .ok (BitVec.ofNat 16 (leNat (t.loadAt locs)), t) := by
  have lines : ∀ l ∈ linesOf locs, l ∉ t.claims ∧ l ∉ t.poison ∧ t.readable l = true := by
    intro l hl
    obtain ⟨a, ha, rfl⟩ := List.mem_map.mp (List.mem_dedup.mp hl)
    obtain ⟨claims, poison, readable, -⟩ := free a ha
    exact ⟨claims, poison, readable⟩
  have claims : (linesOf locs).any t.claims.contains = false := List.any_eq_false.mpr fun l hl => by simpa using (lines l hl).1
  have poison : (linesOf locs).find? t.poison.contains = none := List.find?_eq_none.mpr fun l hl => by simpa using (lines l hl).2.1
  have readable : (linesOf locs).all t.readable = true := List.all_eq_true.mpr fun l hl => (lines l hl).2.2
  have fresh : locs.any (fun l => (t.oldByte t.cur l).isSome) = false := List.any_eq_false.mpr fun a ha => by simp [(free a ha).2.2.2]
  have consumed : consume locs t = .ok ((), t) := by
    unfold consume
    rw [M.bind_ok (M.get_run t), poison]
    rfl
  unfold fetchWord
  rw [M.bind_ok h, M.bind_ok (M.get_run t), M.bind_ok (M.await_run (by rw [claims]; rfl) .other t), M.bind_ok (M.await_run readable .other t),
    M.bind_ok consumed, fresh]
  rfl

theorem loadAt_run (s : State) (a n : Nat) : s.loadAt (run a n) = s.mem.bytes a n := by
  unfold State.loadAt
  induction n generalizing a with
  | zero => rfl
  | succ n ih =>
    have next : (fun i => a + i) ∘ Nat.succ = fun i => a + 1 + i := by
      funext i
      simp only [Function.comp_apply]
      omega
    rw [run, List.range_succ_eq_map, List.map_cons, List.map_map, next, List.map_cons, Memory.bytes, ← ih (a + 1)]
    rfl

theorem word_of_bytes (w : IWord) : BitVec.ofNat 16 (leNat (leBytes 2 w.toNat)) = w := by
  have small : w.toNat < 256 ^ 2 := w.isLt
  rw [leNat_leBytes, Nat.mod_eq_of_lt small, BitVec.ofNat_toNat, BitVec.setWidth_eq]

/-! ### The words of a bundle in one page (R76) -/

theorem cached_holds {k : Core} {part va : Nat} {e : TlbEntry} (h : k.cached part va = some e) : e.part = part ∧ e.page ≤ va ∧ va < e.page + e.size := by
  have := List.find?_some h
  simpa [and_assoc] using this

/-- The entry last used serves every address in its page (R419). -/
theorem cached_touch {k : Core} {part va vb : Nat} {e : TlbEntry} (h : k.cached part va = some e) (lo : va ≤ vb) (hi : vb < e.page + e.size) :
    (k.touch e).cached part vb = some e := by
  obtain ⟨hp, hlo, -⟩ := cached_holds h
  have holds : (e.part == part && decide (e.page ≤ vb) && decide (vb < e.page + e.size)) = true := by
    simp [hp, hi, Nat.le_trans hlo lo]
  simp [Core.cached, Core.touch, holds]

theorem pageBytes_cases (level : Nat) (big : Bool) :
    pageBytes level big = 2 ^ 30 ∨ pageBytes level big = 2 ^ 21 ∨ pageBytes level big = 2 ^ 16 ∨ pageBytes level big = 2 ^ 12 := by
  unfold pageBytes
  split
  · exact .inl rfl
  · exact .inr (.inl rfl)
  · cases big
    · exact .inr (.inr (.inr rfl))
    · exact .inr (.inr (.inl rfl))

/-- What a leaf gives an address it gives every address of its page. -/
theorem checkLeaf_page {s : State} {part level va vb : Nat} {acc : Acc} {pte : Word} {l : Leaf} (h : s.checkLeaf part acc level va pte = .ok l)
    (page : va / l.size = vb / l.size) : s.checkLeaf part acc level vb pte = .ok l := by
  unfold State.checkLeaf at h ⊢
  split at h
  · split at h
    · cases h
    · split at h
      · cases h
      · cases h
        simp_all
  · split at h
    · cases h
    · split at h
      · cases h
        simp_all
      · cases h

theorem checkLeaf_size {s : State} {part level va : Nat} {acc : Acc} {pte : Word} {l : Leaf} (h : s.checkLeaf part acc level va pte = .ok l) :
    l.size = 2 ^ 30 ∨ l.size = 2 ^ 21 ∨ l.size = 2 ^ 16 ∨ l.size = 2 ^ 12 := by
  unfold State.checkLeaf at h
  split at h
  · split at h
    · cases h
    · split at h <;> cases h
      exact pageBytes_cases _ _
  · split at h
    · cases h
    · split at h <;> cases h
      exact pageBytes_cases _ _

theorem add_two_toNat {ea : Word} {n : Nat} (size : n = 2 ^ 30 ∨ n = 2 ^ 21 ∨ n = 2 ^ 16 ∨ n = 2 ^ 12) (fits : ea.toNat % n + 2 < n) :
    (ea + 2).toNat = ea.toNat + 2 ∧ ea.toNat / n = (ea.toNat + 2) / n ∧ (ea.toNat + 2) % n = ea.toNat % n + 2 := by
  have := ea.isLt
  rw [BitVec.toNat_add, show (2 : Word).toNat = 2 from rfl]
  obtain rfl | rfl | rfl | rfl := size <;> omega

/-- A page lies in the aperture as a whole or not at all (R198). -/
theorem isAperture_page {ea eb : Word} {n : Nat} (size : n = 2 ^ 30 ∨ n = 2 ^ 21 ∨ n = 2 ^ 16 ∨ n = 2 ^ 12)
    (page : ea.toNat / n = eb.toNat / n) : isAperture eb = isAperture ea := by
  have high : ea.toNat / 2 ^ 48 = eb.toNat / 2 ^ 48 := by obtain rfl | rfl | rfl | rfl := size <;> omega
  unfold isAperture field
  rw [high]

/-- A location from which the current context fetches at once: unclaimed, sound, unmarked, and no store to it waits to be seen (R80, R187, R224,
R424). -/
def State.fetchable (s : State) (a : Nat) : Prop :=
  lineOf a ∉ s.claims ∧ lineOf a ∉ s.poison ∧ s.readable (lineOf a) = true ∧ s.oldByte s.cur a = none

theorem State.fetchable_caching {s : State} {k : CoreId} {tlb : List TlbEntry} {a : Nat} (h : s.fetchable a) : (s.caching k tlb).fetchable a := by
  obtain ⟨claims, poison, readable, old⟩ := h
  exact ⟨fun hc => claims (s.caching_claims k tlb hc), poison, readable, old⟩

/-- The current context's core holds the translation of an address, and the leaf lets a fetch through (R417, R419). -/
structure State.Hits (s : State) (ea : Word) (e : TlbEntry) (l : Leaf) : Prop where
  user : isAperture ea = false
  compute : isService (coreOf s.cur) = false
  cached : s.myCore.cached s.me.part ea.toNat = some e
  leaf : s.checkLeaf s.me.part .fetch e.level ea.toNat e.pte = .ok l
  plain : l.isSC = false

/-- The state after the current context's core has used an entry of its translation cache (R419). -/
def State.used (s : State) (e : TlbEntry) : State := s.caching (coreOf s.cur) (s.myCore.touch e).tlb

theorem State.used_eq (s : State) (e : TlbEntry) : s.used e = s.setCore (coreOf s.cur) (s.myCore.touch e) := rfl

theorem fetchWord_hit {s : State} {ea : Word} {e : TlbEntry} {l : Leaf} {w : IWord} (h : s.Hits ea e l)
    (free : ∀ a ∈ run (l.pa ea.toNat) 2, s.fetchable a) (word : s.mem.bytes (l.pa ea.toNat) 2 = leBytes 2 w.toNat) :
    fetchWord ea s = .ok (w, s.used e) := by
  have locs := fetchLocs_run h.user h.compute h.cached h.leaf h.plain
  rw [← State.used_eq] at locs
  rw [fetchWord_run locs (fun a ha => State.fetchable_caching (free a ha)), loadAt_run, show (s.used e).mem = s.mem from rfl, word, word_of_bytes]

/-- The next word of the page is a hit too. -/
theorem State.Hits.next {s : State} {ea : Word} {e : TlbEntry} {l : Leaf} (h : s.Hits ea e l) (page : ea.toNat % l.size + 2 < l.size)
    (entry : ea.toNat + 2 < e.page + e.size) : (s.used e).Hits (ea + 2) e l ∧ l.pa (ea + 2).toNat = l.pa ea.toNat + 2 := by
  have size := checkLeaf_size h.leaf
  obtain ⟨next, same, mod⟩ := add_two_toNat size page
  have core : (s.used e).myCore = s.myCore.touch e := State.setCore_core ..
  refine ⟨⟨?_, h.compute, ?_, ?_, h.plain⟩, ?_⟩
  · rw [isAperture_page size (next ▸ same), h.user]
  · rw [next, core]
    exact cached_touch h.cached (Nat.le_add_right _ 2) entry
  · rw [next]
    exact checkLeaf_page h.leaf same
  · rw [next, Leaf.pa, Leaf.pa, mod, Nat.add_assoc]

theorem Memory.bytes_append (m : Memory) (a n k : Nat) : m.bytes a (n + k) = m.bytes a n ++ m.bytes (a + n) k := by
  induction n generalizing a with
  | zero => rw [Nat.zero_add]; rfl
  | succ n ih =>
    rw [Nat.add_right_comm, Memory.bytes, ih, Memory.bytes, List.cons_append, Nat.add_right_comm a 1 n]
    rfl

theorem mem_run {a b n : Nat} : b ∈ run a n ↔ a ≤ b ∧ b < a + n := by
  simp only [run, List.mem_map, List.mem_range]
  constructor
  · rintro ⟨i, hi, rfl⟩
    omega
  · rintro ⟨lo, hi⟩
    exact ⟨b - a, by omega, by omega⟩

theorem mem_run_left {a b n k : Nat} (h : b ∈ run a n) : b ∈ run a (n + k) := by
  rw [mem_run] at h ⊢
  omega

theorem mem_run_right {a b n k : Nat} (h : b ∈ run (a + n) k) : b ∈ run a (n + k) := by
  rw [mem_run] at h ⊢
  omega

theorem bytes_two {m : Memory} {a n : Nat} {w : IWord} {xs : List Byte} (h : m.bytes a (2 + n) = leBytes 2 w.toNat ++ xs) :
    m.bytes a 2 = leBytes 2 w.toNat ∧ m.bytes (a + 2) n = xs := by
  rw [Memory.bytes_append] at h
  exact List.append_inj h (by rw [Memory.bytes_length, leBytes_length])

/-- A bundle that stands in one page, its first word a hit, is read up to its base word, and changes the order of the translation cache only
(R76, R419). -/
theorem fetchWords_run {s : State} {e : TlbEntry} {l : Leaf} (pre : List IWord) (b : IWord) {ea : Word} {fuel : Nat} (h : s.Hits ea e l)
    (hpre : pre.all isPrefix = true) (hb : isPrefix b = false) (hfuel : pre.length < fuel)
    (page : ea.toNat % l.size + 2 * (pre ++ [b]).length ≤ l.size) (entry : ea.toNat + 2 * (pre ++ [b]).length ≤ e.page + e.size)
    (free : ∀ a ∈ run (l.pa ea.toNat) (2 * (pre ++ [b]).length), s.fetchable a)
    (words : s.mem.bytes (l.pa ea.toNat) (2 * (pre ++ [b]).length) = (pre ++ [b]).flatMap (fun w => leBytes 2 w.toNat)) :
    ∃ tlb, fetchWords ea fuel s = .ok (pre ++ [b], s.caching (coreOf s.cur) tlb) := by
  obtain ⟨k, rfl⟩ : ∃ k, fuel = k + 1 := ⟨fuel - 1, by omega⟩
  induction pre generalizing s ea k with
  | nil =>
    have word := fetchWord_hit h free (bytes_two (n := 0) (xs := []) words).1
    exact ⟨_, by rw [fetchWords, M.bind_ok word, if_neg (by simp [hb])]; rfl⟩
  | cons w pre ih =>
    obtain ⟨j, rfl⟩ : ∃ j, k = j + 1 := ⟨k - 1, by rw [List.length_cons] at hfuel; omega⟩
    simp only [List.all_cons, Bool.and_eq_true] at hpre
    have len : 2 * (w :: pre ++ [b]).length = 2 + 2 * (pre ++ [b]).length := by rw [List.cons_append, List.length_cons]; omega
    have more : 0 < (pre ++ [b]).length := by simp
    rw [len] at page entry free words
    obtain ⟨first, rest⟩ := bytes_two words
    obtain ⟨next, -, mod⟩ := add_two_toNat (checkLeaf_size h.leaf) (ea := ea) (by omega)
    obtain ⟨hits, pa⟩ := h.next (by omega) (by omega)
    have word := fetchWord_hit h (fun a ha => free a (mem_run_left ha)) first
    obtain ⟨tlb, run⟩ := ih hits hpre.2 (by rw [next, mod]; omega) (by omega) (fun a ha => State.fetchable_caching (free a (mem_run_right (pa ▸ ha))))
      (by rw [pa]; exact rest) j (by rw [List.length_cons] at hfuel; omega)
    refine ⟨tlb, ?_⟩
    rw [fetchWords, M.bind_ok word, if_pos hpre.1, M.bind_ok run, State.used]
    exact congrArg (fun t => Except.ok (w :: (pre ++ [b]), t)) (State.caching_caching ..)

/-! ### The chosen context's step (R411) -/

theorem State.latch_faulted (u : State) (ws : List IWord) (c : CtxId) : ((u.setMe (u.me.latch ws)).ctx c).faulted = (u.ctx c).faulted := by
  by_cases h : c = u.cur
  · subst h
    rw [State.setMe, State.setCtx_ctx]
    rfl
  · rw [State.setMe, State.setCtx_ctx_other _ _ _ _ h]

/-- A context outside a rope whose words are fetched, with nothing to be taken between bundles, executes the instruction that they are. -/
theorem turn_run {s u : State} {c : CtxId} {ws : List IWord} (faulted : (s.ctx c).faulted = none) (region : (s.ctx c).regionFails = false)
    (intr : (s.ctx c).interruptible = false) (rope : (s.ctx c).rope = none) (words : fetchWords (s.ctx c).pc 5 (s.select c) = .ok (ws, u))
    (sound : (u.ctx c).faulted = none) : turn s c = .ok (instrOf (s.env c) ws, u.setMe (u.me.latch ws)) := by
  have ctx : (s.select c).ctx c = s.ctx c := rfl
  have follow : (s.select c).follow c = s.select c := by
    unfold State.follow
    rw [ctx, rope]
  have full : (s.select c).ropeFull c = false := by
    unfold State.ropeFull
    rw [ctx, rope]
  have forwarded : (s.select c).forwarded (s.select c).cur = none := by
    unfold State.forwarded
    rw [show (s.select c).cur = c from rfl, ctx, rope]
  have words : fetchWords (s.select c).me.pc 5 (s.select c) = .ok (ws, u) := words
  have bundle : fetchBundle (s.select c) = .ok (instrOf (s.env c) ws, u.setMe (u.me.latch ws)) := by
    unfold fetchBundle
    rw [M.bind_ok (M.get_run _)]
    simp only [forwarded]
    rw [M.bind_ok words]
    rfl
  unfold turn
  simp only [ctx, faulted, region, intr, full, follow, bundle, State.latch_faulted, sound]
  rfl

/-- Settles O56: the chosen context's turn executes what its fetched words are (`turn_run`), and words that stand in one page, their first a hit in
the translation cache, are fetched and change the order of that cache only (`fetchWords_run`). -/
theorem stepRunsDecoded : Obligations.StepRunsDecoded := by
  intro s c ws x runs agenda turnNow faulted region intr rope
  have executes : ∀ u, fetchWords x.pc 5 (s.select c) = .ok (ws, u) → (u.ctx c).faulted = none → runs (u.setMe (u.me.latch ws)) := by
    intro u words sound
    have step : step s = ticked (exec (instrOf (s.env c) ws) (u.setMe (u.me.latch ws))) := by
      unfold step autonomous runTurn
      rw [agenda]
      simp only [turnNow, turn_run faulted region intr rope words sound]
    constructor
    · intro i h
      rw [step, instrOf, h]
    · intro bad h
      rw [step, instrOf, h]
  refine ⟨executes, ?_⟩
  rintro pre b e l rfl before base short user compute cached leaf plain page entry free words
  have hits : (s.select c).Hits x.pc e l := ⟨user, compute, cached, leaf, plain⟩
  obtain ⟨tlb, fetched⟩ := fetchWords_run pre b hits before base (fuel := 5) (by omega) page entry free words
  have latched : ∀ d, (((s.select c).caching (coreOf c) tlb).setMe (x.latch (pre ++ [b]))).ctx d = if d = c then x.latch (pre ++ [b]) else s.ctx d :=
    fun d => Table.get_put ..
  refine ⟨_, executes _ fetched faulted, rfl, rfl, ?_, fun d hd => ?_, ?_, rfl, fun k hk => ?_, tlb, ?_⟩
  · exact State.setMe_me ..
  · exact (latched d).trans (if_neg hd)
  · simp [State.keepsPackage, State.caching, State.select]
  · exact State.setCore_core_other _ _ _ _ hk
  · exact State.setCore_core ..

end Sys2Proof.Machine
end

section
/-! SUPPORT. The completion of an array's or index engine's command (R175, R178 to R180, R197): what its run leaves beside memory, and what its job leaves. -/

namespace Sys2Proof.Machine

/-! ### What a command's run may change -/

/-- Only memory, poison, the caches and the homes' generations may differ. -/
def State.ButBytes (s t : State) : Prop :=
  t = { s with mem := t.mem, poison := t.poison, l1s := t.l1s, l2s := t.l2s, dirs := t.dirs, homeGens := t.homeGens }

theorem State.ButBytes.refl (s : State) : s.ButBytes s := rfl

theorem State.ButBytes.trans {s t u : State} (h : s.ButBytes t) (h' : t.ButBytes u) : s.ButBytes u := by
  unfold State.ButBytes at *
  rw [h', h]

section
variable {s t : State} (h : s.ButBytes t)
include h

theorem State.ButBytes.ctx : t.ctx = s.ctx := by rw [h]; rfl
theorem State.ButBytes.core : t.core = s.core := by rw [h]; rfl
theorem State.ButBytes.ridge : t.ridge = s.ridge := by rw [h]; rfl

end

theorem State.butBytes_foldl {α : Type} {f : State → α → State} (hf : ∀ (s : State) a, s.ButBytes (f s a)) (l : List α) (s : State) :
    s.ButBytes (l.foldl f s) := foldl_keeps State.ButBytes.refl (fun _ _ _ => State.ButBytes.trans) hf l s

theorem State.ButCaches.butBytes {s t : State} (h : s.ButCaches t) : s.ButBytes t := by
  unfold State.ButCaches at h
  rw [h]
  rfl

theorem State.butBytes_store (s : State) (loc n x : Nat) : s.ButBytes (s.store loc n x) := rfl
theorem State.butBytes_storeAt (s : State) (locs : List Nat) (data : List Byte) : s.ButBytes (s.storeAt locs data) := rfl
theorem State.butBytes_cleanseTile (s : State) (r tile : Nat) (written : Nat × Nat → Bool) : s.ButBytes (s.cleanseTile r tile written) := rfl

/-- A home's write drops copies and advances its generation (R204, R205). -/
theorem State.butBytes_stampEngine (s : State) (locs : List Nat) : s.ButBytes (s.stampEngine locs) :=
  have stamped : ∀ (u : State) (l part : Nat), u.ButBytes ((u.dropCopies l none).generation part l) := fun u l _ =>
    (u.butCaches_dropCopies l none).butBytes.trans rfl
  State.butBytes_foldl (fun u l => stamped u l _) _ s

@[simp] theorem State.dropCopies_mem (s : State) (line : Nat) (keep : Option CoreId) : (s.dropCopies line keep).mem = s.mem := by
  rw [s.butCaches_dropCopies line keep]

/-- Memory is what the stores have made it: a home's stamp leaves it. -/
@[simp] theorem State.stampEngine_mem (s : State) (locs : List Nat) : (s.stampEngine locs).mem = s.mem :=
  have stamped : ∀ (u : State) (l part : Nat), ((u.dropCopies l none).generation part l).mem = u.mem := fun u l _ => u.dropCopies_mem l none
  foldl_keeps (R := fun u v : State => v.mem = u.mem) (fun _ => rfl) (fun _ _ _ h h' => h'.trans h) (fun u l => stamped u l _) _ s

theorem State.butBytes_runLoad (s : State) (r : Nat) (rows scales : List (List Nat)) (t : QType) (col0 k0 : Nat) :
    s.ButBytes (s.runLoad r rows scales t col0 k0).1 := by
  have put : ∀ (u : State) (src dst : List Nat), u.ButBytes (((u.storeAt dst (u.loadAt src)).cleanse dst).carryPoison (src.zip dst)) :=
    fun _ _ _ => rfl
  exact (State.butBytes_foldl (fun u _ => put u _ _) _ s).trans (State.butBytes_foldl (fun u _ => put u _ _) _ _)

theorem State.butBytes_zeroOutside (s : State) (r tile row0 col0 m n : Nat) : s.ButBytes (s.zeroOutside r tile row0 col0 m n) :=
  State.butBytes_foldl (fun u i => by split <;> rfl) _ s

theorem State.butBytes_drainFrom (s : State) (r tile : Nat) (s32 : Bool) (dt : QType) (sr clear : Bool) (elems : List (Nat × Nat)) (g : Word) :
    s.ButBytes (s.drainFrom r tile s32 dt sr clear elems g).1 := by
  induction elems generalizing s g with
  | nil => exact .refl s
  | cons e es ih =>
    refine State.ButBytes.trans ?_ (ih _ _)
    split
    exacts [rfl, .refl s]

theorem State.butBytes_runDrain (s : State) (r tile : Nat) (elems : List (Nat × Nat)) (dests : List Nat) (s32 : Bool) (dt : QType)
    (sr port clear : Bool) (rng : Word) : s.ButBytes (s.runDrain r tile elems dests s32 dt sr port clear rng).state := by
  have drained : s.ButBytes (if clear then (s.drainFrom r tile s32 dt sr clear elems rng).1.cleanseTile r tile elems.contains
      else (s.drainFrom r tile s32 dt sr clear elems rng).1) := by
    split
    exacts [(s.butBytes_drainFrom ..).trans (State.butBytes_cleanseTile ..), s.butBytes_drainFrom ..]
  unfold State.runDrain
  dsimp only
  split
  · exact drained
  · exact (drained.trans (State.butBytes_storeAt ..)).trans ((State.butBytes_stampEngine ..).trans rfl)

theorem State.butBytes_runMultiply (s : State) (r : Nat) (rows scales : List (List Nat)) (ta tb : QType) (tile row0 col0 n k k0 : Nat)
    (fresh clear : Bool) : s.ButBytes (s.runMultiply r rows scales ta tb tile row0 col0 n k k0 fresh clear).state := by
  have cells := fun (f : State × Bool × Bool → Nat × Nat → State × Bool × Bool) (hf : ∀ (a : State × Bool × Bool) p, a.1.ButBytes (f a p).1)
      (l : List (Nat × Nat)) =>
    foldl_keeps (R := fun a b : State × Bool × Bool => a.1.ButBytes b.1) (fun a => State.ButBytes.refl a.1)
      (fun _ _ _ => State.ButBytes.trans) hf l (s, false, false)
  unfold State.runMultiply
  dsimp only
  refine State.ButBytes.trans ?_ (State.butBytes_cleanseTile ..)
  split
  · exact (cells _ (fun (a : State × Bool × Bool) _ => a.1.butBytes_store _ _ _) _).trans (State.butBytes_zeroOutside ..)
  · exact cells _ (fun (a : State × Bool × Bool) _ => a.1.butBytes_store _ _ _) _

theorem State.butBytes_runCmd (s : State) (r : Nat) (c : Cmd) : s.ButBytes (s.runCmd r c).state := by
  cases c with
  | load => exact s.butBytes_runLoad ..
  | multiply => exact s.butBytes_runMultiply ..
  | zero tile => exact rfl
  | drain => exact s.butBytes_runDrain ..
  | walk coords bad dests => exact (State.butBytes_storeAt ..).trans ((State.butBytes_stampEngine ..).trans rfl)

/-! ### The status of a job (R179, R197) -/

/-- A job whose status is kept as not done is done once it finishes. -/
theorem jobStatus_finishJob {kept : List JobStatus} {j : Nat} (h : jobStatus kept j = ⟨j, false, false, false⟩) (fault ovf : Bool) :
    jobStatus (finishJob kept j fault ovf) j = ⟨j, true, fault, ovf⟩ := by
  have same : (fun e : JobStatus => e.id == j) ∘ (fun e => if e.id = j then { e with done := true, fault, ovf } else e) = fun e => e.id == j := by
    funext e
    simp only [Function.comp_apply]
    split <;> rfl
  unfold jobStatus finishJob at *
  rw [List.find?_map, same]
  cases hf : kept.find? (fun e => e.id == j) with
  | none => rw [hf] at h; cases h
  | some e =>
    have id : e.id = j := by simpa using List.find?_some hf
    simp [id]

/-! ### A job that completes -/

/-- The state in which a job's command runs: the job has left its queue, and its context has noted the bytes to be overwritten (R80). -/
def State.opened (s : State) (r : Nat) (g : Ridge) (j : Job) : State := (s.setRidge r g).noteOld (some (.inr j.ctx)) j.cmd.dests

theorem State.opened_ctx (s : State) (r : Nat) (g : Ridge) (j : Job) : ∃ st un, (s.opened r g j).ctx j.ctx = { s.ctx j.ctx with stale := st, unseen := un } :=
  ⟨_, _, State.setCtx_ctx ..⟩

theorem State.keepsOthers_opened (s : State) (r : Nat) (g : Ridge) (j : Job) : s.keepsOthers (s.opened r g j) j.ctx :=
  fun _ hd => State.setCtx_ctx_other _ _ _ _ hd

/-- The context of a job gets its results at once: it stands where it was, the job's status is kept and not done, and DONE has a place. -/
structure State.Receives (s : State) (j : Job) : Prop where
  held : (s.ctx j.ctx).doneHeld = []
  room : (s.ctx j.ctx).done.length < 16
  status : Machine.jobStatus (s.core (coreOf j.ctx)).jobs j.id = ⟨j.id, false, false, false⟩
  source : (s.ctx j.ctx).source = j.source

/-- What a completed job leaves beside its command's bytes (R179, R180, R197). -/
structure State.Completed (s t : State) (j : Job) (fault : Bool) : Prop where
  done : (Machine.jobStatus (t.core (coreOf j.ctx)).jobs j.id).done = true
  fault : (Machine.jobStatus (t.core (coreOf j.ctx)).jobs j.id).fault = fault
  others : s.keepsOthers t j.ctx
  word : (t.ctx j.ctx).done = (s.ctx j.ctx).done ++ (if j.notify then [BitVec.ofNat 64 (j.id + 2 ^ 16)] else [])

theorem State.seat_of_source {s : State} {c : CtxId} {source : Nat} (h : (s.ctx c).source = source) : s.seat c source = some (.inr c) := if_pos h

/-- A job's core with the job's status done and ovf noted. -/
def Core.finishes (k : Core) (j : Job) (ran : Ran) : Core :=
  { k with ovf := k.ovf || ran.ovf, jobs := finishJob k.jobs j.id ran.fault (k.ovf || ran.ovf) }

/-- A job's context with its command's words and its DONE word. -/
def Ctx.finishes (x : Ctx) (j : Job) (ran : Ran) : Ctx :=
  let x := { x with mres := x.mres ++ ran.words, mresHeld := x.mresHeld - ran.words.length }
  if j.notify then x.pushDone (BitVec.ofNat 64 (j.id + 2 ^ 16)) else x

/-- A word that finds DONE with a place and no word before it enters it (R180). -/
theorem Ctx.finishes_done {x : Ctx} (held : x.doneHeld = []) (room : x.done.length < 16) (j : Job) (ran : Ran) :
    (x.finishes j ran).done = x.done ++ (if j.notify then [BitVec.ofNat 64 (j.id + 2 ^ 16)] else []) := by
  unfold Ctx.finishes
  split
  · simp [Ctx.pushDone, held, room]
  · exact (List.append_nil _).symm

theorem Ctx.finishes_mres (x : Ctx) (j : Job) (ran : Ran) : (x.finishes j ran).mres = x.mres ++ ran.words := by
  unfold Ctx.finishes Ctx.pushDone
  dsimp only
  split
  · split <;> rfl
  · rfl

/-- An engine meets sources without marks of ordered tasks at once (R224). -/
theorem meetEngine_run {s : State} (x : Option Ctx) {locs : List Nat} (h : ∀ l ∈ locs, s.marksOf (lineOf l) = ⟨[], []⟩) :
    meetEngine x locs s = .ok ((), s) := by
  have writers : ((linesOf locs).flatMap (fun l => (s.marksOf l).writers)).dedup = [] := by
    rw [List.dedup_eq_nil, List.flatMap_eq_nil_iff]
    intro l hl
    obtain ⟨a, ha, rfl⟩ := List.mem_map.mp (List.mem_dedup.mp hl)
    rw [h a ha]
  unfold meetEngine
  rw [M.bind_ok (M.get_run s)]
  simp only [writers]
  cases x.bind Ctx.task with
  | none => rfl
  | some r => rfl

section
variable {s : State} (r : Nat) (g : Ridge) {j : Job} (h : s.Receives j)
include h

theorem State.completeJob_eq : let ran := (s.opened r g j).runCmd r j.cmd
    (s.setRidge r g).completeJob r j =
      (ran.state.setCore (coreOf j.ctx) ((s.core (coreOf j.ctx)).finishes j ran)).setCtx j.ctx (((s.opened r g j).ctx j.ctx).finishes j ran) := by
  intro ran
  have bytes : (s.opened r g j).ButBytes ran.state := State.butBytes_runCmd ..
  have core : ran.state.core = s.core := bytes.core
  have ctx : ran.state.ctx = (s.opened r g j).ctx := bytes.ctx
  obtain ⟨st, un, hx⟩ := s.opened_ctx r g j
  have before : (s.setRidge r g).seat j.ctx j.source = some (.inr j.ctx) := State.seat_of_source h.source
  have after : (ran.state.setCore (coreOf j.ctx) ((s.core (coreOf j.ctx)).finishes j ran)).seat j.ctx j.source = some (.inr j.ctx) :=
    State.seat_of_source (by rw [State.setCore_ctx, ctx, hx]; exact h.source)
  have same : (s.setRidge r g).completeJob r j = (ran.state.setCore (coreOf j.ctx) ((ran.state.core (coreOf j.ctx)).finishes j ran)).onSeat
      ((ran.state.setCore (coreOf j.ctx) ((ran.state.core (coreOf j.ctx)).finishes j ran)).seat j.ctx j.source) (fun x => x.finishes j ran) := by
    unfold State.completeJob
    rw [before]
    rfl
  rw [same, core, after, ← ctx]
  rfl

/-- A job completes with what its command does in the state that it opens. -/
theorem State.completeJob_leaves : let ran := (s.opened r g j).runCmd r j.cmd
    let t := ((s.setRidge r g).completeJob r j).stepped
    t.mem = ran.state.mem ∧ t.ridge r = g ∧ s.Completed t j ran.fault ∧ (t.ctx j.ctx).mres = (s.ctx j.ctx).mres ++ ran.words := by
  intro ran t
  have bytes : (s.opened r g j).ButBytes ran.state := State.butBytes_runCmd ..
  obtain ⟨st, un, hx⟩ := s.opened_ctx r g j
  have eq : t = ((ran.state.setCore (coreOf j.ctx) ((s.core (coreOf j.ctx)).finishes j ran)).setCtx j.ctx
      (((s.opened r g j).ctx j.ctx).finishes j ran)).stepped := congrArg State.stepped (State.completeJob_eq r g h)
  have core : t.core (coreOf j.ctx) = (s.core (coreOf j.ctx)).finishes j ran := by
    rw [eq]
    exact State.setCore_core ..
  have ctx : t.ctx j.ctx = ({ s.ctx j.ctx with stale := st, unseen := un } : Ctx).finishes j ran := by
    rw [eq, ← hx]
    exact State.setCtx_ctx ..
  have status := jobStatus_finishJob h.status ran.fault ((s.core (coreOf j.ctx)).ovf || ran.ovf)
  refine ⟨by rw [eq]; rfl, ?_, ⟨?_, ?_, fun d hd => ?_, ?_⟩, ?_⟩
  · rw [eq]
    show ran.state.ridge r = g
    rw [bytes.ridge]
    exact State.setRidge_ridge ..
  · rw [core]
    exact congrArg JobStatus.done status
  · rw [core]
    exact congrArg JobStatus.fault status
  · rw [eq]
    refine (State.setCtx_ctx_other _ _ _ _ hd).trans ?_
    show ran.state.ctx d = s.ctx d
    rw [bytes.ctx]
    exact s.keepsOthers_opened r g j d hd
  · rw [ctx]
    exact Ctx.finishes_done (x := { s.ctx j.ctx with stale := st, unseen := un }) h.held h.room j ran
  · rw [ctx]
    exact Ctx.finishes_mres ..

end

/-- The oldest command of an array, its sources without marks of ordered tasks, completes (R175, R224). -/
theorem exec_matrixJobComplete {s : State} {j : Job} {rest : List Job} (hj : (s.ridge (ridgeOf s.focus)).jobs = j :: rest)
    (hm : ∀ l ∈ j.cmd.sources, s.marksOf (lineOf l) = ⟨[], []⟩) :
    exec .matrixJobComplete s = .next
      ((s.setRidge (ridgeOf s.focus) { s.ridge (ridgeOf s.focus) with jobs := rest }).completeJob (ridgeOf s.focus) j).stepped := by
  refine runStep_ok ?_
  rw [M.bind_ok (M.get_run s)]
  simp only [hj]
  rw [M.bind_ok (meetEngine_run _ hm)]
  rfl

theorem exec_indexWalkComplete {s : State} {j : Job} {rest : List Job} (hj : (s.ridge (ridgeOf s.focus)).walks = j :: rest) :
    exec .indexWalkComplete s = .next
      ((s.setRidge (ridgeOf s.focus) { s.ridge (ridgeOf s.focus) with walks := rest }).completeJob (ridgeOf s.focus) j).stepped := by
  refine runStep_ok ?_
  rw [M.bind_ok (M.get_run s)]
  simp only [hj]
  rfl

end Sys2Proof.Machine
end

section
/-! SUPPORT. Bytes that a command writes (R2, R173, R174, R192 to R195): stores at listed locations, copies of rows, tile elements stored one after
another and ranges zeroed; and that a rounded number fits its format. -/

namespace Sys2Proof.Machine

/-! ### Stores at listed locations -/

theorem State.storeAt_cons (s : State) (l : Nat) (locs : List Nat) (x : Byte) (data : List Byte) :
    s.storeAt (l :: locs) (x :: data) = ({ s with mem := s.mem.write l x } : State).storeAt locs data := rfl

/-- Bytes stored leave every location but those that they go to; locations past the data take none. -/
theorem State.read_storeAt_other (s : State) {locs : List Nat} {data : List Byte} {a : Nat} (h : a ∉ locs.take data.length) :
    (s.storeAt locs data).mem.read a = s.mem.read a := by
  induction locs generalizing s data with
  | nil => rfl
  | cons l locs ih =>
    cases data with
    | nil => rfl
    | cons x data =>
      rw [List.length_cons, List.take_succ_cons, List.mem_cons, not_or] at h
      rw [State.storeAt_cons, ih _ h.2]
      exact (s.mem.read_write l a x).trans (if_neg h.1)

/-- Bytes stored at distinct locations are read back. -/
theorem State.loadAt_storeAt (s : State) {locs : List Nat} {data : List Byte} (nodup : locs.Nodup) (len : data.length ≤ locs.length) :
    (s.storeAt locs data).loadAt (locs.take data.length) = data := by
  induction locs generalizing s data with
  | nil =>
    obtain rfl := List.length_eq_zero_iff.mp (Nat.le_zero.mp len)
    rfl
  | cons l locs ih =>
    cases data with
    | nil => rfl
    | cons x data =>
      obtain ⟨new, nodup⟩ := List.nodup_cons.mp nodup
      have head : (({ s with mem := s.mem.write l x } : State).storeAt locs data).mem.read l = x := by
        rw [State.read_storeAt_other _ fun hl => new (List.mem_of_mem_take hl)]
        exact (s.mem.read_write l l x).trans (if_pos rfl)
      rw [State.storeAt_cons, List.length_cons, List.take_succ_cons, State.loadAt, List.map_cons, head]
      exact congrArg (x :: ·) (ih _ nodup (Nat.le_of_succ_le_succ len))

theorem State.loadAt_congr {s t : State} {locs : List Nat} (h : ∀ a ∈ locs, t.mem.read a = s.mem.read a) : t.loadAt locs = s.loadAt locs :=
  List.map_congr_left h

theorem run_length (a n : Nat) : (run a n).length = n := by simp [run]

theorem run_nodup (a n : Nat) : (run a n).Nodup := List.nodup_range.map fun _ _ h => Nat.add_left_cancel h

/-! ### Copies of rows (R192) -/

/-- A row of bytes copied to other locations, its poison with it. -/
def State.copyRow (s : State) (m : List Nat × List Nat) : State := ((s.storeAt m.2 (s.loadAt m.1)).cleanse m.2).carryPoison (m.1.zip m.2)

theorem State.read_copyRow_other (s : State) {m : List Nat × List Nat} {a : Nat} (h : a ∉ m.2) : (s.copyRow m).mem.read a = s.mem.read a :=
  s.read_storeAt_other fun ha => h (List.mem_of_mem_take ha)

theorem State.loadAt_copyRow (s : State) {m : List Nat × List Nat} (len : m.1.length = m.2.length) (nodup : m.2.Nodup) :
    (s.copyRow m).loadAt m.2 = s.loadAt m.1 := by
  have full : (s.loadAt m.1).length = m.2.length := (List.length_map ..).trans len
  have arrived := s.loadAt_storeAt nodup full.le
  rwa [full, List.take_length] at arrived

/-- Rows of bytes copied one after another. -/
def State.copyRows (s : State) (moves : List (List Nat × List Nat)) : State := moves.foldl State.copyRow s

theorem State.read_copyRows_other (s : State) {moves : List (List Nat × List Nat)} {a : Nat} (h : ∀ m ∈ moves, a ∉ m.2) :
    (s.copyRows moves).mem.read a = s.mem.read a := by
  induction moves generalizing s with
  | nil => rfl
  | cons m moves ih =>
    exact (ih _ fun n hn => h n (List.mem_cons_of_mem _ hn)).trans (s.read_copyRow_other (h m (List.mem_cons_self ..)))

/-- Each row arrives as it was where destinations are disjoint and no row is read at a destination. -/
theorem State.loadAt_copyRows (s : State) {moves : List (List Nat × List Nat)} (len : ∀ m ∈ moves, m.1.length = m.2.length)
    (nodup : ∀ m ∈ moves, m.2.Nodup) (apart : moves.Pairwise fun m n => m.2.Disjoint n.2)
    (clear : ∀ m ∈ moves, ∀ n ∈ moves, m.1.Disjoint n.2) : ∀ m ∈ moves, (s.copyRows moves).loadAt m.2 = s.loadAt m.1 := by
  induction moves generalizing s with
  | nil => exact nofun
  | cons m moves ih =>
    obtain ⟨first, apart⟩ := List.pairwise_cons.mp apart
    have self : m ∈ m :: moves := List.mem_cons_self ..
    have tail : ∀ {n}, n ∈ moves → n ∈ m :: moves := fun hn => List.mem_cons_of_mem _ hn
    intro n hn
    rcases List.mem_cons.mp hn with rfl | hn
    · have kept : (s.copyRows (n :: moves)).loadAt n.2 = (s.copyRow n).loadAt n.2 :=
        State.loadAt_congr fun a ha => (s.copyRow n).read_copyRows_other fun k hk h => first k hk ha h
      exact kept.trans (s.loadAt_copyRow (len n self) (nodup n self))
    · have later := ih (s.copyRow m) (fun k hk => len k (tail hk)) (fun k hk => nodup k (tail hk)) apart
        (fun k hk l hl => clear k (tail hk) l (tail hl)) n hn
      exact later.trans (State.loadAt_congr fun a ha => s.read_copyRow_other fun h => clear n (tail hn) m self ha h)

/-! ### Tile elements (R174) -/

/-- Elements of a tile stand apart. -/
theorem tileLoc_apart {r tile i j i' j' : Nat} (hj : j < 256) (hj' : j' < 256) (h : (i, j) ≠ (i', j')) :
    tileLoc r tile i j + 4 ≤ tileLoc r tile i' j' ∨ tileLoc r tile i' j' + 4 ≤ tileLoc r tile i j := by
  have cells : i ≠ i' ∨ j ≠ j' := by
    by_contra same
    push Not at same
    exact h (by rw [same.1, same.2])
  unfold tileLoc ridgeLoc
  omega

section
variable {α : Type} (loc val : α → Nat)

/-- Numbers of 32 bits stored one after another. -/
def State.storeEach (s : State) (es : List α) : State := es.foldl (fun u e => u.store (loc e) 4 (val e)) s

theorem State.load_storeEach_other (s : State) {es : List α} {a : Nat} (h : ∀ e ∈ es, a + 4 ≤ loc e ∨ loc e + 4 ≤ a) :
    (s.storeEach loc val es).load a 4 = s.load a 4 := by
  induction es generalizing s with
  | nil => rfl
  | cons e es ih =>
    exact (ih _ fun d hd => h d (List.mem_cons_of_mem _ hd)).trans (State.load_store_other _ _ (h e (List.mem_cons_self ..)))

theorem State.load_storeEach (s : State) {es : List α} {e : α} (he : e ∈ es) (fits : val e < 2 ^ 32)
    (apart : ∀ d ∈ es, d ≠ e → loc e + 4 ≤ loc d ∨ loc d + 4 ≤ loc e) : (s.storeEach loc val es).load (loc e) 4 = val e := by
  induction es generalizing s with
  | nil => exact absurd he (List.not_mem_nil)
  | cons d es ih =>
    have rest := fun c hc => apart c (List.mem_cons_of_mem _ hc)
    by_cases hes : e ∈ es
    · exact ih _ hes rest
    · obtain rfl : e = d := (List.mem_cons.mp he).resolve_right hes
      refine (State.load_storeEach_other loc val _ fun c hc => rest c hc ?_).trans (s.load_store_fits _ fits)
      rintro rfl
      exact hes hc

theorem State.storeEach_mem (s : State) (es : List α) :
    (s.storeEach loc val es).mem = es.foldl (fun m e => m.writes (loc e) (leBytes 4 (val e))) s.mem := by
  induction es generalizing s with
  | nil => rfl
  | cons e es ih => exact ih _

end

/-! ### Ranges that are zeroed (R184, R194) -/

theorem leNat_zeros {bs : List Byte} (h : ∀ b ∈ bs, b = 0) : leNat bs = 0 := by
  induction bs with
  | nil => rfl
  | cons b bs ih => rw [leNat, h b (List.mem_cons_self ..), ih fun c hc => h c (List.mem_cons_of_mem _ hc)]; rfl

theorem State.load_zeros {s : State} {a n : Nat} (h : ∀ i, i < n → s.mem.read (a + i) = 0) : s.load a n = 0 := by
  rw [State.load, ← loadAt_run]
  refine leNat_zeros fun b hb => ?_
  obtain ⟨l, hl, rfl⟩ := List.mem_map.mp hb
  obtain ⟨i, hi, rfl⟩ := List.mem_map.mp hl
  exact h i (List.mem_range.mp hi)

theorem State.load_zeroRange_inside (s : State) {dst n a k : Nat} (lo : dst ≤ a) (hi : a + k ≤ dst + n) : (s.zeroRange dst n).load a k = 0 := by
  refine State.load_zeros fun i hi' => ?_
  obtain ⟨d, hd⟩ : ∃ d, a + i = dst + d := ⟨a + i - dst, by omega⟩
  rw [hd]
  exact s.read_zeroRange_inside dst n (by omega)

theorem State.load_zeroRange_outside (s : State) {dst n a k : Nat} (h : a + k ≤ dst ∨ dst + n ≤ a) : (s.zeroRange dst n).load a k = s.load a k :=
  congrArg leNat (Memory.bytes_congr fun b hb hb' => s.read_zeroRange_outside dst n (by omega))

/-! ### Rounded numbers fit their format (R97, R104) -/

theorem Fmt.magnitudes (f : Fmt) : f.infBits < 2 ^ (f.ebits + f.frac) ∧ f.maxBits < 2 ^ (f.ebits + f.frac) ∧ f.nan < 2 ^ f.width := by
  cases f <;> decide

theorem Fmt.signed_lt {f : Fmt} {mag : Nat} (neg : Bool) (h : mag < 2 ^ (f.ebits + f.frac)) : f.signed neg mag < 2 ^ f.width := by
  have top : 2 ^ f.width = 2 ^ (f.ebits + f.frac) + 2 ^ (f.ebits + f.frac) := by
    rw [Fmt.width, Nat.add_assoc, Nat.add_comm, Nat.pow_succ]
    omega
  unfold Fmt.signed
  split <;> omega

theorem Fmt.encode_lt (f : Fmt) (rm : Rounding) (v : Val) : f.encode rm v < 2 ^ f.width := by
  obtain ⟨inf, max, nan⟩ := f.magnitudes
  have capped : ∀ mag, (if f.maxBits < mag then f.infBits else mag) < 2 ^ (f.ebits + f.frac) := fun mag => by
    split <;> omega
  cases v with
  | nan => exact nan
  | inf neg => exact Fmt.signed_lt neg inf
  | fin neg m e =>
    simp only [Fmt.encode]
    split
    · exact Fmt.signed_lt neg (Nat.two_pow_pos _)
    · exact Fmt.signed_lt neg (capped _)

theorem wrapBits_lt (w : Nat) (i : Int) : wrapBits w i < 2 ^ w := by
  have pos : (0 : Int) < 2 ^ w := by positivity
  have lo := Int.emod_nonneg i pos.ne'
  have hi := Int.emod_lt_of_pos i pos
  unfold wrapBits
  zify
  rw [Int.toNat_of_nonneg lo]
  exact hi

theorem accumulateF32_lt {c : Nat} (hc : c < 2 ^ 32) (as bs : List Val) : accumulateF32 c as bs < 2 ^ 32 :=
  List.foldlRecOn (motive := fun x => x < 2 ^ 32) _ _ hc fun _ _ _ _ => Fmt.encode_lt .f32 .rne _

theorem accumulateS32_lt {c : Nat} (hc : c < 2 ^ 32) (as bs : List Int) : (accumulateS32 c as bs).1 < 2 ^ 32 :=
  List.foldlRecOn (motive := fun x : Nat × Bool => x.1 < 2 ^ 32) _ _ hc fun _ _ _ _ => wrapBits_lt 32 _

/-- An element's bits as a signed integer (R6). -/
theorem toSigned_eq_toInt {w : Nat} (hw : 0 < w) (x : Nat) : toSigned w x = (BitVec.ofNat w x).toInt := by
  obtain ⟨k, rfl⟩ : ∃ k, w = k + 1 := ⟨w - 1, by omega⟩
  have half : x % 2 ^ (k + 1) < 2 ^ k ↔ 2 * (x % 2 ^ (k + 1)) < 2 ^ (k + 1) := by
    rw [Nat.pow_succ]
    omega
  rw [toSigned, BitVec.toInt_eq_toNat_cond, BitVec.toNat_ofNat, Nat.add_sub_cancel]
  simp only [half]
  norm_cast

end Sys2Proof.Machine
end

section
/-! SUPPORT. What loads, multiplies and drains write (R107, R108, R173, R174, R192 to R195): rows in slices of the B store, sums in a tile's window,
and converted elements at their destinations. -/

namespace Sys2Proof.Machine

/-! ### Slices of the B store (R173) -/

theorem elemRun_fits {t : QType} {k0 k : Nat} (cap : k0 + k ≤ sliceCapacity t) (blocks : t = 7 → k % 32 = 0 ∧ k0 % 32 = 0) :
    elemRun t k0 + elemRun t k ≤ if t = 7 then 57344 else 65536 := by
  unfold elemRun sliceCapacity at *
  split
  · rename_i ht
    rw [if_pos ht] at cap
    have := blocks ht
    omega
  · rename_i ht
    rw [if_neg ht] at cap
    rw [← Nat.add_mul]
    exact (Nat.mul_le_mul_right _ cap).trans (Nat.div_mul_le_self ..)

section
variable {r c : Nat} {t : QType} {k0 k : Nat} (cap : k0 + k ≤ sliceCapacity t) (blocks : t = 7 → k % 32 = 0 ∧ k0 % 32 = 0)
include cap blocks

/-- The elements of a slice lie in its 64 KiB, those of q4 below its scale bytes. -/
theorem sliceLocs_bounds {a : Nat} (h : a ∈ sliceLocs r c t k0 k) :
    sliceLoc r c 0 ≤ a ∧ a < sliceLoc r c 0 + if t = 7 then 57344 else 65536 := by
  have fits := elemRun_fits cap blocks
  rw [sliceLocs, mem_run] at h
  unfold sliceLoc ridgeLoc at *
  omega

/-- The scale bytes of a slice lie in the end of its 64 KiB. -/
theorem sliceScales_bounds {a : Nat} (h : a ∈ sliceScales r c t k0 k) : t = 7 ∧ sliceLoc r c 0 + 57344 ≤ a ∧ a < sliceLoc r c 0 + 65536 := by
  unfold sliceScales at h
  split at h
  · rename_i ht
    have := blocks ht
    rw [sliceCapacity, if_pos ht] at cap
    rw [mem_run] at h
    refine ⟨ht, ?_⟩
    unfold sliceLoc ridgeLoc at *
    omega
  · exact absurd h List.not_mem_nil

end

/-! ### A load (R192) -/

theorem zip_range_eq {α : Type} (xs : List α) (d : α) : xs.zip (List.range xs.length) = (List.range xs.length).map (fun n => (xs.getD n d, n)) :=
  List.ext_getElem (by simp) fun n h h' => by
    simp only [List.length_zip, List.length_range, Nat.min_self] at h
    simp [h]

theorem getD_mem {α : Type} {xs : List α} {n : Nat} (h : n < xs.length) (d : α) : xs.getD n d ∈ xs := by
  rw [List.getD_eq_getElem _ _ h]
  exact List.getElem_mem _

/-- What a load copies where: its rows, then its rows' scale bytes. -/
def loadMoves (r : Nat) (rows scales : List (List Nat)) (t : QType) (col0 k0 k : Nat) : List (List Nat × List Nat) :=
  (List.range rows.length).map (fun n => (rows.getD n [], sliceLocs r (col0 + n) t k0 k)) ++
  (List.range scales.length).map (fun n => (scales.getD n [], sliceScales r (col0 + n) t k0 k))

theorem mem_loadMoves {r : Nat} {rows scales : List (List Nat)} {t : QType} {col0 k0 k : Nat} {m : List Nat × List Nat} :
    m ∈ loadMoves r rows scales t col0 k0 k ↔ (∃ n < rows.length, m = (rows.getD n [], sliceLocs r (col0 + n) t k0 k)) ∨
      (∃ n < scales.length, m = (scales.getD n [], sliceScales r (col0 + n) t k0 k)) := by
  simp [loadMoves, eq_comm]

section
variable {s : State} {r : Nat} {rows scales : List (List Nat)} {t : QType} {col0 k0 k : Nat} (cap : k0 + k ≤ sliceCapacity t)
  (blocks : t = 7 → k % 32 = 0 ∧ k0 % 32 = 0) (cols : col0 + rows.length ≤ 256) (rowLen : ∀ row ∈ rows, row.length = elemRun t k)
  (count : scales.length = if t = 7 then rows.length else 0) (scaleLen : ∀ row ∈ scales, row.length = k / 32)

include count in
/-- Only rows of q4 have scale bytes. -/
theorem q4_of_scales {row : List Nat} (h : row ∈ scales) : t = 7 := by
  by_contra ht
  rw [if_neg ht] at count
  exact absurd (List.length_eq_zero_iff.mp count ▸ h) List.not_mem_nil

include blocks rowLen count scaleLen in
/-- A load finds k by the lengths of its rows. -/
theorem State.runLoad_eq : (s.runLoad r rows scales t col0 k0).1 = s.copyRows (loadMoves r rows scales t col0 k0 k) := by
  have rowK : ∀ row ∈ rows, (if t = 7 then row.length * 2 else row.length / (laneWidth t / 8)) = k := fun row hrow => by
    rw [rowLen row hrow, elemRun]
    split
    · have := (blocks ‹_›).1
      omega
    · rename_i ht
      have width : ∀ q : QType, ¬q = 7 → 0 < laneWidth q / 8 := by decide
      exact Nat.mul_div_cancel _ (width t ht)
  have scaleK : ∀ row ∈ scales, row.length * 32 = k := fun row hrow => by
    have := (blocks (q4_of_scales count hrow)).1
    rw [scaleLen row hrow]
    omega
  unfold State.runLoad State.copyRows loadMoves
  dsimp only
  rw [List.foldl_append, List.foldl_map, List.foldl_map, zip_range_eq rows [], zip_range_eq scales [], List.foldl_map, List.foldl_map]
  refine (List.foldl_ext _ _ _ fun u n hn => ?_).trans (congrArg (fun v => List.foldl _ v _) (List.foldl_ext _ _ _ fun u n hn => ?_))
  · exact congrArg (fun k => u.copyRow (scales.getD n [], sliceScales r (col0 + n) t k0 k)) (scaleK _ (getD_mem (List.mem_range.mp hn) []))
  · exact congrArg (fun k => u.copyRow (rows.getD n [], sliceLocs r (col0 + n) t k0 k)) (rowK _ (getD_mem (List.mem_range.mp hn) []))

include cap blocks cols count in
/-- A load writes in 256 slices' 64 KiB each. -/
theorem loadMoves_bounds {m : List Nat × List Nat} (h : m ∈ loadMoves r rows scales t col0 k0 k) {a : Nat} (ha : a ∈ m.2) :
    ridgeLoc r 0 ≤ a ∧ a < ridgeLoc r (2 ^ 25) := by
  have few : scales.length ≤ rows.length := by rw [count]; split <;> omega
  rcases mem_loadMoves.mp h with ⟨n, hn, rfl⟩ | ⟨n, hn, rfl⟩
  · have bounds := sliceLocs_bounds cap blocks ha
    have top : (if t = 7 then 57344 else 65536) ≤ 65536 := by split <;> omega
    unfold sliceLoc ridgeLoc at *
    omega
  · obtain ⟨-, bounds⟩ := sliceScales_bounds cap blocks ha
    unfold sliceLoc ridgeLoc at *
    omega

include cap blocks in
/-- A load's rows and their scale bytes go to different places. -/
theorem loadMoves_apart : (loadMoves r rows scales t col0 k0 k).Pairwise fun m n => m.2.Disjoint n.2 := by
  have slots : ∀ {f : Nat → List Nat}, (∀ n, ∀ a ∈ f n, sliceLoc r (col0 + n) 0 ≤ a ∧ a < sliceLoc r (col0 + n) 0 + 65536) →
      ∀ {x y : Nat}, x ≠ y → (f x).Disjoint (f y) := fun bounds x y hxy a hx hy => by
    have hx := bounds _ a hx
    have hy := bounds _ a hy
    unfold sliceLoc ridgeLoc at hx hy
    omega
  refine List.pairwise_append.mpr
    ⟨List.pairwise_map.mpr (List.nodup_range.imp fun hxy => slots (f := fun n => sliceLocs r (col0 + n) t k0 k) (fun n a ha => ?_) hxy),
    List.pairwise_map.mpr (List.nodup_range.imp fun hxy => slots (f := fun n => sliceScales r (col0 + n) t k0 k) (fun n a ha => ?_) hxy),
    fun m hm n hn => ?_⟩
  · have bounds := sliceLocs_bounds cap blocks ha
    split at bounds <;> omega
  · have bounds := sliceScales_bounds cap blocks ha
    omega
  · obtain ⟨x, -, rfl⟩ := List.mem_map.mp hm
    obtain ⟨y, -, rfl⟩ := List.mem_map.mp hn
    intro a hx hy
    obtain ⟨ht, hy⟩ := sliceScales_bounds cap blocks hy
    have hx := sliceLocs_bounds cap blocks hx
    rw [if_pos ht] at hx
    unfold sliceLoc ridgeLoc at hx hy
    omega

include cap blocks cols rowLen count scaleLen in
/-- A load copies each row, and for q4 its scale bytes, to its slice, and nothing else (R192). -/
theorem State.runLoad_copies (outside : ∀ l ∈ (rows ++ scales).flatten, ¬(ridgeLoc r 0 ≤ l ∧ l < ridgeLoc r (2 ^ 25))) :
    let u := (s.runLoad r rows scales t col0 k0).1
    (∀ n, n < rows.length → u.loadAt (sliceLocs r (col0 + n) t k0 k) = s.loadAt (rows.getD n []) ∧
      u.loadAt (sliceScales r (col0 + n) t k0 k) = s.loadAt (scales.getD n [])) ∧
    s.keepsMemory u ((List.range rows.length).flatMap (fun n => sliceLocs r (col0 + n) t k0 k ++ sliceScales r (col0 + n) t k0 k)) := by
  have few : scales.length ≤ rows.length := by rw [count]; split <;> omega
  have scale : ∀ n, n < scales.length → scales.getD n [] ∈ scales ∧ t = 7 := fun n hn =>
    ⟨getD_mem hn [], q4_of_scales count (getD_mem hn [])⟩
  have arrives := s.loadAt_copyRows (moves := loadMoves r rows scales t col0 k0 k) (fun m hm => ?_) (fun m hm => ?_) (loadMoves_apart cap blocks)
    (fun m hm n hn a ha ha' => outside a ?_ (loadMoves_bounds cap blocks cols count hn ha'))
  · rw [State.runLoad_eq blocks rowLen count scaleLen]
    refine ⟨fun n hn => ⟨arrives _ (mem_loadMoves.mpr (.inl ⟨n, hn, rfl⟩)), ?_⟩, fun a ha => s.read_copyRows_other fun m hm ha' => ha ?_⟩
    · by_cases ht : t = 7
      · exact arrives _ (mem_loadMoves.mpr (.inr ⟨n, by rwa [count, if_pos ht], rfl⟩))
      · rw [sliceScales, if_neg ht, List.getD_eq_default _ _ (by rw [count, if_neg ht]; omega)]
        rfl
    · rw [List.mem_flatMap]
      rcases mem_loadMoves.mp hm with ⟨n, hn, rfl⟩ | ⟨n, hn, rfl⟩
      · exact ⟨n, List.mem_range.mpr hn, List.mem_append_left _ ha'⟩
      · exact ⟨n, List.mem_range.mpr (by omega), List.mem_append_right _ ha'⟩
  · rcases mem_loadMoves.mp hm with ⟨n, hn, rfl⟩ | ⟨n, hn, rfl⟩
    · rw [sliceLocs, run_length, rowLen _ (getD_mem hn [])]
    · obtain ⟨mem, ht⟩ := scale n hn
      rw [sliceScales, if_pos ht, run_length, scaleLen _ mem]
  · rcases mem_loadMoves.mp hm with ⟨n, hn, rfl⟩ | ⟨n, hn, rfl⟩
    · exact run_nodup _ _
    · rw [sliceScales, if_pos (scale n hn).2]
      exact run_nodup _ _
  · rw [List.mem_flatten]
    rcases mem_loadMoves.mp hm with ⟨n, hn, rfl⟩ | ⟨n, hn, rfl⟩
    · exact ⟨_, List.mem_append_left _ (getD_mem hn []), ha⟩
    · exact ⟨_, List.mem_append_right _ (scale n hn).1, ha⟩

end

/-! ### A multiply (R107, R108, R193) -/

/-- Elements that are stored one after another, each with its two notes. -/
theorem foldl_cells {α : Type} (s : State) (loc : α → Nat) (x : α → Nat × Bool × Bool) (es : List α) (a b : Bool) :
    es.foldl (fun acc p => (acc.1.store (loc p) 4 (x p).1, acc.2.1 || (x p).2.1, acc.2.2 || (x p).2.2)) (s, a, b) =
      (s.storeEach loc (fun p => (x p).1) es, a || es.any (fun p => (x p).2.1), b || es.any (fun p => (x p).2.2)) := by
  induction es generalizing s a b with
  | nil => simp [State.storeEach]
  | cons e es ih => rw [List.foldl_cons, ih]; simp [State.storeEach, Bool.or_assoc]

/-- Every pair of a row of a multiply and a column of its window. -/
def cellsOf (m n : Nat) : List (Nat × Nat) := (List.range m).flatMap (fun i => (List.range n).map (fun c => (i, c)))

theorem mem_cellsOf {m n : Nat} {p : Nat × Nat} : p ∈ cellsOf m n ↔ p.1 < m ∧ p.2 < n := by
  simp [cellsOf, Prod.ext_iff]

/-- What a multiply computes for a row and a column of its window. -/
def State.sumAt (s : State) (r : Nat) (rows scales : List (List Nat)) (ta tb : QType) (tile row0 col0 k k0 : Nat) (fresh : Bool) (p : Nat × Nat) :
    Nat × Bool × Bool :=
  let loc := tileLoc r tile (row0 + p.1) (col0 + p.2)
  s.multiplyElem r ta tb (if fresh then 0 else s.load loc 4) (!fresh && s.poisoned (run loc 4)) (rows.getD p.1 []) (scales.getD p.1 []) (col0 + p.2) k0 k

theorem State.poisoned_clean {s : State} (h : s.poison = []) (locs : List Nat) : s.poisoned locs = false := by
  simp [State.poisoned, h]

/-- An element without poison is the sum of its products (R107, R108). -/
theorem State.multiplyElem_clean {s : State} (h : s.poison = []) (r : Nat) (ta tb : QType) (c : Nat) (row scale : List Nat) (col k0 k : Nat) :
    let ints (ls : List Nat) : List Int := ls.map (fun l => (s.mem.read l).toInt)
    let x := s.multiplyElem r ta tb c false row scale col k0 k
    x.2.2 = false ∧ x.1 = if ta = 6 then (accumulateS32 c (ints row) (ints (sliceLocs r col tb k0 k))).1
      else accumulateF32 c (s.values ta k row scale) (s.values tb k (sliceLocs r col tb k0 k) (sliceScales r col tb k0 k)) := by
  intro ints x
  have signed : ∀ ls : List Nat, (s.nums ls).map (toSigned 8) = ints ls := fun ls => by
    simp [State.nums, ints, toSigned_eq_toInt]
  have x_eq : x = s.multiplyElem r ta tb c false row scale col k0 k := rfl
  unfold State.multiplyElem at x_eq
  simp only [State.poisoned_clean h, Bool.or_self, Bool.false_eq_true, if_false, signed] at x_eq
  rw [x_eq]
  split <;> exact ⟨rfl, rfl⟩

/-- One row of what a multiply zeroes outside its window. -/
def State.zeroRow (r tile row0 col0 m n : Nat) (s : State) (i : Nat) : State :=
  if row0 ≤ i ∧ i < row0 + m then
    (s.zeroRange (tileLoc r tile i 0) (4 * col0)).zeroRange (tileLoc r tile i (col0 + n)) (4 * (256 - col0 - n))
  else s.zeroRange (tileLoc r tile i 0) 1024

theorem State.load_zeroRow (s : State) {r tile row0 col0 m n i i' c : Nat} (cols : col0 + n ≤ 256) (hc : c < 256) :
    (s.zeroRow r tile row0 col0 m n i').load (tileLoc r tile i c) 4 =
      if i' = i ∧ ¬(row0 ≤ i ∧ i < row0 + m ∧ col0 ≤ c ∧ c < col0 + n) then 0 else s.load (tileLoc r tile i c) 4 := by
  unfold State.zeroRow
  by_cases hi : i' = i
  · subst hi
    simp only [true_and]
    by_cases hm : row0 ≤ i' ∧ i' < row0 + m
    · rw [if_pos hm]
      rcases lt_or_ge c col0 with lo | lo
      · rw [if_pos (by omega), State.load_zeroRange_outside _ (by unfold tileLoc ridgeLoc; omega)]
        exact s.load_zeroRange_inside (by unfold tileLoc ridgeLoc; omega) (by unfold tileLoc ridgeLoc; omega)
      · rcases lt_or_ge c (col0 + n) with hi | hi
        · rw [if_neg (by omega), State.load_zeroRange_outside _ (by unfold tileLoc ridgeLoc; omega)]
          exact s.load_zeroRange_outside (by unfold tileLoc ridgeLoc; omega)
        · rw [if_pos (by omega)]
          exact State.load_zeroRange_inside _ (by unfold tileLoc ridgeLoc; omega) (by unfold tileLoc ridgeLoc; omega)
    · rw [if_neg hm, if_pos (fun h => hm ⟨h.1, h.2.1⟩)]
      exact s.load_zeroRange_inside (by unfold tileLoc ridgeLoc; omega) (by unfold tileLoc ridgeLoc; omega)
  · simp only [hi, false_and, if_false]
    split
    · rw [State.load_zeroRange_outside _ (by unfold tileLoc ridgeLoc; omega)]
      exact s.load_zeroRange_outside (by unfold tileLoc ridgeLoc; omega)
    · exact s.load_zeroRange_outside (by unfold tileLoc ridgeLoc; omega)

/-- Every element of the tile outside the window is zero, and those in it are kept (R184, R193). -/
theorem State.load_zeroOutside (s : State) {r tile row0 col0 m n i c : Nat} (cols : col0 + n ≤ 256) (hi : i < 512) (hc : c < 256) :
    (s.zeroOutside r tile row0 col0 m n).load (tileLoc r tile i c) 4 =
      if row0 ≤ i ∧ i < row0 + m ∧ col0 ≤ c ∧ c < col0 + n then s.load (tileLoc r tile i c) 4 else 0 := by
  have rows : ∀ (l : List Nat) (u : State), (l.foldl (State.zeroRow r tile row0 col0 m n) u).load (tileLoc r tile i c) 4 =
      if i ∈ l ∧ ¬(row0 ≤ i ∧ i < row0 + m ∧ col0 ≤ c ∧ c < col0 + n) then 0 else u.load (tileLoc r tile i c) 4 := fun l => by
    induction l with
    | nil => exact fun u => (if_neg fun h => List.not_mem_nil h.1).symm
    | cons i' l ih =>
      intro u
      rw [List.foldl_cons, ih, u.load_zeroRow cols hc]
      by_cases hw : row0 ≤ i ∧ i < row0 + m ∧ col0 ≤ c ∧ c < col0 + n
      · simp [hw]
      · simp only [hw, not_false_eq_true, and_true, List.mem_cons, @eq_comm _ i' i]
        by_cases hl : i ∈ l <;> simp only [hl, if_true, if_false, or_true, or_false]
  refine (rows (List.range 512) s).trans ?_
  by_cases hw : row0 ≤ i ∧ i < row0 + m ∧ col0 ≤ c ∧ c < col0 + n
  · rw [if_neg (fun h => h.2 hw), if_pos hw]
  · rw [if_pos ⟨List.mem_range.mpr hi, hw⟩, if_neg hw]

theorem State.cleanseTile_mem (s : State) (r tile : Nat) (written : Nat × Nat → Bool) : (s.cleanseTile r tile written).mem = s.mem := rfl

section
variable {s : State} {r : Nat} {rows scales : List (List Nat)} {ta tb : QType} {tile row0 col0 n k k0 : Nat} {fresh clear : Bool}

theorem State.runMultiply_eq : s.runMultiply r rows scales ta tb tile row0 col0 n k k0 fresh clear =
    let x := s.sumAt r rows scales ta tb tile row0 col0 k k0 fresh
    let cells := cellsOf rows.length n
    let u := s.storeEach (fun p => tileLoc r tile (row0 + p.1) (col0 + p.2)) (fun p => (x p).1) cells
    let v := if clear then u.zeroOutside r tile row0 col0 rows.length n else u
    ⟨v.cleanseTile r tile (fun e => clear || decide (row0 ≤ e.1 ∧ e.1 < row0 + rows.length ∧ col0 ≤ e.2 ∧ e.2 < col0 + n)),
      cells.any (fun p => (x p).2.2), cells.any (fun p => (x p).2.1), []⟩ := by
  have cells := foldl_cells s (fun p => tileLoc r tile (row0 + p.1) (col0 + p.2)) (s.sumAt r rows scales ta tb tile row0 col0 k k0 fresh)
    (cellsOf rows.length n) false false
  simp only [Bool.false_or] at cells
  unfold State.sumAt cellsOf at cells
  unfold State.runMultiply State.sumAt cellsOf
  dsimp only at cells ⊢
  rw [cells]

/-- The new value of an element of a multiply's window without poison: the old one and the sum of its row's and its column's products. -/
def State.windowSum (s : State) (r : Nat) (rows scales : List (List Nat)) (ta tb : QType) (tile row0 col0 k k0 : Nat) (fresh : Bool) (m c : Nat) : Nat :=
  let old := if fresh then 0 else s.load (tileLoc r tile (row0 + m) (col0 + c)) 4
  let row := rows.getD m []
  let col := sliceLocs r (col0 + c) tb k0 k
  let ints (ls : List Nat) : List Int := ls.map (fun l => (s.mem.read l).toInt)
  if ta = 6 then (accumulateS32 old (ints row) (ints col)).1
  else accumulateF32 old (s.values ta k row (scales.getD m [])) (s.values tb k col (sliceScales r (col0 + c) tb k0 k))

theorem State.sumAt_clean (hp : s.poison = []) (p : Nat × Nat) : let x := s.sumAt r rows scales ta tb tile row0 col0 k k0 fresh p
    x.2.2 = false ∧ x.1 = s.windowSum r rows scales ta tb tile row0 col0 k k0 fresh p.1 p.2 := by
  unfold State.sumAt
  dsimp only
  rw [State.poisoned_clean hp, Bool.and_false]
  exact State.multiplyElem_clean hp r ta tb _ _ (scales.getD p.1 []) (col0 + p.2) k0 k

theorem State.windowSum_lt (m c : Nat) : s.windowSum r rows scales ta tb tile row0 col0 k k0 fresh m c < 2 ^ 32 := by
  have old_lt : (if fresh then 0 else s.load (tileLoc r tile (row0 + m) (col0 + c)) 4) < 2 ^ 32 := by
    split
    exacts [Nat.two_pow_pos 32, s.load_lt _ 4]
  unfold State.windowSum
  dsimp only
  split
  exacts [accumulateS32_lt old_lt _ _, accumulateF32_lt old_lt _ _]

/-- A multiply without poison leaves the sums in its window, and the other elements as they were or zero (R107, R108, R193). -/
theorem State.runMultiply_sums (hp : s.poison = []) (hr : row0 + rows.length ≤ 512) (hc : col0 + n ≤ 256) :
    let ran := s.runMultiply r rows scales ta tb tile row0 col0 n k k0 fresh clear
    ran.fault = false ∧
    (∀ m c, m < rows.length → c < n → ran.state.load (tileLoc r tile (row0 + m) (col0 + c)) 4 =
      s.windowSum r rows scales ta tb tile row0 col0 k k0 fresh m c) ∧
    (∀ i c, i < 512 → c < 256 → ¬(row0 ≤ i ∧ i < row0 + rows.length ∧ col0 ≤ c ∧ c < col0 + n) →
      ran.state.load (tileLoc r tile i c) 4 = if clear then 0 else s.load (tileLoc r tile i c) 4) := by
  rw [State.runMultiply_eq]
  dsimp only
  generalize hu : s.storeEach (fun p => tileLoc r tile (row0 + p.1) (col0 + p.2))
    (fun p => (s.sumAt r rows scales ta tb tile row0 col0 k k0 fresh p).1) (cellsOf rows.length n) = u
  have stored : ∀ m c, m < rows.length → c < n → u.load (tileLoc r tile (row0 + m) (col0 + c)) 4 =
      s.windowSum r rows scales ta tb tile row0 col0 k k0 fresh m c := fun m c hm hn => by
    have sum := (State.sumAt_clean (r := r) (rows := rows) (scales := scales) (ta := ta) (tb := tb) (tile := tile) (row0 := row0) (col0 := col0)
      (k := k) (k0 := k0) (fresh := fresh) hp (m, c)).2
    rw [← hu, ← sum]
    refine State.load_storeEach (e := (m, c)) _ _ s (mem_cellsOf.mpr ⟨hm, hn⟩) (by rw [sum]; exact State.windowSum_lt m c) fun q hq hne => ?_
    have := (mem_cellsOf.mp hq).2
    refine tileLoc_apart (by omega) (by omega) fun same => hne ?_
    obtain ⟨h1, h2⟩ := Prod.mk.inj same
    exact Prod.ext (by simp only at *; omega) (by simp only at *; omega)
  have kept : ∀ i c, c < 256 → ¬(row0 ≤ i ∧ i < row0 + rows.length ∧ col0 ≤ c ∧ c < col0 + n) →
      u.load (tileLoc r tile i c) 4 = s.load (tileLoc r tile i c) 4 := fun i c hn hw => by
    rw [← hu]
    refine State.load_storeEach_other _ _ s fun q hq => ?_
    obtain ⟨h1, h2⟩ := mem_cellsOf.mp hq
    refine tileLoc_apart hn (by omega) fun same => hw ?_
    obtain ⟨h3, h4⟩ := Prod.mk.inj same
    omega
  refine ⟨List.any_eq_false.mpr fun p _ => by simp [(State.sumAt_clean hp p).1], fun m c hm hn => ?_, fun i c hi hn hw => ?_⟩
  · rw [State.load_congr (State.cleanseTile_mem ..), ← stored m c hm hn]
    split
    · rw [u.load_zeroOutside hc (by omega) (by omega), if_pos (by omega)]
    · rfl
  · rw [State.load_congr (State.cleanseTile_mem ..)]
    split
    · rw [u.load_zeroOutside hc hi hn, if_neg hw]
    · exact kept i c hn hw

end

/-! ### A tile that is zeroed (R194) -/

theorem State.load_zeroTile (s : State) {r tile i c : Nat} (hi : i < 512) (hc : c < 256) :
    (s.zeroRange (tileLoc r tile 0 0) (2 ^ 19)).load (tileLoc r tile i c) 4 = 0 :=
  s.load_zeroRange_inside (by unfold tileLoc ridgeLoc; omega) (by unfold tileLoc ridgeLoc; omega)

/-! ### A drain (R105, R195) -/

/-- Element i of a drain, converted: by chance with the (i + 1)-th draw, or to nearest even. -/
def drainedElem (s32 : Bool) (dt : QType) (sr : Bool) (rng : Word) (i x : Nat) : Nat :=
  (elemOf dt).ofVal (if sr then .sr (rngDraw (rngNext^[i + 1] rng)) else .rne)
    (if s32 then Val.ofInt (BitVec.ofNat 32 x).toInt else Fmt.f32.decode x)

theorem drainConvert_first (s32 : Bool) (dt : QType) (sr : Bool) (rng : Word) (x : Nat) :
    drainConvert s32 dt sr x (if sr then rngNext rng else rng) = drainedElem s32 dt sr rng 0 x := by
  unfold drainConvert drainedElem
  rw [toSigned_eq_toInt (by decide)]
  cases sr <;> rfl

theorem drainedElem_next (s32 : Bool) (dt : QType) (sr : Bool) (rng : Word) (i x : Nat) :
    drainedElem s32 dt sr (if sr then rngNext rng else rng) i x = drainedElem s32 dt sr rng (i + 1) x := by
  cases sr <;> rfl

section
variable {s : State} {r tile : Nat} {s32 : Bool} {dt : QType} {sr clear : Bool}

/-- A drain converts its elements in order as they stand before it, and zeroes them where asked. -/
theorem State.drainFrom_eq {es : List (Nat × Nat)} (rng : Word) (distinct : clear = true → es.Nodup ∧ ∀ e ∈ es, e.2 < 256) :
    s.drainFrom r tile s32 dt sr clear es rng =
      (if clear then s.storeEach (fun e => tileLoc r tile e.1 e.2) (fun _ => 0) es else s,
        (es.zip (List.range es.length)).map (fun p => drainedElem s32 dt sr rng p.2 (s.load (tileLoc r tile p.1.1 p.1.2) 4))) := by
  induction es generalizing s rng with
  | nil => cases clear <;> rfl
  | cons e es ih =>
    have tail : clear = true → es.Nodup ∧ ∀ d ∈ es, d.2 < 256 := fun hc =>
      ⟨(List.nodup_cons.mp (distinct hc).1).2, fun d hd => (distinct hc).2 d (List.mem_cons_of_mem _ hd)⟩
    have kept : ∀ d ∈ es, (if clear then s.store (tileLoc r tile e.1 e.2) 4 0 else s).load (tileLoc r tile d.1 d.2) 4 =
        s.load (tileLoc r tile d.1 d.2) 4 := fun d hd => by
      split
      · obtain ⟨nodup, cols⟩ := distinct ‹_›
        refine s.load_store_other 0 (tileLoc_apart (cols d (List.mem_cons_of_mem _ hd)) (cols e (List.mem_cons_self ..)) fun same => ?_)
        exact (List.nodup_cons.mp nodup).1 ((show d = e from same) ▸ hd)
      · rfl
    have later : (es.zip (List.range es.length)).map (fun p => drainedElem s32 dt sr (if sr then rngNext rng else rng) p.2
          ((if clear then s.store (tileLoc r tile e.1 e.2) 4 0 else s).load (tileLoc r tile p.1.1 p.1.2) 4)) =
        (es.zip (List.range es.length)).map (fun p => drainedElem s32 dt sr rng (p.2 + 1) (s.load (tileLoc r tile p.1.1 p.1.2) 4)) :=
      List.map_congr_left fun p hp => by rw [kept p.1 (List.of_mem_zip hp).1, drainedElem_next]
    simp only [State.drainFrom, ih _ tail, later, drainConvert_first, List.length_cons, List.range_succ_eq_map, List.zip_cons_cons, List.map_cons,
      List.zip_map_right, List.map_map]
    cases clear <;> rfl

/-- A drain stores its elements at its destinations, or pushes them, beside what it zeroes (R195). -/
theorem State.runDrain_effect {es : List (Nat × Nat)} (dests : List Nat) (port : Bool) (rng : Word)
    (distinct : clear = true → es.Nodup ∧ ∀ e ∈ es, e.2 < 256) :
    let outs := (es.zip (List.range es.length)).map (fun p => drainedElem s32 dt sr rng p.2 (s.load (tileLoc r tile p.1.1 p.1.2) 4))
    let cleared := if clear then es.foldl (fun m e => m.writes (tileLoc r tile e.1 e.2) (leBytes 4 0)) s.mem else s.mem
    let ran := s.runDrain r tile es dests s32 dt sr port clear rng
    ran.fault = s.poisoned (es.map (fun e => tileLoc r tile e.1 e.2)) ∧
    (port = false → ran.state.mem = (dests.zip (outs.flatMap (leBytes (laneWidth dt / 8)))).foldl (fun m p => m.write p.1 p.2) cleared) ∧
    (port = true → ran.state.mem = cleared ∧ ran.words = outs.map (BitVec.ofNat 64)) := by
  intro outs cleared ran
  have drained := State.drainFrom_eq (s := s) (r := r) (tile := tile) (s32 := s32) (dt := dt) (sr := sr) rng distinct
  have words : (s.drainFrom r tile s32 dt sr clear es rng).2 = outs := by rw [drained]
  have mem : (if clear then (s.drainFrom r tile s32 dt sr clear es rng).1.cleanseTile r tile es.contains
      else (s.drainFrom r tile s32 dt sr clear es rng).1).mem = cleared := by
    rw [drained]
    cases clear
    · rfl
    · exact State.storeEach_mem _ _ s es
  cases port
  · refine ⟨rfl, fun _ => ?_, nofun⟩
    rw [← mem, ← words]
    exact State.stampEngine_mem ..
  · refine ⟨rfl, nofun, fun _ => ⟨mem, ?_⟩⟩
    rw [← words]
    rfl

end

end Sys2Proof.Machine
end

section
/-! SUPPORT. Index walks (R196): the runs that a coordinate list is cut into, the tile of each run, and where the fields of its record lie. -/

namespace Sys2Proof.Machine

/-! ### Numbers in the order in which they are first seen -/

/-- The distinct numbers of a list, in the order of their first places. -/
def firstSeen (xs : List Nat) : List Nat := xs.reverse.dedup.reverse

theorem firstSeen_snoc (xs : List Nat) (x : Nat) : firstSeen (xs ++ [x]) = if x ∈ xs then firstSeen xs else firstSeen xs ++ [x] := by
  unfold firstSeen
  rw [List.reverse_append, List.reverse_singleton, List.singleton_append]
  split
  · rw [List.dedup_cons_of_mem (List.mem_reverse.mpr ‹_›)]
  · rw [List.dedup_cons_of_notMem (mt List.mem_reverse.mp ‹_›), List.reverse_cons]

theorem mem_firstSeen {xs : List Nat} {x : Nat} : x ∈ firstSeen xs ↔ x ∈ xs := by simp [firstSeen]

/-- A number joins the slots of those seen before it. -/
theorem slotOf_firstSeen (xs : List Nat) (x : Nat) : slotOf (firstSeen xs) x = (firstSeen (xs ++ [x]), (firstSeen (xs ++ [x])).idxOf x) := by
  rw [firstSeen_snoc]
  unfold slotOf
  by_cases h : x ∈ xs
  · rw [if_pos (List.contains_iff_mem.mpr (mem_firstSeen.mpr h)), if_pos h]
  · have h' : x ∉ firstSeen xs := mt mem_firstSeen.mp h
    rw [if_neg (mt List.contains_iff_mem.mp h'), if_neg h, List.idxOf_append_of_notMem h', List.idxOf_cons_self, Nat.add_zero]

theorem idxOf_firstSeen_snoc {xs : List Nat} {y : Nat} (x : Nat) (h : y ∈ xs) : (firstSeen (xs ++ [x])).idxOf y = (firstSeen xs).idxOf y := by
  rw [firstSeen_snoc]
  split
  · rfl
  · exact List.idxOf_append_of_mem (mem_firstSeen.mpr h)

/-! ### Runs and their tiles -/

/-- The rows and the columns of a run of coordinates, in the order of their first places. -/
def rowsOf (run : List Nat) : List Nat := firstSeen (run.map (· / 2 ^ 16))
def colsOf (run : List Nat) : List Nat := firstSeen (run.map (· % 2 ^ 16))

/-- A run fits a record: at most 32 rows, 32 columns and 56 samples (R196). -/
def fits (run : List Nat) : Bool := decide ((rowsOf run).length ≤ 32) && decide ((colsOf run).length ≤ 32) && decide (run.length ≤ 56)

theorem fits_iff (run : List Nat) : fits run = true ↔ (rowsOf run).length ≤ 32 ∧ (colsOf run).length ≤ 32 ∧ run.length ≤ 56 := by
  simp [fits, and_assoc]

/-- A sample's entry in the record of its run. -/
def sampleOf (run : List Nat) (e : Nat) : Nat := (rowsOf run).idxOf (e / 2 ^ 16) * 2 ^ 8 + (colsOf run).idxOf (e % 2 ^ 16)

/-- The tile of a run that begins at a place of the list. -/
def tileOf (first : Nat) (run : List Nat) : WalkTile := ⟨first, rowsOf run, colsOf run, run.map (sampleOf run)⟩

/-- A coordinate list after a run that it may extend, cut into the longest runs that fit. -/
def cutRuns : List Nat → List Nat → List (List Nat)
  | [], run => [run]
  | e :: es, run => if fits (run ++ [e]) then cutRuns es (run ++ [e]) else run :: cutRuns es [e]

/-- The tiles of runs, the first of which begins at a place of the list. -/
def tilesFrom : Nat → List (List Nat) → List WalkTile
  | _, [] => []
  | first, run :: runs => tileOf first run :: tilesFrom (first + run.length) runs

theorem fits_single (e : Nat) : fits [e] = true := by simp [fits, rowsOf, colsOf, firstSeen]

theorem rowsOf_snoc (run : List Nat) (e : Nat) : slotOf (rowsOf run) (e / 2 ^ 16) = (rowsOf (run ++ [e]), (rowsOf (run ++ [e])).idxOf (e / 2 ^ 16)) := by
  simp only [rowsOf, slotOf_firstSeen, List.map_append, List.map_cons, List.map_nil]

theorem colsOf_snoc (run : List Nat) (e : Nat) : slotOf (colsOf run) (e % 2 ^ 16) = (colsOf (run ++ [e]), (colsOf (run ++ [e])).idxOf (e % 2 ^ 16)) := by
  simp only [colsOf, slotOf_firstSeen, List.map_append, List.map_cons, List.map_nil]

/-- A run that a coordinate extends keeps the entries of its samples. -/
theorem sampleOf_snoc {run : List Nat} {e d : Nat} (h : d ∈ run) : sampleOf (run ++ [e]) d = sampleOf run d := by
  have row := idxOf_firstSeen_snoc (e / 2 ^ 16) (List.mem_map_of_mem (f := (· / 2 ^ 16)) h)
  have col := idxOf_firstSeen_snoc (e % 2 ^ 16) (List.mem_map_of_mem (f := (· % 2 ^ 16)) h)
  unfold sampleOf rowsOf colsOf
  rw [List.map_append, List.map_append]
  exact congrArg₂ (fun r c => r * 2 ^ 8 + c) row col

/-- The tile of a run with one more coordinate. -/
theorem tileOf_snoc (first : Nat) (run : List Nat) (e : Nat) : tileOf first (run ++ [e]) =
    ⟨first, (slotOf (rowsOf run) (e / 2 ^ 16)).1, (slotOf (colsOf run) (e % 2 ^ 16)).1,
      run.map (sampleOf run) ++ [(slotOf (rowsOf run) (e / 2 ^ 16)).2 * 256 + (slotOf (colsOf run) (e % 2 ^ 16)).2]⟩ := by
  rw [rowsOf_snoc, colsOf_snoc, tileOf, List.map_append, List.map_congr_left fun d hd => sampleOf_snoc hd]
  rfl

theorem beq_limit {n m : Nat} (h : n ≤ m) : (n == m) = !decide (n + 1 ≤ m) := by
  rw [Bool.eq_iff_iff, beq_iff_eq, Bool.not_eq_true', decide_eq_false_iff_not]
  omega

theorem firstSeen_full {xs : List Nat} (x : Nat) (h : (firstSeen xs).length ≤ 32) :
    (!(firstSeen xs).contains x && (firstSeen xs).length == 32) = !decide ((firstSeen (xs ++ [x])).length ≤ 32) := by
  rw [firstSeen_snoc]
  by_cases hx : x ∈ xs
  · simp [hx, mem_firstSeen, h]
  · simp only [hx, mem_firstSeen, beq_limit h, List.contains_eq_mem, decide_false, Bool.not_false, Bool.true_and, if_false, List.length_append,
      List.length_singleton]

/-- A tile is full for a coordinate exactly where its run with it does not fit. -/
theorem full_iff {run : List Nat} (h : fits run = true) (e : Nat) :
    (!(rowsOf run).contains (e / 65536) && (rowsOf run).length == 32 || !(colsOf run).contains (e % 65536) && (colsOf run).length == 32 ||
      (run.map (sampleOf run)).length == 56) = !fits (run ++ [e]) := by
  obtain ⟨rows, cols, samples⟩ := (fits_iff run).mp h
  have row := firstSeen_full (e / 2 ^ 16) rows
  have col := firstSeen_full (e % 2 ^ 16) cols
  unfold fits rowsOf colsOf
  rw [List.map_append, List.map_append, List.length_map, beq_limit samples, List.length_append, Bool.not_and, Bool.not_and]
  exact congrArg (· || _) (congrArg₂ (· || ·) row col)

section
variable {run : List Nat} (h : fits run = true) (first : Nat) {i e : Nat} (rest : List (Nat × Nat))
include h

/-- A coordinate with which the run fits joins its tile. -/
theorem walkTiles_joins (hf : fits (run ++ [e]) = true) :
    walkTiles ((i, e) :: rest) (tileOf first run) = walkTiles rest (tileOf first (run ++ [e])) := by
  rw [walkTiles, tileOf_snoc]
  simp only [tileOf, full_iff h e, hf, Bool.not_true, Bool.false_eq_true, if_false]
  rfl

/-- A coordinate with which the run does not fit begins the next tile. -/
theorem walkTiles_cuts (hf : fits (run ++ [e]) = false) :
    walkTiles ((i, e) :: rest) (tileOf first run) = tileOf first run :: walkTiles rest (tileOf i [e]) := by
  rw [walkTiles, ← List.nil_append [e], tileOf_snoc i]
  simp only [tileOf, full_iff h e, hf, Bool.not_false, if_true]
  rfl

end

/-- The tiles of a walk are those of its runs (R196). -/
theorem walkTiles_eq (es : List Nat) {first : Nat} {run : List Nat} (h : fits run = true) :
    walkTiles ((List.range' (first + run.length) es.length).zip es) (tileOf first run) = tilesFrom first (cutRuns es run) := by
  induction es generalizing first run with
  | nil => rfl
  | cons e es ih =>
    rw [List.length_cons, List.range'_succ, List.zip_cons_cons, cutRuns]
    cases hf : fits (run ++ [e]) with
    | true =>
      have more := ih (first := first) hf
      rw [List.length_append, ← Nat.add_assoc] at more
      rw [walkTiles_joins h first _ hf, if_pos rfl]
      exact more
    | false =>
      rw [walkTiles_cuts h first _ hf, if_neg Bool.false_ne_true, tilesFrom]
      exact congrArg (tileOf first run :: ·) (ih (fits_single e))

/-! ### What the runs are -/

theorem cutRuns_flatten (es run : List Nat) : (cutRuns es run).flatten = run ++ es := by
  induction es generalizing run with
  | nil => simp [cutRuns]
  | cons e es ih =>
    rw [cutRuns]
    split
    · rw [ih, List.append_assoc, List.singleton_append]
    · rw [List.flatten_cons, ih, List.singleton_append]

theorem cutRuns_fit (es : List Nat) {run : List Nat} (hne : run ≠ []) (h : fits run = true) : ∀ x ∈ cutRuns es run, x ≠ [] ∧ fits x = true := by
  induction es generalizing run with
  | nil => exact fun x hx => by rw [List.mem_singleton.mp hx]; exact ⟨hne, h⟩
  | cons e es ih =>
    rw [cutRuns]
    split
    · exact ih (by simp) ‹_›
    · exact List.forall_mem_cons.mpr ⟨⟨hne, h⟩, ih (by simp) (fits_single e)⟩

/-- The first run begins with the one that was to be extended. -/
theorem cutRuns_head (es run : List Nat) : ∃ more rest, cutRuns es run = (run ++ more) :: rest := by
  induction es generalizing run with
  | nil => exact ⟨[], [], by rw [List.append_nil]; rfl⟩
  | cons e es ih =>
    rw [cutRuns]
    split
    · obtain ⟨more, rest, h⟩ := ih (run ++ [e])
      exact ⟨e :: more, rest, by rw [h, List.append_assoc, List.singleton_append]⟩
    · exact ⟨[], _, by rw [List.append_nil]⟩

/-- No run takes the first coordinate of the next one: they are the longest that fit (R196). -/
theorem cutRuns_longest (es : List Nat) (run : List Nat) : (cutRuns es run).IsChain fun x y => fits (x ++ y.take 1) = false := by
  induction es generalizing run with
  | nil => exact .singleton _
  | cons e es ih =>
    rw [cutRuns]
    split
    · exact ih _
    · rename_i hf
      obtain ⟨more, rest, h⟩ := cutRuns_head es [e]
      have next := ih [e]
      rw [h] at next ⊢
      exact .cons_cons (Bool.eq_false_iff.mpr hf) next

/-! ### What the tiles are -/

theorem tilesFrom_length (first : Nat) (runs : List (List Nat)) : (tilesFrom first runs).length = runs.length := by
  induction runs generalizing first with
  | nil => rfl
  | cons run runs ih => rw [tilesFrom, List.length_cons, ih, List.length_cons]

/-- Tile i is that of run i, which begins after the runs before it. -/
theorem tilesFrom_getElem? (first : Nat) {runs : List (List Nat)} {i : Nat} {run : List Nat} (h : runs[i]? = some run) :
    (tilesFrom first runs)[i]? = some (tileOf (first + ((runs.take i).map List.length).sum) run) := by
  induction runs generalizing first i with
  | nil => cases h
  | cons r runs ih =>
    cases i with
    | zero => cases h; rfl
    | succ i =>
      rw [tilesFrom, List.getElem?_cons_succ, ih _ h, List.take_succ_cons, List.map_cons, List.sum_cons, Nat.add_assoc]

/-! ### Fields of bytes (R2) -/

/-- n bytes of a list from place o on. -/
def bytesAt (bs : List Byte) (o n : Nat) : List Byte := (bs.drop o).take n

theorem bytesAt_append_left {xs : List Byte} (ys : List Byte) {o n : Nat} (h : o + n ≤ xs.length) : bytesAt (xs ++ ys) o n = bytesAt xs o n := by
  unfold bytesAt
  rw [List.drop_append_of_le_length (by omega), List.take_append_of_le_length (by rw [List.length_drop]; omega)]

theorem bytesAt_append_right {xs : List Byte} (ys : List Byte) {k : Nat} (h : xs.length = k) (o n : Nat) : bytesAt (xs ++ ys) (k + o) n = bytesAt ys o n := by
  unfold bytesAt
  rw [← h, List.drop_length_add_append]

theorem bytesAt_whole {xs : List Byte} {n : Nat} (h : xs.length = n) : bytesAt xs 0 n = xs := by
  rw [← h]
  exact List.take_length

theorem bytesAt_bytesAt (bs : List Byte) {o n p k : Nat} (h : p + k ≤ n) : bytesAt (bytesAt bs o n) p k = bytesAt bs (o + p) k := by
  unfold bytesAt
  rw [List.drop_take, List.take_take, List.drop_drop, Nat.min_eq_left (by omega)]

theorem leBytes_append (n k x : Nat) : leBytes (n + k) x = leBytes n x ++ leBytes k (x / 256 ^ n) := by
  induction n generalizing x with
  | zero => simp [leBytes]
  | succ n ih => rw [Nat.add_right_comm, leBytes, ih, leBytes, List.cons_append, Nat.div_div_eq_div_mul, Nat.pow_succ']

section
variable {α : Type} {f : α → List Byte} {n : Nat} {xs : List α} (len : ∀ x ∈ xs, (f x).length = n)
include len

theorem flatMap_length : (xs.flatMap f).length = n * xs.length := by
  rw [List.length_flatMap, List.map_congr_left len, List.map_const', List.sum_replicate, smul_eq_mul, Nat.mul_comm]

/-- Item i of a list of items of n bytes each. -/
theorem bytesAt_flatMap {i : Nat} {x : α} (h : xs[i]? = some x) : bytesAt (xs.flatMap f) (n * i) n = f x := by
  induction xs generalizing i with
  | nil => cases h
  | cons y xs ih =>
    have hy := len y (List.mem_cons_self ..)
    cases i with
    | zero =>
      cases h
      rw [List.flatMap_cons, Nat.mul_zero, bytesAt_append_left _ (by omega), bytesAt_whole hy]
    | succ i =>
      rw [List.flatMap_cons, Nat.mul_succ, Nat.add_comm, bytesAt_append_right _ hy]
      exact ih (fun x hx => len x (List.mem_cons_of_mem _ hx)) h

end

/-- Bytes stored at distinct locations give the numbers that they are. -/
theorem State.numberAt_storeAt (s : State) {locs : List Nat} {data : List Byte} (nodup : locs.Nodup) (len : data.length ≤ locs.length) {o n : Nat}
    (h : o + n ≤ data.length) : (s.storeAt locs data).numberAt ((locs.drop o).take n) = leNat (bytesAt data o n) := by
  have part : (locs.drop o).take n = ((locs.take data.length).drop o).take n := by
    rw [List.drop_take, List.take_take, Nat.min_eq_left (by omega)]
  rw [State.numberAt, part, State.loadAt, List.map_take, List.map_drop]
  exact congrArg (fun bs => leNat (bytesAt bs o n)) (s.loadAt_storeAt nodup len)

/-! ### Fields of records (R196) -/

theorem halves_length {n : Nat} {xs : List Nat} (h : xs.length ≤ n) : (halves n xs).length = 2 * n := by
  unfold halves
  rw [flatMap_length fun x _ => leBytes_length 2 x, List.length_append, List.length_replicate, Nat.add_sub_cancel' h]

/-- Entry i of a list of two-byte entries that zeros pad. -/
theorem bytesAt_halves {n : Nat} {xs : List Nat} (h : xs.length ≤ n) {i : Nat} (hi : i < n) : bytesAt (halves n xs) (2 * i) 2 = leBytes 2 (xs.getD i 0) := by
  refine bytesAt_flatMap (fun x _ => leBytes_length 2 x) ?_
  by_cases hx : i < xs.length
  · rw [List.getElem?_append_left hx, List.getD_eq_getElem _ _ hx, List.getElem?_eq_getElem hx]
  · rw [List.getElem?_append_right (by omega), List.getD_eq_default _ _ (by omega), List.getElem?_replicate, if_pos (by omega)]

section
variable {t : WalkTile} (rows : t.rows.length ≤ 32) (cols : t.cols.length ≤ 32) (samp : t.samp.length ≤ 56)
include rows cols samp

theorem WalkTile.bytes_length : t.bytes.length = 256 := by
  unfold WalkTile.bytes
  simp only [List.length_append, leBytes_length, halves_length rows, halves_length cols, halves_length samp]

/-- What a record's fields hold. -/
theorem WalkTile.bytes_fields : bytesAt t.bytes 0 8 = leBytes 8 (t.samp.length * 65536 + t.cols.length * 256 + t.rows.length) ∧
    bytesAt t.bytes 8 8 = leBytes 8 t.first ∧
    (∀ n, n < 32 → bytesAt t.bytes (16 + 2 * n) 2 = leBytes 2 (t.rows.getD n 0) ∧ bytesAt t.bytes (80 + 2 * n) 2 = leBytes 2 (t.cols.getD n 0)) ∧
    (∀ n, n < 56 → bytesAt t.bytes (144 + 2 * n) 2 = leBytes 2 (t.samp.getD n 0)) := by
  have h8 := leBytes_length 8
  have hr := halves_length rows
  have hc := halves_length cols
  have hs := halves_length samp
  unfold WalkTile.bytes
  simp only [List.append_assoc]
  refine ⟨?_, ?_, fun n hn => ⟨?_, ?_⟩, fun n hn => ?_⟩
  · rw [bytesAt_append_left _ (by rw [h8]), bytesAt_whole (h8 _)]
  · rw [bytesAt_append_right _ (h8 _) 0, bytesAt_append_left _ (by rw [h8]), bytesAt_whole (h8 _)]
  · rw [show 16 + 2 * n = 8 + (8 + 2 * n) by omega, bytesAt_append_right _ (h8 _), bytesAt_append_right _ (h8 _),
      bytesAt_append_left _ (by omega), bytesAt_halves rows hn]
  · rw [show 80 + 2 * n = 8 + (8 + (2 * 32 + 2 * n)) by omega, bytesAt_append_right _ (h8 _), bytesAt_append_right _ (h8 _),
      bytesAt_append_right _ hr, bytesAt_append_left _ (by omega), bytesAt_halves cols hn]
  · rw [show 144 + 2 * n = 8 + (8 + (2 * 32 + (2 * 32 + 2 * n))) by omega, bytesAt_append_right _ (h8 _), bytesAt_append_right _ (h8 _),
      bytesAt_append_right _ hr, bytesAt_append_right _ hc, bytesAt_halves samp hn]

end

/-- The bytes that a walk writes: its header, and a record for each run. -/
def walkBytes (runs : List (List Nat)) : List Byte := leBytes 64 runs.length ++ (tilesFrom 0 runs).flatMap WalkTile.bytes

theorem mem_tilesFrom {first : Nat} {runs : List (List Nat)} {t : WalkTile} (h : t ∈ tilesFrom first runs) : ∃ o, ∃ run ∈ runs, t = tileOf o run := by
  induction runs generalizing first with
  | nil => exact absurd h List.not_mem_nil
  | cons run runs ih =>
    rcases List.mem_cons.mp h with rfl | h
    · exact ⟨first, run, List.mem_cons_self .., rfl⟩
    · obtain ⟨o, x, hx, ht⟩ := ih h
      exact ⟨o, x, List.mem_cons_of_mem _ hx, ht⟩

theorem tileOf_fits {run : List Nat} (h : fits run = true) (o : Nat) :
    (tileOf o run).rows.length ≤ 32 ∧ (tileOf o run).cols.length ≤ 32 ∧ (tileOf o run).samp.length ≤ 56 := by
  obtain ⟨rows, cols, samp⟩ := (fits_iff run).mp h
  exact ⟨rows, cols, (List.length_map ..).trans_le samp⟩

section
variable {runs : List (List Nat)} (fit : ∀ run ∈ runs, fits run = true)
include fit

theorem tilesFrom_bytes_length : ∀ t ∈ tilesFrom 0 runs, t.bytes.length = 256 := fun t ht => by
  obtain ⟨o, run, hrun, rfl⟩ := mem_tilesFrom ht
  obtain ⟨rows, cols, samp⟩ := tileOf_fits (fit run hrun) o
  exact WalkTile.bytes_length rows cols samp

theorem walkBytes_length : (walkBytes runs).length = 64 + 256 * runs.length := by
  rw [walkBytes, List.length_append, leBytes_length, flatMap_length (tilesFrom_bytes_length fit), tilesFrom_length]

/-- The record of run i. -/
theorem bytesAt_walkBytes {i : Nat} {run : List Nat} (h : runs[i]? = some run) {o n : Nat} (hn : o + n ≤ 256) :
    bytesAt (walkBytes runs) (64 + 256 * i + o) n = bytesAt (tileOf ((runs.take i).map List.length).sum run).bytes o n := by
  have tile := tilesFrom_getElem? 0 h
  rw [Nat.zero_add] at tile
  rw [← bytesAt_flatMap (tilesFrom_bytes_length fit) tile, bytesAt_bytesAt _ hn, walkBytes, Nat.add_assoc, bytesAt_append_right _ (leBytes_length ..)]

end

/-- The header of a walk's records. -/
theorem walkBytes_header {runs : List (List Nat)} (few : runs.length < 65536) :
    leNat (bytesAt (walkBytes runs) 0 8) = runs.length ∧ leNat (bytesAt (walkBytes runs) 8 56) = 0 := by
  have small : runs.length / 256 ^ 8 = 0 := Nat.div_eq_of_lt (by omega)
  have h8 := leBytes_length 8 runs.length
  rw [walkBytes, show (64 : Nat) = 8 + 56 from rfl, leBytes_append, List.append_assoc, small]
  constructor
  · rw [bytesAt_append_left _ (by omega), bytesAt_whole h8, leNat_leBytes, Nat.mod_eq_of_lt (by omega)]
  · rw [bytesAt_append_right _ h8 0, bytesAt_append_left _ (by rw [leBytes_length]), bytesAt_whole (leBytes_length ..), leNat_leBytes, Nat.zero_mod]

/-! ### Numbers of a run that fit their fields -/

theorem getD_lt {xs : List Nat} {b : Nat} (hb : 0 < b) (h : ∀ x ∈ xs, x < b) (n : Nat) : xs.getD n 0 < b := by
  by_cases hn : n < xs.length
  · rw [List.getD_eq_getElem _ _ hn]
    exact h _ (List.getElem_mem _)
  · rwa [List.getD_eq_default _ _ (by omega)]

section
variable {run : List Nat} (small : ∀ e ∈ run, e < 2 ^ 32)

include small in
theorem rowsOf_lt : ∀ x ∈ rowsOf run, x < 2 ^ 16 := fun x hx => by
  obtain ⟨e, he, rfl⟩ := List.mem_map.mp (mem_firstSeen.mp hx)
  exact Nat.div_lt_of_lt_mul (small e he)

theorem colsOf_lt : ∀ x ∈ colsOf run, x < 2 ^ 16 := fun x hx => by
  obtain ⟨e, -, rfl⟩ := List.mem_map.mp (mem_firstSeen.mp hx)
  exact Nat.mod_lt _ (Nat.two_pow_pos 16)

theorem sampleOf_lt (h : fits run = true) : ∀ x ∈ run.map (sampleOf run), x < 2 ^ 16 := fun x hx => by
  obtain ⟨e, he, rfl⟩ := List.mem_map.mp hx
  obtain ⟨rows, cols, -⟩ := (fits_iff run).mp h
  have row : (rowsOf run).idxOf (e / 2 ^ 16) < (rowsOf run).length :=
    List.idxOf_lt_length_iff.mpr (mem_firstSeen.mpr (List.mem_map_of_mem (f := (· / 2 ^ 16)) he))
  have col : (colsOf run).idxOf (e % 2 ^ 16) < (colsOf run).length :=
    List.idxOf_lt_length_iff.mpr (mem_firstSeen.mpr (List.mem_map_of_mem (f := (· % 2 ^ 16)) he))
  unfold sampleOf
  omega

end

theorem leNat_leBytes_fits {n x : Nat} (h : x < 256 ^ n) : leNat (leBytes n x) = x := by rw [leNat_leBytes, Nat.mod_eq_of_lt h]

/-- What the record of a run of a walk holds (R196). -/
theorem record_fields {runs : List (List Nat)} (fit : ∀ run ∈ runs, fits run = true) {i : Nat} {run : List Nat} (h : runs[i]? = some run)
    (small : ∀ e ∈ run, e < 2 ^ 32) (few : ((runs.take i).map List.length).sum < 65536) :
    let at_ (o n : Nat) : Nat := leNat (bytesAt (walkBytes runs) (64 + 256 * i + o) n)
    at_ 0 8 = run.length * 2 ^ 16 + (colsOf run).length * 2 ^ 8 + (rowsOf run).length ∧ at_ 8 8 = ((runs.take i).map List.length).sum ∧
    (∀ n, n < 32 → at_ (16 + 2 * n) 2 = (rowsOf run).getD n 0 ∧ at_ (80 + 2 * n) 2 = (colsOf run).getD n 0) ∧
    (∀ n, n < 56 → at_ (144 + 2 * n) 2 = (run.map (sampleOf run)).getD n 0) := by
  have fits' := fit run (List.mem_of_getElem? h)
  obtain ⟨rows, cols, samp⟩ := tileOf_fits fits' ((runs.take i).map List.length).sum
  obtain ⟨counts, first, entries, samples⟩ := WalkTile.bytes_fields rows cols samp
  have two : (0 : Nat) < 256 ^ 2 := by decide
  intro at_
  have record : ∀ o n, o + n ≤ 256 → at_ o n = leNat (bytesAt (tileOf ((runs.take i).map List.length).sum run).bytes o n) := fun o n hn =>
    congrArg leNat (bytesAt_walkBytes fit h hn)
  have count : (tileOf ((runs.take i).map List.length).sum run).samp.length = run.length := List.length_map ..
  refine ⟨?_, ?_, fun n hn => ⟨?_, ?_⟩, fun n hn => ?_⟩
  · rw [record 0 8 (by omega), counts, leNat_leBytes_fits (by omega), count]
    rfl
  · rw [record 8 8 (by omega), first]
    exact leNat_leBytes_fits (by simp only [tileOf]; omega)
  · rw [record _ 2 (by omega), (entries n hn).1]
    exact leNat_leBytes_fits (getD_lt two (rowsOf_lt small) n)
  · rw [record _ 2 (by omega), (entries n hn).2]
    exact leNat_leBytes_fits (getD_lt two colsOf_lt n)
  · rw [record _ 2 (by omega), samples n hn]
    exact leNat_leBytes_fits (getD_lt two (sampleOf_lt fits') n)

/-! ### A walk (R196) -/

theorem length_le_flatten {α : Type} {xss : List (List α)} (h : ∀ xs ∈ xss, xs ≠ []) : xss.length ≤ xss.flatten.length := by
  induction xss with
  | nil => exact Nat.le_refl _
  | cons xs xss ih =>
    have some := List.length_pos_of_ne_nil (h xs (List.mem_cons_self ..))
    have rest := ih fun ys hys => h ys (List.mem_cons_of_mem _ hys)
    rw [List.length_cons, List.flatten_cons, List.length_append]
    omega

theorem sum_take_le_flatten {α : Type} (xss : List (List α)) (i : Nat) : ((xss.take i).map List.length).sum ≤ xss.flatten.length := by
  rw [← List.length_flatten]
  exact (List.take_sublist i xss).flatten.length_le

/-- The runs of a walk are longest runs that fit, of all its coordinates. -/
theorem cutRuns_walk {coords : List Nat} (hne : coords ≠ []) : (cutRuns coords []).flatten = coords ∧
    (∀ run ∈ cutRuns coords [], run ≠ [] ∧ fits run = true) ∧ (cutRuns coords []).IsChain fun x y => fits (x ++ y.take 1) = false := by
  refine ⟨cutRuns_flatten coords [], ?_, cutRuns_longest coords []⟩
  cases coords with
  | nil => exact absurd rfl hne
  | cons e es =>
    rw [cutRuns, List.nil_append, if_pos (fits_single e)]
    exact cutRuns_fit es (by simp) (fits_single e)

theorem State.runWalk_mem (s : State) (coords dests : List Nat) :
    (s.runWalk coords dests).mem = (s.storeAt dests (walkBytes (cutRuns coords []))).mem := by
  have tiles : walkTiles ((List.range coords.length).zip coords) ⟨0, [], [], []⟩ = tilesFrom 0 (cutRuns coords []) := by
    rw [List.range_eq_range']
    exact walkTiles_eq coords (first := 0) (run := []) rfl
  have count := tilesFrom_length 0 (cutRuns coords [])
  unfold State.runWalk walkBytes
  rw [tiles]
  dsimp only
  rw [count]
  exact State.stampEngine_mem ..

/-- A walk writes its header and a record for each run, and nothing else (R196). -/
theorem State.runWalk_records (s : State) {coords dests : List Nat} (hne : coords ≠ []) (small : ∀ e ∈ coords, e < 2 ^ 32)
    (few : coords.length < 65536) (len : dests.length = 64 + 256 * coords.length) (nodup : dests.Nodup) :
    let u := s.runWalk coords dests
    let runs := cutRuns coords []
    let at_ (o n : Nat) : Nat := u.numberAt ((dests.drop o).take n)
    at_ 0 8 = runs.length ∧ at_ 8 56 = 0 ∧
    (∀ i run, runs[i]? = some run → let o := 64 + 256 * i
      at_ o 8 = run.length * 2 ^ 16 + (colsOf run).length * 2 ^ 8 + (rowsOf run).length ∧ at_ (o + 8) 8 = ((runs.take i).map List.length).sum ∧
      (∀ n, n < 32 → at_ (o + 16 + 2 * n) 2 = (rowsOf run).getD n 0 ∧ at_ (o + 80 + 2 * n) 2 = (colsOf run).getD n 0) ∧
      (∀ n, n < 56 → at_ (o + 144 + 2 * n) 2 = (run.map (sampleOf run)).getD n 0)) ∧
    s.keepsMemory u (dests.take (64 + 256 * runs.length)) := by
  intro u runs at_
  obtain ⟨flat, parts, -⟩ := cutRuns_walk hne
  have fit : ∀ run ∈ runs, fits run = true := fun run hrun => (parts run hrun).2
  have count : runs.length ≤ coords.length := (length_le_flatten fun run hrun => (parts run hrun).1).trans_eq (congrArg List.length flat)
  have bytes : (walkBytes runs).length = 64 + 256 * runs.length := walkBytes_length fit
  have mem : u.mem = (s.storeAt dests (walkBytes runs)).mem := s.runWalk_mem coords dests
  have at_eq : ∀ o n, o + n ≤ 64 + 256 * runs.length → at_ o n = leNat (bytesAt (walkBytes runs) o n) := fun o n h => by
    rw [← s.numberAt_storeAt nodup (by rw [bytes]; omega) (by rwa [bytes])]
    exact congrArg leNat (State.loadAt_congr fun a _ => by rw [mem])
  obtain ⟨header, blank⟩ := walkBytes_header (runs := runs) (by omega)
  refine ⟨(at_eq 0 8 (by omega)).trans header, (at_eq 8 56 (by omega)).trans blank, fun i run hi => ?_, fun a ha => ?_⟩
  · have place : i < runs.length := (List.getElem?_eq_some_iff.mp hi).1
    have inside : ∀ e ∈ run, e < 2 ^ 32 := fun e he => small e (flat ▸ List.mem_flatten.mpr ⟨run, List.mem_of_getElem? hi, he⟩)
    have before : ((runs.take i).map List.length).sum < 65536 := by
      have le := sum_take_le_flatten runs i
      rw [show runs.flatten = coords from flat] at le
      omega
    obtain ⟨counts, first, entries, samples⟩ := record_fields fit hi inside before
    refine ⟨(at_eq _ 8 (by omega)).trans counts, (at_eq _ 8 (by omega)).trans first, fun n hn => ⟨?_, ?_⟩, fun n hn => ?_⟩
    · rw [Nat.add_assoc _ 16]
      exact (at_eq _ 2 (by omega)).trans (entries n hn).1
    · rw [Nat.add_assoc _ 80]
      exact (at_eq _ 2 (by omega)).trans (entries n hn).2
    · rw [Nat.add_assoc _ 144]
      exact (at_eq _ 2 (by omega)).trans (samples n hn)
  · rw [mem]
    exact s.read_storeAt_other (by rwa [bytes])

end Sys2Proof.Machine
end

section
/-! LEMMAS for O25. An array's and an index engine's oldest command, completed: what its run leaves is what the step leaves (R175, R180). -/

namespace Sys2Proof.Machine

section
variable {s : State} {j : Job} {rest : List Job} (h : s.Receives j)
include h

/-- The oldest command of an array completes with its run's bytes, status and words (R175, R180). -/
theorem matrixJobComplete_runs (hj : (s.ridge (ridgeOf s.focus)).jobs = j :: rest) (hm : ∀ l ∈ j.cmd.sources, s.marksOf (lineOf l) = ⟨[], []⟩) :
    let r := ridgeOf s.focus
    let ran := (s.opened r { s.ridge r with jobs := rest } j).runCmd r j.cmd
    ∃ t, exec .matrixJobComplete s = .next t ∧ (t.ridge r).jobs = rest ∧ s.Completed t j ran.fault ∧ t.mem = ran.state.mem ∧
      (t.ctx j.ctx).mres = (s.ctx j.ctx).mres ++ ran.words := by
  obtain ⟨mem, ridge, completed, mres⟩ := State.completeJob_leaves (ridgeOf s.focus) { s.ridge (ridgeOf s.focus) with jobs := rest } h
  exact ⟨_, exec_matrixJobComplete hj hm, congrArg Ridge.jobs ridge, completed, mem, mres⟩

/-- The oldest walk of an index engine completes with its run's bytes and status (R180, R196). -/
theorem indexWalkComplete_runs (hj : (s.ridge (ridgeOf s.focus)).walks = j :: rest) :
    let r := ridgeOf s.focus
    let ran := (s.opened r { s.ridge r with walks := rest } j).runCmd r j.cmd
    ∃ t, exec .indexWalkComplete s = .next t ∧ (t.ridge r).walks = rest ∧ s.Completed t j ran.fault ∧ t.mem = ran.state.mem := by
  obtain ⟨mem, ridge, completed, -⟩ := State.completeJob_leaves (ridgeOf s.focus) { s.ridge (ridgeOf s.focus) with walks := rest } h
  exact ⟨_, exec_indexWalkComplete hj, congrArg Ridge.walks ridge, completed, mem⟩

end

theorem State.loadAt_of_mem {s t : State} (h : t.mem = s.mem) : t.loadAt = s.loadAt := funext fun _ => State.loadAt_congr fun _ _ => by rw [h]

theorem State.numberAt_of_mem {s t : State} (h : t.mem = s.mem) (locs : List Nat) : t.numberAt locs = s.numberAt locs :=
  congrArg leNat (congrFun (State.loadAt_of_mem h) locs)

theorem State.Completed.congr {s t : State} {j : Job} {fault fault' : Bool} (h : s.Completed t j fault) (hf : fault = fault') :
    s.Completed t j fault' := hf ▸ h

/-- Settles O25: what the step leaves is what the command's run leaves (`matrixJobComplete_runs`, `indexWalkComplete_runs`), by the command: a
tile zeroed, rows copied (`runLoad_copies`), sums (`runMultiply_sums`), elements drained (`runDrain_effect`), and runs cut as long as they fit
(`cutRuns_walk`), each with its record (`record_fields`). -/
theorem matrixCompletion : Obligations.MatrixCompletion := by
  intro s j rest r x bad finished space outside
  have receives : space → s.Receives j := fun ⟨held, room, status, _, source⟩ => ⟨held, room, status, source⟩
  have finishes : ∀ {t fault}, s.Completed t j fault → finished t fault := fun h => ⟨h.done, h.fault, h.others, h.word⟩
  have free : ∀ {rows scales : List (List Nat)}, outside (rows ++ scales).flatten → ∀ l ∈ rows.flatten ++ scales.flatten, s.marksOf (lineOf l) = ⟨[], []⟩ :=
    fun out l hl => (out l (by rwa [List.flatten_append])).1
  refine ⟨fun tile hj hc hs => ?_, fun rows scales t8 col0 k0 k hj hc hs out cap blocks cols rowLen count scaleLen => ?_,
    fun rows scales ta tb tile row0 col0 n k k0 fresh clear hj hc hs _ hr hcol hp out _ _ => ?_,
    fun tile elems dests s32 dt sr port clear rng hj hc hs distinct => ?_, fun coords fault dests hj hc hs hne small few len nodup => ?_⟩
  · obtain ⟨t, step, jobs, completed, mem, -⟩ := matrixJobComplete_runs (receives hs) hj (by rw [hc]; exact nofun)
    rw [hc] at completed mem
    refine ⟨t, step, jobs, finishes completed, fun i c hi hcol => ?_, fun l hl => ?_⟩
    · exact (State.load_congr mem _ _).trans (State.load_zeroTile _ hi hcol)
    · rw [mem]
      exact State.read_zeroRange_outside _ _ _ hl
  · obtain ⟨t, step, jobs, completed, mem, -⟩ := matrixJobComplete_runs (receives hs) hj (by rw [hc]; exact free out)
    rw [hc] at completed mem
    have copies := State.runLoad_copies (s := s.opened r { s.ridge r with jobs := rest } j) cap blocks cols rowLen count scaleLen
      fun l hl => (out l hl).2
    obtain ⟨arrive, kept⟩ := copies
    have loads : t.loadAt = _ := State.loadAt_of_mem mem
    have fault : s.poisoned (rows.flatten ++ scales.flatten) = bad (rows ++ scales).flatten := by
      rw [List.flatten_append]
      rfl
    refine ⟨t, step, jobs, finishes (completed.congr fault), fun n hn => ?_, fun a ha => ?_⟩
    · rw [loads]
      exact arrive n hn
    · rw [mem]
      exact kept a ha
  · obtain ⟨t, step, jobs, completed, mem, -⟩ := matrixJobComplete_runs (receives hs) hj (by rw [hc]; exact free out)
    rw [hc] at completed mem
    have sums := State.runMultiply_sums (s := s.opened r { s.ridge r with jobs := rest } j) (r := r) (rows := rows) (scales := scales) (ta := ta)
      (tb := tb) (tile := tile) (k := k) (k0 := k0) (fresh := fresh) (clear := clear) hp hr hcol
    obtain ⟨fault, window, others⟩ := sums
    refine ⟨t, step, jobs, finishes (completed.congr fault), fun m c hm hn => ?_, fun i c hi hn hw => ?_⟩
    · exact (State.load_congr mem _ _).trans (window m c hm hn)
    · exact (State.load_congr mem _ _).trans (others i c hi hn hw)
  · obtain ⟨t, step, jobs, completed, mem, mres⟩ := matrixJobComplete_runs (receives hs) hj (by rw [hc]; exact nofun)
    rw [hc] at completed mem mres
    have effect := State.runDrain_effect (s := s.opened r { s.ridge r with jobs := rest } j) (r := r) (tile := tile) (s32 := s32) (dt := dt)
      (sr := sr) dests port rng distinct
    obtain ⟨fault, stored, pushed⟩ := effect
    refine ⟨t, step, jobs, finishes (completed.congr fault), fun hport => mem.trans (stored hport), fun hport => ?_⟩
    obtain ⟨zeroed, words⟩ := pushed hport
    exact ⟨mem.trans zeroed, mres.trans (congrArg (x.mres ++ ·) words)⟩
  · obtain ⟨t, step, jobs, completed, mem⟩ := indexWalkComplete_runs (receives hs) hj
    rw [hc] at completed mem
    obtain ⟨flat, fit, longest⟩ := cutRuns_walk hne
    obtain ⟨count, blank, records, kept⟩ := State.runWalk_records (s.opened r { s.ridge r with walks := rest } j) hne small few len nodup
    have numbers := State.numberAt_of_mem mem
    refine ⟨t, cutRuns coords [], step, jobs, finishes completed, flat, fun run hrun => ⟨(fit run hrun).1, (fits_iff run).mp (fit run hrun).2⟩,
      fun i run next hi hi' => ?_, ?_, ?_, fun i run hi => ?_, fun a ha => ?_⟩
    · obtain ⟨_, rfl⟩ := List.getElem?_eq_some_iff.mp hi
      obtain ⟨more, rfl⟩ := List.getElem?_eq_some_iff.mp hi'
      exact fun h => Bool.eq_false_iff.mp (longest.getElem i more) ((fits_iff _).mpr h)
    · exact (numbers _).trans count
    · exact (numbers _).trans blank
    · obtain ⟨counts, first, entries, samples⟩ := records i run hi
      refine ⟨(numbers _).trans counts, (numbers _).trans first, fun n hn => ⟨(numbers _).trans (entries n hn).1, (numbers _).trans (entries n hn).2⟩,
        fun n hn => ((numbers _).trans (samples n hn)).trans ?_⟩
      rw [List.getD_eq_getElem?_getD, List.getElem?_map]
      cases run[n]? <;> rfl
    · rw [mem]
      exact kept a ha

end Sys2Proof.Machine
end

section
/-! SUPPORT. Operations of registers alone (R123 to R125): what they answer, and their results in the terms of the spec. -/

namespace Sys2Proof.Machine

/-! ### What an operation of registers answers -/

section
variable {s t : State} {d a b : GReg} {x y z : Word}

theorem binary_answers {f : Word → Word → Word} {w : Word} (hc : s.clear [a, b] [d] [] [] = true) (hr : s.Reads [a, b] [x, y] t) (hw : f x y = w) :
    runBundle (binary f d a b) s = .next (t.put d w).done :=
  hw ▸ runBundle_ok (binary_run hc hr)

theorem unary_answers {f : Word → Word} {w : Word} (hc : s.clear [a] [d] [] [] = true) (hr : s.Reads [a] [x] t) (hw : f x = w) :
    runBundle (unary f d a) s = .next (t.put d w).done :=
  hw ▸ runBundle_ok (unary_run hc hr)

theorem ternary_answers {f : Word → Word → Word → Word} {w : Word} (hc : s.clear [a, b, d] [d] [] [] = true)
    (hr : s.Reads [a, b, d] [x, y, z] t) (hw : f x y z = w) : runBundle (ternary f d a b) s = .next (t.put d w).done :=
  hw ▸ runBundle_ok (ternary_run hc hr)

end

/-! ### The results of page 0 (R118, R123) -/

theorem dotW_low (f : Bool) {wide : Word → Word → Word} {narrow : BitVec 32 → BitVec 32 → BitVec 32} {x y : Word}
    (h : (wide x y).setWidth 32 = narrow (low32 x) (low32 y)) :
    dotW f wide narrow x y = if f then ((wide x y).setWidth 32).signExtend 64 else wide x y := by
  rw [h]; rfl

theorem low32_sub (x y : Word) : (x - y).setWidth 32 = low32 x - low32 y := by
  unfold low32
  bv_omega

theorem low32_toNat (x : Word) : (low32 x).toNat = x.toNat % 2 ^ 32 := BitVec.toNat_setWidth ..

/-- The shift count of an operation under .w (R118). -/
theorem low32_count (y : Word) : (low32 y).toNat % 32 = y.toNat % 32 := by
  rw [low32_toNat]; omega

theorem setWidth_shiftLeft_eq (x : Word) (w n : Nat) : x.setWidth w <<< n = BitVec.ofNat w (x.toNat * 2 ^ n) := by
  apply BitVec.eq_of_toNat_eq
  rw [BitVec.toNat_shiftLeft, Nat.shiftLeft_eq, BitVec.toNat_setWidth, BitVec.toNat_ofNat, Nat.mod_mul_mod]

theorem ushiftRight_eq_ofNat {w : Nat} (x : BitVec w) (n : Nat) : x >>> n = BitVec.ofNat w (x.toNat / 2 ^ n) := by
  apply BitVec.eq_of_toNat_eq
  rw [BitVec.toNat_ushiftRight, Nat.shiftRight_eq_div_pow, BitVec.toNat_ofNat,
    Nat.mod_eq_of_lt (Nat.lt_of_le_of_lt (Nat.div_le_self ..) x.isLt)]

theorem signExtend_sshiftRight {w : Nat} (x : BitVec w) (n v : Nat) : (x.sshiftRight n).signExtend v = BitVec.ofInt v (x.toInt / 2 ^ n) := by
  rw [BitVec.signExtend, BitVec.toInt_sshiftRight, Int.shiftRight_eq_div_pow]
  norm_cast

theorem sshiftRight_eq_ofInt (x : Word) (n : Nat) : x.sshiftRight n = BitVec.ofInt 64 (x.toInt / 2 ^ n) := by
  rw [← signExtend_sshiftRight, BitVec.signExtend_eq]

theorem aluShl_eq (f : Bool) (x y : Word) : aluShl f x y = if f then (BitVec.ofNat 32 (x.toNat * 2 ^ (y.toNat % 32))).signExtend 64
    else BitVec.ofNat 64 (x.toNat * 2 ^ (y.toNat % 64)) := by
  rw [← low32_count, ← setWidth_shiftLeft_eq, ← setWidth_shiftLeft_eq, BitVec.setWidth_eq]; rfl

theorem aluShr_eq (f : Bool) (x y : Word) : aluShr f x y = if f then (BitVec.ofNat 32 (x.toNat % 2 ^ 32 / 2 ^ (y.toNat % 32))).signExtend 64
    else BitVec.ofNat 64 (x.toNat / 2 ^ (y.toNat % 64)) := by
  rw [← low32_count, ← low32_toNat, ← ushiftRight_eq_ofNat, ← ushiftRight_eq_ofNat]; rfl

theorem aluSra_eq (f : Bool) (x y : Word) : aluSra f x y = if f then BitVec.ofInt 64 ((low32 x).toInt / 2 ^ (y.toNat % 32))
    else BitVec.ofInt 64 (x.toInt / 2 ^ (y.toNat % 64)) := by
  rw [← low32_count, ← signExtend_sshiftRight, ← sshiftRight_eq_ofInt]; rfl

/-- The lesser by one order and the greater by it, where the statement tests the other way round. -/
theorem ite_le_eq_ite_lt {α : Type} {p q : Prop} [Decidable p] [Decidable q] (h : p ↔ ¬q) (x y : α) : (if p then x else y) = if q then y else x := by
  by_cases hq : q
  · rw [if_pos hq, if_neg fun hp => h.mp hp hq]
  · rw [if_neg hq, if_pos (h.mpr hq)]

theorem aluMin_eq (f : Bool) (x y : Word) : aluMin f x y = if f then (if y.toNat < x.toNat then y else x) else (if y.toInt < x.toInt then y else x) := by
  rw [aluMin, ite_le_eq_ite_lt Nat.not_lt.symm, ite_le_eq_ite_lt Int.not_lt.symm]

theorem aluMax_eq (f : Bool) (x y : Word) : aluMax f x y = if f then (if x.toNat < y.toNat then y else x) else (if x.toInt < y.toInt then y else x) := by
  unfold aluMax
  cases f
  · simp only [Bool.false_eq_true, if_false]
    rcases Int.lt_trichotomy x.toInt y.toInt with h | h | h
    · rw [if_pos h.le, if_pos h]
    · rw [BitVec.eq_of_toInt_eq h, if_pos Int.le_rfl, if_neg (Int.lt_irrefl _)]
    · rw [if_neg (by omega), if_neg (by omega)]
  · simp only [if_true]
    rcases Nat.lt_trichotomy x.toNat y.toNat with h | h | h
    · rw [if_pos h.le, if_pos h]
    · rw [BitVec.eq_of_toNat_eq h, if_pos (Nat.le_refl _), if_neg (Nat.lt_irrefl _)]
    · rw [if_neg (by omega), if_neg (by omega)]

theorem aluSeq_eq (f : Bool) (x y : Word) : aluSeq f x y = cond (if f then x.toNat % 2 ^ 32 == y.toNat % 2 ^ 32 else x == y) := by
  have low : (low32 x == low32 y) = (x.toNat % 2 ^ 32 == y.toNat % 2 ^ 32) := by
    rw [← low32_toNat, ← low32_toNat, Bool.eq_iff_iff, beq_iff_eq, beq_iff_eq, BitVec.toNat_eq]
  rw [← low]
  cases f <;> rfl

theorem aluSlt_eq (f : Bool) (x y : Word) : aluSlt f x y = cond (if f then decide (x.toNat < y.toNat) else decide (x.toInt < y.toInt)) := by
  cases f <;> rfl

/-- Settles O1: `binary_answers` and `ternary_answers` for each operation, with the equation of its result; those that cut to 32 bits last go
by `dotW_low`. -/
theorem registerOperationResults : Obligations.RegisterOperationResults := by
  intro s t d a b f x y hc hr lo flag
  have two : ∀ {g : Word → Word → Word} {w : Word}, g x y = w → runBundle (binary g d a b) s = .next (t.put d w).done := binary_answers hc hr
  refine ⟨two ?_, two ?_, two ?_, two ?_, two ?_, two (aluShl_eq f x y), two (aluShr_eq f x y), two (aluSra_eq f x y), two ?_, two rfl,
    two (aluMin_eq f x y), two (aluMax_eq f x y), two (aluSeq_eq f x y), two (aluSlt_eq f x y), fun z u hc hr => ternary_answers hc hr ?_⟩
  · exact dotW_low f (BitVec.setWidth_add x y (by decide))
  · exact dotW_low f (low32_sub x y)
  · exact dotW_low f BitVec.setWidth_and
  · exact dotW_low f BitVec.setWidth_or
  · exact dotW_low f BitVec.setWidth_xor
  · exact dotW_low f (BitVec.setWidth_mul x y (by decide))
  · exact ite_not ..

/-! ### The results of immediates (R125) -/

theorem shiftLeft_eq_ofNat (x : Word) (n : Nat) : x <<< n = BitVec.ofNat 64 (x.toNat * 2 ^ n) := by
  rw [← setWidth_shiftLeft_eq, BitVec.setWidth_eq]

theorem constant_answers {s : State} {d : GReg} (hc : s.clear [] [d] [] [] = true) (f : Word → Word) :
    runBundle (constant f d) s = .next (s.put d (f s.me.pc)).done := by
  refine runBundle_ok ?_
  unfold constant
  rw [M.bind_ok (issue_run (xs := []) hc rfl), M.bind_ok (M.getMe_run s)]
  exact writeG_run (State.clear_pend hc (.inr (List.mem_singleton.mpr rfl))) _

/-- Settles O2: `unary_answers` and `constant_answers` for each operation, the shifts by `shiftLeft_eq_ofNat` and its like. -/
theorem immediateOperationResults : Obligations.ImmediateOperationResults := by
  intro s t d a x imm n hc hr
  have one : ∀ {g : Word → Word} {w : Word}, g x = w → runBundle (unary g d a) s = .next (t.put d w).done := unary_answers hc hr
  refine ⟨one rfl, one rfl, one rfl, one rfl, one (shiftLeft_eq_ofNat x n), one (ushiftRight_eq_ofNat x n), one (sshiftRight_eq_ofInt x n),
    one ?_, fun h => constant_answers h _, fun h => constant_answers h _, fun h => ?_⟩
  · exact if_congr decide_eq_true_iff rfl rfl
  · subst h
    exact one (g := fun x => setHigh24 x n) rfl

end Sys2Proof.Machine
end

section
/-! SUPPORT. Long-latency results, division, bit operations and their field specs (R61, R145 to R148). -/

namespace Sys2Proof.Machine

/-! ### Long-latency results (R60, R61) -/

theorem late_run {s : State} {d : GReg} (h : s.me.pend.any (fun p => p.writesG d) = false) (la : La) (w : Word) :
    late la (.g d) w 0 s = .ok ((), s.later la d w) := by
  unfold late State.later
  rw [M.bind_ok (M.get_run s)]
  dsimp only
  by_cases h0 : d = 0
  · subst h0; rfl
  · have hval : ¬ d.val = 0 := fun e => h0 (Fin.ext e)
    rw [if_neg hval, if_neg h0]
    by_cases hla : la = 0
    · rw [if_pos hla, if_pos hla]
      exact writeG_run h w
    · rw [if_neg hla, if_neg hla]
      unfold openWindow
      by_cases hp : isPort d = true
      · rw [if_pos hp, M.bind_ok (M.get_run s), if_pos hp]
        rfl
      · rw [if_neg hp, M.bind_ok (overwrite_none h), if_neg hp]
        rfl

/-- A long-latency result after reads (R17, R61). -/
theorem late_reads {s t : State} {rs ws : List GReg} {xs : List Word} {d : GReg} (hc : s.clear rs ws [] [] = true) (hd : d ∈ ws)
    (hr : s.Reads rs xs t) (la : La) (w : Word) : late la (.g d) w 0 t = .ok ((), t.later la d w) := by
  refine late_run ?_ la w
  obtain ⟨_, _, _, _, e⟩ := hr.pops.me
  rw [e]
  exact State.clear_pend hc (.inr hd)

/-- A bundle of three register operands, up to what it does with the words. -/
theorem issue_read_three {s t : State} {a b c : GReg} {ws : List GReg} {x y z : Word} (hc : s.clear [a, b, c] ws [] [] = true)
    (hr : s.Reads [a, b, c] [x, y, z] t) (f : Word → Word → Word → M Unit) :
    (issue [a, b, c] ws [] [] >>= fun _ => readG a >>= fun x => readG b >>= fun y => readG c >>= f x y) s = f x y z t := by
  obtain ⟨u, ha, hu, pu, -⟩ := State.readG_run (State.clear_pend hc (by simp)) hr
  obtain ⟨v, hb, hv, pv, -⟩ := State.readG_run (by rw [pu]; exact State.clear_pend hc (by simp)) hu
  obtain ⟨w, hw, rest, -⟩ := State.readG_run (by rw [pv, pu]; exact State.clear_pend hc (by simp)) hv
  obtain rfl : t = w := rest
  rw [M.bind_ok (issue_run hc hr), M.bind_ok ha, M.bind_ok hb, M.bind_ok hw]

theorem binaryLate_answers {s t : State} {d a b : GReg} {x y : Word} {f : Word → Word → Word} {w : Word} (hc : s.clear [a, b] [d] [] [] = true)
    (hr : s.Reads [a, b] [x, y] t) (la : La) (hw : f x y = w) : runBundle (binaryLate f d a b la) s = .next (t.later la d w).done := by
  refine runBundle_ok ((issue_read_two hc hr _).trans ?_)
  rw [hw]
  exact late_reads hc (List.mem_singleton.mpr rfl) hr la w

/-! ### Division (R146) -/

theorem signExtend_allOnes32 : (BitVec.allOnes 32).signExtend 64 = BitVec.allOnes 64 := by decide

theorem quotient_natural {w : Nat} (x y : BitVec w) (h : y ≠ 0) : quotient w false x y = x / y := by
  apply BitVec.eq_of_toNat_eq
  rw [quotient, if_neg h, if_neg Bool.false_ne_true, BitVec.toNat_ofNat, BitVec.toNat_udiv,
    Nat.mod_eq_of_lt (Nat.lt_of_le_of_lt (Nat.div_le_self ..) x.isLt)]

theorem remainder_natural {w : Nat} (x y : BitVec w) : remainder w false x y = x % y := by
  by_cases h : y = 0
  · rw [remainder, if_pos h, h]; exact BitVec.umod_zero.symm
  · apply BitVec.eq_of_toNat_eq
    rw [remainder, if_neg h, if_neg Bool.false_ne_true, BitVec.toNat_ofNat, BitVec.toNat_umod,
      Nat.mod_eq_of_lt (Nat.lt_of_le_of_lt (Nat.mod_le ..) x.isLt)]

theorem remainder_signed {w : Nat} (x y : BitVec w) : remainder w true x y = BitVec.ofInt w (x.toInt.tmod y.toInt) := by
  by_cases h : y = 0
  · rw [remainder, if_pos h, h, show (0 : BitVec w).toInt = 0 from BitVec.toInt_zero, Int.tmod_zero, BitVec.ofInt_toInt]
  · rw [remainder, if_neg h, if_pos rfl]

theorem aluDiv_signed (f : Bool) (x y : Word) : aluDiv true f x y =
    if f then (if low32 y = 0 then BitVec.allOnes 64 else BitVec.signExtend 64 (BitVec.ofInt 32 ((low32 x).toInt.tdiv (low32 y).toInt)))
    else (if y = 0 then BitVec.allOnes 64 else BitVec.ofInt 64 (x.toInt.tdiv y.toInt)) := by
  rw [← signExtend_allOnes32, ← apply_ite (BitVec.signExtend 64)]
  rfl

theorem aluDiv_natural (f : Bool) (x y : Word) : aluDiv false f x y =
    if f then (if low32 y = 0 then BitVec.allOnes 64 else BitVec.signExtend 64 (low32 x / low32 y))
    else (if y = 0 then BitVec.allOnes 64 else x / y) := by
  have split : ∀ {w : Nat} (x y : BitVec w), quotient w false x y = if y = 0 then BitVec.allOnes w else x / y := fun x y => by
    by_cases h : y = 0
    · rw [quotient, if_pos h, if_pos h]
    · rw [quotient_natural x y h, if_neg h]
  unfold aluDiv dotW
  rw [split, split, sext32, apply_ite (BitVec.signExtend 64), signExtend_allOnes32]

theorem aluRem_signed (f : Bool) (x y : Word) : aluRem true f x y =
    if f then BitVec.signExtend 64 (BitVec.ofInt 32 ((low32 x).toInt.tmod (low32 y).toInt)) else BitVec.ofInt 64 (x.toInt.tmod y.toInt) := by
  rw [← remainder_signed, ← remainder_signed]; rfl

theorem aluRem_natural (f : Bool) (x y : Word) : aluRem false f x y = if f then BitVec.signExtend 64 (low32 x % low32 y) else x % y := by
  rw [← remainder_natural, ← remainder_natural]; rfl

/-! ### Bit operations (R147) -/

theorem aluRot_eq (f : Bool) (x y : Word) :
    aluRot f x y = if f then BitVec.signExtend 64 ((low32 x).rotateRight (y.toNat % 32)) else x.rotateRight (y.toNat % 64) := by
  rw [← low32_count]; rfl

theorem counted_eq (f : Bool) (g : Nat → Nat → Nat) (x : Word) :
    counted f g x = BitVec.ofNat 64 (g (if f then 32 else 64) (if f then x.toNat % 2 ^ 32 else x.toNat)) := by
  rw [← low32_toNat]
  cases f <;> rfl

theorem popCount_eq_countP (n x : Nat) : popCount n x = (List.range n).countP x.testBit := List.countP_eq_length_filter.symm

/-- A search of a range that finds nothing gives its length, and one that finds a number gives the first. -/
theorem find?_range_getD (n : Nat) (p : Nat → Bool) : let k := ((List.range n).find? p).getD n
    k ≤ n ∧ (∀ i, i < k → p i = false) ∧ (k < n → p k = true) := by
  cases h : (List.range n).find? p with
  | none =>
    rw [List.find?_range_eq_none] at h
    exact ⟨Nat.le_refl n, fun i hi => by simpa using h i hi, fun hn => absurd hn (Nat.lt_irrefl n)⟩
  | some k =>
    rw [List.find?_range_eq_some] at h
    obtain ⟨hp, hmem, before⟩ := h
    exact ⟨(List.mem_range.mp hmem).le, fun i hi => by simpa using before i hi, fun _ => hp⟩

theorem trailingZeros_spec (n x : Nat) :
    trailingZeros n x ≤ n ∧ (∀ i, i < trailingZeros n x → x.testBit i = false) ∧ (trailingZeros n x < n → x.testBit (trailingZeros n x) = true) := by
  have h : trailingZeros n x = ((List.range n).find? x.testBit).getD n := by
    unfold trailingZeros
    cases (List.range n).find? x.testBit <;> rfl
  rw [h]
  exact find?_range_getD n x.testBit

theorem leadingZeros_spec {n x : Nat} (hx : x < 2 ^ n) :
    leadingZeros n x ≤ n ∧ x < 2 ^ (n - leadingZeros n x) ∧ (leadingZeros n x < n → 2 ^ (n - leadingZeros n x - 1) ≤ x) := by
  have h : leadingZeros n x = ((List.range n).find? (fun i => x.testBit (n - 1 - i))).getD n := by
    unfold leadingZeros
    cases (List.range n).find? (fun i => x.testBit (n - 1 - i)) <;> rfl
  obtain ⟨le, before, at_⟩ := find?_range_getD n (fun i => x.testBit (n - 1 - i))
  rw [← h] at le before at_
  generalize leadingZeros n x = k at le before at_
  refine ⟨le, Nat.lt_pow_two_of_testBit x fun i hi => ?_, fun hk => ?_⟩
  · by_cases hn : n ≤ i
    · exact Nat.testBit_lt_two_pow (Nat.lt_of_lt_of_le hx (Nat.pow_le_pow_right (by decide) hn))
    · have := before (n - 1 - i) (by omega)
      rwa [show n - 1 - (n - 1 - i) = i by omega] at this
  · rw [show n - k - 1 = n - 1 - k by omega]
    exact Nat.ge_two_pow_of_testBit (at_ hk)

/-- The bytes of a reversed number are those of the number in reverse order. -/
theorem reverseBytes_spec (n x : Nat) : reverseBytes n x < 256 ^ n ∧
    ∀ i, i < n → reverseBytes n x / 256 ^ i % 256 = x / 256 ^ (n - 1 - i) % 256 := by
  induction n generalizing x with
  | zero => exact ⟨by simp [reverseBytes], fun i hi => absurd hi (Nat.not_lt_zero i)⟩
  | succ n ih =>
    obtain ⟨small, bytes⟩ := ih (x / 256)
    have top : x % 256 < 256 := Nat.mod_lt _ (by decide)
    refine ⟨?_, fun i hi => ?_⟩
    · rw [reverseBytes, Nat.pow_succ]
      have := Nat.mul_le_mul_right (256 ^ n) (Nat.le_of_lt_succ top)
      omega
    · rw [reverseBytes]
      by_cases hin : i = n
      · subst hin
        rw [Nat.add_comm, Nat.add_mul_div_right _ _ (Nat.pow_pos (by decide)), Nat.div_eq_of_lt small]
        simp
      · have split : 256 ^ n = 256 ^ (n - i - 1) * 256 * 256 ^ i := by
          rw [← Nat.pow_succ, ← Nat.pow_add]; congr 1; omega
        rw [split, ← Nat.mul_assoc, Nat.add_comm, Nat.add_mul_div_right _ _ (Nat.pow_pos (by decide)), ← Nat.mul_assoc, Nat.add_mul_mod_self_right,
          bytes i (by omega), Nat.div_div_eq_div_mul, ← Nat.pow_succ']
        congr 3
        omega

theorem low32_sext32 (v : BitVec 32) : low32 (sext32 v) = v := by
  apply BitVec.eq_of_getLsbD_eq
  intro i hi
  rw [low32, sext32, BitVec.getLsbD_setWidth, BitVec.getLsbD_signExtend, if_pos hi]
  simp [hi, show i < 64 by omega]

theorem aluBswap_wide (x : Word) : ∀ i, i < 8 → (aluBswap false x).toNat / 256 ^ i % 256 = x.toNat / 256 ^ (8 - 1 - i) % 256 := by
  obtain ⟨small, bytes⟩ := reverseBytes_spec 8 x.toNat
  have wide : (aluBswap false x).toNat = reverseBytes 8 x.toNat := by
    rw [aluBswap, if_neg Bool.false_ne_true, BitVec.toNat_ofNat]
    exact Nat.mod_eq_of_lt small
  rw [wide]
  exact bytes

theorem aluBswap_narrow (x : Word) :
    (∀ i, i < 4 → (aluBswap true x).toNat / 256 ^ i % 256 = x.toNat % 2 ^ 32 / 256 ^ (4 - 1 - i) % 256) ∧
    ∀ i, 31 ≤ i → i < 64 → (aluBswap true x).getLsbD i = (aluBswap true x).getLsbD 31 := by
  obtain ⟨small, bytes⟩ := reverseBytes_spec 4 (low32 x).toNat
  have narrow : aluBswap true x = sext32 (BitVec.ofNat 32 (reverseBytes 4 (low32 x).toNat)) := if_pos rfl
  have low : (aluBswap true x).toNat % 2 ^ 32 = reverseBytes 4 (low32 x).toNat := by
    rw [← low32_toNat, narrow, low32_sext32, BitVec.toNat_ofNat]
    exact Nat.mod_eq_of_lt small
  refine ⟨fun i hi => ?_, fun i hi hi' => ?_⟩
  · rw [← low32_toNat, ← bytes i hi, ← low]
    interval_cases i <;> omega
  · rw [narrow, sext32, BitVec.getLsbD_signExtend, BitVec.getLsbD_signExtend]
    by_cases h : i = 31
    · rw [h]
    · simp [BitVec.msb_eq_getLsbD_last, hi', show ¬ i < 32 by omega]

/-- The bytes of bswap at either width. -/
theorem aluBswap_bytes (f : Bool) (x : Word) : ∀ i, i < (if f then 32 else 64) / 8 → (aluBswap f x).toNat / 256 ^ i % 256 =
    (if f then x.toNat % 2 ^ 32 else x.toNat) / 256 ^ ((if f then 32 else 64) / 8 - 1 - i) % 256 := by
  cases f
  · simpa using aluBswap_wide x
  · simpa using (aluBswap_narrow x).1

/-! ### Fields (R148) -/

/-- The field specs that R148 refuses. -/
def badSpec (y : Word) : Bool :=
  decide (64 < field y 5 0 + (field y 13 8 + 1) ∨ field y 63 17 ≠ 0 ∨ field y 15 14 ≠ 0 ∨ field y 7 6 ≠ 0)

theorem fieldSpec_eq (y : Word) : fieldSpec y = if badSpec y then none else some (y.getLsbD 16, field y 13 8 + 1, field y 5 0) :=
  if_congr decide_eq_true_iff.symm rfl rfl

theorem extractField_eq (sx : Bool) (w pos : Nat) (x : Word) : extractField sx w pos x =
    if sx then BitVec.ofInt 64 (toSigned w (x.toNat / 2 ^ pos)) else BitVec.ofNat 64 (x.toNat / 2 ^ pos % 2 ^ w) := by
  have again : toSigned w (x.toNat / 2 ^ pos % 2 ^ w) = toSigned w (x.toNat / 2 ^ pos) := by
    simp only [toSigned, Nat.mod_mod]
  rw [← again]; rfl

/-- A field inserted: its bits come from the operand, the others stay. -/
theorem insertField_getLsbD (w pos : Nat) (z x : Word) {i : Nat} (hi : i < 64) :
    (insertField w pos z x).getLsbD i = if pos ≤ i ∧ i < pos + w then x.getLsbD (i - pos) else z.getLsbD i := by
  have inside : (decide (pos ≤ i) && decide (i - pos < w)) = decide (pos ≤ i ∧ i < pos + w) := by
    rw [← Bool.decide_and, decide_eq_decide]; omega
  have mask : (BitVec.ofNat 64 ((2 ^ w - 1) * 2 ^ pos)).getLsbD i = decide (pos ≤ i ∧ i < pos + w) := by
    rw [BitVec.getLsbD_ofNat, Nat.testBit_mul_two_pow, Nat.testBit_two_pow_sub_one, decide_eq_true hi, Bool.true_and, inside]
  have bits : (BitVec.ofNat 64 (x.toNat % 2 ^ w * 2 ^ pos)).getLsbD i = (decide (pos ≤ i ∧ i < pos + w) && x.getLsbD (i - pos)) := by
    rw [BitVec.getLsbD_ofNat, Nat.testBit_mul_two_pow, Nat.testBit_mod_two_pow, decide_eq_true hi, Bool.true_and, ← Bool.and_assoc, inside,
      BitVec.testBit_toNat]
  rw [insertField, BitVec.getLsbD_or, BitVec.getLsbD_and, BitVec.getLsbD_not, mask, bits]
  by_cases hin : pos ≤ i ∧ i < pos + w
  · simp [hin]
  · simp [hin, hi]

section
variable {s t : State} {d a b : GReg} {x y z : Word}

theorem bext_answers (hc : s.clear [a, b] [d] [] [] = true) (hr : s.Reads [a, b] [x, y] t) :
    exec (.bext d a b) s = .next (if badSpec y then s.trapped (s.me.withDetail { cls := 0, detail := 9 })
      else (t.put d (extractField (y.getLsbD 16) (field y 13 8 + 1) (field y 5 0) x)).done) := by
  have read := issue_read_two hc hr fun x spec => match fieldSpec spec with
    | none => trap 0 9
    | some (sx, w, pos) => writeG d (extractField sx w pos x)
  rw [fieldSpec_eq] at read
  cases hb : badSpec y with
  | true =>
    rw [hb] at read
    exact runBundle_trap read
  | false =>
    rw [hb] at read
    exact runBundle_ok (read.trans (writeG_reads hc (List.mem_singleton.mpr rfl) hr _))

theorem bins_answers (hc : s.clear [a, b, d] [d] [] [] = true) (hr : s.Reads [a, b, d] [x, y, z] t) :
    exec (.bins d a b) s = .next (if badSpec y then s.trapped (s.me.withDetail { cls := 0, detail := 9 })
      else (t.put d (insertField (field y 13 8 + 1) (field y 5 0) z x)).done) := by
  have read := issue_read_three hc hr fun x spec y => match fieldSpec spec with
    | none => trap 0 9
    | some (_, w, pos) => writeG d (insertField w pos y x)
  rw [fieldSpec_eq] at read
  cases hb : badSpec y with
  | true =>
    rw [hb] at read
    exact runBundle_trap read
  | false =>
    rw [hb] at read
    exact runBundle_ok (read.trans (writeG_reads hc (List.mem_singleton.mpr rfl) hr _))

end

/-- Settles O3: each operation's value from the lemmas above; the field specs by `badSpec`, which is the statement's own test. -/
theorem divisionAndBitResults : Obligations.DivisionAndBitResults := by
  intro s t d a b f la x y hc hr lo ones
  have slow : ∀ {g : Word → Word → Word} {w : Word}, g x y = w → runBundle (binaryLate g d a b la) s = .next (t.later la d w).done :=
    binaryLate_answers hc hr la
  refine ⟨slow (aluDiv_signed f x y), slow (aluDiv_natural f x y), slow (aluRem_signed f x y), slow (aluRem_natural f x y),
    binary_answers hc hr (aluRot_eq f x y), ⟨?_, fun z u hc hr good => ?_, fun z u hc hr bad => ?_⟩, fun u hc hr => ?_⟩
  · rw [← extractField_eq]
    exact bext_answers hc hr
  · have put := bins_answers hc hr
    rw [show badSpec y = false from good] at put
    exact ⟨_, put, fun i hi => insertField_getLsbD _ _ z x hi⟩
  · have trap := bins_answers hc hr
    rwa [show badSpec y = true from bad] at trap
  · intro n bits
    have count : ∀ g : Nat → Nat → Nat, runBundle (unary (counted f g) d a) s = .next (u.put d (BitVec.ofNat 64 (g n bits))).done := fun g =>
      unary_answers hc hr (counted_eq f g x)
    have small : bits < 2 ^ n := by
      show (if f then x.toNat % 2 ^ 32 else x.toNat) < 2 ^ (if f then 32 else 64)
      cases f
      · exact x.isLt
      · exact Nat.mod_lt _ (by decide)
    exact ⟨popCount_eq_countP n bits ▸ count popCount, ⟨_, count leadingZeros, leadingZeros_spec small⟩,
      ⟨_, count trailingZeros, trailingZeros_spec n bits⟩, _, unary_answers hc hr rfl, aluBswap_bytes f x,
      fun hf => hf ▸ (aluBswap_narrow x).2⟩

end Sys2Proof.Machine
end

section
/-! SUPPORT. Scalar floating point and random numbers (R105, R149 to R151, R154). -/

namespace Sys2Proof.Machine

/-! ### Scalar floating point (R149 to R151) -/

theorem scalarVal_eq (f : Bool) (x : Word) : scalarVal f x = (scalarFmt f).decode (if f then x.toNat else x.toNat % 2 ^ 32) := by
  cases f
  · rfl
  · show Fmt.f64.decode (x.toNat % 2 ^ 64) = Fmt.f64.decode x.toNat
    rw [Nat.mod_eq_of_lt x.isLt]

/-- A comparison holds where its outcome is one of a list (R119, R149). -/
theorem scalarCmp_eq (f : Bool) {ok : Ordering → Bool} {os : List Ordering} (h : ∀ o, ok o = decide (o ∈ os)) (x y : Word) :
    scalarCmp f ok x y = match (scalarVal f x).cmp (scalarVal f y) with | some c => if c ∈ os then 1 else 0 | none => 0 := by
  unfold scalarCmp
  cases (scalarVal f x).cmp (scalarVal f y) with
  | none => rfl
  | some o => simp [cond, h o]

theorem convertScalar_eq (code : Fin 8) (x : Word) : convertScalar code x = match code with
    | 0 => BitVec.ofNat 64 (Fmt.f64.encode .rne (Fmt.f32.decode (x.toNat % 2 ^ 32)))
    | 1 => BitVec.ofNat 64 (Fmt.f32.encode .rne (Fmt.f64.decode x.toNat))
    | 2 => BitVec.ofNat 64 (Fmt.f64.encode .rne (Val.ofInt x.toInt))
    | 3 => BitVec.ofInt 64 ((Fmt.f64.decode x.toNat).toInt .rne (-2 ^ 63) (2 ^ 63 - 1))
    | 4 => BitVec.ofNat 64 (Fmt.f32.encode .rne (Val.ofInt x.toInt))
    | 5 => BitVec.ofInt 64 ((Fmt.f32.decode (x.toNat % 2 ^ 32)).toInt .rne (-2 ^ 63) (2 ^ 63 - 1))
    | 6 => BitVec.ofNat 64 (Fmt.f64.encode .rne (Val.ofInt x.toNat))
    | 7 => BitVec.ofInt 64 ((Fmt.f64.decode x.toNat).toInt .rne 0 (2 ^ 64 - 1)) := by
  have wide : scalarVal true x = Fmt.f64.decode x.toNat := scalarVal_eq true x
  unfold convertScalar
  rw [wide]
  fin_cases code <;> rfl

/-- What R150 says of a value's class by the number of its bit. -/
def Fmt.Classed (f : Fmt) (v : Val) (k : Nat) : Prop :=
  (k = 8 ↔ v = .nan) ∧ (k = 2 ∨ k = 5 ↔ ∃ n m, v = .fin n m f.qmin ∧ 0 < m ∧ m < 2 ^ f.frac) ∧ (k = 0 ↔ v = .inf true) ∧
  (k = 7 ↔ v = .inf false) ∧ (k = 3 ∨ k = 4 ↔ ∃ n e, v = .fin n 0 e) ∧ (k = 1 ∨ k = 2 ∨ k = 3 → v.isNeg = true) ∧
  (k = 4 ∨ k = 5 ∨ k = 6 → v.isNeg = false)

section
variable (f : Fmt)

theorem Fmt.classed_nan : f.Classed .nan 8 := by simp [Fmt.Classed]

theorem Fmt.classed_inf (neg : Bool) : f.Classed (.inf neg) (if neg then 0 else 7) := by
  cases neg <;> simp [Fmt.Classed]

theorem Fmt.classed_zero (neg : Bool) (e : Int) : f.Classed (.fin neg 0 e) (if neg then 3 else 4) := by
  cases neg <;> simp [Fmt.Classed, Val.isNeg]

theorem Fmt.classed_subnormal (neg : Bool) {m : Nat} (h0 : 0 < m) (h : m < 2 ^ f.frac) :
    f.Classed (.fin neg m f.qmin) (if neg then 2 else 5) := by
  have hm : ¬ m = 0 := by omega
  cases neg <;> simp [Fmt.Classed, Val.isNeg, hm, h0, h]

theorem Fmt.classed_normal (neg : Bool) {m : Nat} (h : 2 ^ f.frac ≤ m) (e : Int) : f.Classed (.fin neg m e) (if neg then 1 else 6) := by
  have hm : ¬ m = 0 := by have := Nat.two_pow_pos f.frac; omega
  have hs : ¬ m < 2 ^ f.frac := Nat.not_lt.mpr h
  cases neg <;> simp [Fmt.Classed, Val.isNeg, hm, hs]

end

/-- The class mask of a pattern of a format with infinities is the bit of its value's class. -/
theorem Fmt.classMask_spec {f : Fmt} (hf : f ≠ .e4m3) (bits : Nat) : ∃ k, k ≤ 8 ∧ f.classMask bits = 2 ^ k ∧ f.Classed (f.decode bits) k := by
  have hfr : bits % 2 ^ f.frac < 2 ^ f.frac := Nat.mod_lt _ (Nat.two_pow_pos _)
  unfold Fmt.classMask Fmt.decode
  simp only [hf, if_false]
  generalize bits / 2 ^ f.frac % 2 ^ f.ebits = ex
  generalize bits % 2 ^ f.frac = fr at hfr
  generalize decide (bits / 2 ^ (f.ebits + f.frac) % 2 = 1) = neg
  by_cases hmax : ex = 2 ^ f.ebits - 1
  · simp only [if_pos hmax]
    by_cases h0 : fr = 0
    · simp only [if_pos h0]
      exact ⟨_, by cases neg <;> decide, by cases neg <;> rfl, f.classed_inf neg⟩
    · simp only [if_neg h0]
      exact ⟨8, Nat.le_refl 8, rfl, f.classed_nan⟩
  · simp only [if_neg hmax]
    by_cases hsub : ex = 0
    · simp only [if_pos hsub]
      by_cases h0 : fr = 0
      · subst h0
        exact ⟨_, by cases neg <;> decide, by cases neg <;> rfl, f.classed_zero neg _⟩
      · refine ⟨_, ?_, ?_, f.classed_subnormal neg (Nat.pos_of_ne_zero h0) hfr⟩
        · cases neg <;> decide
        · cases neg <;> simp [h0, hsub]
    · simp only [if_neg hsub]
      refine ⟨_, ?_, ?_, f.classed_normal neg (Nat.le_add_right _ fr) _⟩
      · cases neg <;> decide
      · cases neg <;> simp [hsub]

theorem scalarFmt_ne (f : Bool) : scalarFmt f ≠ .e4m3 := by cases f <;> decide

/-! ### rand (R105, R154) -/

theorem rand_answers {s : State} {d : GReg} (hc : s.clear [] [d] [] [] = true) :
    exec (.rand d) s = .next ((s.setMe { s.me with rng := rngNext s.me.rng }).put d (rngNext s.me.rng)).done := by
  refine runBundle_ok ?_
  rw [M.bind_ok (issue_run (xs := []) hc rfl), M.bind_ok (M.getMe_run s), M.bind_ok (M.modifyMe_run _ s)]
  refine writeG_run ?_ _
  rw [State.setMe_me]
  exact State.clear_pend hc (.inr (List.mem_singleton.mpr rfl))

/-- Settles O4: the operands' values by `scalarVal_eq`, the comparisons and conversions by their equations, and fcls by the cases of
`Fmt.classMask_spec`. -/
theorem floatAndRandomResults : Obligations.FloatAndRandomResults := by
  intro s t d a b f code x y hc hr fmt val rne holds
  have two : ∀ {g : Word → Word → Word} {w : Word}, g x y = w → runBundle (binary g d a b) s = .next (t.put d w).done := binary_answers hc hr
  have value : ∀ v, scalarVal f v = val v := scalarVal_eq f
  have op : ∀ g : Val → Val → Val, scalarOp f g x y = rne (g (val x) (val y)) := fun g => by rw [← value, ← value]; rfl
  have compares : ∀ {ok : Ordering → Bool} {os : List Ordering}, (∀ o, ok o = decide (o ∈ os)) → scalarCmp f ok x y = holds os := fun h => by
    have result := scalarCmp_eq f h x y
    rw [value, value] at result
    exact result
  refine ⟨two (op Val.add), two (op Val.sub), two (op Val.mul), two (op Val.div), two (op Val.min), two (op Val.max), two (compares ?_),
    two (compares ?_), two (compares ?_), fun z u hc hr => ternary_answers hc hr ?_,
    fun u hc hr => ⟨unary_answers hc hr ?_, ?_, unary_answers hc hr (convertScalar_eq code x)⟩, rand_answers⟩
  · rintro (_ | _ | _) <;> rfl
  · rintro (_ | _ | _) <;> rfl
  · rintro (_ | _ | _) <;> rfl
  · rw [← value, ← value, ← value]; rfl
  · rw [← value]; rfl
  · obtain ⟨k, le, mask, classed⟩ := Fmt.classMask_spec (scalarFmt_ne f) (x.toNat % 2 ^ (scalarFmt f).width)
    rw [show (scalarFmt f).decode (x.toNat % 2 ^ (scalarFmt f).width) = val x from value x] at classed
    exact ⟨k, le, unary_answers hc hr (congrArg (BitVec.ofNat 64) mask), classed⟩

end Sys2Proof.Machine
end

section
/-! SUPPORT. Branches and jumps (R80, R142 to R144). -/

namespace Sys2Proof.Machine

/-! ### Branches, jumps and misc (R142 to R144) -/

section
variable {s t : State} {a b d : GReg} {x y : Word}

/-- A branch goes to its target where its condition holds (R83, R142). -/
theorem branch_answers (hc : s.clear [a, b] [] [] [] = true) (hr : s.Reads [a, b] [x, y] t) (taken : Word → Word → Bool) (imm : Int) :
    runBundle (branch taken a b imm) s = .next (if taken x y then t.jumps (s.me.pc + BitVec.ofInt 64 (2 * imm)) else t).done := by
  have pc : t.me.pc = s.me.pc := by
    obtain ⟨_, _, _, _, e⟩ := hr.pops.me
    rw [e]
  refine runBundle_ok ((issue_read_two hc hr _).trans ?_)
  rw [← pc]
  split <;> rfl

theorem jal_answers (hc : s.clear [] [55] [] [] = true) (imm : Int) :
    exec (.jal imm) s = .next ((s.put 55 s.me.npc).jumps (s.me.pc + BitVec.ofInt 64 (2 * imm))).done := by
  have plain : s.put 55 s.me.npc = s.setMe (s.me.wr 55 s.me.npc) := s.put_plain rfl _
  refine runBundle_ok ?_
  rw [M.bind_ok (issue_run (xs := []) hc rfl), M.bind_ok (M.getMe_run s), M.bind_ok (writeG_run (State.clear_pend hc (by simp)) _), plain,
    M.modifyMe_run, State.jumps, State.setMe_me]
  rfl

theorem getLsbD_zero_eq (x : Word) : x.getLsbD 0 = decide (x.toNat % 2 = 1) := by
  rw [BitVec.getLsbD, Nat.testBit_zero]

theorem jr_answers (hc : s.clear [a] [d] [] [] = true) (hr : s.Reads [a] [x] t) (hx : x.toNat % 2 = 0) :
    let u := t.put d t.me.npc
    exec (.jr d a) s = .next (u.setMe { u.me with npc := x, fenced := [] }).done := by
  refine runBundle_ok ((issue_read_one hc hr _).trans ?_)
  rw [M.bind_ok (M.require_run (by rw [getLsbD_zero_eq]; simp [hx]) 0 10 t), M.bind_ok (M.getMe_run t),
    M.bind_ok (writeG_reads hc (List.mem_singleton.mpr rfl) hr _)]
  rfl

theorem jr_odd (hc : s.clear [a] [d] [] [] = true) (hr : s.Reads [a] [x] t) (hx : x.toNat % 2 = 1) :
    exec (.jr d a) s = .next (s.trapped (s.me.withDetail { cls := 0, detail := 10 })) := by
  refine runBundle_trap ((issue_read_one hc hr _).trans (M.bind_error ?_))
  rw [getLsbD_zero_eq, decide_eq_true hx]
  rfl

end

/-- Settles O5, from one lemma for each kind of transfer. -/
theorem controlFlow : Obligations.ControlFlow := by
  intro s t a b d x y imm target
  refine ⟨runBundle_ok (m := modifyMe fun c => { c with npc := c.target imm }) rfl, fun hc => jal_answers hc imm,
    fun hc hr hx => jr_answers hc hr hx, fun hc hr hx => jr_odd hc hr hx,
    runBundle_ok (m := pure ()) rfl, runBundle_trap (m := trap 0 11) rfl, fun hc hr => ?_⟩
  have goes : ∀ {taken : Word → Word → Bool} {p : Prop} [Decidable p], (taken x y = true ↔ p) →
      runBundle (branch taken a b imm) s = .next (if p then t.jumps target else t).done := fun h =>
    (branch_answers hc hr _ imm).trans (by rw [if_congr h rfl rfl])
  have stays : ∀ {taken : Word → Word → Bool} {p : Prop} [Decidable p], (taken x y = true ↔ ¬p) →
      runBundle (branch taken a b imm) s = .next (if p then t else t.jumps target).done := fun h => by
    rw [goes h, ite_not]
  exact ⟨goes beq_iff_eq, stays bne_iff_ne, goes decide_eq_true_iff, stays (decide_eq_true_iff.trans Int.not_lt.symm), goes decide_eq_true_iff,
    stays (decide_eq_true_iff.trans Nat.not_lt.symm)⟩

end Sys2Proof.Machine
end

section
/-! SUPPORT. Loads and the causes of addresses (R127 to R134, R140, R141): the steps of an access that meets nothing, what a load answers, and the checks of an
aperture address in their order. -/

namespace Sys2Proof.Machine

/-! ### Steps of an access that meets nothing -/

theorem windowOf_run (acc : Acc) (ea : Word) (n : Nat) (la : La) (s : State) :
    windowOf acc ea n la s = .ok (if s.touchesSC acc ea n then 0 else la, s) := by
  unfold windowOf
  rw [M.bind_ok (M.get_run s)]
  split <;> rfl

theorem strongWindow_run (acc : Acc) (ea : Word) (n : Nat) (la : La) (s : State) :
    strongWindow acc ea n la s = .ok (if s.me.status.getLsbD 2 then 0 else if s.touchesSC acc ea n then 0 else la, s) := by
  unfold strongWindow
  rw [M.bind_ok (M.getMe_run s)]
  split
  · rfl
  · exact windowOf_run acc ea n la s

section
variable {s : State} {locs : List Nat}

theorem awaitOwn_run (h : s.landed locs) : awaitOwn locs s = .ok ((), s) := by
  unfold awaitOwn
  rw [M.bind_ok (M.get_run s)]
  exact M.await_run (by rw [show s.inFlight locs = false from h]; rfl) _ s

theorem meet_unshared (write : Bool) (h : s.unshared locs) : meet write locs s = .ok ((), s) :=
  meet_run write h.1 fun l hl => ⟨(h.2 l hl).1, (h.2 l hl).2.2⟩

theorem readBytes_run (h : s.unshared locs) : readBytes locs s = .ok (s.loadAt locs, s) := by
  have clean : (linesOf locs).find? s.poison.contains = none :=
    List.find?_eq_none.mpr fun l hl => by simpa using (h.2 l hl).2.1
  have consumes : consume locs s = .ok ((), s) := by
    unfold consume
    rw [M.bind_ok (M.get_run s)]
    simp only [clean]
    rfl
  unfold readBytes
  rw [M.bind_ok (meet_unshared false h), M.bind_ok consumes]
  rfl

theorem refuseMixed_run (h : s.unmixed locs) (ea : Word) : refuseMixed ea locs s = .ok ((), s) := by
  unfold refuseMixed
  rw [M.bind_ok (M.get_run s)]
  simp only [show s.mixedBytes locs = [] from h]
  rfl

/-- An observed strong store changes no context. -/
theorem observe_me {t : State} (h : observe locs s = .ok ((), t)) : t.me = s.me ∧ t.cur = s.cur := by
  cases h; exact ⟨rfl, rfl⟩

end

theorem State.Accessed.pend {s t : State} (h : s.Accessed t) : t.me.pend = s.me.pend := by
  obtain ⟨_, _, _, _, _, e⟩ := h.me
  rw [e]

theorem State.Pops.pend {s t : State} (h : s.Pops t) : t.me.pend = s.me.pend := by
  obtain ⟨_, _, _, _, e⟩ := h.me
  rw [e]

/-! ### What a load answers (R127, R133, R140) -/

/-- A number's sign extension from a width (R127). -/
theorem ofInt_toSigned {w : Nat} (hw : 0 < w) (x : Nat) : BitVec.ofInt 64 (toSigned w x) = (BitVec.ofNat w x).signExtend 64 := by
  have half : 2 ^ w = 2 * 2 ^ (w - 1) := by rw [← Nat.pow_succ']; congr 1; omega
  rw [BitVec.signExtend, BitVec.toInt_eq_toNat_cond, BitVec.toNat_ofNat, toSigned]
  congr 1
  by_cases h : x % 2 ^ w < 2 ^ (w - 1)
  · rw [if_pos h, if_pos (by omega)]
  · rw [if_neg h, if_neg (by omega)]
    norm_cast

section
variable {s t u : State} {d a : GReg} {imm : Int} {la : La} {base : Word} {locs : List Nat} {size : Nat}

theorem loadNat_run {acc : Acc} {ea : Word} (hl : locate acc ea size t = .ok (locs, u)) (hu : u.unshared locs) (hf : u.landed locs) :
    loadNat acc ea size t = .ok (u.numberAt locs, u) := by
  unfold loadNat
  rw [M.bind_ok (loadBytes_run hl hu hf)]
  rfl

variable (hc : s.clear [a] [d] [] [] = true) (hr : s.Reads [a] [base] t)
  (hl : locate .load (offsetAddr base imm size) size t = .ok (locs, u)) (hu : u.unshared locs) (hf : u.landed locs)
include hc hr hl hu hf

theorem load_answers (signed : Bool) {w : Word} (hw : extend signed size (u.numberAt locs) = w) : runBundle (loadStep size signed d a imm la) s =
    .next (u.later (if t.touchesSC .load (offsetAddr base imm size) size then 0 else la) d w).done := by
  have pend : u.me.pend = s.me.pend := (locate_accesses _ _ _ _ _ _ hl).pend.trans hr.pops.pend
  refine runBundle_ok ((issue_read_one hc hr _).trans ?_)
  rw [M.bind_ok (windowOf_run ..), M.bind_ok (loadNat_run hl hu hf), hw]
  exact late_run (pend ▸ State.clear_pend hc (.inr (List.mem_singleton.mpr rfl))) _ _

theorem load_extended (hs : 0 < size) : runBundle (loadStep size true d a imm la) s = .next (u.later
    (if t.touchesSC .load (offsetAddr base imm size) size then 0 else la) d ((BitVec.ofNat (8 * size) (u.numberAt locs)).signExtend 64)).done :=
  load_answers hc hr hl hu hf true (ofInt_toSigned (by omega) _)

/-- An acquire load gives its bytes and observes (R140, R217, R219). -/
theorem lda_answers {q : QType} (hs : size = sizeOf q) (hal : (offsetAddr base imm size).toNat % size = 0) (hm : u.unmixed locs) {v : State}
    (ho : observe locs u = .ok ((), v)) : exec (.lda d a imm q la) s = .next ((v.setMe v.me.acquire).later (if t.me.status.getLsbD 2 then 0 else
      if t.touchesSC .load (offsetAddr base imm size) size then 0 else la) d (BitVec.ofNat 64 (u.numberAt locs))).done := by
  subst hs
  have pend : (v.setMe v.me.acquire).me.pend = s.me.pend := by
    rw [State.setMe_me, (observe_me ho).1]
    exact (locate_accesses _ _ _ _ _ _ hl).pend.trans hr.pops.pend
  refine runBundle_ok ((issue_read_one hc hr _).trans ?_)
  rw [M.bind_ok (aligned_run hal t), M.bind_ok (strongWindow_run ..), M.bind_ok hl, M.bind_ok (awaitOwn_run hf),
    M.bind_ok (meet_unshared false hu), M.bind_ok (refuseMixed_run hm _), M.bind_ok (M.get_run u)]
  rw [show u.mixedBytes locs = [] from hm, M.bind_ok (show scramble [] u = .ok ((), u) from rfl), M.bind_ok (readBytes_run hu), M.bind_ok ho,
    M.bind_ok (M.modifyMe_run _ v)]
  exact late_run (pend ▸ State.clear_pend hc (.inr (List.mem_singleton.mpr rfl))) _ _

end

/-- Settles O13: `load_answers` at each size and `lda_answers`; what translating leaves is `State.Accessed`. -/
theorem loadResults : Obligations.LoadResults := by
  intro s t u d a imm la q base locs size hc hr ea x w strict hl hu hf
  have accessed := locate_accesses _ _ _ _ _ _ hl
  refine ⟨fun hs => ?_, fun hs => ?_, fun hs => ?_, fun hs => ?_, fun hs hal hm v ho => lda_answers hc hr hl hu hf hs hal hm ho,
    accessed.mem.trans (by rw [hr.pops.rest]), State.keepsOthers_trans hr.pops.others (hr.pops.cur ▸ accessed.others), accessed.keepsRegisters⟩
  · subst hs
    exact ⟨load_extended hc hr hl hu hf (by decide), load_answers hc hr hl hu hf false rfl⟩
  · subst hs
    exact ⟨load_extended hc hr hl hu hf (by decide), load_answers hc hr hl hu hf false rfl⟩
  · subst hs
    exact ⟨load_extended hc hr hl hu hf (by decide), load_answers hc hr hl hu hf false rfl⟩
  · subst hs
    exact load_answers hc hr hl hu hf false rfl

/-! ### The checks of an aperture address (R129, R130) -/

section
variable {s : State} {ea : Word} {n : Nat}

theorem aperture_malformed (h : s.apertureCore s.me.part ea = none) : aperture ea n s = .error (.trap { cls := 2, detail := 5, addr := ea }) := by
  unfold aperture
  rw [M.bind_ok (M.get_run s)]
  simp only [h]
  rfl

theorem apertureCore_none (h : field ea 63 57 ≠ 0 ∨ field ea 37 21 ≠ 0 ∨ s.absCore s.me.part (field ea 47 38) = none) :
    s.apertureCore s.me.part ea = none := by
  unfold State.apertureCore
  split
  · rfl
  · rename_i hf
    rw [not_or, not_not, not_not] at hf
    exact (h.resolve_left fun h => h hf.1).resolve_left fun h => h hf.2

theorem apertureCore_some (h1 : field ea 63 57 = 0) (h2 : field ea 37 21 = 0) {k : CoreId}
    (hk : s.absCore s.me.part (field ea 47 38) = some k) : s.apertureCore s.me.part ea = some k := by
  rw [State.apertureCore, if_neg (by simp [h1, h2]), hk]

variable {k : CoreId} (hk : s.apertureCore s.me.part ea = some k)
include hk

theorem aperture_unserved (h : s.served s.me.part k = none) : aperture ea n s = .error (.trap { cls := 2, detail := 9, addr := ea }) := by
  unfold aperture
  rw [M.bind_ok (M.get_run s)]
  simp only [hk, h]
  rfl

variable {v : Served} (hv : s.served s.me.part k = some v)
include hv

theorem aperture_past (h : v.size < field ea 20 0 + n) : aperture ea n s = .error (.trap { cls := 2, detail := 4, addr := ea }) := by
  unfold aperture
  rw [M.bind_ok (M.get_run s)]
  simp only [hk, hv, if_pos h]
  rfl

variable (h : field ea 20 0 + n ≤ v.size)
include h

theorem aperture_moving (hm : s.moving k v = true) : aperture ea n s = .error (.wait .other) := by
  unfold aperture
  rw [M.bind_ok (M.get_run s)]
  simp only [hk, hv, if_neg (Nat.not_lt.mpr h), hm]
  rfl

theorem aperture_run (hm : s.moving k v = false) : aperture ea n s = .ok ((k, v), s) := by
  unfold aperture
  rw [M.bind_ok (M.get_run s)]
  simp only [hk, hv, if_neg (Nat.not_lt.mpr h), hm]
  rfl

end

theorem locate_aperture {s t : State} {acc : Acc} {ea : Word} {n : Nat} (ha : isAperture ea = true) {c : CoreId} {v : Served}
    (h : aperture ea n s = .ok ((c, v), t)) : locate acc ea n s = .ok (run (v.base + field ea 20 0) n, t) := by
  unfold locate
  rw [if_pos ha, M.bind_ok h]
  rfl

/-! ### Causes of loads (R129, R134, R141) -/

section
variable {s t : State} {d a : GReg} {imm : Int} {la : La} {q : QType} {base : Word} {size : Nat} {c : Trap}
  (hc : s.clear [a] [d] [] [] = true) (hr : s.Reads [a] [base] t)
include hc hr

theorem load_raises (signed : Bool) (hl : locate .load (offsetAddr base imm size) size t = .error (.trap c)) :
    runBundle (loadStep size signed d a imm la) s = .next (s.trapped (s.me.withDetail c)) := by
  refine runBundle_trap ((issue_read_one hc hr _).trans ?_)
  rw [M.bind_ok (windowOf_run ..)]
  exact M.bind_error (M.bind_error (M.bind_error hl))

theorem lda_raises (hs : size = sizeOf q) (hal : (offsetAddr base imm size).toNat % size = 0)
    (hl : locate .load (offsetAddr base imm size) size t = .error (.trap c)) :
    exec (.lda d a imm q la) s = .next (s.trapped (s.me.withDetail c)) := by
  subst hs
  refine runBundle_trap ((issue_read_one hc hr _).trans ?_)
  rw [M.bind_ok (aligned_run hal t), M.bind_ok (strongWindow_run ..)]
  exact M.bind_error hl

theorem lda_misaligned (hs : size = sizeOf q) (hal : (offsetAddr base imm size).toNat % size ≠ 0) :
    exec (.lda d a imm q la) s = .next (s.trapped (s.me.withDetail { cls := 2, detail := 6, addr := offsetAddr base imm size })) := by
  subst hs
  exact runBundle_trap ((issue_read_one hc hr _).trans (M.bind_error (aligned_trap hal t)))

end

/-! ### Causes of stores (R129 to R131, R141) -/

section
variable {s t : State} {d a : GReg} {imm : Int} {q : QType} {base x : Word} {op size : Nat} {c : Trap}
  (hc : s.clear [a, d] [] [] [] = true) (hr : s.Reads [a, d] [base, x] t)
include hc hr

/-- A store of page 0 whose XS its address allows, up to what it stores. -/
theorem storeStep_data {xs : Option XS} (hx : (xs.isNone || isAperture (offsetAddr base imm size)) = true) :
    storeStep op size d a imm xs s = storeData op (offsetAddr base imm size) (leBytes size x.toNat) xs t :=
  (issue_read_two hc hr _).trans (M.bind_ok (M.require_run hx 0 4 t))

theorem store_raises (ha : isAperture (offsetAddr base imm size) = false)
    (hl : locate .store (offsetAddr base imm size) size t = .error (.trap c)) :
    runBundle (storeStep op size d a imm none) s = .next (s.trapped (s.me.withDetail c)) := by
  refine runBundle_trap ((storeStep_data hc hr rfl).trans ?_)
  unfold storeData storePlain
  rw [ha, if_neg Bool.false_ne_true, leBytes_length]
  exact M.bind_error hl

/-- XS outside the aperture is refused before any other check of the address (R131). -/
theorem store_misplacedXS (ha : isAperture (offsetAddr base imm size) = false) (xs : XS) :
    runBundle (storeStep op size d a imm (some xs)) s = .next (s.trapped (s.me.withDetail { cls := 0, detail := 4 })) :=
  runBundle_trap ((issue_read_two hc hr _).trans (M.bind_error (M.require_trap ha 0 4 t)))

theorem stl_misplacedXS (hs : size = sizeOf q) (ha : isAperture (offsetAddr base imm size) = false) (xs : XS) :
    exec (.stl d a imm q (some xs)) s = .next (s.trapped (s.me.withDetail { cls := 0, detail := 4 })) := by
  subst hs
  exact runBundle_trap ((issue_read_two hc hr _).trans (M.bind_error (M.require_trap ha 0 4 t)))

theorem stl_misaligned (hs : size = sizeOf q) (hal : (offsetAddr base imm size).toNat % size ≠ 0) :
    exec (.stl d a imm q none) s = .next (s.trapped (s.me.withDetail { cls := 2, detail := 6, addr := offsetAddr base imm size })) := by
  subst hs
  have plain : ((none : Option XS).isNone || isAperture (offsetAddr base imm (sizeOf q))) = true := rfl
  exact runBundle_trap ((issue_read_two hc hr _).trans ((M.bind_ok (M.require_run plain 0 4 t)).trans (M.bind_error (aligned_trap hal t))))

/-- A store through the aperture whose address is refused; its class of 3 is refused first (R277). -/
theorem store_apertureRaises {xs : Option XS} (ha : isAperture (offsetAddr base imm size) = true)
    (hl : aperture (offsetAddr base imm size) size t = .error (.trap c)) : runBundle (storeStep op size d a imm xs) s =
      .next (s.trapped (s.me.withDetail (if (xs.map fun x => x.cls.val).getD 0 = 3 then { cls := 0, detail := 9 } else c))) := by
  refine runBundle_trap ((storeStep_data hc hr (by rw [ha, Bool.or_true])).trans ?_)
  unfold storeData storeAperture classed
  rw [if_pos ha, leBytes_length]
  by_cases h3 : (xs.map fun x => x.cls.val).getD 0 = 3
  · rw [if_pos h3, h3]
    exact M.bind_error rfl
  · rw [if_neg h3, M.bind_ok (M.require_run (by simpa using h3) 0 9 t)]
    exact M.bind_error hl

end

/-- Settles O16, from one lemma for each cause, in the order in which the instruction looks. -/
theorem addressCauses : Obligations.AddressCauses := by
  intro s t d a imm la q xs base x size c ea raises
  refine ⟨fun hc hr hl => ⟨fun hs => ?_, fun hs => ?_, fun hs => ?_, fun hs => ?_, fun hs hal => lda_raises hc hr hs hal hl⟩,
    fun hc hr hs hal => lda_misaligned hc hr hs hal,
    fun hc hr => ⟨fun ha hl => ⟨fun hs => ?_, fun hs => ?_, fun hs => ?_, fun hs => ?_⟩,
      fun ha => ⟨fun hs => ?_, fun hs => ?_, fun hs => stl_misplacedXS hc hr hs ha xs⟩, fun hs hal => stl_misaligned hc hr hs hal,
      fun ha hl hs => ?_⟩, fun n ha => ⟨fun h => aperture_malformed (apertureCore_none h), fun k h1 h2 hk => ?_⟩⟩
  · subst hs; exact ⟨load_raises hc hr true hl, load_raises hc hr false hl⟩
  · subst hs; exact ⟨load_raises hc hr true hl, load_raises hc hr false hl⟩
  · subst hs; exact ⟨load_raises hc hr true hl, load_raises hc hr false hl⟩
  · subst hs; exact load_raises hc hr false hl
  · subst hs; exact store_raises hc hr ha hl
  · subst hs; exact store_raises hc hr ha hl
  · subst hs; exact store_raises hc hr ha hl
  · subst hs; exact store_raises hc hr ha hl
  · subst hs; exact store_misplacedXS hc hr ha xs
  · subst hs; exact store_misplacedXS hc hr ha xs
  · subst hs
    refine ⟨store_apertureRaises hc hr ha hl, (store_apertureRaises hc hr ha hl).trans ?_⟩
    have three : (some xs |>.map fun x => x.cls.val).getD 0 = 3 ↔ xs.cls = 3 := ⟨fun h => Fin.ext h, fun h => congrArg Fin.val h⟩
    exact congrArg (fun c => Host.Outcome.next (s.trapped (s.me.withDetail c))) (if_congr three rfl rfl)
  · have core := apertureCore_some h1 h2 hk
    refine ⟨aperture_unserved core, fun v hv => aperture_past core hv, fun v hv => aperture_moving core hv, fun v hv h hm => ?_⟩
    exact locate_aperture ha (aperture_run core hv h hm)

end Sys2Proof.Machine
end

section
/-! SUPPORT. Stores to translated memory (R80, R127, R133, R140, R204, R205, R420): the directory after copies are dropped, a home's stamp, and what a store
leaves. -/

namespace Sys2Proof.Machine

/-! ### The directory after copies are dropped (R201, R204) -/

theorem Table.get_drop_same {α : Type} (d : Nat → α) (t : Table α) (k : Nat) : Table.get d (Table.drop t k) k = d k := by
  induction t with
  | nil => rfl
  | cons e t ih =>
    by_cases h : e.1 = k
    · rw [Table.drop, List.filter_cons_of_neg (by simp [h])]
      exact ih
    · rw [Table.drop, List.filter_cons_of_pos (by simp [h]), Table.get, if_neg h]
      exact ih

theorem State.setDir_dir (s : State) (line : Nat) (d : Dir) : (s.setDir line d).dir line = d := by
  unfold State.setDir State.dir
  by_cases h : d = Dir.empty
  · rw [if_pos h, Table.get_drop_same, h]
  · rw [if_neg h, Table.get_put_same]

theorem State.dropL1_dir (s : State) (line : Nat) (c : CoreId) :
    ((s.dropL1 line c).dir line).cores = (s.dir line).cores.filter (· != c) ∧ ((s.dropL1 line c).dir line).proxies = (s.dir line).proxies := by
  rw [State.dropL1, State.setDir_dir]
  exact ⟨rfl, rfl⟩

theorem State.dropProxy_dir (s : State) (line slice : Nat) :
    ((s.dropProxy line slice).dir line).cores = (s.dir line).cores ∧
      ((s.dropProxy line slice).dir line).proxies = (s.dir line).proxies.filter (· != slice) := by
  rw [State.dropProxy, State.setDir_dir]
  exact ⟨rfl, rfl⟩

/-- Dropping a line from several cores' L1 leaves the other cores that hold it, and its proxies. -/
theorem State.dropL1s_dir (line : Nat) (cs : List CoreId) (s : State) : let t := cs.foldl (fun s c => s.dropL1 line c) s
    (t.dir line).proxies = (s.dir line).proxies ∧ ∀ c ∈ (t.dir line).cores, c ∈ (s.dir line).cores ∧ c ∉ cs := by
  induction cs generalizing s with
  | nil => exact ⟨rfl, fun c hc => ⟨hc, List.not_mem_nil⟩⟩
  | cons b cs ih =>
    obtain ⟨proxies, cores⟩ := ih (s.dropL1 line b)
    obtain ⟨kept, same⟩ := s.dropL1_dir line b
    refine ⟨proxies.trans same, fun c hc => ?_⟩
    obtain ⟨held, out⟩ := cores c hc
    rw [kept, List.mem_filter, bne_iff_ne] at held
    exact ⟨held.1, fun h => (List.mem_cons.mp h).elim held.2 out⟩

/-- Dropping a line from several proxies leaves the others, and the cores that hold it. -/
theorem State.dropProxies_dir (line : Nat) (ps : List Nat) (s : State) : let t := ps.foldl (fun s p => s.dropProxy line p) s
    (t.dir line).cores = (s.dir line).cores ∧ ∀ p ∈ (t.dir line).proxies, p ∈ (s.dir line).proxies ∧ p ∉ ps := by
  induction ps generalizing s with
  | nil => exact ⟨rfl, fun p hp => ⟨hp, List.not_mem_nil⟩⟩
  | cons b ps ih =>
    obtain ⟨cores, proxies⟩ := ih (s.dropProxy line b)
    obtain ⟨same, kept⟩ := s.dropProxy_dir line b
    refine ⟨cores.trans same, fun p hp => ?_⟩
    obtain ⟨held, out⟩ := proxies p hp
    rw [kept, List.mem_filter, bne_iff_ne] at held
    exact ⟨held.1, fun h => (List.mem_cons.mp h).elim held.2 out⟩

/-- Once its copies are dropped a line has no proxy, and at most the core that keeps it holds it. -/
theorem State.dropCopies_dir (s : State) (line : Nat) (keep : Option CoreId) :
    ((s.dropCopies line keep).dir line).proxies = [] ∧ ∀ c ∈ ((s.dropCopies line keep).dir line).cores, keep = some c := by
  unfold State.dropCopies
  extract_lets d u
  obtain ⟨proxies, cores⟩ := State.dropL1s_dir line (d.cores.filter fun c => keep != some c) s
  obtain ⟨same, gone⟩ := State.dropProxies_dir line d.proxies u
  refine ⟨List.eq_nil_iff_forall_not_mem.mpr fun p hp => ?_, fun c hc => ?_⟩
  · obtain ⟨held, out⟩ := gone p hp
    exact out (proxies ▸ held)
  · obtain ⟨held, out⟩ := cores c (same ▸ hc)
    by_contra hk
    exact out (List.mem_filter.mpr ⟨held, bne_iff_ne.mpr hk⟩)

/-! ### What a home's stamp changes (R204, R205, R420) -/

/-- Only the caches, the homes' generations, the pending strong accesses, and of a core its acknowledgements may differ. -/
structure State.ButHomes (s t : State) : Prop where
  rest : t = { s with cores := t.cores, homeGens := t.homeGens, l1s := t.l1s, l2s := t.l2s, dirs := t.dirs, strong := t.strong }
  core : ∀ c, ∃ as eg hs, t.core c = { s.core c with acks := as, egress := eg, homeGens := hs }

theorem State.ButHomes.refl (s : State) : s.ButHomes s := ⟨rfl, fun _ => ⟨_, _, _, rfl⟩⟩

theorem State.ButHomes.trans {s t u : State} (h : s.ButHomes t) (h' : t.ButHomes u) : s.ButHomes u := by
  refine ⟨by rw [h'.rest, h.rest], fun c => ?_⟩
  obtain ⟨_, _, _, e⟩ := h.core c
  obtain ⟨_, _, _, e'⟩ := h'.core c
  exact ⟨_, _, _, by rw [e', e]⟩

section
variable {s t : State} (h : s.ButHomes t)
include h

theorem State.ButHomes.ctx : t.ctx = s.ctx := by rw [h.rest]; rfl
theorem State.ButHomes.cur : t.cur = s.cur := by rw [h.rest]
theorem State.ButHomes.me : t.me = s.me := by rw [h.rest]; rfl
theorem State.ButHomes.mem : t.mem = s.mem := by rw [h.rest]

end

theorem State.ButCaches.butHomes {s t : State} (h : s.ButCaches t) : s.ButHomes t := by
  unfold State.ButCaches at h
  rw [h]
  exact ⟨rfl, fun _ => ⟨_, _, _, rfl⟩⟩

theorem State.butHomes_setCore (s : State) (c : CoreId) (as : List (Nat × BitVec 32)) (eg : List (BitVec 32)) (hs : Table (BitVec 32)) :
    s.ButHomes (s.setCore c { s.core c with acks := as, egress := eg, homeGens := hs }) := by
  refine ⟨rfl, fun k => ?_⟩
  by_cases h : k = c
  · subst h; exact ⟨_, _, _, State.setCore_core ..⟩
  · exact ⟨_, _, _, State.setCore_core_other _ _ _ _ h⟩

theorem State.butHomes_receiveAck (s : State) (c : CoreId) : s.ButHomes (s.receiveAck c) := by
  unfold State.receiveAck
  dsimp only
  split
  · exact .refl s
  · exact (s.butHomes_setCore c _ _ _).trans ⟨rfl, fun _ => ⟨_, _, _, rfl⟩⟩

/-- The state in which a core has a free egress entry: with all 64 in use, the oldest is acknowledged first (R420). -/
def State.freed (s : State) : State :=
  if 64 ≤ (s.core (coreOf s.cur)).egress.length then s.receiveAck (coreOf s.cur) else s

/-- The acknowledgements that a core then awaits, and its egress entries. -/
def Core.freed (k : Core) : List (Nat × BitVec 32) × List (BitVec 32) :=
  if 64 ≤ k.egress.length then
    match k.acks with
    | [] => ([], k.egress)
    | _ :: rest => (rest, k.egress.tail)
  else (k.acks, k.egress)

theorem Core.freed_congr {k l : Core} (ha : l.acks = k.acks) (he : l.egress = k.egress) : l.freed = k.freed := by
  unfold Core.freed
  rw [ha, he]

theorem State.receiveAck_core (s : State) (c : CoreId) (h : 64 ≤ (s.core c).egress.length) :
    (((s.receiveAck c).core c).acks, ((s.receiveAck c).core c).egress) = (s.core c).freed := by
  unfold State.receiveAck Core.freed
  dsimp only
  rw [if_pos h]
  cases hk : (s.core c).acks with
  | nil => exact congrArg (fun as => (as, (s.core c).egress)) hk
  | cons a rest =>
    have core := State.setCore_core s c { s.core c with acks := rest, egress := (s.core c).egress.tail, homeGens := (s.core c).homeGens.put a.1 a.2 }
    exact congrArg (fun k : Core => (k.acks, k.egress)) core

theorem State.freed_core (s : State) :
    ((s.freed.core (coreOf s.cur)).acks, (s.freed.core (coreOf s.cur)).egress) = s.myCore.freed := by
  unfold State.freed
  split
  · rename_i h
    exact s.receiveAck_core _ h
  · rename_i h
    exact (if_neg h).symm

theorem State.butHomes_freed (s : State) : s.ButHomes s.freed := by
  unfold State.freed
  split
  exacts [s.butHomes_receiveAck _, .refl s]

/-- The generations of the homes and the directory, while a core receives an acknowledgement. -/
theorem State.freed_homes (s : State) : s.freed.homeGens = s.homeGens ∧ s.freed.parts = s.parts := by
  have received : (s.receiveAck (coreOf s.cur)).homeGens = s.homeGens := by
    unfold State.receiveAck
    dsimp only
    split <;> rfl
  refine ⟨?_, by rw [s.butHomes_freed.rest]⟩
  unfold State.freed
  split
  exacts [received, rfl]

theorem State.butHomes_stamp (s : State) (part line : Nat) : s.ButHomes (s.stamp part line) := by
  unfold State.stamp
  extract_lets c u v h w k
  have dropped : s.ButHomes v := s.butHomes_freed.trans (State.butCaches_dropCopies u line _).butHomes
  have advanced : v.ButHomes w := ⟨rfl, fun _ => ⟨_, _, _, rfl⟩⟩
  exact (dropped.trans advanced).trans (w.butHomes_setCore c _ _ _)

theorem State.butHomes_stampAll (s : State) (locs : List Nat) : s.ButHomes (s.stampAll locs) :=
  foldl_keeps State.ButHomes.refl (fun _ _ _ => State.ButHomes.trans) (fun u l => u.butHomes_stamp _ l) _ s

/-- A stamp advances its home's generation, which the core awaits in an egress entry with its k.GEN, and drops every copy but the core's own
(R204, R205, R420). -/
theorem State.stamp_leaves (s : State) (part line : Nat) :
    let h := s.homeSlice part (line * 128)
    let g := s.homeGens.get (fun _ => 0) h + 1
    let t := s.stamp part line
    t.homeGens.get (fun _ => 0) h = g ∧ (t.core (coreOf s.cur)).acks = s.myCore.freed.1 ++ [(h, g)] ∧
    (t.core (coreOf s.cur)).egress = s.myCore.freed.2 ++ [(s.core (coreOf s.cur)).gens.get (fun _ => 0) s.me.part] ∧
    (∀ c, c ≠ coreOf s.cur → c ∉ (t.dir line).cores) ∧ (t.dir line).proxies = [] := by
  intro h g t
  let keep : Option CoreId := if (s.freed.dir line).owner = some (coreOf s.cur) then some (coreOf s.cur) else none
  let v := s.freed.dropCopies line keep
  have caches : s.freed.ButCaches v := s.freed.butCaches_dropCopies line keep
  obtain ⟨gens, parts⟩ := s.freed_homes
  have home : v.homeSlice part (line * 128) = h := by
    rw [State.homeSlice, State.part, caches]
    exact congrArg (fun ps : Table Part => sliceIn (ps.get Part.empty part).slices (line * 128 / 128)) parts
  have vgens : v.homeGens = s.homeGens := by rw [caches]; exact gens
  have core : v.core = s.freed.core := by rw [caches]; rfl
  have me : v.me = s.me := (by rw [caches]; rfl : v.me = s.freed.me).trans s.butHomes_freed.me
  have advanced : (v.generation part line).homeGens.get (fun _ => 0) h = g := by
    unfold State.generation
    rw [home, vgens]
    exact Table.get_put_same ..
  have stamped : t.core (coreOf s.cur) = { v.core (coreOf s.cur) with
      acks := (v.core (coreOf s.cur)).acks ++ [(v.homeSlice part (line * 128),
        (v.generation part line).homeGens.get (fun _ => 0) (v.homeSlice part (line * 128)))]
      egress := (v.core (coreOf s.cur)).egress ++ [(v.core (coreOf s.cur)).gens.get (fun _ => 0) v.me.part] } := State.setCore_core ..
  obtain ⟨proxies, cores⟩ := s.freed.dropCopies_dir line keep
  refine ⟨advanced, ?_, ?_, fun c hc held => ?_, proxies⟩
  · rw [stamped, home, advanced, core, ← s.freed_core]
  · rw [← s.freed_core]
    obtain ⟨_, _, _, same⟩ := s.butHomes_freed.core (coreOf s.cur)
    rw [stamped, me, core, same]
  · have kept : (if (s.freed.dir line).owner = some (coreOf s.cur) then some (coreOf s.cur) else none) = some c := cores c held
    split at kept
    · exact hc (Option.some.inj kept).symm
    · cases kept

/-! ### What a store performs (R80, R127, R204) -/

/-- A store's bytes as its context notes them: the old ones may still be fetched as instructions (R80). -/
def State.noted (s : State) (locs : List Nat) : State :=
  let old := locs.map (fun l => (l, s.mem.read l))
  s.setMe { s.me with stale := s.me.stale ++ old, unseen := s.me.unseen ++ old.map (fun e => (e.1, e.2, 0)) }

/-- A store that its homes have performed, before its bytes change; on an SC page its context owes the acknowledgements (R133). -/
def State.homed (s : State) (locs : List Nat) : State :=
  let u := (s.noted locs).stampAll locs
  if s.me.strict then u.setMe { u.me with owes := u.myCore.acks } else u

theorem perform_run (s : State) (locs : List Nat) (data : List Byte) :
    perform locs data s = .ok ((), ((s.homed locs).storeAt locs data).cleanse locs) := rfl

/-- What a store changes beside memory and poison: the homes, and of its context the old bytes that it notes and what it owes. -/
structure State.Homed (s t : State) : Prop where
  rest : t = { s with ctxs := t.ctxs, cores := t.cores, homeGens := t.homeGens, l1s := t.l1s, l2s := t.l2s, dirs := t.dirs, strong := t.strong }
  others : s.keepsOthers t s.cur
  me : ∃ st un ow, t.me = { s.me with stale := st, unseen := un, owes := ow }

theorem State.Homed.trans {s t u : State} (h : s.Homed t) (h' : t.Homed u) : s.Homed u := by
  have cur : t.cur = s.cur := by rw [h.rest]
  obtain ⟨_, _, _, e⟩ := h.me
  obtain ⟨_, _, _, e'⟩ := h'.me
  exact ⟨by rw [h'.rest, h.rest], State.keepsOthers_trans h.others (cur ▸ h'.others), _, _, _, by rw [e', e]⟩

theorem State.homed_setMe (s : State) (st : List (Nat × Byte)) (un : List (Nat × Byte × Nat)) (ow : List (Nat × BitVec 32)) :
    s.Homed (s.setMe { s.me with stale := st, unseen := un, owes := ow }) :=
  ⟨rfl, s.keepsOthers_setMe _, _, _, _, s.setMe_me _⟩

theorem State.ButHomes.homed {s t : State} (h : s.ButHomes t) : s.Homed t := by
  refine ⟨?_, fun c _ => congrFun h.ctx c, s.me.stale, s.me.unseen, s.me.owes, h.me⟩
  rw [h.rest]

theorem State.homed_homed (s : State) (locs : List Nat) : s.Homed (s.homed locs) := by
  have stamped : s.Homed ((s.noted locs).stampAll locs) :=
    (s.homed_setMe _ _ s.me.owes).trans ((s.noted locs).butHomes_stampAll locs).homed
  unfold State.homed
  extract_lets u
  split
  · exact stamped.trans (u.homed_setMe u.me.stale u.me.unseen _)
  · exact stamped

section
variable {s t : State} (h : s.Homed t)
include h

theorem State.Homed.cur : t.cur = s.cur := by rw [h.rest]
theorem State.Homed.mem : t.mem = s.mem := by rw [h.rest]

theorem State.Homed.keepsRegisters : s.keepsRegisters t [] [] [] := by
  obtain ⟨_, _, _, e⟩ := h.me
  exact ⟨h.cur, fun r _ _ => by rw [e]; rfl, fun r _ => by rw [e], fun n _ => by rw [e]; rfl⟩

end

/-- What the home of a store's one line, and the storing core, hold once the store is performed (R204, R205, R420). -/
theorem State.homed_line (s : State) {locs : List Nat} {line : Nat} (hl : linesOf locs = [line]) (hh : ∀ l ∈ locs, l < hbmTop) :
    let part := if isService (coreOf s.cur) then s.partAt (locs.headD 0) else s.me.part
    let h := s.homeSlice part (line * 128)
    let g := s.homeGens.get (fun _ => 0) h + 1
    let t := s.homed locs
    t.homeGens.get (fun _ => 0) h = g ∧ t.myCore.acks = s.myCore.freed.1 ++ [(h, g)] ∧
    t.myCore.egress = s.myCore.freed.2 ++ [s.myCore.gens.get (fun _ => 0) s.me.part] ∧
    (∀ c, c ≠ coreOf s.cur → c ∉ (t.dir line).cores) ∧ (t.dir line).proxies = [] := by
  intro part h g t
  have me : (s.noted locs).me.part = s.me.part := by
    unfold State.noted
    dsimp only
    rw [State.setMe_me]
  have all : (s.noted locs).stampAll locs = (s.noted locs).stamp part line := by
    have lines : locs.filter (fun l => decide (l < hbmTop)) = locs := List.filter_eq_self.mpr fun l hl => decide_eq_true (hh l hl)
    unfold State.stampAll
    rw [lines, hl, me]
    rfl
  obtain ⟨gens, acks, egress, cores, proxies⟩ := (s.noted locs).stamp_leaves part line
  rw [me] at egress
  have cur : t.cur = s.cur := (s.homed_homed locs).cur
  have same : t.homeGens = ((s.noted locs).stamp part line).homeGens ∧ t.core = ((s.noted locs).stamp part line).core ∧
      t.dir = ((s.noted locs).stamp part line).dir := by
    show (s.homed locs).homeGens = _ ∧ (s.homed locs).core = _ ∧ (s.homed locs).dir = _
    unfold State.homed
    rw [all]
    dsimp only
    split <;> exact ⟨rfl, rfl, rfl⟩
  obtain ⟨sameGens, sameCore, sameDir⟩ := same
  rw [State.myCore, cur, sameGens, sameCore, sameDir]
  exact ⟨gens, acks, egress, cores, proxies⟩

/-! ### Stores that meet nothing and log nothing (R127, R140) -/

theorem logStore_run {s : State} (h : s.me.logging = false) (ea : Word) (locs : List Nat) : logStore ea locs s = .ok ((), s) := by
  unfold logStore
  rw [M.bind_ok (M.getMe_run s), h]
  rfl

/-- A store to translated memory, once its bytes have changed. -/
def State.performed (s : State) (locs : List Nat) (data : List Byte) : State := ((s.homed locs).storeAt locs data).cleanse locs

section
variable {s t u : State} {ea : Word} {locs : List Nat} {data : List Byte} (hl : locate .store ea data.length t = .ok (locs, u)) (hu : u.unshared locs)
include hl hu

theorem storePlain_logs (hf : u.landed locs) : storePlain .store ea data t = (logStore ea locs >>= fun _ => perform locs data) u := by
  unfold storePlain
  rw [M.bind_ok hl, M.bind_ok (awaitOwn_run hf), M.bind_ok (meet_unshared true hu)]

/-- A strong store also stands pending until its core has the acknowledgement (R219). -/
theorem storeStrong_run (hm : u.unmixed locs) (hg : u.me.logging = false) :
    ∃ x, storeStrong ea data t = .ok ((), { u.performed locs data with strong := x }) := by
  unfold storeStrong performStrong
  rw [M.bind_ok hl, M.bind_ok (meet_unshared true hu), M.bind_ok (refuseMixed_run hm ea), M.bind_ok (logStore_run hg ea locs),
    M.bind_ok (refuseMixed_run hm ea), M.bind_ok (M.get_run u)]
  dsimp only
  rw [show u.mixedBytes locs = [] from hm, M.bind_ok (perform_run u locs data), M.bind_ok (show scramble [] _ = .ok ((), _) from rfl), M.modify_run]
  split
  · exact ⟨(u.performed locs data).strong, rfl⟩
  · exact ⟨_, rfl⟩

end

section
variable {s t u : State} {d a : GReg} {imm : Int} {base x : Word} {locs : List Nat} {size : Nat}
  (hc : s.clear [a, d] [] [] [] = true) (hr : s.Reads [a, d] [base, x] t) (ha : isAperture (offsetAddr base imm size) = false)
  (hl : locate .store (offsetAddr base imm size) size t = .ok (locs, u)) (hu : u.unshared locs)
include hc hr ha hl hu

/-- A plain store outside the aperture, up to what it logs and performs (R127, R132). -/
theorem storeStep_logs (hf : u.landed locs) (op : Nat) : storeStep op size d a imm none s =
    (logStore (offsetAddr base imm size) locs >>= fun _ => perform locs (leBytes size x.toNat)) u := by
  refine (storeStep_data hc hr rfl).trans ?_
  unfold storeData
  rw [ha, if_neg Bool.false_ne_true]
  exact storePlain_logs (by rw [leBytes_length]; exact hl) hu hf

theorem store_answers (hf : u.landed locs) (hg : u.me.logging = false) (op : Nat) :
    runBundle (storeStep op size d a imm none) s = .next (u.performed locs (leBytes size x.toNat)).done := by
  refine runBundle_ok ((storeStep_logs hc hr ha hl hu hf op).trans ?_)
  rw [M.bind_ok (logStore_run hg _ locs)]
  exact perform_run u locs _

theorem stl_answers {q : QType} (hs : size = sizeOf q) (hal : (offsetAddr base imm size).toNat % size = 0) (hq : t.quiet = true)
    (hm : u.unmixed locs) (hg : u.me.logging = false) :
    ∃ y, exec (.stl d a imm q none) s = .next ({ u.performed locs (leBytes size x.toNat) with strong := y } : State).done := by
  subst hs
  have plain : ((none : Option XS).isNone || isAperture (offsetAddr base imm (sizeOf q))) = true := rfl
  obtain ⟨y, stored⟩ := storeStrong_run (data := leBytes (sizeOf q) x.toNat) (by rw [leBytes_length]; exact hl) hu hm hg
  refine ⟨y, runBundle_ok ((issue_read_two hc hr _).trans ((M.bind_ok (M.require_run plain 0 4 t)).trans ?_))⟩
  rw [M.bind_ok (aligned_run hal t), M.bind_ok (M.get_run t), M.bind_ok (M.await_run hq _ t), ha, if_neg Bool.false_ne_true]
  exact stored

end

/-! ### What a store leaves (R127, R205) -/

theorem State.performed_mem (s : State) (locs : List Nat) (data : List Byte) : (s.performed locs data).mem = (s.storeAt locs data).mem := by
  show (locs.zip data).foldl (fun m p => m.write p.1 p.2) (s.homed locs).mem = _
  rw [(s.homed_homed locs).mem]
  rfl

/-- Bytes stored at distinct locations are the number there. -/
theorem State.numberAt_storeAt_leBytes (s : State) {locs : List Nat} (nodup : locs.Nodup) (x : Nat) :
    (s.storeAt locs (leBytes locs.length x)).numberAt locs = x % 256 ^ locs.length := by
  have stored := s.loadAt_storeAt (data := leBytes locs.length x) nodup (Nat.le_of_eq (leBytes_length ..))
  rw [leBytes_length, List.take_length] at stored
  rw [State.numberAt, stored, leNat_leBytes]

section
variable {s t u : State} {rs : List GReg} {ws : List Word} (hr : s.Reads rs ws t) (ha : t.Accessed u)
include hr ha

/-- What reading operands and finding locations leave of the core and the package, for a store's home. -/
theorem State.Reads.accessed_homes : u.cur = s.cur ∧ u.mem = s.mem ∧ u.packets = s.packets ∧ u.homeGens = s.homeGens ∧ u.parts = s.parts ∧
    u.me.part = s.me.part ∧ u.me.npc = s.me.npc ∧ ∃ tlb, u.myCore = { s.myCore with tlb := tlb } := by
  obtain ⟨_, _, _, _, popped⟩ := hr.pops.me
  obtain ⟨_, _, _, _, _, accessed⟩ := ha.me
  obtain ⟨tlb, core⟩ := ha.core (coreOf s.cur)
  have cur : u.cur = s.cur := ha.cur.trans hr.pops.cur
  refine ⟨cur, by rw [ha.rest, hr.pops.rest], by rw [ha.rest, hr.pops.rest], by rw [ha.rest, hr.pops.rest], by rw [ha.rest, hr.pops.rest],
    by rw [accessed, popped], by rw [accessed, popped], tlb, ?_⟩
  rw [State.myCore, cur, core]
  rw [← hr.pops.myCore, State.myCore, hr.pops.cur]

end

/-- Everything that a store outside the aperture leaves, once its bundle has retired: `y` is what is pending of strong accesses. -/
theorem State.performed_leaves (u : State) (locs : List Nat) (data : List Byte) (y : Table (List Strong)) :
    let v := ({ u.performed locs data with strong := y } : State).done
    v.mem = (u.storeAt locs data).mem ∧ u.keepsOthers v u.cur ∧ u.keepsRegisters v [] [] [] ∧ v.packets = u.packets ∧ v.me.pc = u.me.npc ∧
    v.homeGens = (u.homed locs).homeGens ∧ v.dir = (u.homed locs).dir ∧ v.myCore.acks = (u.homed locs).myCore.acks ∧
    v.myCore.egress = (u.homed locs).myCore.egress := by
  intro v
  have homed := u.homed_homed locs
  obtain ⟨r, me⟩ := ({ u.performed locs data with strong := y } : State).done_me
  obtain ⟨_, _, core⟩ := ({ u.performed locs data with strong := y } : State).done_myCore
  obtain ⟨_, _, _, stored⟩ := homed.me
  have rest := ({ u.performed locs data with strong := y } : State).done_rest
  refine ⟨(State.done_mem _).trans (u.performed_mem locs data), State.keepsOthers_done homed.others homed.cur,
    State.keepsRegisters_done homed.keepsRegisters, ?_, ?_, ?_, ?_, ?_, ?_⟩
  · rw [show v.packets = (u.homed locs).packets by rw [show v = _ from rest]; rfl, homed.rest]
  · rw [me]
    show (u.homed locs).me.npc = u.me.npc
    rw [stored]
  · rw [show v = _ from rest]; rfl
  · rw [show v = _ from rest]; rfl
  · rw [core]; rfl
  · rw [core]; rfl

theorem State.freed_myCore (s : State) : s.freed.core (coreOf s.cur) =
    if 64 ≤ s.myCore.egress.length then (s.receiveAck (coreOf s.cur)).myCore else s.myCore := by
  unfold State.freed
  by_cases h : 64 ≤ s.myCore.egress.length
  · have h' : 64 ≤ (s.core (coreOf s.cur)).egress.length := h
    rw [if_pos h, if_pos h', State.myCore, (s.butHomes_receiveAck _).cur]
  · have h' : ¬ 64 ≤ (s.core (coreOf s.cur)).egress.length := h
    rw [if_neg h, if_neg h']
    rfl

/-- Settles O14: every store answers with what `State.performed` makes of the state in which its locations are found; that leaves what
`State.performed_leaves` says, and its home what `State.homed_line` says. -/
theorem storeResults : Obligations.StoreResults := by
  intro s t u i d a imm q base x locs size mem hc hr ea part hap hstl hl hu hf hg
  have accessed := locate_accesses _ _ _ _ _ _ hl
  have run : ∃ y, exec i s = .next ({ u.performed locs (leBytes size x.toNat) with strong := y } : State).done := by
    simp only [List.mem_cons, Prod.mk.injEq, List.not_mem_nil, or_false] at mem
    rcases mem with ⟨rfl, rfl⟩ | ⟨rfl, rfl⟩ | ⟨rfl, rfl⟩ | ⟨rfl, rfl⟩ | ⟨rfl, hs⟩
    · exact ⟨_, store_answers hc hr hap hl hu hf hg 33⟩
    · exact ⟨_, store_answers hc hr hap hl hu hf hg 34⟩
    · exact ⟨_, store_answers hc hr hap hl hu hf hg 35⟩
    · exact ⟨_, store_answers hc hr hap hl hu hf hg 36⟩
    · obtain ⟨hal, hq, hm⟩ := hstl rfl
      exact stl_answers hc hr hap hl hu hs hal hq hm hg
  obtain ⟨y, hrun⟩ := run
  obtain ⟨cur, memory, packets, gens, parts, mypart, npc, tlb, core⟩ := hr.accessed_homes accessed
  have leaves := u.performed_leaves locs (leBytes size x.toNat) y
  obtain ⟨vmem, others, registers, vpackets, pc, vgens, vdir, acks, egress⟩ := leaves
  have length : locs.length = size := locate_length hl
  have bytes : (leBytes size x.toNat).length = size := leBytes_length ..
  refine ⟨_, hrun, ?_, fun nodup => ?_, fun b hb => ?_, ?_, State.keepsRegisters_trans accessed.keepsRegisters registers, vpackets.trans packets,
    pc.trans npc, fun line hline hlocs => ?_⟩
  · rw [vmem, State.storeAt, memory]
  · subst length
    exact (State.numberAt_of_mem vmem locs).trans (u.numberAt_storeAt_leBytes nodup x.toNat)
  · rw [vmem, u.read_storeAt_other (by rw [bytes, ← length, List.take_length]; exact hb), memory]
  · exact State.keepsOthers_trans hr.pops.others (State.keepsOthers_trans (hr.pops.cur ▸ accessed.others) (cur ▸ others))
  · have homed := u.homed_line hline hlocs
    have upart : u.part = s.part := funext fun p => congrArg (fun ps : Table Part => ps.get Part.empty p) parts
    have samePart : (if isService (coreOf u.cur) then u.partAt (locs.headD 0) else u.me.part) = part := by
      rw [cur, mypart, State.partAt, upart]
      rfl
    have home : u.homeSlice part (line * 128) = s.homeSlice part (line * 128) := by rw [State.homeSlice, upart, State.homeSlice]
    have waits : u.myCore.freed = s.myCore.freed := Core.freed_congr (by rw [core]) (by rw [core])
    have keeps : u.myCore.gens = s.myCore.gens := by rw [core]
    dsimp only at homed
    rw [samePart, home, gens, waits, keeps, mypart, cur, ← s.freed_core] at homed
    obtain ⟨hgens, hacks, hegress, hcores, hproxies⟩ := homed
    rw [← s.freed_myCore]
    exact ⟨_, _, rfl, rfl, by rw [vgens]; exact hgens, acks.trans hacks, egress.trans hegress, by rw [vdir]; exact hcores, by rw [vdir]; exact hproxies⟩

end Sys2Proof.Machine
end

section
/-! SUPPORT. Stores and kput under an open choice point (R132, R303, R305 to R307): the items of a trail, the entry that a store pushes and the steal bit
that it clears, and what they leave. -/

namespace Sys2Proof.Machine

/-! ### Trail items (R303) -/

/-- A location of the current context's bank. -/
theorem State.myLoc_add (s : State) (off n : Nat) : s.myLoc (off + n) = s.myLoc off + n := by
  unfold State.myLoc bankLoc
  omega

theorem State.itemsFrom_succ (s : State) (base k off top : Nat) : s.itemsFrom base (k + 1) off top =
    if top ≤ off then [] else (off, s.word (base + off)) :: s.itemsFrom base k (off + itemBytes (s.word (base + off))) top := rfl

/-- The items of a trail are read with fuel for more than three. -/
theorem State.myItems_fuel : ∃ k, ∀ s : State, s.myItems = s.itemsFrom (s.myLoc 0) (k + 3) s.me.trailBase.toNat s.me.trailTop.toNat := by
  have fuel : 16384 = 16381 + 3 := by decide
  refine ⟨16381, fun s => ?_⟩
  unfold State.myItems State.items
  rw [fuel]

theorem State.myItems_single {s : State} {off : Nat} {w : Word} (h : s.myItems = [(off, w)]) :
    s.me.trailBase.toNat = off ∧ s.word (s.myLoc off) = w ∧ off < s.me.trailTop.toNat := by
  obtain ⟨k, fuel⟩ := State.myItems_fuel
  rw [fuel, s.itemsFrom_succ _ (k + 2)] at h
  split at h
  · cases h
  · rename_i hlt
    obtain ⟨rfl, hw⟩ := Prod.mk.inj (List.cons.inj h).1
    rw [← State.myLoc_add, Nat.zero_add] at hw
    exact ⟨rfl, hw, Nat.not_le.mp hlt⟩

/-- A trail of a record and a memory entry. -/
theorem State.myItems_pair {s : State} {off : Nat} {w e : Word} (hb : s.me.trailBase.toNat = off) (hw : s.word (s.myLoc off) = w)
    (h3 : w.toNat % 8 = 3) (he : s.word (s.myLoc (off + 512)) = e) (h2 : e.toNat % 8 = 2) (ht : s.me.trailTop.toNat = off + 512 + 16) :
    s.myItems = [(off, w), (off + 512, e)] := by
  obtain ⟨k, fuel⟩ := State.myItems_fuel
  have record : itemBytes w = 512 := if_pos (.inl h3)
  have entry : itemBytes e = 16 := if_neg (by omega)
  rw [fuel, s.itemsFrom_succ _ (k + 2), hb, ht, if_neg (by omega), ← State.myLoc_add, Nat.zero_add, hw, record, s.itemsFrom_succ _ (k + 1),
    if_neg (by omega), ← State.myLoc_add, Nat.zero_add, he, entry, s.itemsFrom_succ _ k, if_pos (Nat.le_refl _)]

/-! ### A store's memory entry (R132, R303, R307) -/

/-- The width of a page 0 store divides a word. -/
theorem aligned_fits {ea size : Nat} (hs : size ∈ [1, 2, 4, 8]) (hal : ea % size = 0) : 0 < size ∧ ea % 8 + size ≤ 8 := by
  simp only [List.mem_cons, List.not_mem_nil, or_false] at hs
  rcases hs with rfl | rfl | rfl | rfl <;> omega

/-- An aligned store lies in one aligned word (R132). -/
theorem storedWords_aligned {ea : Word} {size : Nat} (hs : size ∈ [1, 2, 4, 8]) (hal : ea.toNat % size = 0) (loc : Nat) :
    storedWords ea ((List.range size).map (loc + ea.toNat % 8 + ·)) = [(ea.toNat / 8 * 8, loc)] := by
  have small := ea.isLt
  obtain ⟨pos, fits⟩ := aligned_fits hs hal
  obtain ⟨n, rfl⟩ : ∃ n, size = n + 1 := ⟨size - 1, by omega⟩
  have one : (ea.toNat + (n + 1) - 1) / 8 + 1 - ea.toNat / 8 = 1 := by omega
  have whole : ea.toNat / 8 * 8 % 2 ^ 64 = ea.toNat / 8 * 8 := Nat.mod_eq_of_lt (by omega)
  have start : (if ea.toNat ≤ ea.toNat / 8 * 8
      then ((List.range (n + 1)).map (loc + ea.toNat % 8 + ·)).getD (ea.toNat / 8 * 8 - ea.toNat) 0
      else ((List.range (n + 1)).map (loc + ea.toNat % 8 + ·)).headD 0 - (ea.toNat - ea.toNat / 8 * 8)) = loc := by
    rw [List.range_succ_eq_map]
    split
    · rw [show ea.toNat / 8 * 8 - ea.toNat = 0 by omega]
      show loc + ea.toNat % 8 + 0 = loc
      omega
    · show loc + ea.toNat % 8 + 0 - _ = loc
      omega
  unfold storedWords
  simp only [List.length_map, List.length_range, one, List.range_one, List.map_cons, List.map_nil, Nat.add_zero, whole, start]

/-- A memory entry pushed: the aligned word's address with kind 2, and its old contents (R303). -/
def State.pushedWord (s : State) (addr loc : Nat) : State :=
  (s.storeWords (s.myLoc s.me.trailTop.toNat) [BitVec.ofNat 64 (addr / 8 * 8 + 2), s.word loc]).setMe { s.me with trailTop := s.me.trailTop + 16 }

/-- The steal bit of a choice point record cleared (R307). -/
def State.unstolen (s : State) (record : Nat) : State :=
  s.store (s.myLoc (record + 40)) 1 (s.load (s.myLoc (record + 40)) 1 / 2 * 2)

theorem clearSteals_run {s : State} {record off : Nat} {w e : Word} (h : s.myItems = [(record, w), (off, e)]) (h3 : w.toNat % 8 = 3)
    (h2 : e.toNat % 8 = 2) : clearSteals s = .ok ((), s.unstolen record) := by
  unfold clearSteals
  rw [h, List.filter_cons_of_pos (by simpa using h3), List.filter_cons_of_neg (by simp [h2])]
  rfl

/-- The address of an aligned word leaves room for the entry's kind. -/
theorem entryKind (addr : Nat) : (BitVec.ofNat 64 (addr / 8 * 8 + 2)).toNat % 8 = 2 := by
  rw [BitVec.toNat_ofNat]; omega

section
variable {s : State} (ea : Word) (addr loc : Nat)

theorem logWord_full (hfull : s.me.trailLim.toNat < s.me.trailTop.toNat + 16) (hs : s.me.speculates = false) :
    logWord ea addr loc s = .error (.trap { cls := 5, detail := 2, info := ea }) := by
  unfold logWord
  rw [M.bind_ok (M.get_run s)]
  exact M.bind_error (pushTrail_full _ _ hfull hs)

/-- A trail with one record takes a memory entry, and the record loses its steal bit. -/
theorem logWord_run {record : Nat} {kind : Word} (hroom : s.me.trailTop.toNat + 16 ≤ s.me.trailLim.toNat) (hi : s.myItems = [(record, kind)])
    (h3 : kind.toNat % 8 = 3) (ht : record + 512 = s.me.trailTop.toNat) :
    logWord ea addr loc s = .ok ((), (s.pushedWord addr loc).unstolen record) := by
  obtain ⟨hb, hw, -⟩ := State.myItems_single hi
  have room := s.me.trailLim.isLt
  have top : (s.pushedWord addr loc).me.trailTop.toNat = s.me.trailTop.toNat + 16 := by
    rw [State.pushedWord, State.setMe_me, BitVec.toNat_add]
    exact Nat.mod_eq_of_lt (by show s.me.trailTop.toNat + 16 < 2 ^ 64; omega)
  have base : (s.pushedWord addr loc).me.trailBase = s.me.trailBase := by rw [State.pushedWord, State.setMe_me]
  have record' : (s.pushedWord addr loc).word ((s.pushedWord addr loc).myLoc record) = kind := by
    rw [← hw]
    refine State.word_storeWords_other s (.inl ?_)
    rw [← ht, State.myLoc_add]
    show s.myLoc record + 8 ≤ _
    omega
  have entry : (s.pushedWord addr loc).word ((s.pushedWord addr loc).myLoc (record + 512)) = BitVec.ofNat 64 (addr / 8 * 8 + 2) := by
    rw [ht]
    show ((s.storeWords (s.myLoc s.me.trailTop.toNat) _).word (s.myLoc s.me.trailTop.toNat)) = _
    rw [State.storeWords_cons, State.word_storeWords_other _ (.inl (Nat.le_refl _)), State.word_storeWords_same]
  have items := State.myItems_pair (by rw [base, hb]) record' h3 entry (entryKind addr) (by rw [top, ht])
  unfold logWord
  rw [M.bind_ok (M.get_run s), M.bind_ok (pushTrail_run _ _ hroom)]
  exact clearSteals_run items h3 (entryKind addr)

end

/-! ### What a logged store leaves -/

theorem State.keepsRegisters_left {s t u : State} {gs : List GReg} {vs : List VReg} {ks : List Nat} (h : s.keepsRegisters t [] [] [])
    (h' : t.keepsRegisters u gs vs ks) : s.keepsRegisters u gs vs ks := by
  obtain ⟨c, g, v, k⟩ := h
  obtain ⟨c', g', v', k'⟩ := h'
  exact ⟨c'.trans c, fun r hp hr => (g' r hp hr).trans (g r hp List.not_mem_nil), fun r hr => (v' r hr).trans (v r List.not_mem_nil),
    fun n hn => (k' n hn).trans (k n List.not_mem_nil)⟩

theorem State.keepsRegisters_right {s t u : State} {gs : List GReg} {vs : List VReg} {ks : List Nat} (h : s.keepsRegisters t gs vs ks)
    (h' : t.keepsRegisters u [] [] []) : s.keepsRegisters u gs vs ks := by
  obtain ⟨c, g, v, k⟩ := h
  obtain ⟨c', g', v', k'⟩ := h'
  exact ⟨c'.trans c, fun r hp hr => (g' r hp List.not_mem_nil).trans (g r hp hr), fun r hr => (v' r List.not_mem_nil).trans (v r hr),
    fun n hn => (k' n List.not_mem_nil).trans (k n hn)⟩

/-- The trail's top moved on. -/
theorem State.keepsRegisters_trailTop (s : State) (top : Word) : s.keepsRegisters (s.setMe { s.me with trailTop := top }) [] [] [32] := by
  refine ⟨rfl, fun r _ _ => ?_, fun r _ => ?_, fun n hn => ?_⟩
  · rw [State.setMe_me]; rfl
  · rw [State.setMe_me]
  · rw [State.setMe_me, Ctx.kImage_trailTop _ _ (by simpa using hn)]

/-- What logging one word leaves of its context and the others. -/
theorem State.loggedWord_leaves (s : State) (addr loc record : Nat) : let w := (s.pushedWord addr loc).unstolen record
    w.cur = s.cur ∧ w.me = { s.me with trailTop := s.me.trailTop + 16 } ∧ s.keepsOthers w s.cur ∧ s.keepsRegisters w [] [] [32] :=
  ⟨rfl, s.setMe_me _, s.keepsOthers_setMe _, s.keepsRegisters_trailTop _⟩

/-- A store of the bytes from one location on leaves a number elsewhere. -/
theorem State.load_storeAt_run_other (s : State) {loc n a m : Nat} (data : List Byte) (h : a + m ≤ loc ∨ loc + n ≤ a) :
    (s.storeAt (run loc n) data).load a m = s.load a m := by
  refine congrArg leNat (Memory.bytes_congr fun b hb hb' => s.read_storeAt_other fun hmem => ?_)
  have inside := mem_run.mp (List.mem_of_mem_take hmem)
  omega

theorem State.load_storeAt_run (s : State) (loc n x : Nat) : (s.storeAt (run loc n) (leBytes n x)).load loc n = x % 256 ^ n := by
  have length : (run loc n).length = n := by simp [run]
  have stored := s.numberAt_storeAt_leBytes (run_nodup loc n) x
  rwa [length, State.numberAt, loadAt_run] at stored

/-- The bytes of a logged store: the entry, the record's steal bit and the data, where none overlaps another. -/
theorem State.loggedStore_mem (s : State) {addr loc record part size : Nat} (x : Nat) (ht : record + 512 = s.me.trailTop.toNat)
    (hsize : part + size ≤ 8) (clear : loc + 8 ≤ s.myLoc record ∨ s.myLoc s.me.trailTop.toNat + 16 ≤ loc) :
    let item := s.myLoc s.me.trailTop.toNat
    let steal := s.myLoc (record + 40)
    let m := ((s.pushedWord addr loc).unstolen record).storeAt (run (loc + part) size) (leBytes size x)
    m.word item = BitVec.ofNat 64 (addr / 8 * 8 + 2) ∧ m.word (item + 8) = s.word loc ∧ m.load (loc + part) size = x % 256 ^ size ∧
    m.load steal 1 = s.load steal 1 / 2 * 2 ∧
    ∀ b, (b < loc + part ∨ loc + part + size ≤ b) → (b < item ∨ item + 16 ≤ b) → b ≠ steal → m.mem.read b = s.mem.read b := by
  intro item steal m
  have hitem : item = s.myLoc record + 512 := by rw [← State.myLoc_add, ht]
  have hsteal : steal = s.myLoc record + 40 := s.myLoc_add record 40
  let p := s.pushedWord addr loc
  have above : ∀ {a n : Nat}, s.myLoc record ≤ a → a + n ≤ item + 16 → m.load a n = (p.unstolen record).load a n := fun lo hi =>
    State.load_storeAt_run_other _ _ (by omega)
  have entry : ∀ a, item ≤ a → a + 8 ≤ item + 16 → m.word a = p.word a := fun a lo hi => by
    rw [State.word, above (by omega) hi, State.word]
    exact congrArg (BitVec.ofNat 64) (State.load_store_other p _ (.inr (by show steal + 1 ≤ a; omega)))
  have stolen : p.load steal 1 = s.load steal 1 := congrArg leNat (Memory.bytes_writes_other _ (.inl (by omega)))
  refine ⟨?_, ?_, State.load_storeAt_run _ _ _ _, ?_, fun b hb hitem' hsteal' => ?_⟩
  · rw [entry item (Nat.le_refl _) (by omega)]
    show (s.storeWords item _).word item = _
    rw [State.storeWords_cons, State.word_storeWords_other _ (.inl (Nat.le_refl _)), State.word_storeWords_same]
  · rw [entry (item + 8) (by omega) (Nat.le_refl _)]
    show (s.storeWords item _).word (item + 8) = _
    rw [State.storeWords_cons, State.word_storeWords_same]
  · rw [above (by omega) (by omega)]
    have bit : s.load steal 1 / 2 * 2 < 256 ^ 1 := by have := s.load_lt steal 1; omega
    exact (congrArg (fun n => (p.store steal 1 (n / 2 * 2)).load steal 1) stolen).trans (State.load_store_fits p steal bit)
  · have out : b ∉ (run (loc + part) size).take (leBytes size x).length := fun h => by
      have inside := mem_run.mp (List.mem_of_mem_take h)
      omega
    rw [State.read_storeAt_other _ out]
    refine (State.read_store_other p _ (by show b < steal ∨ steal + 1 ≤ b; omega)).trans ?_
    exact s.keepsMemory_storeWords item _ b fun h => by
      have inside := mem_run.mp h
      simp only [List.length_cons, List.length_nil] at inside
      omega

/-! ### Stores under an open choice point -/

section
variable {s t u : State} {d a : GReg} {imm : Int} {base x : Word} {loc size : Nat}
  (hc : s.clear [a, d] [] [] [] = true) (hr : s.Reads [a, d] [base, x] t) (ha : isAperture (offsetAddr base imm size) = false)
  (hs : size ∈ [1, 2, 4, 8]) (hal : (offsetAddr base imm size).toNat % size = 0)
  (hl : locate .store (offsetAddr base imm size) size t = .ok (run (loc + (offsetAddr base imm size).toNat % 8) size, u))
  (hu : u.unshared (run (loc + (offsetAddr base imm size).toNat % 8) size)) (hf : u.landed (run (loc + (offsetAddr base imm size).toNat % 8) size))
  (hg : u.me.logging = true)
include hc hr ha hs hal hl hu hf hg

/-- An aligned store while its context logs, up to the one entry that it pushes. -/
theorem storeStep_logsWord (op : Nat) : let ea := offsetAddr base imm size
    storeStep op size d a imm none s =
      (logWord ea (ea.toNat / 8 * 8) loc >>= fun _ => perform (run (loc + ea.toNat % 8) size) (leBytes size x.toNat)) u := by
  intro ea
  rw [storeStep_logs hc hr ha hl hu hf op]
  have logs : logStore ea (run (loc + ea.toNat % 8) size) u = logWord ea (ea.toNat / 8 * 8) loc u := by
    unfold logStore
    rw [M.bind_ok (M.getMe_run u), hg, if_pos rfl]
    have words : storedWords ea (run (loc + ea.toNat % 8) size) = [(ea.toNat / 8 * 8, loc)] := storedWords_aligned hs hal loc
    rw [words, M.forM_singleton]
  cases h : logWord ea (ea.toNat / 8 * 8) loc u with
  | error e => rw [M.bind_error h, M.bind_error (logs.trans h)]
  | ok r => rw [M.bind_ok (a := r.1) (s' := r.2) h, M.bind_ok (a := r.1) (s' := r.2) (logs.trans h)]

theorem store_trailFull (hfull : u.me.trailLim.toNat < u.me.trailTop.toNat + 16) (hn : u.me.speculates = false) (op : Nat) :
    runBundle (storeStep op size d a imm none) s = .next (s.trapped { cls := 5, detail := 2, info := offsetAddr base imm size }) :=
  runBundle_cause ((storeStep_logsWord hc hr ha hs hal hl hu hf hg op).trans (M.bind_error (logWord_full _ _ _ hfull hn))) (Nat.succ_ne_zero 4)

theorem store_logs {record : Nat} {kind : Word} (hroom : u.me.trailTop.toNat + 16 ≤ u.me.trailLim.toNat) (hi : u.myItems = [(record, kind)])
    (h3 : kind.toNat % 8 = 3) (ht : record + 512 = u.me.trailTop.toNat) (op : Nat) : let ea := offsetAddr base imm size
    runBundle (storeStep op size d a imm none) s = .next (((u.pushedWord (ea.toNat / 8 * 8) loc).unstolen record).performed
      (run (loc + ea.toNat % 8) size) (leBytes size x.toNat)).done := by
  intro ea
  refine runBundle_ok ((storeStep_logsWord hc hr ha hs hal hl hu hf hg op).trans ?_)
  rw [M.bind_ok (logWord_run _ _ _ hroom hi h3 ht)]
  exact perform_run ..

end

/-! ### The outcomes (R132, R303, R305 to R307) -/

theorem State.memory_word {s t : State} (h : s.mem = t.mem) (a : Nat) : s.word a = t.word a := by
  rw [State.word, State.load, h]; rfl

theorem State.memory_load {s t : State} (h : s.mem = t.mem) (a n : Nat) : s.load a n = t.load a n := by
  rw [State.load, h]; rfl

/-- The registers of the trail that the registry shows. -/
theorem State.keepsRegisters_trail {s t : State} {ks : List Nat} (h : s.keepsRegisters t [] [] ks) :
    (32 ∉ ks → t.me.trailTop = s.me.trailTop) ∧ (33 ∉ ks → t.me.choice = s.me.choice) :=
  ⟨h.2.2.2 32, h.2.2.2 33⟩

theorem Ctx.logging_choice {x : Ctx} (h : x.choice ≠ 0) : x.logging = true := by
  unfold Ctx.logging
  rw [bne_iff_ne.mpr h]
  rfl

theorem Ctx.setLogged_npc (x : Ctx) (n : Nat) (w : Word) : (x.setLogged n w).npc = x.npc := by
  unfold Ctx.setLogged
  split
  case h_7 => split_ifs <;> rfl
  all_goals rfl

/-- What a logged write of a register leaves, once its bundle has retired. -/
theorem State.loggedWrite_leaves {t : State} {n : Nat} (hn : n < 512) (hg : loggedReg n = true) (w : Word) :
    let v := (t.loggedWrite n w).done
    v.me.trailTop = t.me.trailTop + 16 ∧ t.keepsOthers v t.cur ∧ t.keepsRegisters v [] [] [32, n] ∧ v.me.pc = t.me.npc := by
  intro v
  have me := State.loggedWrite_me hn hg (t := t) w
  obtain ⟨r, done⟩ := (t.loggedWrite n w).done_me
  obtain ⟨cur, gs, vs, ks⟩ := State.loggedWrite_keeps hn hg (t := t) w
  refine ⟨?_, State.keepsOthers_done (t.keepsOthers_setMe _) rfl, ⟨cur, gs, vs, fun m hm => ks m fun h => hm ?_⟩, ?_⟩
  · rw [show v.me = _ from done, me]
    rfl
  · simp only [List.mem_cons, List.not_mem_nil, or_false] at h ⊢
    exact h.symm
  · rw [show v.me = _ from done, me, Ctx.setControl_logged _ hg hn]
    exact t.me.setLogged_npc n _

/-- The user control registers that a kput logs among those shown (R305). -/
theorem loggedNumbers : ∀ n ∈ [8, 9, 10, 11, 16, 22, 25, 64, 127],
    n < 512 ∧ userAssigned n = true ∧ userReadOnly n = false ∧ loggedReg n = true := by decide

/-- What a store that pushed its entry leaves, once its bundle has retired. -/
theorem State.loggedStore_leaves (u : State) {addr loc record part size : Nat} (x : Nat) (ht : record + 512 = u.me.trailTop.toNat)
    (hsize : part + size ≤ 8) (clear : loc + 8 ≤ u.myLoc record ∨ u.myLoc u.me.trailTop.toNat + 16 ≤ loc) :
    let item := u.myLoc u.me.trailTop.toNat
    let steal := u.myLoc (record + 40)
    let v := (((u.pushedWord addr loc).unstolen record).performed (run (loc + part) size) (leBytes size x)).done
    v.word item = BitVec.ofNat 64 (addr / 8 * 8 + 2) ∧ v.word (item + 8) = u.word loc ∧ v.load (loc + part) size = x % 256 ^ size ∧
    v.me.trailTop = u.me.trailTop + 16 ∧ v.me.choice = u.me.choice ∧ v.load steal 1 = u.load steal 1 / 2 * 2 ∧
    (∀ b, (b < loc + part ∨ loc + part + size ≤ b) → (b < item ∨ item + 16 ≤ b) → b ≠ steal → v.mem.read b = u.mem.read b) ∧
    u.keepsOthers v u.cur ∧ u.keepsRegisters v [] [] [32] ∧ v.me.pc = u.me.npc := by
  intro item steal v
  let w := (u.pushedWord addr loc).unstolen record
  obtain ⟨wcur, wme, wothers, wregisters⟩ := u.loggedWord_leaves addr loc record
  let stored := w.performed (run (loc + part) size) (leBytes size x)
  obtain ⟨vmem, others, registers, -, pc, -⟩ := w.performed_leaves (run (loc + part) size) (leBytes size x) stored.strong
  obtain ⟨entry, old, data, bit, frame⟩ := u.loggedStore_mem (addr := addr) x ht hsize clear
  obtain ⟨top, choice⟩ := State.keepsRegisters_trail registers
  refine ⟨(State.memory_word vmem _).trans entry, (State.memory_word vmem _).trans old, (State.memory_load vmem _ _).trans data,
    (top List.not_mem_nil).trans (by rw [wme]), (choice List.not_mem_nil).trans (by rw [wme]), (State.memory_load vmem _ _).trans bit,
    fun b hb hi hs => (congrArg (Memory.read · b) vmem).trans (frame b hb hi hs), State.keepsOthers_trans wothers (wcur ▸ others),
    State.keepsRegisters_right wregisters registers, pc.trans (by rw [wme])⟩

/-- Settles O60: a store's entry and data are what `State.loggedStore_leaves` says of them, a kput's what `State.loggedWrite_mem` and
`State.loggedWrite_leaves` say; at the limit `logWord_full` and `exec_kput_trailFull` raise the cause. -/
theorem loggedStores : Obligations.LoggedStores := by
  refine ⟨?_, ?_⟩
  · intro s t u i size d a imm base x loc kind mem hc hr ea part top record item locs hap hal hl hu hf hch hn
    have logging : u.me.logging = true := Ctx.logging_choice hch
    have store : ∃ op, exec i s = runBundle (storeStep op size d a imm none) s ∧ size ∈ [1, 2, 4, 8] := by
      simp only [List.mem_cons, Prod.mk.injEq, List.not_mem_nil, or_false] at mem
      rcases mem with ⟨rfl, rfl⟩ | ⟨rfl, rfl⟩ | ⟨rfl, rfl⟩ | ⟨rfl, rfl⟩
      · exact ⟨33, rfl, by decide⟩
      · exact ⟨34, rfl, by decide⟩
      · exact ⟨35, rfl, by decide⟩
      · exact ⟨36, rfl, by decide⟩
    obtain ⟨op, hop, hs⟩ := store
    rw [hop]
    refine ⟨fun full => store_trailFull hc hr hap hs hal hl hu hf logging full hn op, fun room items h3 ht clear => ?_⟩
    have accessed := locate_accesses _ _ _ _ _ _ hl
    obtain ⟨cur, memory, -, -, -, -, npc, -⟩ := hr.accessed_homes accessed
    have run := store_logs hc hr hap hs hal hl hu hf logging room items h3 ht op
    obtain ⟨entry, old, data, vtop, choice, bit, frame, others, registers, pc⟩ := u.loggedStore_leaves (addr := ea.toNat / 8 * 8) x.toNat ht
      (aligned_fits hs hal).2 clear
    rw [Nat.mul_div_cancel _ (by decide : 0 < 8)] at entry
    refine ⟨_, run, entry, old, data, vtop, choice, bit, fun b hb hi hs => (frame b hb hi hs).trans (by rw [memory]), ?_,
      State.keepsRegisters_left accessed.keepsRegisters registers, pc.trans npc⟩
    exact State.keepsOthers_trans hr.pops.others (State.keepsOthers_trans (hr.pops.cur ▸ accessed.others) (cur ▸ others))
  · intro s t d n x hn hc hr hch hns top item
    obtain ⟨small, ha, hro, hg⟩ := loggedNumbers n hn
    have logging : t.me.logging = true := Ctx.logging_choice hch
    have pop := hr.popped
    refine ⟨fun full => exec_kput_trailFull hc hr small ha hro hg (pop.logging ▸ logging) ?_ (pop.speculates ▸ hns), fun room => ?_⟩
    · rw [← pop.trail.1, ← pop.trail.2]
      exact full
    · obtain ⟨_, _, _, _, me⟩ := hr.pops.me
      obtain ⟨entry, old, memory⟩ := t.loggedWrite_mem n x
      obtain ⟨vtop, others, registers, pc⟩ := State.loggedWrite_leaves small hg (t := t) x
      refine ⟨_, exec_kput hc hr (by omega) (writeControl_loggedWrite small hg x ha hro logging room), entry, old, vtop,
        fun b hb => (memory b hb).trans (by rw [pop.mem]), State.keepsOthers_trans hr.pops.others (hr.pops.cur ▸ others), registers,
        pc.trans (by rw [me])⟩

end Sys2Proof.Machine
end

section
/-! SUPPORT. tch (R135 to R138): a walk is as free after its context has changed and kept its task, a translation that no pin serves, and the pin that
a touch makes. -/

namespace Sys2Proof.Machine

/-! ### A context's entry changed (R224, R414) -/

/-- A search among the images of a table's values, once an entry with the same image has been put: the answer stays, or is that image, since
where the table's keys do not rise the entry may stand twice. -/
theorem Table.find_filterMap_put {α β : Type} (d : Nat → α) (f : α → Option β) (ok : β → Bool) (k : Nat) (x : α) (rest : List (Nat × α))
    (t : Table α) (same : f x = f (Table.get d t k)) :
    let search (t : List (Nat × α)) := ((t ++ rest).filterMap fun e => f e.2).find? ok
    search (Table.put t k x) = search t ∨ search (Table.put t k x) = f x := by
  intro search
  have head : ∀ t, search ((k, x) :: t) = search t ∨ search ((k, x) :: t) = f x := by
    intro t
    show List.find? ok (List.filterMap _ ((k, x) :: (t ++ rest))) = _ ∨ List.find? ok (List.filterMap _ ((k, x) :: (t ++ rest))) = _
    rw [List.filterMap_cons]
    cases image : f x with
    | none => exact .inl rfl
    | some b =>
      simp only
      rw [List.find?_cons]
      cases ok b with
      | true => exact .inr rfl
      | false => exact .inl rfl
  induction t with
  | nil => exact head []
  | cons e t ih =>
    obtain ⟨j, y⟩ := e
    unfold Table.put
    split_ifs with before here
    · exact head _
    · subst here
      have image : f x = f y := by rw [same, Table.get, if_pos rfl]
      refine .inl ?_
      show List.find? ok (List.filterMap _ (_ :: (t ++ rest))) = List.find? ok (List.filterMap _ (_ :: (t ++ rest)))
      rw [List.filterMap_cons, List.filterMap_cons, image]
    · have ih := ih (by rw [same, Table.get, if_neg here])
      show List.find? ok (List.filterMap _ ((j, y) :: (Table.put t k x ++ rest))) = List.find? ok (List.filterMap _ ((j, y) :: (t ++ rest))) ∨
        List.find? ok (List.filterMap _ ((j, y) :: (Table.put t k x ++ rest))) = f x
      rw [List.filterMap_cons, List.filterMap_cons]
      cases f y with
      | none => exact ih
      | some b =>
        simp only
        rw [List.find?_cons, List.find?_cons]
        cases ok b with
        | true => exact .inl rfl
        | false => exact ih

section
variable (s : State) {x : Ctx} (hx : x.task = s.me.task)
include hx

/-- A running task with an id, after the current context has changed and kept its own. -/
theorem State.runOf_setMe (id : Nat) : (s.setMe x).runOf id = s.runOf id ∨ (s.setMe x).runOf id = s.me.task.map TaskRun.task := by
  have search := Table.find_filterMap_put Ctx.reset Ctx.task (fun r => r.task.id == id) s.cur x s.saved s.ctxs hx
  rw [← hx]
  exact search.imp (congrArg (Option.map TaskRun.task)) (congrArg (Option.map TaskRun.task))

theorem State.readable_setMe {line : Nat} (h : s.readable line = true) : (s.setMe x).readable line = true := by
  unfold State.readable State.readableBy at h ⊢
  rw [State.setMe_me]
  refine List.all_eq_true.mpr fun i hi => ?_
  have own := List.all_eq_true.mp h i hi
  simp only [Option.bind_some] at own ⊢
  rw [hx]
  cases task : s.me.task with
  | none => simp only [task] at own; exact own
  | some r =>
    simp only [task] at own ⊢
    rcases s.runOf_setMe hx i with run | run
    · rw [run]; exact own
    · rw [run, task]; exact beq_self_eq_true _

/-- A walk that need not wait does not have to after its context has changed and kept its task. -/
theorem State.walkFree_setMe {part va : Nat} (h : s.walkFree part va = true) : (s.setMe x).walkFree part va = true := by
  have entries : ∀ level table, (s.setMe x).walkEntries va level table = s.walkEntries va level table := fun level => by
    induction level with
    | zero => exact fun _ => rfl
    | succ level ih =>
      intro table
      unfold State.walkEntries
      simp only [ih]
      rfl
  unfold State.walkFree State.walkFreeBy at h ⊢
  refine (Bool.or_eq_true ..).mpr (((Bool.or_eq_true ..).mp h).imp_right fun h => ?_)
  rw [entries]
  unfold State.openTo at h ⊢
  refine List.all_eq_true.mpr fun line hline => ?_
  obtain ⟨unclaimed, readable⟩ := (Bool.and_eq_true ..).mp (List.all_eq_true.mp h line hline)
  exact (Bool.and_eq_true ..).mpr ⟨unclaimed, s.readable_setMe hx readable⟩

end

/-- A walk does not depend on the contexts. -/
theorem State.walk_setMe (s : State) (x : Ctx) (part : Nat) (acc : Acc) (va : Nat) : (s.setMe x).walk part acc va = s.walk part acc va := by
  have down : ∀ level table, (s.setMe x).walkFrom part acc va level table = s.walkFrom part acc va level table := fun level => by
    induction level with
    | zero => exact fun _ => rfl
    | succ level ih =>
      intro table
      unfold State.walkFrom
      simp only [ih]
      rfl
  unfold State.walk
  rw [down]
  rfl

/-! ### A translation that no pin serves (R135, R136, R419) -/

section
variable {s : State} {acc : Acc} {va : Nat} (hc : s.myCore.cached s.me.part va = none) (hf : s.walkFree s.me.part va = true)
include hc hf

section
variable (hp : s.me.coveringPin acc va = none)
include hp

theorem translate_walks {l : Leaf} (hw : s.walk s.me.part acc va = .ok l) : ∃ u, translate acc va s = .ok (l, u) ∧ u.me = s.me := by
  unfold translate
  rw [M.bind_ok (M.get_run s)]
  simp only [hp, hc]
  rw [M.bind_ok (M.await_run hf _ s)]
  simp only [hw]
  exact ⟨_, rfl, rfl⟩

theorem translate_faults {c : Trap} (hw : s.walk s.me.part acc va = .error c) : translate acc va s = .error (.trap c) := by
  unfold translate
  rw [M.bind_ok (M.get_run s)]
  simp only [hp, hc]
  rw [M.bind_ok (M.await_run hf _ s)]
  simp only [hw]
  rfl

end

/-- The state in which a fresh translation runs has no pins, and its cache and walk are those of the context as it stood. -/
theorem State.unpinned_translates : let u := s.setMe { s.me with pins := [] }
    u.me.coveringPin acc va = none ∧ u.myCore.cached u.me.part va = none ∧ u.walkFree u.me.part va = true ∧
    u.walk u.me.part acc va = s.walk s.me.part acc va := by
  intro u
  have me : u.me = { s.me with pins := [] } := s.setMe_me _
  refine ⟨by rw [me]; rfl, by rw [me]; exact hc, by rw [me]; exact s.walkFree_setMe (x := { s.me with pins := [] }) rfl hf, by rw [me]; exact s.walk_setMe _ _ _ _⟩

theorem translateFresh_walks {l : Leaf} (hw : s.walk s.me.part acc va = .ok l) :
    ∃ u, translateFresh acc va s = .ok (l, u) ∧ s.Accessed u ∧ u.me = s.me := by
  obtain ⟨pin, cache, free, walk⟩ := State.unpinned_translates (acc := acc) hc hf
  obtain ⟨u, run, me⟩ := translate_walks cache free pin (walk.trans hw)
  have fresh : translateFresh acc va s = .ok (l, u.setMe { u.me with pins := s.me.pins }) := by
    unfold translateFresh
    rw [M.bind_ok (M.getMe_run s), M.bind_ok (M.modifyMe_run _ s), M.bind_ok run]
    rfl
  refine ⟨_, fresh, ?_, ?_⟩
  · have steps : (translateFresh acc va).Accesses :=
      .bind .getMe fun _ => .bind (.setPins _) fun _ => .bind (translate_accesses acc va) fun _ => .bind (.setPins _) fun _ => .pure _
    exact steps _ _ _ fresh
  · rw [State.setMe_me, me, State.setMe_me]

theorem translateFresh_faults {c : Trap} (hw : s.walk s.me.part acc va = .error c) : translateFresh acc va s = .error (.trap c) := by
  obtain ⟨pin, cache, free, walk⟩ := State.unpinned_translates (acc := acc) hc hf
  unfold translateFresh
  rw [M.bind_ok (M.getMe_run s), M.bind_ok (M.modifyMe_run _ s)]
  exact M.bind_error (translate_faults cache free pin (walk.trans hw))

end

/-! ### tch (R135 to R138) -/

/-- What a tch outside the aperture does at its address. -/
def touchAt (kind : Fin 8) (ea : Word) : M Unit := do
  let x ← getMe
  if 16 ≤ x.livePins.length then raise (walkFault (touchAcc kind) 0 3 ea.toNat 0)
  let l ← translateFresh (touchAcc kind) ea.toNat
  if l.isRemote && kind != 1 then raise { cls := 3, detail := 0, addr := ea }
  pin kind l

/-- The pin that a tch makes, once its bundle has retired. -/
theorem tickPins_pinned (ps : List Pin) (p : Pin) : tickPins (ps ++ [{ p with count := p.count + 1 }]) = tickPins ps ++ [p] := by
  unfold tickPins
  rw [List.map_append]
  rfl

section
variable {s t : State} {kind : Fin 8} {a : GReg} {imm : Int} {base : Word}
  (hc : s.clear [a] [] [] [] = true) (hr : s.Reads [a] [base] t)
include hc hr

theorem exec_tch_aperture {r : CoreId × Served} (ha : isAperture (offsetAddr base imm 8) = true) (hv : aperture (offsetAddr base imm 8) 8 t = .ok (r, t))
    (la : La) : exec (.tch kind a imm la) s = .next t.done := by
  refine runBundle_ok ((issue_read_one hc hr _).trans ?_)
  rw [ha, if_pos rfl, M.bind_ok hv]
  rfl

theorem exec_tch_translated (ha : isAperture (offsetAddr base imm 8) = false) (hs : isService (coreOf s.cur) = false) (la : La) :
    exec (.tch kind a imm la) s = runBundle (fun _ => touchAt kind (offsetAddr base imm 8) t) s := by
  refine runBundle_congr ((issue_read_one hc hr _).trans ?_)
  have service : isService (coreOf t.cur) = false := by rw [hr.pops.cur]; exact hs
  rw [ha, if_neg Bool.false_ne_true, M.bind_ok (M.get_run t), service, if_neg Bool.false_ne_true]
  rfl

end

section
variable {s : State} {kind : Fin 8} {ea : Word}

theorem touchAt_overflow (h : 16 ≤ s.me.livePins.length) :
    touchAt kind ea s = .error (.trap { cls := 1, detail := (touchAcc kind).code * 16 + 3, addr := ea }) := by
  unfold touchAt
  rw [M.bind_ok (M.getMe_run s), if_pos h]
  refine M.bind_error ?_
  show Except.error (Stop.trap (walkFault _ 0 3 ea.toNat 0)) = _
  rw [walkFault, BitVec.ofNat_toNat, BitVec.setWidth_eq]

variable (room : s.me.livePins.length < 16) (hc : s.myCore.cached s.me.part ea.toNat = none) (hf : s.walkFree s.me.part ea.toNat = true)
include room hc hf

theorem touchAt_faults {c : Trap} (hw : s.walk s.me.part (touchAcc kind) ea.toNat = .error c) : touchAt kind ea s = .error (.trap c) := by
  unfold touchAt
  rw [M.bind_ok (M.getMe_run s), if_neg (Nat.not_le.mpr room)]
  exact M.bind_error (translateFresh_faults hc hf hw)

variable {l : Leaf} (hw : s.walk s.me.part (touchAcc kind) ea.toNat = .ok l)
include hw

theorem touchAt_remote (hl : l.isRemote = true) (hk : kind ≠ 1) : touchAt kind ea s = .error (.trap { cls := 3, detail := 0, addr := ea }) := by
  obtain ⟨u, fresh, -, -⟩ := translateFresh_walks hc hf hw
  unfold touchAt
  rw [M.bind_ok (M.getMe_run s), if_neg (Nat.not_le.mpr room)]
  refine (M.bind_ok fresh).trans ?_
  rw [hl, Bool.true_and, if_pos (bne_iff_ne.mpr hk)]
  rfl

theorem touchAt_pins (hl : l.isRemote = false) : ∃ u, touchAt kind ea s = .ok ((), u) ∧ s.Accessed u ∧
    u.me = { s.me with pins := s.me.pins ++ [⟨l.page, l.size, l.level, l.pte, kind.val, 65⟩] } := by
  obtain ⟨u, fresh, accessed, me⟩ := translateFresh_walks hc hf hw
  have run : touchAt kind ea s = pin kind l u := by
    unfold touchAt
    rw [M.bind_ok (M.getMe_run s), if_neg (Nat.not_le.mpr room)]
    refine (M.bind_ok fresh).trans ?_
    rw [hl, Bool.false_and, if_neg Bool.false_ne_true]
  refine ⟨_, run.trans rfl, accessed.trans (u.accessed_setMe _ _ _ _ _), ?_⟩
  rw [State.setMe_me, me]

end

/-- Settles O19: an address in the aperture makes the checks only (`exec_tch_aperture`); any other goes on with `touchAt`, which overflows,
faults, refuses a remote page, or pins the walk's leaf at a count that the bundle's own retirement brings to 64. -/
theorem touchResults : Obligations.TouchResults := by
  intro s t kind a imm la base l hk hc hr ea acc
  refine ⟨fun ha r hv => exec_tch_aperture hc hr ha hv la, fun ha hs hcache hfree => ?_⟩
  have kinds : acc = touchAcc kind := rfl
  rw [exec_tch_translated hc hr ha hs la, kinds]
  refine ⟨fun room hw hl => ?_, fun full => runBundle_cause (touchAt_overflow full) Nat.one_ne_zero,
    fun room hw hl hk => runBundle_cause (touchAt_remote room hcache hfree hw hl hk) (Nat.succ_ne_zero 2),
    fun c room hw => runBundle_trap (touchAt_faults room hcache hfree hw)⟩
  obtain ⟨u, run, accessed, me⟩ := touchAt_pins room hcache hfree hw hl
  obtain ⟨r, done⟩ := u.done_me
  obtain ⟨-, memory, -⟩ := hr.accessed_homes accessed
  refine ⟨_, ⟨l.page, l.size, l.level, l.pte, kind.val, 64⟩, runBundle_ok run, ?_, rfl, rfl, rfl, rfl, rfl, ?_, ?_, ?_⟩
  · rw [done, me]
    exact tickPins_pinned t.me.pins ⟨l.page, l.size, l.level, l.pte, kind.val, 64⟩
  · exact (State.done_mem u).trans memory
  · exact State.keepsOthers_trans hr.pops.others (hr.pops.cur ▸ State.keepsOthers_done accessed.others accessed.cur)
  · exact State.keepsRegisters_done accessed.keepsRegisters

end Sys2Proof.Machine
end

section
/-! REFUTATION of O18. An access takes its context out of the table and puts it back with its pins (`underPins`), and in a table whose keys do not
rise that makes a second entry: the running task of an id is then another one, and the walk that had to wait for a speculative writer no longer
waits (R224, R414). -/

namespace Sys2Proof.Machine

/-- Whether an action waits. -/
def waitsAs {α : Type} (r : Except Stop (α × State)) : Bool := match r with | .error (.wait _) => true | _ => false

theorem unsorted_uncached : unsorted.myCore.cached unsorted.me.part (0 : Word).toNat = none := by decide

theorem unsorted_locates : waitsAs (locate .load 0 8 unsorted) = false := by decide

/-- Refutes O18, at a table whose keys do not rise (the statement ranges over every state): in `unsorted` no pin and no cached leaf covers
address 0 and its walk has to wait, but a load there does not wait. -/
theorem not_translatedAccess : ¬ Obligations.TranslatedAccess := by
  intro h
  have page : (0 : Word).toNat % 4096 + 8 ≤ 4096 := by decide
  have plain : (⟨0, 0, 0, 0⟩ : Leaf).isSC = true → unsorted.quiet = true := fun sc => absurd sc (by decide)
  obtain ⟨-, unpinned⟩ := h unsorted .load 0 8 ⟨0, 0, 0, 0⟩ rfl rfl (by decide) page plain
  obtain ⟨-, -, waits, -⟩ := unpinned rfl
  have located := unsorted_locates
  rw [waits unsorted_uncached unsorted_waits] at located
  exact absurd located (by decide)

end Sys2Proof.Machine
end

section
/-! REFUTATION of O15. A strong store through the aperture marks its packet by the packet's identity; where an earlier packet already has that
identity, it is marked too, and the packets are not the earlier ones with one more. -/

namespace Sys2Proof.Machine

/-- A packet of core 0 that sets a counter. -/
def counterPacket (id : Nat) : Packet :=
  { id, src := some 0, owner := 0, srcPackage := 0, srcPlace := 0, srcCtx := 0, part := 0, team := 0, dest := .core 0, sid := 0, cls := 0, seq := 0
    epoch := 0, region := false, counter := 0, body := .setCounter 0, state := .sent, result := 0 }

/-- A context that may store to its own scratch, beside a packet that already has the identity of the next one. -/
def renumbered : State := { Tests.scratchy with packets := [counterPacket Tests.scratchy.packetNext] }

/-- Whether each packet that a step leaves is a strong access. -/
def strongAfter (o : Host.Outcome State Fault Refusal) : List Bool := match o with | .next t => t.packets.map Packet.strong | _ => []

theorem renumbered_marks : strongAfter (exec (.stl 6 7 0 0 none) renumbered) = [true, true] := by decide +kernel

/-- Refutes O15, at a package where two packets have one identity (the statement ranges over every state): stl marks its own packet a strong
access by its identity (R219), so it marks the earlier one in `renumbered` too, which was none. -/
theorem not_apertureStoreResults : ¬ Obligations.ApertureStoreResults := by
  intro h
  obtain ⟨clear, reads⟩ : renumbered.clear [7, 6] [] [] [] = true ∧ renumbered.Reads [7, 6] [0x01FF000000000010, 0x1122334455667788] renumbered :=
    Tests.holds_reads (by decide +kernel)
  have aligned : (0x01FF000000000010 + BitVec.ofInt 64 (0 * 8) : Word).toNat % 8 = 0 ∧ renumbered.quiet = true := by decide +kernel
  have served : aperture 0x01FF000000000010 8 renumbered = .ok ((0, ⟨bankLoc 0 0, 0x130000, 0, 0⟩), renumbered) :=
    Tests.aperture_given (by decide +kernel)
  have unlogged : renumbered.me.logging = false ∧ renumbered.me.task = none ∧ renumbered.me.region = none := by decide +kernel
  obtain ⟨logging, task, region⟩ := unlogged
  have stream : (renumbered.me.strc[0]?).getD 0 = 0 ∧ (renumbered.me.sender 0 (.core 0)).broken = false := by decide +kernel
  obtain ⟨counter, broken⟩ := stream
  have near : (decide ((0 : CoreId) ≠ coreOf renumbered.cur) && renumbered.me.logging) = false := by rw [logging, Bool.and_false]
  obtain ⟨-, sends⟩ := h renumbered renumbered (.stl 6 7 0 0 none) 39 6 7 0 0 none 0x01FF000000000010 0x1122334455667788 8 0
    ⟨bankLoc 0 0, 0x130000, 0, 0⟩ (by simp) clear reads (fun _ => aligned) (by decide)
  obtain ⟨-, sends⟩ := sends (by decide) served (fun far => absurd far (by rw [near]; exact Bool.false_ne_true))
    (fun _ => ⟨logging, fun running => absurd running (by rw [task]; exact Bool.false_ne_true)⟩)
  obtain ⟨-, sends⟩ := sends 0 _ rfl
  obtain ⟨-, -, sends⟩ := sends (.inr (.inl counter))
  obtain ⟨u, p, run, packets, -⟩ := sends broken none (.inl ⟨region, rfl⟩)
  have marks := renumbered_marks
  rw [run] at marks
  have kept : strongAfter (.next u) = [false, p.strong] := by
    show u.packets.map Packet.strong = _
    rw [packets]
    rfl
  rw [kept] at marks
  exact absurd (List.cons.inj marks).1 (by decide)

end Sys2Proof.Machine
end

section
/-! SUPPORT. Lanes of a vector register (R21, R22, R90): what a register made of lanes holds, and the widths of the element types. -/

namespace Sys2Proof.Machine

/-! ### Lanes (R21) -/

/-- The digits of a number made of digits. -/
theorem joinLanes_digit (w : Nat) (xs : List Nat) (i : Nat) : joinLanes w xs / 2 ^ (w * i) % 2 ^ w = xs.getD i 0 % 2 ^ w := by
  induction xs generalizing i with
  | nil => simp [joinLanes]
  | cons x xs ih =>
    rw [joinLanes]
    cases i with
    | zero => simp
    | succ i =>
      rw [Nat.mul_succ, Nat.add_comm (w * i) w, Nat.pow_add, ← Nat.div_div_eq_div_mul, Nat.add_mul_div_left _ _ (Nat.two_pow_pos w),
        Nat.div_eq_of_lt (Nat.mod_lt _ (Nat.two_pow_pos w)), Nat.zero_add, ih, List.getD_cons_succ]

/-- A digit that lies within a register's bits is the digit of the number that the register is made of. -/
theorem ofNat_digit {w i n : Nat} (h : w * (i + 1) ≤ n) (x : Nat) :
    (BitVec.ofNat n x).toNat / 2 ^ (w * i) % 2 ^ w = x / 2 ^ (w * i) % 2 ^ w := by
  have split : 2 ^ n = 2 ^ (w * i) * (2 ^ w * 2 ^ (n - w * (i + 1))) := by
    rw [← Nat.pow_add, ← Nat.pow_add]
    congr 1
    rw [Nat.mul_succ] at h ⊢
    omega
  rw [BitVec.toNat_ofNat, split, Nat.mod_mul_right_div_self, Nat.mod_mul_right_mod]

/-- A lane of a register made of lanes. -/
theorem laneAt_ofLanes {w i : Nat} (h : w * (i + 1) ≤ 4096) (xs : List Nat) : laneAt w (ofLanes w xs) i = xs.getD i 0 % 2 ^ w :=
  (ofNat_digit h _).trans (joinLanes_digit w xs i)

theorem laneAt_lt (w : Nat) (v : VWord) (i : Nat) : laneAt w v i < 2 ^ w := Nat.mod_lt _ (Nat.two_pow_pos w)

theorem lanesOf_eq (w : Nat) (v : VWord) : lanesOf w v = (List.range (4096 / w)).map (laneAt w v) := rfl

theorem getD_map_range {α : Type} (f : Nat → α) (d : α) {n j : Nat} (h : j < n) : ((List.range n).map f).getD j d = f j := by
  rw [List.getD_eq_getElem?_getD, List.getElem?_map, List.getElem?_range h]
  rfl

theorem getD_lanesOf {w j : Nat} (v : VWord) (h : j < 4096 / w) : (lanesOf w v).getD j 0 = laneAt w v j := getD_map_range _ _ h

/-- The lanes of a register lie within its bits. -/
theorem lane_fits {w j : Nat} (h : j < 4096 / w) : w * (j + 1) ≤ 4096 :=
  Nat.le_trans (Nat.mul_le_mul_left w h) (Nat.mul_div_le 4096 w)

/-- A lane of a register whose lanes are given by their numbers. -/
theorem laneAt_ofLanes_range {w j : Nat} (h : j < 4096 / w) (f : Nat → Nat) :
    laneAt w (ofLanes w ((List.range (4096 / w)).map f)) j = f j % 2 ^ w := by
  rw [laneAt_ofLanes (lane_fits h), getD_map_range f 0 h]

theorem zipWith_lanesOf (w : Nat) (f : Nat → Nat → Nat) (x y : VWord) :
    List.zipWith f (lanesOf w x) (lanesOf w y) = (List.range (4096 / w)).map (fun j => f (laneAt w x j) (laneAt w y j)) := by
  rw [lanesOf_eq, lanesOf_eq, List.zipWith_map, List.zipWith_self]

theorem zipWith_zip_lanesOf (w : Nat) (f : Nat → Nat → Nat → Nat) (x y z : VWord) :
    List.zipWith (fun p c => f p.1 p.2 c) ((lanesOf w x).zip (lanesOf w y)) (lanesOf w z) =
      (List.range (4096 / w)).map (fun j => f (laneAt w x j) (laneAt w y j) (laneAt w z j)) := by
  rw [lanesOf_eq, lanesOf_eq, lanesOf_eq, List.zip_map', List.zipWith_map, List.zipWith_self]

theorem zip_map_range {α : Type} (f : Nat → α) (n : Nat) : ((List.range n).map f).zip (List.range n) = (List.range n).map (fun j => (f j, j)) := by
  simpa using List.zip_map' (f := f) (g := id) (l := List.range n)

/-! ### Element types (R21, R90) -/

section
variable {q : QType}

theorem laneWidth_pos (q : QType) : 0 < laneWidth q := by
  revert q; decide

theorem laneCount_pos (q : QType) : 0 < laneCount q := by
  revert q; decide

/-- The lanes of a register of a type. -/
theorem lanesOf_laneWidth (q : QType) (v : VWord) : lanesOf (laneWidth q) v = (List.range (laneCount q)).map (laneAt (laneWidth q) v) := rfl

theorem elemOf_flt {f : Fmt} (h : elemOf q = .flt f) : q.val < 4 ∧ f.width = laneWidth q := by
  fin_cases q <;> cases h <;> exact ⟨by decide, rfl⟩

theorem elemOf_flt_lt {f : Fmt} (h : elemOf q = .flt f) : q.val < 7 := Nat.lt_trans (elemOf_flt h).1 (by decide)

theorem elemOf_int (h : 4 ≤ q.val) (h' : q.val < 7) : elemOf q = .int (laneWidth q) := by
  revert q; decide

/-- Every lane type but q4 is a format or an integer, of its lane's width. -/
theorem elemOf_cases (h : q.val < 7) : (∃ f : Fmt, elemOf q = .flt f ∧ f.width = laneWidth q) ∨ elemOf q = .int (laneWidth q) := by
  fin_cases q
  iterate 4 exact .inl ⟨_, rfl, rfl⟩
  iterate 3 exact .inr rfl
  exact absurd h (by decide)

theorem bne_q4 (h : q.val < 7) : (q != 7) = true := by
  revert q; decide

theorem isInt_iff (q : QType) : isInt q = true ↔ 4 ≤ q.val ∧ q.val < 7 := by
  rw [isInt, Bool.and_eq_true, decide_eq_true_iff, decide_eq_true_iff]

theorem isInt_refuses (h : q.val < 4 ∨ q = 7) : isInt q = false := by
  revert q; decide

end

end Sys2Proof.Machine
end

section
/-! SUPPORT. Vector operands (R21, R62, R156, R158): what a bundle of vector registers reads and writes when its registers are free, and what a lane
instruction gives. -/

namespace Sys2Proof.Machine

/-! ### Checks and operands -/

section
variable {s : State}

/-- A check that holds is passed. -/
theorem require_passes {ok : Bool} {c n : Nat} {m : M Unit} (h : ok = true) : (require ok c n >>= fun _ => m) s = m s :=
  M.bind_ok (M.require_run h c n s)

/-- A bundle whose first check fails traps (R158). -/
theorem require_traps {ok : Bool} {c n : Nat} {m : M Unit} (h : ok = false) :
    runBundle (require ok c n >>= fun _ => m) s = .next (s.trapped (s.me.withDetail { cls := c, detail := n })) := by
  subst h
  exact runBundle_trap rfl

/-- Vector registers that are free stay so where fewer of them are named. -/
theorem State.clear_vectors {rs ws : List GReg} {vr vr' vw vw' : List VReg} (h : s.clear rs ws vr vw = true)
    (hv : vr' ++ vw' ⊆ vr ++ vw) : s.clear rs ws vr' vw' = true := by
  simp only [State.clear, Bool.and_eq_true, List.all_eq_true] at *
  obtain ⟨⟨⟨⟨pend, reads⟩, writes⟩, room⟩, buffer⟩ := h
  exact ⟨⟨⟨⟨fun p hp => ⟨(pend p hp).1, fun r hr => (pend p hp).2 r (hv hr)⟩, reads⟩, writes⟩, room⟩, buffer⟩

section
variable {rs ws : List GReg} {vr vw : List VReg} (hc : s.clear rs ws vr vw = true)
include hc

theorem readV_clear {a : VReg} (ha : a ∈ vr) : readV a s = .ok (s.me.v[a.val], s) := readV_free (State.clear_pendV hc (.inl ha))

theorem writeV_clear {d : VReg} (hd : d ∈ vw) (r : VWord) : writeV d r s = .ok ((), s.wroteV d r) :=
  writeV_free (State.clear_pendV hc (.inr hd)) r

end

section
variable {a b c : VReg} {ws : List GReg} {vw : List VReg}

/-- A bundle of one vector operand, up to what it does with it. -/
theorem issue_readV_one (hc : s.clear [] ws [a] vw = true) (f : VWord → M Unit) :
    (issue [] ws [a] vw >>= fun _ => readV a >>= f) s = f s.me.v[a.val] s := by
  rw [M.bind_ok (issue_noReads hc), M.bind_ok (readV_clear hc (by simp))]

/-- A bundle of two vector operands. -/
theorem issue_readV_two (hc : s.clear [] ws [a, b] vw = true) (f : VWord → VWord → M Unit) :
    (issue [] ws [a, b] vw >>= fun _ => readV a >>= fun x => readV b >>= f x) s = f s.me.v[a.val] s.me.v[b.val] s := by
  rw [M.bind_ok (issue_noReads hc), M.bind_ok (readV_clear hc (by simp)), M.bind_ok (readV_clear hc (by simp))]

/-- A bundle of three vector operands. -/
theorem issue_readV_three (hc : s.clear [] ws [a, b, c] vw = true) (f : VWord → VWord → VWord → M Unit) :
    (issue [] ws [a, b, c] vw >>= fun _ => readV a >>= fun x => readV b >>= fun y => readV c >>= f x y) s =
      f s.me.v[a.val] s.me.v[b.val] s.me.v[c.val] s := by
  rw [M.bind_ok (issue_noReads hc), M.bind_ok (readV_clear hc (by simp)), M.bind_ok (readV_clear hc (by simp)),
    M.bind_ok (readV_clear hc (by simp))]

end

end

/-! ### Lane instructions (R163 to R165) -/

/-- A bundle answers with a vector register written in which each lane is given by its number. -/
def GivesLanes (o : Host.Outcome State Fault Refusal) (t : State) (d : VReg) (q : QType) (g : Nat → Nat) : Prop :=
  ∃ r, o = .next (t.wroteV d r).done ∧ ∀ j, j < laneCount q → laneAt (laneWidth q) r j = g j

section
variable {s : State} {d a b : VReg} {q : QType} {ok : Bool} {g : Nat → Nat}

/-- A bundle that writes lanes given by their numbers, each of the lane's width. -/
theorem lanes_given {m : M Unit} {t : State} {f : Nat → Nat}
    (hrun : m s = .ok ((), t.wroteV d (ofLanes (laneWidth q) ((List.range (laneCount q)).map f)))) (hlt : ∀ j, g j < 2 ^ laneWidth q)
    (hg : ∀ j, j < laneCount q → f j = g j) : GivesLanes (runBundle m s) t d q g := by
  refine ⟨_, runBundle_ok hrun, fun j hj => (laneAt_ofLanes_range hj f).trans ?_⟩
  rw [hg j hj, Nat.mod_eq_of_lt (hlt j)]

/-- A lane instruction of two operands gives in each lane what its lane function gives there. -/
theorem lanewise_gives {f : Nat → Nat → Nat} (hc : s.clear [] [] [a, b] [d] = true) (hok : ok = true) (hlt : ∀ x y, f x y < 2 ^ laneWidth q)
    (hg : ∀ j, f (laneAt (laneWidth q) s.me.v[a.val] j) (laneAt (laneWidth q) s.me.v[b.val] j) = g j) :
    GivesLanes (runBundle (lanewise ok q f d a b) s) s d q g := by
  refine lanes_given ((require_passes hok).trans ((issue_readV_two hc _).trans ?_)) (fun j => hg j ▸ hlt _ _) fun j _ => hg j
  rw [zipWith_lanesOf]
  exact writeV_clear hc (List.mem_singleton.mpr rfl) _

/-- The same for one that also reads its destination. -/
theorem lanewise3_gives {f : Nat → Nat → Nat → Nat} (hc : s.clear [] [] [a, b, d] [d] = true) (hok : ok = true)
    (hlt : ∀ x y z, x < 2 ^ laneWidth q → y < 2 ^ laneWidth q → f x y z < 2 ^ laneWidth q)
    (hg : ∀ j, f (laneAt (laneWidth q) s.me.v[a.val] j) (laneAt (laneWidth q) s.me.v[b.val] j) (laneAt (laneWidth q) s.me.v[d.val] j) = g j) :
    GivesLanes (runBundle (lanewise3 ok q f d a b) s) s d q g := by
  refine lanes_given ((require_passes hok).trans ((issue_readV_three hc _).trans ?_))
    (fun j => hg j ▸ hlt _ _ _ (laneAt_lt ..) (laneAt_lt ..)) fun j _ => hg j
  rw [zipWith_zip_lanesOf]
  exact writeV_clear hc (List.mem_singleton.mpr rfl) _

/-- The same for one of one operand. -/
theorem lanewise1_gives {f : Nat → Nat} (hc : s.clear [] [] [a] [d] = true) (hok : ok = true) (hlt : ∀ x, f x < 2 ^ laneWidth q)
    (hg : ∀ j, f (laneAt (laneWidth q) s.me.v[a.val] j) = g j) : GivesLanes (runBundle (lanewise1 ok q f d a) s) s d q g := by
  refine lanes_given ((require_passes hok).trans ((issue_readV_one hc _).trans ?_)) (fun j => hg j ▸ hlt _) fun j _ => hg j
  rw [lanesOf_eq, List.map_map]
  exact writeV_clear hc (List.mem_singleton.mpr rfl) _

theorem lanewise_traps {f : Nat → Nat → Nat} (h : ok = false) :
    runBundle (lanewise ok q f d a b) s = .next (s.trapped (s.me.withDetail { cls := 0, detail := 19 })) := by
  unfold lanewise
  exact require_traps h

theorem lanewise3_traps {f : Nat → Nat → Nat → Nat} (h : ok = false) :
    runBundle (lanewise3 ok q f d a b) s = .next (s.trapped (s.me.withDetail { cls := 0, detail := 19 })) := by
  unfold lanewise3
  exact require_traps h

theorem bitwise_answers (hc : s.clear [] [] [a, b] [d] = true) (f : VWord → VWord → VWord) :
    runBundle (bitwise f d a b) s = .next (s.wroteV d (f s.me.v[a.val] s.me.v[b.val])).done :=
  runBundle_ok ((issue_readV_two hc _).trans (writeV_clear hc (List.mem_singleton.mpr rfl) _))

end

end Sys2Proof.Machine
end

section
/-! LEMMAS for O6. Lane functions (R103, R163 to R165): what each gives, in the terms of the spec. -/

namespace Sys2Proof.Machine

/-! ### Integers cut to a width (R6, R103) -/

/-- A pattern's signed value is the pattern, but for a multiple of 2^w. -/
theorem toSigned_modEq (w x : Nat) : toSigned w x ≡ (x : Int) [ZMOD 2 ^ w] := by
  have cut : ((x % 2 ^ w : Nat) : Int) ≡ x [ZMOD 2 ^ w] := by
    rw [Int.natCast_mod, Nat.cast_pow]
    exact Int.mod_modEq ..
  unfold toSigned
  split
  · exact cut
  · exact (Int.modEq_sub_modulus_iff.mpr (Int.ModEq.refl _)).symm.trans cut

theorem wrapBits_natCast (w n : Nat) : wrapBits w n = n % 2 ^ w := by
  unfold wrapBits
  norm_cast

/-- An integer that is a natural number but for a multiple of 2^w is cut to that number's low bits. -/
theorem wrapBits_modEq {w n : Nat} {i : Int} (h : i ≡ n [ZMOD 2 ^ w]) : wrapBits w i = n % 2 ^ w := by
  rw [← wrapBits_natCast, wrapBits, wrapBits, h]

theorem wrapBits_toSigned {w x : Nat} (h : x < 2 ^ w) : wrapBits w (toSigned w x) = x := by
  rw [wrapBits_modEq (toSigned_modEq w x), Nat.mod_eq_of_lt h]

theorem toSigned_inj {w x y : Nat} (hx : x < 2 ^ w) (hy : y < 2 ^ w) : toSigned w x = toSigned w y ↔ x = y :=
  ⟨fun h => by rw [← wrapBits_toSigned hx, h, wrapBits_toSigned hy], fun h => h ▸ rfl⟩

/-- The greater of two integers, where the statement tests the other way round. -/
theorem ite_le_eq_ite_lt_max (x y : Int) : (if x ≤ y then y else x) = if x < y then y else x := by
  split <;> split <;> omega

/-! ### Arithmetic (R163) -/

section
variable {q : QType} {f : Fmt} {x y z : Nat}

theorem encode_lt_lane (h : elemOf q = .flt f) (rm : Rounding) (v : Val) : f.encode rm v < 2 ^ laneWidth q :=
  (elemOf_flt h).2 ▸ f.encode_lt rm v

theorem laneOp_flt (h : elemOf q = .flt f) (ff : Val → Val → Val) (fi : Int → Int → Int) :
    laneOp q ff fi x y = f.encode .rne (ff (f.decode x) (f.decode y)) := by
  unfold laneOp; rw [h]

theorem laneOp_int (h : elemOf q = .int (laneWidth q)) (ff : Val → Val → Val) (fi : Int → Int → Int) :
    laneOp q ff fi x y = wrapBits (laneWidth q) (fi (toSigned (laneWidth q) x) (toSigned (laneWidth q) y)) := by
  unfold laneOp; rw [h]

theorem laneOp_lt (h : q.val < 7) (ff : Val → Val → Val) (fi : Int → Int → Int) (x y : Nat) : laneOp q ff fi x y < 2 ^ laneWidth q := by
  rcases elemOf_cases h with ⟨f, hf, -⟩ | hi
  · rw [laneOp_flt hf]; exact encode_lt_lane hf _ _
  · rw [laneOp_int hi]; exact wrapBits_lt _ _

theorem laneFma_flt (h : elemOf q = .flt f) : laneFma q x y z = f.encode .rne (((f.decode x).mul (f.decode y)).add (f.decode z)) := by
  unfold laneFma; rw [h]

section
variable (h : elemOf q = .int (laneWidth q))
include h

theorem laneFma_int : laneFma q x y z = (x * y + z) % 2 ^ laneWidth q := by
  have value := ((toSigned_modEq (laneWidth q) x).mul (toSigned_modEq (laneWidth q) y)).add (toSigned_modEq (laneWidth q) z)
  unfold laneFma
  rw [h]
  exact wrapBits_modEq (by push_cast; exact value)

theorem laneOp_int_add (ff : Val → Val → Val) : laneOp q ff (· + ·) x y = (x + y) % 2 ^ laneWidth q := by
  rw [laneOp_int h]
  exact wrapBits_modEq (by push_cast; exact (toSigned_modEq _ x).add (toSigned_modEq _ y))

theorem laneOp_int_sub (ff : Val → Val → Val) (hy : y < 2 ^ laneWidth q) :
    laneOp q ff (· - ·) x y = (x + 2 ^ laneWidth q - y) % 2 ^ laneWidth q := by
  have value := (toSigned_modEq (laneWidth q) x).sub (toSigned_modEq (laneWidth q) y)
  rw [laneOp_int h]
  refine wrapBits_modEq ?_
  rw [Nat.cast_sub (by omega)]
  push_cast
  rw [add_sub_right_comm]
  exact value.trans (Int.modEq_add_modulus_iff.mpr rfl)

theorem laneOp_int_mul (ff : Val → Val → Val) : laneOp q ff (· * ·) x y = x * y % 2 ^ laneWidth q := by
  rw [laneOp_int h]
  exact wrapBits_modEq (by push_cast; exact (toSigned_modEq _ x).mul (toSigned_modEq _ y))

section
variable (hx : x < 2 ^ laneWidth q) (hy : y < 2 ^ laneWidth q)
include hx hy

theorem laneOp_int_min (ff : Val → Val → Val) : laneOp q ff (fun x y => if x ≤ y then x else y) x y =
    if toSigned (laneWidth q) y < toSigned (laneWidth q) x then y else x := by
  rw [laneOp_int h, ite_le_eq_ite_lt Int.not_lt.symm, apply_ite (wrapBits _), wrapBits_toSigned hx, wrapBits_toSigned hy]

theorem laneOp_int_max (ff : Val → Val → Val) : laneOp q ff (fun x y => if x ≤ y then y else x) x y =
    if toSigned (laneWidth q) x < toSigned (laneWidth q) y then y else x := by
  rw [laneOp_int h, ite_le_eq_ite_lt_max, apply_ite (wrapBits _), wrapBits_toSigned hx, wrapBits_toSigned hy]

end

end

theorem laneFma_lt (h : q.val < 7) (x y z : Nat) : laneFma q x y z < 2 ^ laneWidth q := by
  rcases elemOf_cases h with ⟨f, hf, -⟩ | hi
  · rw [laneFma_flt hf]; exact encode_lt_lane hf _ _
  · rw [laneFma_int hi]; exact Nat.mod_lt _ (Nat.two_pow_pos _)

/-! ### Compares (R164) -/

theorem maskLane_lt (q : QType) (c : Bool) : maskLane q c < 2 ^ laneWidth q := by
  have := Nat.two_pow_pos (laneWidth q)
  unfold maskLane
  split <;> omega

/-- A mask lane is all ones where the lanes compare so. -/
theorem maskLane_cmp (q : QType) (o : Option Ordering) (c : Ordering) : maskLane q (o == some c) = if o = some c then 2 ^ laneWidth q - 1 else 0 :=
  if_congr beq_iff_eq rfl rfl

theorem laneCmp_flt (h : elemOf q = .flt f) : laneCmp q x y = (f.decode x).cmp (f.decode y) := by
  unfold laneCmp; rw [h]; rfl

theorem Val.cmp_ofInt (i j : Int) : (Val.ofInt i).cmp (Val.ofInt j) = some (compare i j) := by
  have signed : ∀ i : Int, signedMant (decide (i < 0)) (i.natAbs * 2 ^ (0 - Min.min (0 : Int) 0).toNat) = i := fun i => by
    unfold signedMant
    simp only [decide_eq_true_eq, min_self, Int.sub_self, Int.toNat_zero, Nat.pow_zero, Nat.mul_one]
    split <;> omega
  show some (compare (signedMant _ _) (signedMant _ _)) = _
  rw [signed, signed]

section
variable (h : elemOf q = .int (laneWidth q))
include h

theorem laneCmp_int : laneCmp q x y = some (compare (toSigned (laneWidth q) x) (toSigned (laneWidth q) y)) := by
  unfold laneCmp
  rw [h]
  exact Val.cmp_ofInt _ _

theorem maskLane_int_eq (hx : x < 2 ^ laneWidth q) (hy : y < 2 ^ laneWidth q) :
    maskLane q (laneCmp q x y == some .eq) = if x = y then 2 ^ laneWidth q - 1 else 0 := by
  rw [maskLane_cmp, laneCmp_int h]
  exact if_congr (by rw [Option.some_inj, compare_eq_iff_eq, toSigned_inj hx hy]) rfl rfl

theorem maskLane_int_lt : maskLane q (laneCmp q x y == some .lt) =
    if toSigned (laneWidth q) x < toSigned (laneWidth q) y then 2 ^ laneWidth q - 1 else 0 := by
  rw [maskLane_cmp, laneCmp_int h]
  exact if_congr (by rw [Option.some_inj, compare_lt_iff_lt]) rfl rfl

end

end

/-! ### The lanes of a format -/

section
variable {s : State} {d a b : VReg} {q : QType} {fmt : Fmt} (hc : s.clear [] [] [a, b] [d] = true) (hf : elemOf q = .flt fmt)
include hc hf

theorem lanewise_flt (ff : Val → Val → Val) (fi : Int → Int → Int) : GivesLanes (runBundle (lanewise (q != 7) q (laneOp q ff fi) d a b) s) s d q
    (fun j => fmt.encode .rne (ff (fmt.decode (laneAt (laneWidth q) s.me.v[a.val] j)) (fmt.decode (laneAt (laneWidth q) s.me.v[b.val] j)))) :=
  lanewise_gives hc (bne_q4 (elemOf_flt_lt hf)) (laneOp_lt (elemOf_flt_lt hf) ff fi) fun _ => laneOp_flt hf ff fi

theorem compares_flt (c : Ordering) : GivesLanes (runBundle (lanewise (q != 7) q (fun x y => maskLane q (laneCmp q x y == some c)) d a b) s) s d q
    (fun j => if (fmt.decode (laneAt (laneWidth q) s.me.v[a.val] j)).cmp (fmt.decode (laneAt (laneWidth q) s.me.v[b.val] j)) = some c
      then 2 ^ laneWidth q - 1 else 0) :=
  lanewise_gives hc (bne_q4 (elemOf_flt_lt hf)) (fun _ _ => maskLane_lt q _) fun _ => by rw [maskLane_cmp, laneCmp_flt hf]

end

/-- Settles O6: every lane instruction by `lanewise_gives` or `lanewise3_gives` with the equation of its lane function, and the refused types by
their first check. -/
theorem vectorLaneResults : Obligations.VectorLaneResults := by
  intro s d a b q w x y z int gives bad
  have lt : ∀ v j, laneAt w v j < 2 ^ w := laneAt_lt w
  have signed : ∀ n, toSigned w n = int n := toSigned_eq_toInt (laneWidth_pos q)
  refine ⟨fun hc => ⟨bitwise_answers hc _, bitwise_answers hc _, bitwise_answers hc _⟩,
    fun fmt hc hf => ⟨lanewise_flt hc hf Val.add _, lanewise_flt hc hf Val.sub _, lanewise_flt hc hf Val.mul _, lanewise_flt hc hf Val.min _,
      lanewise_flt hc hf Val.max _, compares_flt hc hf .eq, compares_flt hc hf .lt⟩,
    fun hc h4 h7 => ?_, fun hc h7 => ?_, fun hq => ?_, fun hq => ⟨lanewise_traps (isInt_refuses hq), lanewise_traps (isInt_refuses hq)⟩⟩
  · have hi : elemOf q = .int w := elemOf_int h4 h7
    have two : ∀ {ok : Bool} {f : Nat → Nat → Nat} {g : Nat → Nat}, ok = true → (∀ x y, f x y < 2 ^ w) → (∀ j, f (x j) (y j) = g j) →
        GivesLanes (runBundle (lanewise ok q f d a b) s) s d q g := lanewise_gives hc
    have any := bne_q4 h7
    have ints := (isInt_iff q).mpr ⟨h4, h7⟩
    refine ⟨two any (laneOp_lt h7 _ _) fun _ => laneOp_int_add hi _, two any (laneOp_lt h7 _ _) fun _ => laneOp_int_sub hi _ (lt _ _),
      two any (laneOp_lt h7 _ _) fun _ => laneOp_int_mul hi _, two any (laneOp_lt h7 _ _) fun _ => ?_, two any (laneOp_lt h7 _ _) fun _ => ?_,
      two ints (fun _ _ => Nat.mod_lt _ (Nat.two_pow_pos w)) fun _ => rfl, two ints (fun _ _ => wrapBits_lt w _) fun _ => ?_,
      two any (fun _ _ => maskLane_lt q _) fun _ => maskLane_int_eq hi (lt _ _) (lt _ _), two any (fun _ _ => maskLane_lt q _) fun _ => ?_⟩
    · rw [laneOp_int_min hi (lt _ _) (lt _ _), signed, signed]
    · rw [laneOp_int_max hi (lt _ _) (lt _ _), signed, signed]
    · rw [← signed]; rfl
    · rw [maskLane_int_lt hi, signed, signed]
  · have three : ∀ {f : Nat → Nat → Nat → Nat} {g : Nat → Nat}, (∀ x y z, x < 2 ^ w → y < 2 ^ w → f x y z < 2 ^ w) →
        (∀ j, f (x j) (y j) (z j) = g j) → GivesLanes (runBundle (lanewise3 (q != 7) q f d a b) s) s d q g := lanewise3_gives hc (bne_q4 h7)
    refine ⟨three (fun x y z hx hy => ?_) fun _ => ite_not .., fun h4 => three (fun x y z _ _ => laneFma_lt h7 x y z) fun _ =>
      laneFma_int (elemOf_int h4 h7), fun fmt hf => three (fun x y z _ _ => laneFma_lt h7 x y z) fun _ => laneFma_flt hf⟩
    split
    exacts [hx, hy]
  · have refused : (q != 7) = false := by rw [hq]; rfl
    have two : ∀ {f : Nat → Nat → Nat}, runBundle (lanewise (q != 7) q f d a b) s = .next (s.trapped (s.me.withDetail { cls := 0, detail := 19 })) :=
      lanewise_traps refused
    exact ⟨two, two, two, lanewise3_traps refused, two, two, two, two, lanewise3_traps refused⟩

end Sys2Proof.Machine
end

section
/-! LEMMAS for O7. Lane moves, counts, scaling and the correctly rounded functions (R163, R165, R170, R171). -/

namespace Sys2Proof.Machine

/-! ### A general and a vector operand (R15, R62) -/

section
variable {s t : State} {g : GReg} {u : Word} {ws : List GReg} {vr vw : List VReg} (hc : s.clear [g] ws vr vw = true) (hr : s.Reads [g] [u] t)
include hc hr

/-- A bundle of a general operand, up to what it does with the word. -/
theorem issue_readG_vectors (f : Word → M Unit) : (issue [g] ws vr vw >>= fun _ => readG g >>= f) s = f u t := by
  obtain ⟨v, read, rest, -⟩ := State.readG_run (State.clear_pend hc (.inl (List.mem_singleton.mpr rfl))) hr
  obtain rfl : t = v := rest
  rw [M.bind_ok (issue_run hc hr), M.bind_ok read]

/-- A vector operand after a general one. -/
theorem readV_reads {a : VReg} (ha : a ∈ vr) : readV a t = .ok (s.me.v[a.val], t) := by
  obtain ⟨_, _, _, _, popped⟩ := hr.pops.me
  rw [readV_free (by rw [popped]; exact State.clear_pendV hc (.inl ha)), popped]

theorem writeV_reads {d : VReg} (hd : d ∈ vw) (r : VWord) : writeV d r t = .ok ((), t.wroteV d r) :=
  writeV_free (by rw [hr.pops.pend]; exact State.clear_pendV hc (.inr hd)) r

end

/-! ### Moves of lanes (R165, R170) -/

section
variable {s t : State} {d a b : VReg} {g : GReg} {k : Nat} {q : QType} {u : Word}

/-- A lane of vperm's group of 256 is one of the register's (R170). -/
theorem perm_lt (h : q.val < 7) {j : Nat} (hj : j < laneCount q) (y : Nat) : 256 * (j / 256) + y % min (laneCount q) 256 < laneCount q := by
  have counts : laneCount q = 128 ∨ laneCount q = 256 ∨ laneCount q = 512 := by
    clear hj
    revert q
    decide
  have small : y % min (laneCount q) 256 < min (laneCount q) 256 := Nat.mod_lt _ (by omega)
  omega

theorem vperm_gives (hc : s.clear [] [] [a, b] [d] = true) (h : q.val < 7) : GivesLanes (exec (.vperm d a b q) s) s d q fun j =>
    laneAt (laneWidth q) s.me.v[a.val] (256 * (j / 256) + laneAt (laneWidth q) s.me.v[b.val] j % min (laneCount q) 256) := by
  refine lanes_given ((require_passes (bne_q4 h)).trans ((issue_readV_two hc _).trans ?_)) (fun _ => laneAt_lt ..)
    fun j hj => getD_lanesOf _ (perm_lt h hj _)
  rw [lanesOf_laneWidth q s.me.v[b.val], zip_map_range, List.map_map]
  exact writeV_clear hc (List.mem_singleton.mpr rfl) _

theorem Val.ofInt_natCast (n : Nat) : Val.ofInt n = .fin false n 0 := by
  simp [Val.ofInt]

/-- viota gives each lane its number, as an integer or as a value of the format. -/
theorem viota_gives {f : Nat → Nat} (hc : s.clear [] [] [] [d] = true) (h : q.val < 7)
    (hf : ∀ j, (elemOf q = .int (laneWidth q) ∧ f j = j % 2 ^ laneWidth q) ∨ ∃ fmt, elemOf q = .flt fmt ∧ f j = fmt.encode .rne (.fin false j 0)) :
    GivesLanes (exec (.viota d q) s) s d q f := by
  refine lanes_given ((require_passes (bne_q4 h)).trans ((M.bind_ok (issue_noReads hc)).trans
    (writeV_clear hc (List.mem_singleton.mpr rfl) _))) (fun j => ?_) fun j _ => ?_
  · rcases hf j with ⟨-, hj⟩ | ⟨fmt, he, hj⟩
    · rw [hj]; exact Nat.mod_lt _ (Nat.two_pow_pos _)
    · rw [hj]; exact encode_lt_lane he _ _
  · rcases hf j with ⟨he, hj⟩ | ⟨fmt, he, hj⟩
    · rw [hj]; simp only [he]
    · rw [hj, ← Val.ofInt_natCast]; simp only [he]

theorem vbcast_gives (hc : s.clear [g] [] [] [d] = true) (hr : s.Reads [g] [u] t) (h : q.val < 7) :
    GivesLanes (exec (.vbcast d g q) s) t d q fun _ => u.toNat % 2 ^ laneWidth q := by
  refine ⟨_, runBundle_ok ((require_passes (bne_q4 h)).trans ((issue_readG_vectors hc hr _).trans
    (writeV_reads hc hr (List.mem_singleton.mpr rfl) _))), fun j hj => (laneAt_ofLanes (lane_fits hj) _).trans ?_⟩
  rw [List.getD_eq_getElem?_getD, List.getElem?_replicate, if_pos hj]
  rfl

theorem vins_gives (hc : s.clear [g] [] [d] [d] = true) (hr : s.Reads [g] [u] t) (hk : k < laneCount q) :
    GivesLanes (exec (.vins d g k q) s) t d q fun j => if j = k then u.toNat % 2 ^ laneWidth q else laneAt (laneWidth q) s.me.v[d.val] j := by
  refine ⟨_, runBundle_ok ((require_passes (decide_eq_true hk)).trans ((issue_readG_vectors hc hr _).trans
    ((M.bind_ok (readV_reads hc hr (List.mem_singleton.mpr rfl))).trans (writeV_reads hc hr (List.mem_singleton.mpr rfl) _)))),
    fun j hj => (laneAt_ofLanes (lane_fits hj) _).trans ?_⟩
  have len : (lanesOf (laneWidth q) s.me.v[d.val]).length = laneCount q := by rw [lanesOf_laneWidth, List.length_map, List.length_range]
  rw [List.getD_eq_getElem?_getD, List.getElem?_set]
  beta_reduce
  by_cases h : k = j
  · rw [if_pos h, if_pos h.symm, if_pos (len ▸ hk)]
    rfl
  · rw [if_neg h, if_neg (Ne.symm h), ← List.getD_eq_getElem?_getD, getD_lanesOf _ hj, Nat.mod_eq_of_lt (laneAt_lt ..)]

theorem vext_answers (hc : s.clear [] [g] [a] [] = true) (hk : k < laneCount q) : exec (.vext g a k q) s = .next (s.put g
    (if 4 ≤ q.val ∧ q.val < 7 then (BitVec.ofNat (laneWidth q) (laneAt (laneWidth q) s.me.v[a.val] k)).signExtend 64
      else BitVec.ofNat 64 (laneAt (laneWidth q) s.me.v[a.val] k))).done := by
  refine runBundle_ok ((require_passes (decide_eq_true hk)).trans ((issue_readV_one hc _).trans ?_))
  rw [getD_lanesOf _ hk, ofInt_toSigned (laneWidth_pos q), if_congr (isInt_iff q) rfl rfl]
  exact writeG_run (State.clear_pend hc (.inr (List.mem_singleton.mpr rfl))) _

/-- A lane that the register does not have (R170). -/
theorem lane_traps (hk : laneCount q ≤ k) : exec (.vext g a k q) s = .next (s.trapped (s.me.withDetail { cls := 0, detail := 9 })) ∧
    exec (.vins d g k q) s = .next (s.trapped (s.me.withDetail { cls := 0, detail := 9 })) := by
  have refused : decide (k < laneCount q) = false := decide_eq_false (Nat.not_lt.mpr hk)
  exact ⟨require_traps refused, require_traps refused⟩

theorem vmcnt_answers (hc : s.clear [] [g] [a] [] = true) (h : q.val < 7) : exec (.vmcnt g a q) s = .next (s.put g
    (BitVec.ofNat 64 ((List.range (laneCount q)).countP (fun j => laneAt (laneWidth q) s.me.v[a.val] j != 0)))).done := by
  refine runBundle_ok ((require_passes (bne_q4 h)).trans ((issue_readV_one hc _).trans ?_))
  rw [← List.countP_eq_length_filter, lanesOf_eq, List.countP_map]
  exact writeG_run (State.clear_pend hc (.inr (List.mem_singleton.mpr rfl))) _

/-! ### Correctly rounded functions and scaling (R163, R171) -/

section
variable {fmt : Fmt} (hf : elemOf q = .flt fmt)
include hf

theorem laneFn_flt (f : Val → Val) (x : Nat) : laneFn q f x = fmt.encode .rne (f (fmt.decode x)) := by
  unfold laneFn; rw [hf]

theorem lanewise1_flt (hc : s.clear [] [] [a] [d] = true) (hq : q.val < 2) (f : Val → Val) :
    GivesLanes (runBundle (lanewise1 (decide (q.val < 2)) q (laneFn q f) d a) s) s d q
      fun j => fmt.encode .rne (f (fmt.decode (laneAt (laneWidth q) s.me.v[a.val] j))) :=
  lanewise1_gives hc (decide_eq_true hq) (fun _ => laneFn_flt hf f _ ▸ encode_lt_lane hf _ _) fun _ => laneFn_flt hf f _

theorem vscal_gives (hc : s.clear [g] [] [a] [d] = true) (hr : s.Reads [g] [u] t) : GivesLanes (exec (.vscal d a g q) s) t d q
    fun j => fmt.encode .rne ((fmt.decode (laneAt (laneWidth q) s.me.v[a.val] j)).scale u.toInt) := by
  have float : isFloat q = true := decide_eq_true (elemOf_flt hf).1
  refine lanes_given ((require_passes float).trans ((issue_readG_vectors hc hr _).trans
    ((M.bind_ok (readV_reads hc hr (List.mem_singleton.mpr rfl))).trans ?_))) (fun _ => encode_lt_lane hf _ _) fun j _ => laneFn_flt hf _ _
  rw [lanesOf_eq, List.map_map]
  exact writeV_reads hc hr (List.mem_singleton.mpr rfl) _

end

/-! ### vmov of a q4 pair (R22, R170) -/

theorem testBit_low_replaced (k x y i : Nat) : (x / 2 ^ k * 2 ^ k + y % 2 ^ k).testBit i = if i < k then y.testBit i else x.testBit i := by
  rw [Nat.mul_comm, Nat.testBit_two_pow_mul_add _ (Nat.mod_lt _ (Nat.two_pow_pos k)), Nat.testBit_mod_two_pow, Nat.testBit_div_two_pow]
  split
  · simp [*]
  · rw [Nat.sub_add_cancel (by omega)]

/-- The scale bytes of a pair are replaced, and the register's other bits stay. -/
theorem withScales_getLsbD (old new : VWord) {i : Nat} (hi : i < 4096) :
    (withScales old new).getLsbD i = if i < 256 then new.getLsbD i else old.getLsbD i := by
  rw [withScales, BitVec.getLsbD_ofNat, decide_eq_true hi, Bool.true_and, testBit_low_replaced]
  rfl

theorem bne_last {r : VReg} (h : r.val < 31) : (r != 31) = true := by
  revert r; decide

theorem vmov_pair (hd : d.val < 31) (ha : a.val < 31) (hc : s.clear [] [] [a, a + 1] [d, d + 1] = true) :
    exec (.vmov d a 7) s = .next ((s.wroteV d s.me.v[a.val]).wroteV (d + 1)
      (withScales (s.wroteV d s.me.v[a.val]).me.v[(d + 1).val] s.me.v[(a + 1).val])).done := by
  refine runBundle_ok ((require_passes (by rw [bne_last hd, bne_last ha]; rfl)).trans ?_)
  rw [M.bind_ok (show issue [] [] (if (7 : QType) = 7 then [a, a + 1] else [a]) (if (7 : QType) = 7 then [d, d + 1] else [d]) s = .ok ((), s) from
    issue_noReads hc), M.bind_ok (readV_clear hc (by simp)), if_pos rfl, M.bind_ok (readV_clear hc (by simp)),
    M.bind_ok (writeV_clear hc (by simp) _), M.bind_ok (M.getMe_run _)]
  exact writeV_free (by rw [State.wroteV_pend]; exact State.clear_pendV hc (.inr (by simp))) _

end

/-- Settles O7: each move by its lemma above, the correctly rounded functions by `lanewise1_flt`. -/
theorem vectorMoveResults : Obligations.VectorMoveResults := by
  intro s t d a b g k q u w n x y gives
  refine ⟨fun hc h7 => ?_, fun hq hd ha hc => ?_, vbcast_gives, vins_gives, vext_answers, lane_traps, vmcnt_answers,
    fun fmt hc hr hf => vscal_gives hf hc hr⟩
  · have one : s.clear [] [] [a] [d] = true := State.clear_vectors hc (by simp)
    have none : s.clear [] [] [] [d] = true := State.clear_vectors hc (by simp)
    have moved := vmov_run h7 (issue_noReads one) (readV_clear one (List.mem_singleton.mpr rfl)) (writeV_clear one (List.mem_singleton.mpr rfl) _)
    exact ⟨vperm_gives hc h7, fun h4 => viota_gives none h7 fun j => .inl ⟨elemOf_int h4 h7, rfl⟩,
      fun fmt hf => viota_gives none h7 fun j => .inr ⟨fmt, hf, rfl⟩, moved,
      fun fmt hq hf => ⟨lanewise1_flt hf one hq Val.recip, lanewise1_flt hf one hq Val.rsqrt, lanewise1_flt hf one hq Val.exp2⟩⟩
  · subst hq
    exact ⟨_, vmov_pair hd ha hc, fun i hi => withScales_getLsbD _ _ hi⟩

end Sys2Proof.Machine
end

section
/-! LEMMAS for O8. Reductions, conversions, packing and unpacking (R115, R166 to R169). -/

namespace Sys2Proof.Machine

/-! ### q4 pairs (R22, R110) -/

/-- The values of a pair's elements, by their numbers. -/
theorem pairValues_eq (codes scales : VWord) : pairValues codes scales =
    (List.range 1024).map (fun j => codeValue (laneAt 8 scales (j / 32)) (laneAt 4 codes j)) := by
  have pairs : pairValues codes scales =
      ((lanesOf 4 codes).zip (List.range 1024)).map (fun p => codeValue (((lanesOf 8 scales).take 32).getD (p.2 / 32) 0) p.1) := rfl
  rw [pairs, lanesOf_eq 4, show 4096 / 4 = 1024 from rfl, zip_map_range, List.map_map]
  refine List.map_congr_left fun j hj => ?_
  rw [Function.comp_apply]
  have block : j / 32 < 32 := by have := List.mem_range.mp hj; omega
  rw [List.getD_eq_getElem?_getD, List.getElem?_take_of_lt block, ← List.getD_eq_getElem?_getD, getD_lanesOf _ (by omega)]

/-! ### Reductions (R115, R169) -/

section
variable {s : State} {d a : VReg} {g : GReg} {q : QType} {ff : Val → Val → Val} {fi : Int → Int → Int}

theorem reduce_int (hc : s.clear [] [g] [a] [] = true) (h4 : 4 ≤ q.val) (h7 : q.val < 7) : runBundle (reduce ff fi g a q) s = .next (s.put g
    (BitVec.ofInt 64 (treeReduce fi 0 12 ((List.range (laneCount q)).map fun j =>
      (BitVec.ofNat (laneWidth q) (laneAt (laneWidth q) s.me.v[a.val] j)).toInt)))).done := by
  have q4 : q ≠ 7 := bne_iff_ne.mp (bne_q4 h7)
  have signed : toSigned (laneWidth q) = fun n => (BitVec.ofNat (laneWidth q) n).toInt := funext (toSigned_eq_toInt (laneWidth_pos q))
  unfold reduce
  rw [if_neg q4, bne_q4 h7, Bool.true_or]
  refine runBundle_ok ((require_passes rfl).trans ((issue_readV_one hc _).trans ?_))
  simp only [elemOf_int h4 h7]
  rw [lanesOf_eq, List.map_map, signed]
  exact writeG_run (State.clear_pend hc (.inr (List.mem_singleton.mpr rfl))) _

theorem reduce_flt {fmt : Fmt} (hc : s.clear [] [g] [a] [] = true) (hf : elemOf q = .flt fmt) : runBundle (reduce ff fi g a q) s = .next (s.put g
    (BitVec.ofNat 64 (Fmt.f32.encode .rne (treeReduce ff .nan 12 ((List.range (laneCount q)).map fun j =>
      fmt.decode (laneAt (laneWidth q) s.me.v[a.val] j)))))).done := by
  have h7 := elemOf_flt_lt hf
  have q4 : q ≠ 7 := bne_iff_ne.mp (bne_q4 h7)
  unfold reduce
  rw [if_neg q4, bne_q4 h7, Bool.true_or]
  refine runBundle_ok ((require_passes rfl).trans ((issue_readV_one hc _).trans ?_))
  simp only [hf]
  rw [(elemOf_flt hf).2, lanesOf_eq, List.map_map]
  exact writeG_run (State.clear_pend hc (.inr (List.mem_singleton.mpr rfl))) _

theorem reduce_q4 (hc : s.clear [] [g] [a, a + 1] [] = true) (ha : a.val < 31) : runBundle (reduce ff fi g a 7) s = .next (s.put g
    (BitVec.ofNat 64 (Fmt.f32.encode .rne (treeReduce ff .nan 12 (pairValues s.me.v[a.val] s.me.v[(a + 1).val]))))).done := by
  unfold reduce
  rw [if_pos rfl, bne_last ha, Bool.or_true]
  refine runBundle_ok ((require_passes rfl).trans ((M.bind_ok (issue_noReads hc)).trans
    ((M.bind_ok (readV_clear hc (by simp))).trans ((M.bind_ok (readV_clear hc (by simp))).trans ?_))))
  exact writeG_run (State.clear_pend hc (.inr (List.mem_singleton.mpr rfl))) _

theorem reduce_traps (h : (q != 7 || a != 31) = false) :
    runBundle (reduce ff fi g a q) s = .next (s.trapped (s.me.withDetail { cls := 0, detail := 13 })) := by
  unfold reduce
  exact require_traps h

/-! ### Conversions (R106, R166) -/

theorem ofVal_lt (h : q.val < 7) (rm : Rounding) (v : Val) : (elemOf q).ofVal rm v < 2 ^ laneWidth q := by
  rcases elemOf_cases h with ⟨f, hf, -⟩ | hi
  · rw [hf]; exact encode_lt_lane hf rm v
  · rw [hi]; exact wrapBits_lt _ _

theorem vcvt_gives {code : Fin 8} (hc : s.clear [] [] [a] [d] = true) (h7 : q.val < 7) (hcode : code.val < 7) :
    GivesLanes (exec (.vcvt d a code q) s) s d q fun j =>
      if j < laneCount code then (elemOf q).ofVal .rne ((elemOf code).value (laneAt (laneWidth code) s.me.v[a.val] j)) else 0 := by
  have accepted : (q != 7 && code != 7) = true := by rw [bne_q4 h7, bne_q4 hcode]; rfl
  refine ⟨_, runBundle_ok ((require_passes accepted).trans ((issue_readV_one hc _).trans
    (writeV_clear hc (List.mem_singleton.mpr rfl) _))), fun j hj => (laneAt_ofLanes (lane_fits hj) _).trans ?_⟩
  rw [List.getD_eq_getElem?_getD, List.getElem?_map, List.getElem?_take_of_lt hj, lanesOf_laneWidth, List.getElem?_map]
  beta_reduce
  by_cases h : j < laneCount code
  · rw [if_pos h, List.getElem?_range h]
    exact Nat.mod_eq_of_lt (ofVal_lt h7 _ _)
  · rw [if_neg h, List.getElem?_eq_none (by rw [List.length_range]; exact Nat.not_lt.mp h)]
    rfl

end

/-! ### Results of a pair (R22, R61) -/

section
variable {s : State} {d : VReg}

theorem next_ne (d : VReg) : d ≠ d + 1 := by
  revert d; decide

theorem State.wroteV_v_same (s : State) (d : VReg) (r : VWord) : (s.wroteV d r).me.v[d.val] = r := by
  rw [State.wroteV, State.setMe_me]
  exact Vector.getElem_set_self ..

theorem State.wroteV_v_other (s : State) {d e : VReg} (h : e ≠ d) (r : VWord) : (s.wroteV d r).me.v[e.val] = s.me.v[e.val] := by
  rw [State.wroteV, State.setMe_me]
  exact Vector.getElem_set_ne d.isLt e.isLt fun hv => h (Fin.ext hv.symm)

theorem late_v_run (h : s.me.pend.any (fun p => p.writesV d) = false) (la : La) (r : VWord) :
    late la (.v d) 0 r s = .ok ((), s.laterV la d r) := by
  unfold late State.laterV
  rw [M.bind_ok (M.get_run s)]
  dsimp only
  rw [M.bind_ok (overwrite_none h)]
  split <;> rfl

/-- Scale bytes that go to a register at once, or when their window ends (R22, R61). -/
def State.laterScales (s : State) (la : La) (d : VReg) (r : VWord) : State :=
  if la = 0 then s.wroteV d (withScales s.me.v[d.val] r)
  else s.setMe { s.me with pend := s.me.pend ++ [⟨.scales d, 0, r, la.val + 1, s.me.pc, none⟩] }

theorem late_scales_run (h : s.me.pend.any (fun p => p.writesV d) = false) (la : La) (r : VWord) :
    late la (.scales d) 0 r s = .ok ((), s.laterScales la d r) := by
  unfold late State.laterScales
  rw [M.bind_ok (M.get_run s)]
  dsimp only
  rw [M.bind_ok (overwrite_none h)]
  split <;> rfl

theorem State.laterScales_laterV (s : State) (la : La) (d : VReg) (cs ss : VWord) :
    (s.laterV la d cs).laterScales la (d + 1) ss = s.laterPair la d cs ss := by
  unfold State.laterScales State.laterV State.laterPair
  split
  · rw [State.wroteV_v_other s (next_ne d).symm]
  · rw [State.setMe_setMe, State.setMe_me, List.append_assoc]
    rfl

/-- The codes and scales of a pair go to its two registers. -/
theorem late_pair_run (h : s.me.pend.any (fun p => p.writesV d) = false) (h' : s.me.pend.any (fun p => p.writesV (d + 1)) = false) (la : La)
    (cs ss : VWord) : (late la (.v d) 0 cs >>= fun _ => late la (.scales (d + 1)) 0 ss) s = .ok ((), s.laterPair la d cs ss) := by
  have free : (s.laterV la d cs).me.pend.any (fun p => p.writesV (d + 1)) = false := by
    unfold State.laterV
    split
    · rw [State.wroteV_pend, h']
    · rw [State.setMe_me, List.any_append, h']
      simp [Pending.writesV, next_ne d]
  rw [M.bind_ok (late_v_run h la cs), late_scales_run free, State.laterScales_laterV]

end

/-! ### Groups of registers (R157) -/

theorem M.mapM_ok {α β : Type} {f : α → M β} {g : α → β} {s : State} {xs : List α} (h : ∀ x ∈ xs, f x s = .ok (g x, s)) :
    xs.mapM f s = .ok (xs.map g, s) := by
  induction xs with
  | nil => rw [List.mapM_nil]; rfl
  | cons x xs ih =>
    rw [List.mapM_cons, M.bind_ok (h x (List.mem_cons_self ..)), M.bind_ok (ih fun y hy => h y (List.mem_cons_of_mem _ hy))]
    rfl

/-- The registers of a group. -/
def groupRegs (q : QType) (a : VReg) : List VReg := (List.range (groupSize q)).map (groupReg a)

/-- The values that a group of registers holds, register by register. -/
theorem group_values (q : QType) (v : Vector VWord 32) (rs : List VReg) :
    ((rs.map fun r => v[r.val]).flatMap (lanesOf (laneWidth q))).map (elemOf q).value =
      rs.flatMap fun r => (List.range (laneCount q)).map fun j => (elemOf q).value (laneAt (laneWidth q) v[r.val] j) := by
  rw [List.flatMap_map, List.map_flatMap]
  exact List.flatMap_congr fun r _ => by rw [lanesOf_laneWidth, List.map_map]; rfl

theorem groupFits_of {q : QType} {a : VReg} (h : a.val + 1024 / laneCount q ≤ 32) : groupFits q a = true := decide_eq_true h

/-! ### vpack4 (R111 to R114, R167) -/

theorem vpack4_run {s : State} {d a : VReg} {code : Fin 8} {q : QType} {la : La} (h7 : q.val < 7) (hd : d.val < 31)
    (ha : a.val + 1024 / laneCount q ≤ 32) (hc : s.clear [] [] (groupRegs q a) [d, d + 1] = true) {elems : List Val}
    (he : (((groupRegs q a).map fun r => s.me.v[r.val]).flatMap (lanesOf (laneWidth q))).map (elemOf q).value = elems) :
    let packed := packBlocks code.val (chunks 32 32 elems) s.me.rng
    exec (.vpack4 d a code q la) s =
      .next ((s.setMe { s.me with rng := packed.2.2 }).laterPair la d (ofLanes 4 packed.1) (ofLanes 8 packed.2.1)).done := by
  intro packed
  have free : ∀ r ∈ [d, d + 1], s.me.pend.any (fun p => p.writesV r) = false := fun r hr => State.clear_pendV hc (.inr hr)
  refine runBundle_ok ((require_passes (bne_q4 h7)).trans
    ((require_passes (by rw [bne_last hd, groupFits_of ha]; rfl)).trans ((M.bind_ok (issue_noReads hc)).trans
    ((M.bind_ok (M.mapM_ok fun r hr => readV_clear hc hr)).trans ((M.bind_ok (M.getMe_run s)).trans ?_)))))
  rw [he]
  refine (M.bind_ok (M.modifyMe_run _ s)).trans (late_pair_run ?_ ?_ la _ _)
  · rw [State.setMe_me]; exact free d (by simp)
  · rw [State.setMe_me]; exact free (d + 1) (by simp)

/-! ### vunpk4 (R168) -/

/-- A list cut into runs, by their numbers. -/
theorem chunks_eq {α : Type} {n : Nat} (hn : 0 < n) (k : Nat) {xs : List α} (h : n * k ≤ xs.length) :
    chunks n k xs = (List.range k).map (fun i => (xs.drop (n * i)).take n) := by
  induction k generalizing xs with
  | zero => rfl
  | succ k ih =>
    rw [Nat.mul_succ] at h
    have nonempty : xs.isEmpty = false := by
      cases xs with
      | nil => simp at h; omega
      | cons x xs => rfl
    rw [chunks, nonempty, if_neg Bool.false_ne_true, ih (by rw [List.length_drop]; omega), List.range_succ_eq_map, List.map_cons, List.map_map]
    congr 1
    refine List.map_congr_left fun i _ => ?_
    rw [List.drop_drop]
    show _ = (xs.drop (n * (i + 1))).take n
    rw [Nat.mul_succ, Nat.add_comm]

section
variable {s : State}

/-- The state once several vector registers have been written, in order. -/
def State.wroteVs (s : State) (ps : List (VReg × VWord)) : State := ps.foldl (fun s p => s.wroteV p.1 p.2) s

theorem State.wroteVs_v_other {ps : List (VReg × VWord)} {v : VReg} (h : v ∉ ps.map Prod.fst) : (s.wroteVs ps).me.v[v.val] = s.me.v[v.val] := by
  induction ps generalizing s with
  | nil => rfl
  | cons p ps ih =>
    rw [List.map_cons, List.mem_cons, not_or] at h
    exact (ih h.2).trans (State.wroteV_v_other s h.1 _)

theorem State.wroteVs_v_mem {ps : List (VReg × VWord)} {p : VReg × VWord} (hp : p ∈ ps) (nodup : (ps.map Prod.fst).Nodup) :
    (s.wroteVs ps).me.v[p.1.val] = p.2 := by
  induction ps generalizing s with
  | nil => exact absurd hp List.not_mem_nil
  | cons e ps ih =>
    rw [List.map_cons, List.nodup_cons] at nodup
    rcases List.mem_cons.mp hp with rfl | hp
    · exact (State.wroteVs_v_other nodup.1).trans (State.wroteV_v_same s ..)
    · exact ih hp nodup.2

theorem forM_writeV_run {α : Type} {r : α → VWord} {ps : List (VReg × α)} (h : ∀ p ∈ ps, s.me.pend.any (fun e => e.writesV p.1) = false) :
    (ps.forM fun p => writeV p.1 (r p.2)) s = .ok ((), s.wroteVs (ps.map fun p => (p.1, r p.2))) := by
  induction ps generalizing s with
  | nil => rfl
  | cons p ps ih =>
    refine (M.bind_ok (writeV_free (h p (List.mem_cons_self ..)) _)).trans (ih fun e he => ?_)
    rw [State.wroteV_pend]
    exact h e (List.mem_cons_of_mem _ he)

end

theorem groupRegs_nodup {q : QType} {d : VReg} (h : d.val + 1024 / laneCount q ≤ 32) : (groupRegs q d).Nodup := by
  refine List.Nodup.map_on (fun i hi j hj hij => ?_) List.nodup_range
  have size : groupSize q = 1024 / laneCount q := rfl
  rw [List.mem_range] at hi hj
  have same : (d.val + i) % 32 = (d.val + j) % 32 := congrArg Fin.val hij
  omega

/-- A lane of a register that vunpk4 writes (R168). -/
theorem unpacked_lane (q : QType) (h7 : q.val < 7) (codes scales : VWord) {i j : Nat} (hi : i < 1024 / laneCount q) (hj : j < laneCount q) :
    laneAt (laneWidth q) (ofLanes (laneWidth q) ((((pairValues codes scales).map ((elemOf q).ofVal .rne)).drop (laneCount q * i)).take
      (laneCount q))) j = (elemOf q).ofVal .rne (codeValue (laneAt 8 scales ((i * laneCount q + j) / 32)) (laneAt 4 codes (i * laneCount q + j))) := by
  have inside : i * laneCount q + j < 1024 := calc
    i * laneCount q + j < (i + 1) * laneCount q := by rw [Nat.succ_mul]; omega
    _ ≤ 1024 / laneCount q * laneCount q := Nat.mul_le_mul_right _ hi
    _ ≤ 1024 := Nat.div_mul_le_self ..
  rw [laneAt_ofLanes (lane_fits hj), pairValues_eq, List.map_map, List.getD_eq_getElem?_getD, List.getElem?_take_of_lt hj, List.getElem?_drop,
    Nat.mul_comm (laneCount q), List.getElem?_map, List.getElem?_range inside]
  exact Nat.mod_eq_of_lt (ofVal_lt h7 _ _)

theorem State.done_v (s : State) (v : VReg) : s.done.me.v[v.val] = s.me.v[v.val] := s.done_registers.2.1 v

/-- The registers that vunpk4 writes, each with its run of the pair's elements. -/
def unpacked (q : QType) (d : VReg) (codes scales : VWord) : List (VReg × VWord) := (List.range (groupSize q)).map fun i =>
  (groupReg d i, ofLanes (laneWidth q) ((((pairValues codes scales).map ((elemOf q).ofVal .rne)).drop (laneCount q * i)).take (laneCount q)))

theorem unpacked_registers (q : QType) (d : VReg) (codes scales : VWord) : (unpacked q d codes scales).map Prod.fst = groupRegs q d := by
  rw [unpacked, List.map_map]
  rfl

section
variable {s : State} {d a : VReg} {q : QType} (h7 : q.val < 7) (ha : a.val < 31) (hd : d.val + 1024 / laneCount q ≤ 32)
  (hc : s.clear [] [] [a, a + 1] (groupRegs q d) = true)
include h7 ha hd hc

theorem vunpk4_run : exec (.vunpk4 d a q) s = .next (s.wroteVs (unpacked q d s.me.v[a.val] s.me.v[(a + 1).val])).done := by
  refine runBundle_ok ((require_passes (bne_q4 h7)).trans
    ((require_passes (by rw [bne_last ha, groupFits_of hd]; rfl)).trans ((M.bind_ok (issue_noReads hc)).trans
    ((M.bind_ok (readV_clear hc (by simp))).trans ((M.bind_ok (readV_clear hc (by simp))).trans ?_)))))
  rw [chunks_eq (laneCount_pos q) _ (by rw [List.length_map, pairValues_eq, List.length_map, List.length_range]; exact Nat.mul_div_le 1024 _),
    List.zip_map']
  refine (forM_writeV_run fun p hp => ?_).trans (by rw [List.map_map]; rfl)
  obtain ⟨i, hi, rfl⟩ := List.mem_map.mp hp
  exact State.clear_pendV hc (.inr (List.mem_map_of_mem hi))

/-- vunpk4 gives the registers of its group the pair's elements in order, and leaves the others. -/
theorem vunpk4_gives : ∃ t : State, exec (.vunpk4 d a q) s = .next t ∧
    (∀ i j, i < 1024 / laneCount q → j < laneCount q → laneAt (laneWidth q) t.me.v[(groupReg d i).val] j = (elemOf q).ofVal .rne
      (codeValue (laneAt 8 s.me.v[(a + 1).val] ((i * laneCount q + j) / 32)) (laneAt 4 s.me.v[a.val] (i * laneCount q + j)))) ∧
    (∀ v : VReg, v ∉ groupRegs q d → t.me.v[v.val] = s.me.v[v.val]) := by
  refine ⟨_, vunpk4_run h7 ha hd hc, fun i j hi hj => ?_, fun v hv => ?_⟩
  · have written := s.wroteVs_v_mem (ps := unpacked q d s.me.v[a.val] s.me.v[(a + 1).val]) (List.mem_map_of_mem (List.mem_range.mpr hi))
      (unpacked_registers q d _ _ ▸ groupRegs_nodup hd)
    rw [State.done_v, written, unpacked_lane q h7 _ _ hi hj]
  · rw [State.done_v]
    exact State.wroteVs_v_other (unpacked_registers q d _ _ ▸ hv)

end

/-- Settles O8: the reductions by type, and the registers that conversions, packing and unpacking write, lane by lane. -/
theorem vectorConversionResults : Obligations.VectorConversionResults := by
  intro s d a g code q la w n group codes scales pair float rounded reduces
  have reduced : ∀ {i : Instr} {ff : Val → Val → Val} {fi fi' : Int → Int → Int}, s.clear [] [g] (if q = 7 then [a, a + 1] else [a]) [] = true →
      fi = fi' → exec i s = runBundle (reduce ff fi g a q) s → reduces i ff fi' := fun hc hfi hi => by
    subst hfi
    refine ⟨fun h4 h7 => hi.trans (reduce_int ?_ h4 h7), fun fmt hf => hi.trans (reduce_flt ?_ hf), fun hq ha => hi.trans ?_⟩
    · rwa [if_neg (bne_iff_ne.mp (bne_q4 h7))] at hc
    · rwa [if_neg (bne_iff_ne.mp (bne_q4 (elemOf_flt_lt hf)))] at hc
    · subst hq
      exact (reduce_q4 hc ha).trans (by rw [pairValues_eq])
  refine ⟨fun hc => ⟨reduced hc rfl rfl, reduced hc (funext fun x => funext (ite_le_eq_ite_lt_max x)) rfl,
    reduced hc (funext fun x => funext fun y => ite_le_eq_ite_lt Int.not_lt.symm x y) rfl⟩, vcvt_gives, fun h7 hd ha hc => ?_,
    vunpk4_gives, fun hq ha => ?_, fun h => require_traps ?_⟩
  · intro elems packed
    refine ⟨_, _, vpack4_run h7 hd ha hc (group_values q s.me.v _), fun j hj => ?_, fun j hj => ?_⟩
    · exact laneAt_ofLanes (by omega) _
    · exact laneAt_ofLanes (by omega) _
  · exact reduce_traps (by rw [hq, ha]; rfl)
  · rcases h with rfl | rfl
    · rfl
    · exact Bool.and_false _

end Sys2Proof.Machine
end

section
/-! REFUTATION of O20. A packet takes its sender's next number as it stands, and the number after it is cut to 24 bits (R276); the statement cuts
the packet's own number too, which differs where a sender's next number has more than 24 bits. No send leaves such a sender. -/

namespace Sys2Proof.Machine

/-- A context that may store to its own scratch, whose next number there has more than the 24 bits of R276. -/
def overnumbered : State := Tests.scratchy.setMe { Tests.scratchy.me with streams := [⟨0, .core 0, 2 ^ 24, false⟩] }

/-- The lanes of a run of four-byte lanes in its own scratch. -/
def scratchLanes : List (Word × Nat) := (List.range 128).map (fun i => (0x01FF000000000010 + BitVec.ofNat 64 (i * 4), 4))

/-- The state once those lanes are found. -/
def overnumberedFound : State := Tests.left (locateAll .store scratchLanes overnumbered)

/-- The locations of those lanes. -/
def scratchLocs : List (List Nat) := (List.range 128).map (fun i => run (bankLoc 0 0 + 0x10 + i * 4) 4)

/-- The number of the first packet that a step leaves. -/
def firstNumber (o : Host.Outcome State Fault Refusal) : Option Nat := match o with | .next t => t.packets.head?.map Packet.seq | _ => none

theorem overnumbered_sends : firstNumber (exec (.vst 3 7 0 4) overnumbered) = some (2 ^ 24) := by decide +kernel

theorem overnumbered_finds : locateAll .store scratchLanes overnumbered = .ok (scratchLocs, overnumberedFound) :=
  Tests.given_eq (by decide +kernel)

theorem overnumbered_unbroken (c : CoreId) : (overnumberedFound.me.sender 0 (.core c)).broken = false := by
  have streams : overnumberedFound.me.streams = [⟨0, .core 0, 2 ^ 24, false⟩] := by decide +kernel
  unfold Ctx.sender
  rw [streams, List.find?_singleton]
  split <;> rfl

/-- Refutes O20, at a context whose sender's next number is 2^24 (the statement ranges over every state): the first packet of a vst into its own
scratch has the number 2^24, and the statement has a number below 2^24. -/
theorem not_vectorMemoryResults : ¬ Obligations.VectorMemoryResults := by
  intro h
  obtain ⟨-, stores, -⟩ := h overnumbered overnumbered overnumberedFound 3 0 7 0 4 0 0 0x01FF000000000010 0 scratchLocs
  have clear : overnumbered.clear [7] [] [3] [] = true := by decide +kernel
  have reads : overnumbered.Reads [7] [0x01FF000000000010] overnumbered := (Tests.holds_reads (ws := []) (by decide +kernel)).2
  obtain ⟨v, ps, ran, packets, -, -, -, -, -, -, numbered, -⟩ := stores clear reads overnumbered_finds (Tests.free_unshared (by decide +kernel))
    (Tests.landed_of (by decide +kernel)) (by decide +kernel) (by decide +kernel) (by decide +kernel) overnumbered_unbroken
  have sends := overnumbered_sends
  rw [ran] at sends
  have head : (overnumbered.packets ++ ps).head?.map Packet.seq = some (2 ^ 24) := packets ▸ sends
  cases ps with
  | nil => exact absurd head (by decide +kernel)
  | cons p ps =>
    obtain ⟨-, -, -, -, seq⟩ := numbered 0 p rfl
    have first : p.seq = 2 ^ 24 := Option.some.inj head
    omega

end Sys2Proof.Machine
end

section
/-! SUPPORT. Commands of the array and of the index engine (R177 to R184, R192 to R196): what finding their operands keeps, and what their
acceptance leaves. -/

namespace Sys2Proof.Machine

/-! ### Finding a command's operands (R178, R181, R183, R186) -/

theorem awaitOwn_accesses (locs : List Nat) : (awaitOwn locs).Accesses := .readState fun _ => .await _ _

theorem locateAll_accesses (acc : Acc) (parts : List (Word × Nat)) : (locateAll acc parts).Accesses := by
  have each := underPins_accesses (f := fun p : Word × Nat => locate acc p.1 p.2) (fun p => locate_accesses acc p.1 p.2) parts
  exact each

theorem sourceLocs_accesses (parts : List (Word × Nat)) : (sourceLocs parts).Accesses :=
  .readState fun _ => .bind (locateAll_accesses _ _) fun _ => .bind (awaitOwn_accesses _) fun _ => .pure _

theorem destParts_accesses (parts : List (Word × Nat)) : (destParts parts).Accesses :=
  .bind (locateAll_accesses _ _) fun _ => .bind (awaitOwn_accesses _) fun _ => .pure _

theorem rowLocs_accesses (q : QType) (desc : MDesc) (rows : List Nat) : (rowLocs q desc rows).Accesses := by
  refine .bind (sourceLocs_accesses _) fun _ => ?_
  dsimp only
  split
  · exact .bind (sourceLocs_accesses _) fun _ => .pure _
  · exact .pure _

theorem loadList_accesses (ea : Word) (count n : Nat) : (loadList ea count n).Accesses := .bind (loadBytes_accesses _ _ _) fun _ => .pure _

theorem loadDesc_accesses (ea : Word) : (loadDesc ea).Accesses := by
  refine .bind (M.Keeps.require State.Accessed.refl _ _ _) fun _ => .bind (loadBytes_accesses _ _ _) fun _ => ?_
  split
  · exact .pure _
  · exact .raise _

theorem loadList_length {ea : Word} {count n : Nat} {s t : State} {list : List Nat} (h : loadList ea count n s = .ok (list, t)) :
    list.length = count := by
  obtain ⟨_, _, -, h⟩ := M.bind_inv h
  cases h
  rw [listOf, List.length_map, List.length_range]

/-- Rows that follow one another, or that a list names. -/
theorem rowNumbers_accesses (listed : Bool) (ea : Word) (count n : Nat) (rows : List Nat) :
    M.Accesses (if listed then loadList ea count n else pure rows) := by
  cases listed
  exacts [.pure _, loadList_accesses ea count n]

/-! ### A context that is ready to have its command accepted (R178) -/

/-- What acceptance goes by is as it was: the context, its identity and what it has pending, its core's jobs and formats, and the ridges; and
so are memory and the other contexts. -/
structure State.Readies (s t : State) : Prop where
  cur : t.cur = s.cur
  source : t.me.source = s.me.source
  pend : t.me.pend = s.me.pend
  core : ∃ tlb, t.myCore = { s.myCore with tlb := tlb }
  ridges : t.ridges = s.ridges
  mem : t.mem = s.mem
  others : s.keepsOthers t s.cur

theorem State.Readies.refl (s : State) : s.Readies s := ⟨rfl, rfl, rfl, ⟨_, rfl⟩, rfl, rfl, fun _ _ => rfl⟩

theorem State.Reads.readies {s t u : State} {rs : List GReg} {ws : List Word} (hr : s.Reads rs ws t) (ha : t.Accessed u) : s.Readies u := by
  obtain ⟨_, _, _, _, popped⟩ := hr.pops.me
  obtain ⟨_, _, _, _, _, accessed⟩ := ha.me
  obtain ⟨cur, mem, -, -, -, -, -, core⟩ := hr.accessed_homes ha
  exact ⟨cur, by rw [accessed, popped], by rw [accessed, popped], core, by rw [ha.rest, hr.pops.rest], mem,
    State.keepsOthers_trans hr.pops.others (hr.pops.cur ▸ ha.others)⟩

section
variable {s t : State} (h : s.Readies t)
include h

theorem State.Readies.myRidge : t.myRidge = s.myRidge := by rw [State.myRidge, h.cur]; rfl

theorem State.Readies.ridge (r : Nat) : t.ridge r = s.ridge r := by rw [State.ridge, h.ridges]; rfl

theorem State.Readies.myLease : t.myLease = s.myLease := by
  unfold State.myLease
  rw [h.myRidge, h.ridge, h.cur]

theorem State.Readies.jobNewest : t.myCore.jobNewest = s.myCore.jobNewest := by obtain ⟨_, e⟩ := h.core; rw [e]

theorem State.Readies.formats : t.myCore.ta = s.myCore.ta ∧ t.myCore.tb = s.myCore.tb := by
  obtain ⟨_, e⟩ := h.core
  rw [e]; exact ⟨rfl, rfl⟩

theorem State.Readies.setMe {x : Ctx} (source : x.source = t.me.source) (pend : x.pend = t.me.pend) : s.Readies (t.setMe x) where
  cur := h.cur
  source := by rw [State.setMe_me, source, h.source]
  pend := by rw [State.setMe_me, pend, h.pend]
  core := h.core
  ridges := h.ridges
  mem := h.mem
  others := State.keepsOthers_trans h.others (h.cur ▸ t.keepsOthers_setMe x)

/-- A command that a ready context has accepted is one that the context had accepted before it read its operands. -/
theorem State.Readies.accepted {z : State} {walk notify : Bool} {cmd : Cmd} {dests held : List Nat} (ha : t.accepted z walk notify cmd dests held) :
    s.accepted z walk notify cmd dests held := by
  unfold State.accepted at *
  rw [h.cur, h.source, h.jobNewest, h.myRidge, h.ridge, h.mem] at ha
  obtain ⟨cur, newest, status, walks, jobs, mem, others⟩ := ha
  exact ⟨cur, newest, status, walks, jobs, mem, State.keepsOthers_trans h.others others⟩

end

/-! ### Acceptance (R56, R178, R179, R220) -/

theorem jobStatus_newJob (kept : List JobStatus) (j : Nat) : jobStatus (newJob kept j) j = ⟨j, false, false, false⟩ := by
  simp [jobStatus, newJob]

theorem awaitLease_run {s : State} (h : s.myLease.isSome = true) : awaitLease s = .ok ((), s) := by
  unfold awaitLease
  rw [M.bind_ok (M.get_run s)]
  exact M.await_run h .lease s

theorem State.countLease_held {s : State} {l : Lease} (h : s.myLease = some l) : s.countLease =
    s.setRidge s.myRidge { s.ridge s.myRidge with lease := if l.left ≤ 1 then none else some { l with left := l.left - 1 } } := by
  rw [State.countLease, h]

theorem State.myLease_inv {s : State} {l : Lease} (h : s.myLease = some l) : (s.ridge s.myRidge).lease = some l := by
  unfold State.myLease at h
  split at h
  · rename_i e
    split at h
    · exact e.trans h
    · cases h
  · cases h

/-- The state with the core's next job issued (R179). -/
def State.issuesJob (s : State) : State :=
  s.setCore (coreOf s.cur) { s.myCore with jobNewest := s.myCore.jobNewest + 1, jobs := newJob s.myCore.jobs (s.myCore.jobNewest + 1).toNat }

/-- The state with a job last of the index engine's, or of the array's, whose commands count against the lease (R56, R178). -/
def State.queues (s : State) (walk : Bool) (job : Job) : State :=
  if walk then s.setRidge s.myRidge { s.ridge s.myRidge with walks := (s.ridge s.myRidge).walks ++ [job] }
  else (s.setRidge s.myRidge { s.ridge s.myRidge with jobs := (s.ridge s.myRidge).jobs ++ [job] }).countLease

theorem State.queues_walk (s : State) (job : Job) : s.queues true job =
    s.setRidge s.myRidge { s.ridge s.myRidge with walks := (s.ridge s.myRidge).walks ++ [job] } := rfl

theorem State.queues_array {s : State} {l : Lease} (h : s.myLease = some l) (job : Job) : s.queues false job =
    s.setRidge s.myRidge { s.ridge s.myRidge with
      jobs := (s.ridge s.myRidge).jobs ++ [job]
      lease := if l.left ≤ 1 then none else some { l with left := l.left - 1 } } := by
  let t := s.setRidge s.myRidge { s.ridge s.myRidge with jobs := (s.ridge s.myRidge).jobs ++ [job] }
  have ridge : t.ridge t.myRidge = { s.ridge s.myRidge with jobs := (s.ridge s.myRidge).jobs ++ [job] } := State.setRidge_ridge ..
  have lease : t.myLease = some l := by
    unfold State.myLease at *
    rw [ridge]
    exact h
  show t.countLease = _
  rw [State.countLease_held lease, ridge]
  exact State.setRidge_setRidge ..

/-- Queueing a job changes its ridge only. -/
theorem State.queues_eq {s : State} {walk : Bool} (lease : walk = false → s.myLease.isSome = true) (job : Job) :
    ∃ g, s.queues walk job = s.setRidge s.myRidge g := by
  cases walk
  · obtain ⟨l, hl⟩ := Option.isSome_iff_exists.mp (lease rfl)
    exact ⟨_, State.queues_array hl job⟩
  · exact ⟨_, State.queues_walk s job⟩

section
variable {s t : State} {walk : Bool} {d : GReg} (notify : Bool) (cmd : Cmd) (dests held : List Nat)

/-- The job that acceptance makes of the current context's command. -/
def State.nextJob (s : State) (notify : Bool) (cmd : Cmd) (dests held : List Nat) : Job :=
  ⟨s.cur, s.me.source, (s.myCore.jobNewest + 1).toNat, notify, cmd, linesOf dests ++ held⟩

theorem acceptJob_run : acceptJob walk (!walk) notify cmd dests held s =
    .ok ((s.myCore.jobNewest + 1).setWidth 64, s.issuesJob.queues walk (s.nextJob notify cmd dests held)) := by
  cases walk <;> rfl

theorem State.queues_accepted (lease : walk = false → s.myLease.isSome = true) :
    s.accepted (s.issuesJob.queues walk (s.nextJob notify cmd dests held)) walk notify cmd dests held := by
  obtain ⟨g, hg⟩ := State.queues_eq (s := s.issuesJob) lease (s.nextJob notify cmd dests held)
  have core : (s.issuesJob.queues walk (s.nextJob notify cmd dests held)).myCore = s.issuesJob.myCore := by rw [hg]; rfl
  have issued : s.issuesJob.myCore = { s.myCore with
      jobNewest := s.myCore.jobNewest + 1, jobs := newJob s.myCore.jobs (s.myCore.jobNewest + 1).toNat } := State.setCore_myCore ..
  refine ⟨by rw [hg]; rfl, by rw [core, issued], by rw [core, issued]; exact jobStatus_newJob .., fun hw => ?_, fun hw => ?_, by rw [hg]; rfl,
    fun _ _ => by rw [hg]; rfl⟩
  · subst hw
    have ridge := State.setRidge_ridge s.issuesJob s.myRidge { s.ridge s.myRidge with
      walks := (s.ridge s.myRidge).walks ++ [s.nextJob notify cmd dests held] }
    exact ⟨(congrArg Ridge.walks ridge).trans rfl, (congrArg Ridge.jobs ridge).trans rfl, (congrArg Ridge.lease ridge).trans rfl⟩
  · subst hw
    obtain ⟨l, hl⟩ := Option.isSome_iff_exists.mp (lease rfl)
    have ridge := (congrArg (fun u : State => u.ridge s.myRidge) (State.queues_array (s := s.issuesJob) hl (s.nextJob notify cmd dests held))).trans
      (State.setRidge_ridge s.issuesJob s.myRidge _)
    refine ⟨(congrArg Ridge.jobs ridge).trans rfl, (congrArg Ridge.walks ridge).trans rfl, fun l' hl' => (congrArg Ridge.lease ridge).trans ?_⟩
    obtain rfl : l' = l := Option.some.inj (hl'.symm.trans (State.myLease_inv hl))
    rfl

/-- The end of every command: a ready context has its command accepted and gets its job's id (R179). -/
theorem State.Readies.acceptJob (h : s.Readies t) (free : s.me.pend.any (fun p => p.writesG d) = false)
    (lease : walk = false → t.myLease.isSome = true) : ∃ z, s.accepted z walk notify cmd dests held ∧ z.me = t.me ∧
    (acceptJob walk (!walk) notify cmd dests held >>= writeG d) t = .ok ((), z.put d ((s.myCore.jobNewest + 1).setWidth 64)) := by
  have me : (t.issuesJob.queues walk (t.nextJob notify cmd dests held)).me = t.me := by
    obtain ⟨g, hg⟩ := State.queues_eq (s := t.issuesJob) lease (t.nextJob notify cmd dests held)
    rw [hg]; rfl
  refine ⟨_, h.accepted (State.queues_accepted notify cmd dests held lease), me, ?_⟩
  rw [M.bind_ok (acceptJob_run notify cmd dests held), h.jobNewest]
  exact writeG_run (by rw [me, h.pend]; exact free) _

end

/-! ### mzero (R194) -/

theorem mzero_accepts {s : State} {d : GReg} {k : Nat} (hc : s.clear [] [d] [] [] = true) (hk : k < 16) (lease : s.myLease.isSome = true) :
    ∃ z, s.accepted z false false (.zero k) [] [] ∧ exec (.mzero d k) s = .next (z.put d ((s.myCore.jobNewest + 1).setWidth 64)).done := by
  obtain ⟨z, ha, -, run⟩ := (State.Readies.refl s).acceptJob (walk := false) false (.zero k) [] [] (State.clear_pend hc (.inr (List.mem_singleton.mpr rfl)))
    fun _ => lease
  refine ⟨z, ha, runBundle_ok ((require_passes (decide_eq_true hk)).trans ?_)⟩
  rw [M.bind_ok (issue_noReads hc), M.bind_ok (awaitLease_run lease)]
  exact run

theorem mzero_waits {s : State} {d : GReg} {k : Nat} (hc : s.clear [] [d] [] [] = true) (hk : k < 16) (lease : s.myLease = none) :
    exec (.mzero d k) s = .next (s.noteStall .lease) := by
  refine runBundle_wait ((require_passes (decide_eq_true hk)).trans ?_)
  rw [M.bind_ok (issue_noReads hc)]
  exact M.bind_error (M.await_wait (by rw [lease]; rfl) .lease s)

/-! ### Operands of a command (R177, R185) -/

section
variable {s t : State} {d a b : GReg} {ea mod : Word} (hc : s.clear [a, b] [d] [] [] = true) (hr : s.Reads [a, b] [ea, mod] t)
include hc hr

/-- A command of the array reads its operands and holds the lease, up to what it does with them. -/
theorem leased_run (lease : t.myLease.isSome = true) (f : Word → Word → M Unit) :
    (issue [a, b] [d] [] [] >>= fun _ => readG a >>= fun x => readG b >>= fun y => awaitLease >>= fun _ => f x y) s = f ea mod t :=
  (issue_read_two hc hr _).trans (M.bind_ok (awaitLease_run lease))

/-- A ready context gets its job's id (R179), once its operands are found from the state that reading them leaves. -/
theorem State.Reads.acceptJob {w : State} {walk : Bool} (ha : t.Accessed w) (lease : walk = false → t.myLease.isSome = true) (notify : Bool)
    (cmd : Cmd) (dests held : List Nat) : ∃ z, s.accepted z walk notify cmd dests held ∧
    (Machine.acceptJob walk (!walk) notify cmd dests held >>= writeG d) w = .ok ((), z.put d ((s.myCore.jobNewest + 1).setWidth 64)) := by
  have ready := hr.readies ha
  obtain ⟨z, accepted, -, run⟩ := ready.acceptJob notify cmd dests held (State.clear_pend hc (.inr (List.mem_singleton.mpr rfl))) (walk := walk)
    fun hw => by rw [ready.myLease, ← (hr.readies (.refl t)).myLease]; exact lease hw
  exact ⟨z, accepted, run⟩

end

theorem typed_run {q : QType} (h : q ≠ 0 ∧ q ≠ 4 ∧ q ≠ 5) (s : State) : typed q s = .ok ((), s) := by
  obtain ⟨h0, h4, h5⟩ := h
  exact M.require_run (by simp [h0, h4, h5]) 0 19 s

/-! ### mbld, mbldg, mmul and mgath (R183, R184, R192, R193) -/

/-- A descriptor passes the checks of R183 for a type. -/
def MDesc.Fits (desc : MDesc) (q : QType) : Prop :=
  1 ≤ desc.kn ∧ desc.kn ≤ 114688 ∧ (q ≠ 7 → desc.scales = 0) ∧ (q = 7 → desc.kn % 32 = 0 ∧ desc.k0 % 32 = 0) ∧
  desc.row0 + desc.mm1 + 1 ≤ 512 ∧ desc.col0 + desc.nm1 + 1 ≤ 256 ∧ desc.k0 + desc.kn ≤ sliceCapacity q

theorem checkRange_run {q : QType} {desc : MDesc} (h : desc.Fits q) (s : State) : checkRange q desc s = .ok ((), s) := by
  obtain ⟨one, most, scales, blocks, rows, cols, capacity⟩ := h
  refine (require_passes (by simp [one, most])).trans ((require_passes ?_).trans ((require_passes ?_).trans
    ((require_passes (decide_eq_true rows)).trans (M.require_run (by simp [cols, capacity]) 4 2 s))))
  · simpa [or_iff_not_imp_left] using scales
  · simpa [or_iff_not_imp_left] using blocks

/-- The rows of a command, consecutive or listed, are found with their scale bytes, and nothing else uses them. -/
def FindsRows (listed : Bool) (count : Nat) (q : QType) (desc : MDesc) (u : State) (ls ss : List (List Nat)) (held : List Nat) (w : State) : Prop :=
  ∃ rows v, (if listed then loadList desc.list count 4 else pure (List.range count) : M (List Nat)) u = .ok (rows, v) ∧
    rowLocs q desc rows v = .ok ((ls, ss, held), w) ∧ w.unshared (ls.flatten ++ ss.flatten)

section
variable {s t u w : State} {d a b : GReg} {q : QType} {ea mod : Word} {desc : MDesc} {ls ss : List (List Nat)} {held : List Nat} {listed : Bool}

theorem FindsRows.accessed {count : Nat} (hw : FindsRows listed count q desc u ls ss held w) : u.Accessed w := by
  obtain ⟨rows, v, hrows, hlocs, -⟩ := hw
  exact (rowNumbers_accesses listed _ _ _ _ _ _ _ hrows).trans (rowLocs_accesses _ _ _ _ _ _ hlocs)

section
variable (hc : s.clear [a, b] [d] [] [] = true) (hr : s.Reads [a, b] [ea, mod] t) (hq : q ≠ 0 ∧ q ≠ 4 ∧ q ≠ 5)
  (lease : t.myLease.isSome = true)
include hc hr hq lease

theorem buildStep_run (htb : t.myCore.tb = q) (hd : loadDesc ea t = .ok (desc, u)) (hf : desc.Fits q) (hmod : mod &&& ~~~0x40#64 = 0)
    (hm : desc.mm1 = 0) (hrow : desc.row0 = 0) (hlist : listed = true ∨ desc.list = 0) (hw : FindsRows listed (desc.nm1 + 1) q desc u ls ss held w) :
    buildStep listed d a b q s = (acceptJob false true (mod.getLsbD 6) (.load ls ss q desc.col0 desc.k0) [] held >>= writeG d) w := by
  obtain ⟨rows, v, hrows, hlocs, free⟩ := hw
  refine (M.bind_ok (typed_run hq s)).trans ((leased_run hc hr lease _).trans ((M.bind_ok (M.get_run t)).trans
    ((require_passes (by simp [htb])).trans ((require_passes (decide_eq_true hmod)).trans ((M.bind_ok hd).trans
    ((require_passes ?_).trans ((M.bind_ok (checkRange_run hf u)).trans ((M.bind_ok hrows).trans ((M.bind_ok hlocs).trans
    (M.bind_ok (meet_unshared false free)))))))))))
  simpa [hm, hrow] using hlist

theorem multiplyStep_run (htb : t.myCore.tb = q) (hd : loadDesc ea t = .ok (desc, u)) (hf : desc.Fits q) (hmod : mod &&& ~~~0x7F#64 = 0)
    (hlist : listed = true ∨ desc.list = 0) (hw : FindsRows listed (desc.mm1 + 1) s.myCore.ta desc u ls ss held w) :
    multiplyStep listed d a b q s = (acceptJob false true (mod.getLsbD 6) (.multiply ls ss s.myCore.ta q (field mod 3 0) desc.row0 desc.col0
      (desc.nm1 + 1) desc.kn desc.k0 (mod.getLsbD 5) (mod.getLsbD 4)) [] held >>= writeG d) w := by
  rw [← hr.pops.myCore] at hw ⊢
  obtain ⟨rows, v, hrows, hlocs, free⟩ := hw
  subst htb
  exact (M.bind_ok (typed_run hq s)).trans ((leased_run hc hr lease _).trans ((M.bind_ok (M.get_run t)).trans
    ((require_passes (beq_self_eq_true _)).trans ((require_passes (decide_eq_true hmod)).trans ((M.bind_ok hd).trans
    ((require_passes (by simpa using hlist)).trans ((M.bind_ok (checkRange_run hf u)).trans ((M.bind_ok hrows).trans ((M.bind_ok hlocs).trans
    (M.bind_ok (meet_unshared false free)))))))))))

/-- A load of rows, consecutive or listed, is accepted. -/
theorem buildStep_accepts (htb : t.myCore.tb = q) (hd : loadDesc ea t = .ok (desc, u)) (hf : desc.Fits q) (hmod : mod &&& ~~~0x40#64 = 0)
    (hm : desc.mm1 = 0) (hrow : desc.row0 = 0) (hlist : listed = true ∨ desc.list = 0) (hw : FindsRows listed (desc.nm1 + 1) q desc u ls ss held w) :
    ∃ z, s.accepted z false (mod.getLsbD 6) (.load ls ss q desc.col0 desc.k0) [] held ∧
      runBundle (buildStep listed d a b q) s = .next (z.put d ((s.myCore.jobNewest + 1).setWidth 64)).done := by
  obtain ⟨z, accepted, run⟩ := hr.acceptJob hc ((loadDesc_accesses _ _ _ _ hd).trans hw.accessed) (walk := false) (fun _ => lease) _ _ _ _
  exact ⟨z, accepted, runBundle_ok ((buildStep_run hc hr hq lease htb hd hf hmod hm hrow hlist hw).trans run)⟩

/-- A multiply by rows, consecutive or listed, is accepted. -/
theorem multiplyStep_accepts (htb : t.myCore.tb = q) (hd : loadDesc ea t = .ok (desc, u)) (hf : desc.Fits q) (hmod : mod &&& ~~~0x7F#64 = 0)
    (hlist : listed = true ∨ desc.list = 0) (hw : FindsRows listed (desc.mm1 + 1) s.myCore.ta desc u ls ss held w) :
    ∃ z, s.accepted z false (mod.getLsbD 6) (.multiply ls ss s.myCore.ta q (field mod 3 0) desc.row0 desc.col0 (desc.nm1 + 1) desc.kn desc.k0
        (mod.getLsbD 5) (mod.getLsbD 4)) [] held ∧
      runBundle (multiplyStep listed d a b q) s = .next (z.put d ((s.myCore.jobNewest + 1).setWidth 64)).done := by
  obtain ⟨z, accepted, run⟩ := hr.acceptJob hc ((loadDesc_accesses _ _ _ _ hd).trans hw.accessed) (walk := false) (fun _ => lease) _ _ _ _
  exact ⟨z, accepted, runBundle_ok ((multiplyStep_run hc hr hq lease htb hd hf hmod hlist hw).trans run)⟩

/-- A load or multiply of another type than the format context's is refused (R185). -/
theorem typedCommand_traps (htb : t.myCore.tb ≠ q) (listed : Bool) :
    runBundle (buildStep listed d a b q) s = .next (s.trapped { cls := 4, detail := 1 }) ∧
    runBundle (multiplyStep listed d a b q) s = .next (s.trapped { cls := 4, detail := 1 }) := by
  have other : (t.myCore.tb == q) = false := beq_eq_false_iff_ne.mpr htb
  constructor <;>
  · refine runBundle_cause ((M.bind_ok (typed_run hq s)).trans ((leased_run hc hr lease _).trans ((M.bind_ok (M.get_run t)).trans ?_))) (by decide)
    exact M.bind_error (M.require_trap other 4 1 t)

end

end

/-! ### Modifiers (R184) -/

/-- A modifier without fields outside a mask has none outside a wider mask. -/
theorem modifier_widens {w m m' : Word} (h : w &&& ~~~m = 0) (wider : m &&& ~~~m' = 0) : w &&& ~~~m' = 0 := by
  have inside : w = w &&& m := by
    have split : w = (w &&& m) ||| (w &&& ~~~m) := by rw [← BitVec.and_or_distrib_left, BitVec.or_not_self, BitVec.and_allOnes]
    rw [h] at split
    exact split.trans BitVec.or_zero
  rw [inside, BitVec.and_assoc, wider]
  exact BitVec.and_zero

/-- A modifier without fields outside a mask has no bit outside it. -/
theorem modifier_bit {w m : Word} (h : w &&& ~~~m = 0) {i : Nat} (hi : i < 64) (hm : m.getLsbD i = false) : w.getLsbD i = false := by
  have bit : (w &&& ~~~m).getLsbD i = false := by rw [h]; exact BitVec.getLsbD_zero
  rw [BitVec.getLsbD_and, BitVec.getLsbD_not, hm] at bit
  simpa [hi] using bit

/-! ### mdrain (R105, R184, R195) -/

/-- The type that a drain converts to (R195). -/
def drainType (mod : Word) : QType := ⟨field mod 10 8 % 8, Nat.mod_lt _ (by decide)⟩

theorem drainType_valid {mod : Word} (h5 : field mod 10 8 ≠ 5) (h7 : field mod 10 8 ≠ 7) : (drainType mod != 5 && drainType mod != 7) = true := by
  have small : field mod 10 8 % 8 = field mod 10 8 := Nat.mod_mod ..
  rw [Bool.and_eq_true, bne_iff_ne, bne_iff_ne]
  exact ⟨fun h => h5 (small.symm.trans (congrArg Fin.val h)), fun h => h7 (small.symm.trans (congrArg Fin.val h))⟩

theorem drainElems_window_length (desc : MDesc) : (drainElems false desc []).length = (desc.mm1 + 1) * (desc.nm1 + 1) := by
  simp [drainElems, List.length_flatMap]

theorem drainElems_sampled_length (desc : MDesc) (list : List Nat) : (drainElems true desc list).length = list.length := List.length_map ..

theorem drainElems_window_inside {desc : MDesc} (rows : desc.row0 + desc.mm1 + 1 ≤ 512) (cols : desc.col0 + desc.nm1 + 1 ≤ 256) {e : Nat × Nat}
    (he : e ∈ drainElems false desc []) : e.1 < 512 ∧ e.2 < 256 := by
  obtain ⟨m, hm, he⟩ := List.mem_flatMap.mp he
  obtain ⟨n, hn, rfl⟩ := List.mem_map.mp he
  rw [List.mem_range] at hm hn
  exact ⟨by omega, by omega⟩

/-- A step that a condition asks for, before what follows it either way. -/
theorem M.when_run {p : Bool} {m : M Unit} {f : Unit → M Unit} {s t : State} (h : (if p then m s else .ok ((), s)) = .ok ((), t)) :
    (if p then m >>= f else f ()) s = f () t := by
  cases p
  · cases h; rfl
  · exact M.bind_ok h

/-- What a drain that rounds by chance takes of its context at acceptance: a number for each element (R105). -/
def State.draws (s : State) (sr : Bool) (elems : Nat) : State := if sr then s.setMe { s.me with rng := advanceBy elems s.me.rng } else s

/-- What a drain takes of its context at acceptance: its random numbers, and its places in MRES (R195). -/
def State.takesDrain (s : State) (sr port : Bool) (elems kn : Nat) : State :=
  if port then (s.draws sr elems).setMe { (s.draws sr elems).me with mresHeld := (s.draws sr elems).me.mresHeld + kn } else s.draws sr elems

section
variable {s w : State} (sr port : Bool) (elems kn : Nat)

theorem State.Readies.takesDrain (h : s.Readies w) : s.Readies (w.takesDrain sr port elems kn) := by
  have drawn : s.Readies (w.draws sr elems) := by
    unfold State.draws
    split
    exacts [h.setMe rfl rfl, h]
  unfold State.takesDrain
  split
  exacts [drawn.setMe rfl rfl, drawn]

theorem State.takesDrain_me : (w.takesDrain sr port elems kn).me = { w.me with
    rng := if sr then advanceBy elems w.me.rng else w.me.rng
    mresHeld := if port then w.me.mresHeld + kn else w.me.mresHeld } := by
  cases sr <;> cases port <;> simp [State.takesDrain, State.draws]

end

/-- Where a drain's elements go (R182, R195): to the port, to consecutive bytes, or to the rows of a window. -/
def drainDests (sampled port : Bool) (desc : MDesc) (size : Nat) : M (List (List Nat)) :=
  if port then pure []
  else if sampled then destParts [(desc.addr, desc.kn * size)]
  else destParts ((List.range (desc.mm1 + 1)).map (fun m => (desc.addr + BitVec.ofNat 64 m * desc.stride, (desc.nm1 + 1) * size)))

theorem drainDests_accesses (sampled port : Bool) (desc : MDesc) (size : Nat) : (drainDests sampled port desc size).Accesses := by
  cases port
  · cases sampled <;> exact destParts_accesses _
  · exact .pure _

/-- A drain's modifier and descriptor pass every check of R195, and its elements and where they go are found; its port has room. -/
structure FindsDrain (sampled port : Bool) (ea mod : Word) (t : State) (desc : MDesc) (list : List Nat) (ls : List (List Nat)) (w : State) : Prop where
  modifier : mod &&& ~~~0x3FCF#64 = 0
  sampledBit : mod.getLsbD 12 = sampled
  portBit : mod.getLsbD 11 = port
  portSampled : sampled = true ∨ port = false
  type : (drainType mod != 5 && drainType mod != 7) = true
  fields : drainZero sampled desc = true
  inside : ∀ e ∈ drainElems sampled desc list, e.1 < 512 ∧ e.2 < 256
  found : ∃ u v, loadDesc ea t = .ok (desc, u) ∧ (if sampled then loadList desc.list desc.kn 2 else pure [] : M (List Nat)) u = .ok (list, v) ∧
    drainDests sampled port desc (laneWidth (drainType mod) / 8) v = .ok (ls, w)
  meets : meet true ls.flatten w = .ok ((), w)
  room : port = true → desc.kn ≤ 64 ∧ w.me.mres.length + w.me.mresHeld + desc.kn ≤ 64

section
variable {s t w : State} {d a b : GReg} {ea mod : Word} {desc : MDesc} {list : List Nat} {ls : List (List Nat)} {sampled port : Bool}
  (hw : FindsDrain sampled port ea mod t desc list ls w)
include hw

theorem FindsDrain.accessed : t.Accessed w := by
  obtain ⟨u, v, desc, list, dests⟩ := hw.found
  exact ((loadDesc_accesses _ _ _ _ desc).trans (rowNumbers_accesses _ _ _ _ _ _ _ _ list)).trans (drainDests_accesses _ _ _ _ _ _ _ dests)

variable (hc : s.clear [a, b] [d] [] [] = true) (hr : s.Reads [a, b] [ea, mod] t) (lease : t.myLease.isSome = true)
include hc hr lease

/-- mdrain up to its acceptance. -/
theorem exec_mdrain : exec (.mdrain d a b) s = runBundle (fun _ => (acceptJob false true (mod.getLsbD 6)
      (.drain (field mod 3 0) (drainElems sampled desc list) ls.flatten (w.myCore.ta == 6 && w.myCore.tb == 6) (drainType mod) (mod.getLsbD 7) port
        (mod.getLsbD 13) w.me.rng) ls.flatten [] >>= writeG d)
    (w.takesDrain (mod.getLsbD 7) port (drainElems sampled desc list).length desc.kn)) s := by
  obtain ⟨u, v, hdesc, hlist, hdests⟩ := hw.found
  refine runBundle_congr ((leased_run hc hr lease _).trans ((require_passes (decide_eq_true hw.modifier)).trans ?_))
  rw [hw.sampledBit, hw.portBit]
  refine (require_passes ?_).trans ((M.bind_ok hdesc).trans ((require_passes ?_).trans ((M.bind_ok hlist).trans ((require_passes ?_).trans
    ((M.bind_ok hdests).trans ((M.bind_ok hw.meets).trans ((M.bind_ok (M.getMe_run w)).trans ((M.when_run (t := w) ?_).trans
    ((M.bind_ok (M.get_run w)).trans ((M.when_run (t := w.draws (mod.getLsbD 7) (drainElems sampled desc list).length) ?_).trans
    (M.when_run ?_)))))))))))
  · exact Bool.and_eq_true_iff.mpr ⟨hw.type, by simpa using hw.portSampled⟩
  · rw [hw.fields, Bool.true_and]
    simpa [or_iff_not_imp_left] using fun h => (hw.room h).1
  · exact List.all_eq_true.mpr fun e h => by simpa using hw.inside e h
  · cases port
    · rfl
    · exact M.await_run (decide_eq_true (hw.room rfl).2) _ w
  · cases mod.getLsbD 7 <;> rfl
  · cases port <;> rfl

/-- A drain is accepted with its elements, where they go, and the numbers that round it by chance. -/
theorem mdrain_accepts : let elems := drainElems sampled desc list
    ∃ z, s.accepted z false (mod.getLsbD 6) (.drain (field mod 3 0) elems ls.flatten (s.myCore.ta == 6 && s.myCore.tb == 6) (drainType mod)
        (mod.getLsbD 7) port (mod.getLsbD 13) s.me.rng) ls.flatten [] ∧
      z.me.rng = (if mod.getLsbD 7 then advanceBy elems.length s.me.rng else s.me.rng) ∧
      (port = true → z.me.mresHeld = t.me.mresHeld + desc.kn) ∧
      exec (.mdrain d a b) s = .next (z.put d ((s.myCore.jobNewest + 1).setWidth 64)).done := by
  intro elems
  have ready := hr.readies hw.accessed
  obtain ⟨_, _, _, _, popped⟩ := hr.pops.me
  obtain ⟨_, _, _, _, _, found⟩ := hw.accessed.me
  have rng : w.me.rng = s.me.rng := by rw [found, popped]
  have held : w.me.mresHeld = t.me.mresHeld := by rw [found]
  obtain ⟨ta, tb⟩ := ready.formats
  have taken := ready.takesDrain (mod.getLsbD 7) port elems.length desc.kn
  obtain ⟨z, accepted, me, run⟩ := taken.acceptJob (walk := false) (mod.getLsbD 6) (.drain (field mod 3 0) elems ls.flatten
    (w.myCore.ta == 6 && w.myCore.tb == 6) (drainType mod) (mod.getLsbD 7) port (mod.getLsbD 13) w.me.rng) ls.flatten []
    (State.clear_pend hc (.inr (List.mem_singleton.mpr rfl)))
    fun _ => by rw [taken.myLease, ← (hr.readies (.refl t)).myLease]; exact lease
  rw [ta, tb, rng] at accepted
  rw [State.takesDrain_me, rng, held] at me
  exact ⟨z, accepted, by rw [me], fun h => by rw [me, if_pos h], (exec_mdrain hw hc hr lease).trans (runBundle_ok run)⟩

end

/-! ### mwalk (R196) -/

theorem State.unshared_subset {s : State} {locs locs' : List Nat} (h : s.unshared locs) (sub : locs' ⊆ locs) : s.unshared locs' :=
  ⟨h.1, fun l hl => h.2 l (List.mem_dedup.mpr (List.map_subset _ sub (List.mem_dedup.mp hl)))⟩

theorem State.unshared_clean {s : State} {locs : List Nat} (h : s.unshared locs) : (linesOf locs).any s.poison.contains = false :=
  List.any_eq_false.mpr fun l hl => by simpa using (h.2 l hl).2.1

theorem meet_nil (write : Bool) (s : State) : meet write [] s = .ok ((), s) := rfl

section
variable {s t u v w : State} {d a b : GReg} {ea mod : Word} {desc : MDesc} {ls ss : List (List Nat)} {held : List Nat}
  (hc : s.clear [a, b] [d] [] [] = true) (hr : s.Reads [a, b] [ea, mod] t) (hmod : mod &&& ~~~0x40#64 = 0) (hd : loadDesc ea t = .ok (desc, u))
  (hz : desc.stride = 0 ∧ desc.mm1 = 0 ∧ desc.nm1 = 0 ∧ desc.row0 = 0 ∧ desc.col0 = 0 ∧ desc.k0 = 0 ∧ desc.scales = 0 ∧ 1 ≤ desc.kn ∧ desc.kn ≤ 65535)
  (hsrc : sourceLocs [(desc.addr, 4 * desc.kn)] u = .ok ((ss, held), v)) (hdst : destParts [(desc.list, 64 + 256 * desc.kn)] v = .ok (ls, w))
  (hw : w.unshared (ss.flatten ++ ls.flatten))
include hc hr hmod hd hz hsrc hdst hw

theorem mwalk_accepts : ∃ z, s.accepted z true (mod.getLsbD 6) (.walk (listOf desc.kn 4 (w.loadAt ss.flatten)) false ls.flatten) ls.flatten [] ∧
    exec (.mwalk d a b) s = .next (z.put d ((s.myCore.jobNewest + 1).setWidth 64)).done := by
  have source : w.unshared ss.flatten := State.unshared_subset hw (List.subset_append_left ..)
  have dest : w.unshared ls.flatten := State.unshared_subset hw (List.subset_append_right ..)
  have accessed : t.Accessed w :=
    ((loadDesc_accesses _ _ _ _ hd).trans (sourceLocs_accesses _ _ _ _ hsrc)).trans (destParts_accesses _ _ _ _ hdst)
  obtain ⟨z, accepted, run⟩ := hr.acceptJob hc accessed (walk := true) (fun h => absurd h.symm Bool.false_ne_true) (mod.getLsbD 6)
    (.walk (listOf desc.kn 4 (w.loadAt ss.flatten)) ((linesOf ss.flatten).any w.poison.contains) ls.flatten) ls.flatten []
  rw [State.unshared_clean source] at accepted
  obtain ⟨stride, rows, cols, row0, col0, k0, scales, one, most⟩ := hz
  refine ⟨z, accepted, runBundle_ok ((issue_read_two hc hr _).trans ((require_passes (decide_eq_true hmod)).trans ((M.bind_ok hd).trans
    ((require_passes ?_).trans ((M.bind_ok hsrc).trans ((M.bind_ok hdst).trans ((M.bind_ok (meet_unshared false source)).trans
    ((M.bind_ok (meet_unshared true dest)).trans ((M.bind_ok (M.get_run w)).trans run)))))))))⟩
  simp [stride, rows, cols, row0, col0, k0, scales, one, most]

end

/-- Settles O24: each command's operands are found without changing what acceptance goes by, and acceptance gives the next job's id. -/
theorem matrixCommands : Obligations.MatrixCommands := by
  intro s t u v w d a b q k ea mod desc list held ls ss id leased fits reads
  refine ⟨mzero_accepts, mzero_waits, fun hc hr h0 h4 h5 lease htb hd hf => ⟨fun hmod hm hrow => ⟨fun hl hlocs free => ?_, fun hlist hlocs free => ?_⟩,
      fun hmod => ⟨fun hl hlocs free => ?_, fun hlist hlocs free => ?_⟩⟩,
    fun hc hr h0 h4 h5 lease htb => ?_, fun hc hr lease hmod h5 h7 hd k0 scales kn hl rows cols hdst free => ?_,
    fun hc hr lease hmod h12 h5 h7 hd k0 scales stride rows cols one most hlist inside => ?_,
    fun hc hr hmod hd stride rows cols row0 col0 k0 scales one most hsrc hdst free =>
      mwalk_accepts hc hr hmod hd ⟨stride, rows, cols, row0, col0, k0, scales, one, most⟩ hsrc hdst free⟩
  · exact buildStep_accepts (listed := false) hc hr ⟨h0, h4, h5⟩ lease htb hd hf hmod hm hrow (.inr hl) ⟨_, _, rfl, hlocs, free⟩
  · exact buildStep_accepts (listed := true) hc hr ⟨h0, h4, h5⟩ lease htb hd hf hmod hm hrow (.inl rfl) ⟨_, _, hlist, hlocs, free⟩
  · exact multiplyStep_accepts (listed := false) hc hr ⟨h0, h4, h5⟩ lease htb hd hf hmod (.inr hl) ⟨_, _, rfl, hlocs, free⟩
  · exact multiplyStep_accepts (listed := true) hc hr ⟨h0, h4, h5⟩ lease htb hd hf hmod (.inl rfl) ⟨_, _, hlist, hlocs, free⟩
  · have traps := typedCommand_traps hc hr ⟨h0, h4, h5⟩ lease htb
    obtain ⟨build, multiply⟩ := traps false
    obtain ⟨buildListed, multiplyListed⟩ := traps true
    exact ⟨build, buildListed, multiply, multiplyListed⟩
  · have found : FindsDrain false false ea mod t desc [] ls v := {
      modifier := modifier_widens hmod (by decide)
      sampledBit := modifier_bit hmod (by decide) (by decide)
      portBit := modifier_bit hmod (by decide) (by decide)
      portSampled := .inr rfl
      type := drainType_valid h5 h7
      fields := by simp [drainZero, k0, scales, kn, hl, rows, cols]
      inside := fun e he => drainElems_window_inside rows cols he
      found := ⟨u, u, hd, rfl, hdst⟩
      meets := meet_unshared true free
      room := fun h => absurd h Bool.false_ne_true }
    obtain ⟨z, accepted, rng, -, run⟩ := mdrain_accepts found hc hr lease
    rw [drainElems_window_length] at rng
    exact ⟨z, accepted, rng, run⟩
  · have found : ∀ {port ls w}, mod.getLsbD 11 = port → drainDests true port desc (laneWidth (drainType mod) / 8) v = .ok (ls, w) →
        meet true ls.flatten w = .ok ((), w) → (port = true → desc.kn ≤ 64 ∧ w.me.mres.length + w.me.mresHeld + desc.kn ≤ 64) →
        FindsDrain true port ea mod t desc list ls w := fun bit dests meets room => {
      modifier := hmod
      sampledBit := h12
      portBit := bit
      portSampled := .inl rfl
      type := drainType_valid h5 h7
      fields := by simp [drainZero, k0, scales, stride, rows, cols, one, most]
      inside := inside
      found := ⟨u, v, hd, hlist, dests⟩
      meets := meets
      room := room }
    have count : (drainElems true desc list).length = desc.kn := (drainElems_sampled_length ..).trans (loadList_length hlist)
    refine ⟨fun h11 hdst free => ?_, fun h11 few room => ?_⟩
    · obtain ⟨z, accepted, rng, -, run⟩ :=
        mdrain_accepts (found h11 hdst (meet_unshared true free) fun h => absurd h Bool.false_ne_true) hc hr lease
      exact ⟨z, accepted, count ▸ rng, run⟩
    · obtain ⟨_, _, _, _, _, me⟩ := ((loadDesc_accesses _ _ _ _ hd).trans (loadList_accesses _ _ _ _ _ _ hlist)).me
      obtain ⟨z, accepted, rng, places, run⟩ :=
        mdrain_accepts (found (ls := []) (w := v) h11 rfl (meet_nil true v) fun _ => ⟨few, by rw [me]; exact room⟩) hc hr lease
      exact ⟨z, accepted, count ▸ rng, places rfl, run⟩

end Sys2Proof.Machine
end

section
/-! SUPPORT. Every write to the memory goes through `Memory.write`, so nothing leaves it out of its canonical form. One lemma says so of each
function of the model that a state or a sequence goes through, in the order of the model's files: `State.Inv.f` for a function on states,
`f_keepsInv` for a sequence, `execI_inv` for an instruction. A function that leaves the memory alone by definition needs none. -/

namespace Sys2Proof.Machine

/-- A step that completes from a state whose memory stands in its canonical form leaves it so. -/
def M.KeepsInv {α : Type} (m : M α) : Prop := M.Keeps (fun s t => s.Inv → t.Inv) m

section
variable {α β : Type}

theorem State.Inv.ite {p : Prop} [Decidable p] {s t : State} (hs : s.Inv) (ht : t.Inv) : (if p then s else t).Inv := by
  split
  exacts [hs, ht]

theorem State.Inv.foldl {f : State → α → State} {s : State} {l : List α} (hf : ∀ s a, s.Inv → (f s a).Inv) (hs : s.Inv) :
    (l.foldl f s).Inv :=
  foldl_keeps (R := fun s t => s.Inv → t.Inv) (fun _ => id) (fun _ _ _ h h' => h' ∘ h) hf l s hs

/-- What stands outside the memory does not matter. -/
theorem State.Inv.of_mem {s t : State} (hs : s.Inv) (h : t.mem = s.mem) : t.Inv := by
  unfold State.Inv
  rw [h]
  exact hs

/-! A part of the state that is not its memory is replaced. -/

section
variable {s : State} (hs : s.Inv)
include hs
theorem State.Inv.setCtx {c : CtxId} {x : Ctx} : (s.setCtx c x).Inv := hs
theorem State.Inv.setMe {x : Ctx} : (s.setMe x).Inv := hs
theorem State.Inv.setBank {b : Nat} {x : Bank} : (s.setBank b x).Inv := hs
theorem State.Inv.setCore {c : CoreId} {x : Core} : (s.setCore c x).Inv := hs
theorem State.Inv.setRidge {r : Nat} {x : Ridge} : (s.setRidge r x).Inv := hs
theorem State.Inv.setDie {d : Nat} {x : Die} : (s.setDie d x).Inv := hs
theorem State.Inv.setTeam {t : Nat} {x : Team} : (s.setTeam t x).Inv := hs
theorem State.Inv.noteStall {w : Wait} : (s.noteStall w).Inv := hs
theorem State.Inv.setPart {p : Nat} {x : Part} : (s.setPart p x).Inv := hs
end

/-- What a completed sequence leaves. -/
theorem M.KeepsInv.ok {m : M α} {s t : State} {a : α} (h : m s = .ok (a, t)) (hs : s.Inv) (hm : m.KeepsInv) : t.Inv := hm s a t h hs

theorem M.KeepsInv.bind {m : M α} {f : α → M β} (hm : m.KeepsInv) (hf : ∀ a, (f a).KeepsInv) : (m >>= f).KeepsInv :=
  M.Keeps.bind (R := fun s t => s.Inv → t.Inv) (fun _ _ _ h h' => h' ∘ h) hm hf

/-- A sequence that reads the state first: what it reads stands in its canonical form. -/
theorem M.KeepsInv.get {f : State → M β} (hf : ∀ s, s.Inv → (f s).KeepsInv) : (MonadState.get >>= f).KeepsInv :=
  M.Keeps.get fun s b t h hs => hf s hs s b t h hs

theorem M.KeepsInv.read : M.KeepsInv MonadState.get := fun _ _ _ h => by cases h; exact id
theorem M.KeepsInv.pure {a : α} : M.KeepsInv (Pure.pure a) := M.Keeps.pure (fun _ => id) a
theorem M.KeepsInv.getMe : Machine.getMe.KeepsInv := M.Keeps.getMe fun _ => id
theorem M.KeepsInv.set {t : State} (ht : t.Inv) : M.KeepsInv (MonadStateOf.set t) := fun _ _ _ h _ => by cases h; exact ht
theorem M.KeepsInv.modify {f : State → State} (hf : ∀ s, s.Inv → (f s).Inv) : M.KeepsInv (modify f) := M.Keeps.modify hf
theorem M.KeepsInv.modifyMe {f : Ctx → Ctx} : (Machine.modifyMe f).KeepsInv := M.Keeps.modifyMe fun _ => id
theorem M.KeepsInv.modifyCore {f : Core → Core} : (Machine.modifyCore f).KeepsInv := fun _ _ _ h => by cases h; exact id
theorem M.KeepsInv.modifyBank {f : Bank → Bank} : (Machine.modifyBank f).KeepsInv := fun _ _ _ h => by cases h; exact id
theorem M.KeepsInv.throw {e : Stop} : M.KeepsInv (MonadExcept.throw e : M α) := fun _ _ _ h => by cases h
theorem M.KeepsInv.raise {c : Trap} : M.KeepsInv (Machine.raise c : M α) := M.Keeps.raise c
theorem M.KeepsInv.trap {c d : Nat} : M.KeepsInv (Machine.trap c d : M α) := .raise
theorem M.KeepsInv.stall {w : Wait} : M.KeepsInv (Machine.stall w : M α) := .throw
theorem M.KeepsInv.await {ok : Bool} {w : Wait} : (Machine.await ok w).KeepsInv := M.Keeps.await (fun _ => id) ok w
theorem M.KeepsInv.require {ok : Bool} {c d : Nat} : (Machine.require ok c d).KeepsInv := M.Keeps.require (fun _ => id) ok c d

/-! What would come after a stop does not. -/

theorem M.KeepsInv.throw_bind {e : Stop} {f : α → M β} : M.KeepsInv ((MonadExcept.throw e : M α) >>= f) := fun _ _ _ h => by cases h
theorem M.KeepsInv.raise_bind {c : Trap} {f : α → M β} : M.KeepsInv ((Machine.raise c : M α) >>= f) := .throw_bind
theorem M.KeepsInv.trap_bind {c d : Nat} {f : α → M β} : M.KeepsInv ((Machine.trap c d : M α) >>= f) := .throw_bind
theorem M.KeepsInv.stall_bind {w : Wait} {f : α → M β} : M.KeepsInv ((Machine.stall w : M α) >>= f) := .throw_bind

theorem M.KeepsInv.ite {p : Prop} [Decidable p] {m n : M α} (hm : m.KeepsInv) (hn : n.KeepsInv) : (if p then m else n).KeepsInv := by
  split
  exacts [hm, hn]

/-- A part that is run where a condition holds, and what comes after it. -/
theorem M.KeepsInv.when {p : Prop} [Decidable p] {m : M PUnit} {f : PUnit → M β} (hm : m.KeepsInv) (hf : ∀ a, (f a).KeepsInv) :
    (if p then m >>= f else f ⟨⟩).KeepsInv := .ite (.bind hm hf) (hf _)

theorem M.KeepsInv.forM {f : α → M PUnit} {xs : List α} (hf : ∀ a, (f a).KeepsInv) : M.KeepsInv (xs.forM f) :=
  M.Keeps.forM (R := fun s t => s.Inv → t.Inv) (fun _ => id) (fun _ _ _ h h' => h' ∘ h) hf xs

theorem M.KeepsInv.mapM {f : α → M β} {xs : List α} (hf : ∀ a, (f a).KeepsInv) : M.KeepsInv (xs.mapM f) :=
  M.Keeps.mapM (R := fun s t => s.Inv → t.Inv) (fun _ => id) (fun _ _ _ h h' => h' ∘ h) hf xs

theorem M.KeepsInv.underPins {f : α → M β} {xs : List α} (hf : ∀ a, (f a).KeepsInv) : (Machine.underPins f xs).KeepsInv :=
  .bind .getMe fun _ => .bind (.mapM fun _ => .bind .modifyMe fun _ => .bind (hf _) fun _ => .bind .getMe fun _ => .pure) fun _ =>
    .bind .modifyMe fun _ => .pure

theorem M.KeepsInv.keepPins {m : M α} (hm : m.KeepsInv) : (Machine.keepPins m).KeepsInv :=
  .bind .getMe fun _ => .bind hm fun _ => .bind .modifyMe fun _ => .pure

/-- An access changes no memory. -/
theorem M.Accesses.keepsInv {m : M α} (h : m.Accesses) : m.KeepsInv := fun s a t e hs => by
  unfold State.Inv
  rw [(h s a t e).mem]
  exact hs

end

/-! ### Everything that a bundle or step can answer -/

/-- Where a bundle or step answers a next state, its memory stands in its canonical form. -/
def Result.Inv (r : Result) : Prop := ∀ t, r = .next t → t.Inv

theorem Result.Inv.next {s : State} (hs : s.Inv) : Result.Inv (.next s) := fun _ h => by cases h; exact hs
theorem Result.Inv.fault {f : Fault} : Result.Inv (.fault f) := fun _ h => by cases h
theorem Result.Inv.refused {r : Refusal} : Result.Inv (.refused r) := fun _ h => by cases h
theorem Result.Inv.ite {p : Prop} [Decidable p] {a b : Result} (ha : Result.Inv a) (hb : Result.Inv b) : Result.Inv (if p then a else b) := by
  split
  exacts [ha, hb]

/-! ### `Machine/Ops.lean` -/

theorem State.Inv.ringNumber {s : State} (hs : s.Inv) : s.ringNumber.2.Inv := State.inv_store _ _ _ hs
theorem takeBit_keepsInv : takeBit.KeepsInv := fun _ _ _ h => by cases h; exact id
theorem takeByte_keepsInv : takeByte.KeepsInv := fun _ _ _ h => by cases h; exact id

theorem State.Inv.onSeat {s : State} {p : Option (Nat ⊕ CtxId)} {f : Ctx → Ctx} (hs : s.Inv) : (s.onSeat p f).Inv := by
  dsimp only [State.onSeat]
  split
  all_goals exact hs

theorem State.Inv.noteOld {s : State} {p : Option (Nat ⊕ CtxId)} {locs : List Nat} (hs : s.Inv) : (s.noteOld p locs).Inv := by
  dsimp only [State.noteOld]
  exact .onSeat hs

theorem State.Inv.setHomeBank {s : State} {h : Home} {x : Bank} (hs : s.Inv) : (s.setHomeBank h x).Inv := by
  dsimp only [State.setHomeBank]
  split
  all_goals exact hs

theorem State.Inv.pushPort {s : State} {c : CtxId} {r : GReg} {w : Word} (hs : s.Inv) : (s.pushPort c r w).Inv := by
  dsimp only [State.pushPort]
  exact .ite hs (.setHomeBank hs)

theorem State.Inv.onPlace {s : State} {c : CtxId} {d : GReg} {p : Reserved} {f : Nat → List PortPlace → List PortPlace} (hs : s.Inv) :
    (s.onPlace c d p f).Inv := by
  dsimp only [State.onPlace]
  split
  exacts [hs, .setHomeBank hs]

theorem State.Inv.deliver {s : State} {c : CtxId} {p : Pending} (hs : s.Inv) : (s.deliver c p).Inv := by
  dsimp only [State.deliver]
  split
  · split
    exacts [.onPlace hs, hs]
  · split
    exacts [.onPlace hs, hs]
  · exact hs
  · exact hs

theorem State.Inv.dropPort {s : State} {c : CtxId} {r : GReg} (hs : s.Inv) : (s.dropPort c r).Inv := by
  dsimp only [State.dropPort]
  split
  all_goals exact hs

theorem issue_keepsInv {reads writes : List GReg} {vreads vwrites : List VReg} : (issue reads writes vreads vwrites).KeepsInv := by
  dsimp only [issue]
  refine .get fun _ _ => .ite ?_ (.ite .trap_bind (.ite .stall_bind (.ite .trap_bind (.ite .stall .pure))))
  split
  exacts [.raise_bind, .ite .trap_bind (.ite .stall_bind (.ite .trap_bind (.ite .stall .pure)))]

theorem settle_keepsInv {hit : Pending → Bool} : (settle hit).KeepsInv := by
  dsimp only [settle]
  refine .get fun _ _ => .forM fun _ => ?_
  split
  exacts [.pure, .bind takeBit_keepsInv fun _ => .ite (.modify fun _ h => .deliver h) .pure]

theorem overwrite_keepsInv {hit : Pending → Bool} : (overwrite hit).KeepsInv := by
  dsimp only [overwrite]
  refine .get fun _ _ => .forM fun _ => ?_
  split
  all_goals exact .bind takeBit_keepsInv fun _ => .ite .modifyMe .pure

theorem readG_keepsInv {r : GReg} : (readG r).KeepsInv := by
  dsimp only [readG]
  refine .ite ?_ (.bind settle_keepsInv fun _ => .bind .getMe fun _ => .pure)
  refine .get fun _ hs => ?_
  split
  exacts [.bind (.set (.dropPort hs)) fun _ => .pure, .stall]

theorem writeG_keepsInv {r : GReg} {w : Word} : (writeG r w).KeepsInv :=
  .ite (.modify fun _ h => .pushPort h) (.bind overwrite_keepsInv fun _ => .modifyMe)

theorem readV_keepsInv {r : VReg} : (readV r).KeepsInv := .bind settle_keepsInv fun _ => .bind .getMe fun _ => .pure
theorem writeV_keepsInv {r : VReg} {w : VWord} : (writeV r w).KeepsInv := .bind overwrite_keepsInv fun _ => .modifyMe

theorem openWindow_keepsInv {p : Pending} {d : GReg} : (openWindow p d).KeepsInv :=
  .ite (.get fun _ hs => .set (.onPlace hs)) (.bind overwrite_keepsInv fun _ => .modifyMe)

theorem late_keepsInv {la : La} {target : Target} {gval : Word} {vval : VWord} : (late la target gval vval).KeepsInv := by
  dsimp only [late]
  refine .get fun _ _ => ?_
  split
  exacts [.ite .pure (.ite writeG_keepsInv openWindow_keepsInv), .bind overwrite_keepsInv fun _ => .ite (.modify fun _ h => .deliver h) .modifyMe,
    .bind overwrite_keepsInv fun _ => .ite (.modify fun _ h => .deliver h) .modifyMe, openWindow_keepsInv]

theorem State.Inv.stray {s : State} {c : CtxId} {p : RopePlace} (hs : s.Inv) : (s.stray c p).Inv := by
  dsimp only [State.stray]
  split
  exacts [hs, .ite hs hs]

theorem State.Inv.ropeStep {s : State} {c : CtxId} {x : Ctx} (hs : s.Inv) : (s.ropeStep c x).Inv := by
  dsimp only [State.ropeStep]
  split
  exacts [hs, .ite hs (.ite (.stray hs) hs)]

theorem State.Inv.retireCtx {s : State} {c : CtxId} (hs : s.Inv) : (s.retireCtx c).Inv := by
  dsimp only [State.retireCtx]
  exact .ropeStep hs

theorem State.Inv.retire {s : State} (hs : s.Inv) : s.retire.Inv := by
  dsimp only [State.retire]
  exact .retireCtx hs

theorem State.Inv.writeAreas {s : State} {r : Nat} {x : Ctx} (hs : s.Inv) : (s.writeAreas r x).Inv := by
  dsimp only [State.writeAreas]
  exact State.inv_storeWords _ _ (.foldl (fun _ _ h => State.inv_storeWords _ _ h) (State.inv_store _ _ _ (State.inv_zeroRange _ _ hs)))

theorem State.Inv.writeRecord {s : State} {c : CtxId} {state : Nat} (hs : s.Inv) : (s.writeRecord c state).Inv := by
  dsimp only [State.writeRecord]
  exact .ite hs (.writeAreas (State.inv_store _ _ _ hs))

theorem State.Inv.showStreams {s : State} {p : Option (Nat ⊕ CtxId)} (hs : s.Inv) : (s.showStreams p).Inv := by
  dsimp only [State.showStreams]
  split
  exacts [State.inv_storeWords _ _ hs, hs]

theorem State.Inv.recordState {s : State} {r state : Nat} (hs : s.Inv) : (s.recordState r state).Inv := by
  dsimp only [State.recordState]
  exact .ite hs (State.inv_store _ _ _ hs)

theorem State.Inv.postNoctx {s : State} {part : Nat} {t : Trap} (hs : s.Inv) : (s.postNoctx part t).Inv := by
  dsimp only [State.postNoctx]
  exact .ringNumber hs

theorem State.Inv.endLease {s : State} {c : CtxId} (hs : s.Inv) : (s.endLease c).Inv := by
  dsimp only [State.endLease]
  split
  exacts [.ite hs hs, hs]

theorem State.Inv.detach {s : State} {c : CtxId} (hs : s.Inv) : (s.detach c).Inv := by
  dsimp only [State.detach]
  split
  · exact hs
  · refine .ite hs ?_
    split
    exacts [hs, .foldl (fun _ _ h => h) hs]

theorem State.Inv.quitRope {s : State} {c : CtxId} (hs : s.Inv) : (s.quitRope c).Inv := by
  dsimp only [State.quitRope]
  split
  exacts [hs, .ite hs hs]

theorem State.Inv.reseat {s : State} {c : CtxId} (hs : s.Inv) : (s.reseat c).Inv := by
  dsimp only [State.reseat]
  split
  all_goals exact hs

theorem State.Inv.leaveSprint {s : State} {c : CtxId} (hs : s.Inv) : (s.leaveSprint c).Inv := by
  dsimp only [State.leaveSprint]
  exact .ite hs hs

theorem State.Inv.finishPending {s : State} {c : CtxId} (hs : s.Inv) : (s.finishPending c).Inv := by
  dsimp only [State.finishPending]
  exact .foldl (fun _ _ h => .deliver h) hs

theorem State.Inv.park {s : State} {c : CtxId} {t : Trap} (hs : s.Inv) : (s.park c t).Inv := by
  unfold State.park
  extract_lets s₁ s₂ s₃ s₄ x s₅ s₆ n s₇ s₈ s₉
  have h₆ : s₆.Inv := .writeRecord (.setCtx (.leaveSprint (.setCtx (.endLease (.finishPending hs)))))
  have h₈ : s₈.Inv := .ite (.ringNumber h₆) (State.inv_store _ _ _ (.ringNumber h₆))
  have h₉ : s₉.Inv := by
    unfold s₉
    split
    exacts [.setTeam h₈, h₈]
  exact h₉

theorem State.Inv.takeTrap {s : State} {c : CtxId} {t : Trap} (hs : s.Inv) : (s.takeTrap c t).Inv := by
  dsimp only [State.takeTrap]
  exact .ite hs (.ite hs (.park hs))

theorem State.Inv.markAborts {s : State} {vs : List CtxId} (hs : s.Inv) : (s.markAborts vs).Inv := .of_mem hs rfl

/-- A bundle: it retires, enters its trap, or stalls. -/
theorem Result.Inv.bundle {s : State} (hs : s.Inv) {m : M Unit} (hm : m.KeepsInv) : Result.Inv (runBundle m s) := fun t h => by
  obtain ⟨u, hu, rfl⟩ | ⟨_, _, rfl⟩ | ⟨_, _, rfl⟩ | ⟨_, _, rfl⟩ := runBundle_next h
  · exact .of_mem (.retire (hm.ok hu hs)) rfl
  · exact .of_mem (.takeTrap hs) rfl
  · exact .noteStall hs
  · exact .of_mem hs rfl

/-- A step of the hardware. -/
theorem Result.Inv.step {s : State} (hs : s.Inv) {m : M Unit} (hm : m.KeepsInv) : Result.Inv (runStep m s) := fun t h => by
  obtain ⟨u, hu, rfl⟩ | ⟨_, _, rfl⟩ | ⟨_, _, rfl⟩ | ⟨_, _, rfl⟩ := runStep_next h
  · exact .of_mem (hm.ok hu hs) rfl
  · exact .of_mem (.takeTrap hs) rfl
  · exact hs
  · exact .markAborts hs

/-! ### `Machine/Caches.lean` -/

theorem State.Inv.dropCopies {s : State} {line : Nat} {keep : Option CoreId} (hs : s.Inv) : (s.dropCopies line keep).Inv := by
  dsimp only [State.dropCopies]
  exact .foldl (fun _ _ h => h) (.foldl (fun _ _ h => h) hs)

theorem State.Inv.fitL1 {s : State} {c : CoreId} (hs : s.Inv) : (s.fitL1 c).Inv := by
  dsimp only [State.fitL1]
  exact .foldl (fun _ _ h => h) hs

theorem State.Inv.stampHomes {s : State} {part : Nat} {locs : List Nat} (hs : s.Inv) : (s.stampHomes part locs).Inv := by
  dsimp only [State.stampHomes]
  exact .foldl (fun _ _ h => .dropCopies h) hs

theorem State.Inv.stampEngine {s : State} {locs : List Nat} (hs : s.Inv) : (s.stampEngine locs).Inv := by
  dsimp only [State.stampEngine]
  exact .stampHomes hs

theorem State.Inv.evict {s : State} {picks : Nat → Nat → Bool} (hs : s.Inv) : (s.evict picks).Inv := by
  dsimp only [State.evict]
  exact .foldl (fun _ _ h => .foldl (fun _ _ h => .ite h h) h) (.foldl (fun _ _ h => .foldl (fun _ _ h => h) h) hs)

theorem State.Inv.evictTensor {s : State} {part : Nat} {h : Handle} (hs : s.Inv) : (s.evictTensor part h).Inv := by
  dsimp only [State.evictTensor]
  exact .evict hs

theorem State.Inv.evictPart {s : State} {part : Nat} (hs : s.Inv) : (s.evictPart part).Inv := by
  dsimp only [State.evictPart]
  exact .evict hs

/-! ### `Machine/Operands.lean` -/

theorem State.Inv.setServedBank {s : State} {v : Served} {x : Bank} (hs : s.Inv) : (s.setServedBank v x).Inv := by
  dsimp only [State.setServedBank]
  exact .ite hs hs

theorem meetEngine_keepsInv {x : Option Ctx} {locs : List Nat} : (meetEngine x locs).KeepsInv := by
  dsimp only [meetEngine]
  refine .get fun _ _ => ?_
  split
  exacts [.await, .bind .await fun _ => .ite .throw .pure]

theorem pushTrail_keepsInv {info : Word} {item : List Word} : (pushTrail info item).KeepsInv :=
  .get fun _ hs => .ite (.ite .stall_bind .raise_bind) (.bind (.set (State.inv_storeWords _ _ hs)) fun _ => .modifyMe)

theorem clearSteals_keepsInv : clearSteals.KeepsInv := fun _ _ _ h => by
  cases h
  exact State.Inv.foldl fun _ _ h => State.inv_store _ _ _ h

theorem logWord_keepsInv {ea : Word} {addr loc : Nat} : (logWord ea addr loc).KeepsInv :=
  .get fun _ _ => .bind pushTrail_keepsInv fun _ => clearSteals_keepsInv

theorem logStore_keepsInv {ea : Word} {locs : List Nat} : (logStore ea locs).KeepsInv :=
  .bind .getMe fun _ => .ite (.forM fun _ => logWord_keepsInv) .pure

theorem logMark_keepsInv {page op : Nat} : (logMark page op).KeepsInv := .bind .getMe fun _ => .bind .await fun _ => .ite pushTrail_keepsInv .pure
theorem awaitEarliest_keepsInv : awaitEarliest.KeepsInv := .bind .getMe fun _ => .await
theorem classed_keepsInv {cls : Nat} : (classed cls).KeepsInv := .require

theorem streamOf_keepsInv {sid cls : Nat} : (streamOf sid cls).KeepsInv := by
  dsimp only [streamOf]
  refine .get fun _ _ => .ite ?_ .pure
  split
  exacts [.ite .pure .trap, .trap]

theorem counterOf_keepsInv {sid : Nat} : (counterOf sid).KeepsInv := .bind .getMe fun _ => .ite .pure (.ite .pure .trap)

theorem State.Inv.spray {s : State} {dest : Dest} (hs : s.Inv) : (s.spray dest).Inv := by
  dsimp only [State.spray]
  split
  all_goals exact hs

theorem State.Inv.contourSent {s : State} {m : Message} (hs : s.Inv) : (s.contourSent m).Inv := by
  dsimp only [State.contourSent]
  exact .ite hs hs

theorem State.Inv.contourReceived {s : State} {m : Message} (hs : s.Inv) : (s.contourReceived m).Inv := by
  dsimp only [State.contourReceived]
  exact .ite hs hs

theorem State.Inv.departMessage {s : State} {c : CoreId} {m : Message} (hs : s.Inv) : (s.departMessage c m).Inv := by
  dsimp only [State.departMessage]
  exact .spray hs

theorem sendPacket_keepsInv {sid cls : Nat} {dest : Dest} {body : PacketBody} : (sendPacket sid cls dest body).KeepsInv := by
  dsimp only [sendPacket]
  refine .bind streamOf_keepsInv fun _ => .bind (.ite .pure counterOf_keepsInv) fun _ => .get fun _ hs => .ite .trap_bind ?_
  refine .bind ?_ fun _ => .bind (.set (.spray hs)) fun _ => .pure
  split
  · exact .pure
  · split
    exacts [.trap, .pure]

theorem State.Inv.receiveAck {s : State} {c : CoreId} (hs : s.Inv) : (s.receiveAck c).Inv := by
  dsimp only [State.receiveAck]
  split
  all_goals exact hs

theorem State.Inv.stamp {s : State} {part line : Nat} (hs : s.Inv) : (s.stamp part line).Inv := by
  dsimp only [State.stamp]
  exact .dropCopies (.ite (.receiveAck hs) hs)

theorem State.Inv.stampAll {s : State} {locs : List Nat} (hs : s.Inv) : (s.stampAll locs).Inv := by
  dsimp only [State.stampAll]
  exact .foldl (fun _ _ h => .stamp h) hs

theorem perform_keepsInv {locs : List Nat} {data : List Byte} : (perform locs data).KeepsInv := fun s _ _ h hs => by
  cases h
  exact State.inv_storeAt _ _ (.ite (.setMe (.stampAll (.setMe hs))) (.stampAll (.setMe hs)))

theorem storePlain_keepsInv {acc : Acc} {ea : Word} {data : List Byte} : (storePlain acc ea data).KeepsInv :=
  .bind (locate_accesses _ _ _).keepsInv fun _ => .bind (awaitOwn_accesses _).keepsInv fun _ => .bind (meet_accesses _ _).keepsInv fun _ => .bind
    logStore_keepsInv fun _ => perform_keepsInv

theorem observe_keepsInv {locs : List Nat} : (observe locs).KeepsInv := .modify fun _ h => h
theorem refuseMixed_keepsInv {ea : Word} {locs : List Nat} : (refuseMixed ea locs).KeepsInv := .get fun _ _ => .ite .raise .pure

theorem scramble_keepsInv {locs : List Nat} : (scramble locs).KeepsInv :=
  .forM fun _ => .bind takeByte_keepsInv fun _ => .modify fun _ h => State.inv_storeAt _ _ h

theorem performStrong_keepsInv {ea : Word} {locs : List Nat} {data : List Byte} : (performStrong ea locs data).KeepsInv := by
  dsimp only [performStrong]
  refine .bind refuseMixed_keepsInv fun _ => .get fun _ _ => .bind perform_keepsInv fun _ => .bind scramble_keepsInv fun _ => .modify fun _ h => ?_
  split
  all_goals exact h

theorem storeStrong_keepsInv {ea : Word} {data : List Byte} : (storeStrong ea data).KeepsInv :=
  .bind (locate_accesses _ _ _).keepsInv fun _ => .bind (meet_accesses _ _).keepsInv fun _ => .bind refuseMixed_keepsInv fun _ => .bind
    logStore_keepsInv fun _ => performStrong_keepsInv

theorem ownStore_keepsInv {ea : Word} {locs : List Nat} : (ownStore ea locs).KeepsInv :=
  .bind .getMe fun _ => .when (meet_accesses _ _).keepsInv fun _ => .ite (.get fun _ _ => .bind .await fun _ => logStore_keepsInv) .pure

theorem markStrong_keepsInv {id : Nat} : (markStrong id).KeepsInv := .modify fun _ h => h
theorem markLogged_keepsInv {id : Nat} : (markLogged id).KeepsInv := .modify fun _ h => h

theorem storeAperture_keepsInv {page op : Nat} {ea : Word} {data : List Byte} {sid cls : Nat} : (storeAperture page op ea data sid cls).KeepsInv :=
  .bind classed_keepsInv fun _ => .bind (aperture_accesses _ _).keepsInv fun _ => .get fun _ _ => .ite (.bind ownStore_keepsInv fun _ => .bind
    sendPacket_keepsInv fun _ => .ite markLogged_keepsInv .pure) (.ite (.bind .await fun _ => .bind pushTrail_keepsInv fun _ => .bind
    sendPacket_keepsInv fun _ => .ite markLogged_keepsInv .pure) (.bind sendPacket_keepsInv fun _ => .ite markLogged_keepsInv .pure))

theorem storeData_keepsInv {op : Nat} {ea : Word} {data : List Byte} {xs : Option XS} : (storeData op ea data xs).KeepsInv :=
  .ite storeAperture_keepsInv storePlain_keepsInv

theorem windowOf_keepsInv {acc : Acc} {ea : Word} {n : Nat} {la : La} : (windowOf acc ea n la).KeepsInv := .get fun _ _ => .ite .pure .pure

theorem strongWindow_keepsInv {acc : Acc} {ea : Word} {n : Nat} {la : La} : (strongWindow acc ea n la).KeepsInv :=
  .bind .getMe fun _ => .ite .pure windowOf_keepsInv

theorem aligned_keepsInv {ea : Word} {n : Nat} : (aligned ea n).KeepsInv := .ite .pure .raise

/-! ### `Machine/Scalar.lean` -/

theorem binary_keepsInv {f : Word → Word → Word} {d a b : GReg} : (binary f d a b).KeepsInv :=
  .bind issue_keepsInv fun _ => .bind readG_keepsInv fun _ => .bind readG_keepsInv fun _ => writeG_keepsInv

theorem unary_keepsInv {f : Word → Word} {d a : GReg} : (unary f d a).KeepsInv :=
  .bind issue_keepsInv fun _ => .bind readG_keepsInv fun _ => writeG_keepsInv

theorem ternary_keepsInv {f : Word → Word → Word → Word} {d a b : GReg} : (ternary f d a b).KeepsInv :=
  .bind issue_keepsInv fun _ => .bind readG_keepsInv fun _ => .bind readG_keepsInv fun _ => .bind readG_keepsInv fun _ => writeG_keepsInv

theorem constant_keepsInv {f : Word → Word} {d : GReg} : (constant f d).KeepsInv :=
  .bind issue_keepsInv fun _ => .bind .getMe fun _ => writeG_keepsInv

theorem execLih_inv {s : State} (hs : s.Inv) {d : GReg} {imm : Nat} : Result.Inv (execLih d imm s) :=
  .bundle hs (.bind issue_keepsInv fun _ => .bind readG_keepsInv fun _ => writeG_keepsInv)

theorem loadStep_keepsInv {size : Nat} {signed : Bool} {d a : GReg} {imm : Int} {la : La} : (loadStep size signed d a imm la).KeepsInv :=
  .bind issue_keepsInv fun _ => .bind readG_keepsInv fun _ => .bind windowOf_keepsInv fun _ => .bind (loadNat_accesses _ _ _).keepsInv fun _ =>
    late_keepsInv

theorem storeStep_keepsInv {op size : Nat} {d a : GReg} {imm : Int} {xs : Option XS} : (storeStep op size d a imm xs).KeepsInv :=
  .bind issue_keepsInv fun _ => .bind readG_keepsInv fun _ => .bind readG_keepsInv fun _ => .bind .require fun _ => storeData_keepsInv

theorem translateFresh_keepsInv {acc : Acc} {va : Nat} : (translateFresh acc va).KeepsInv :=
  .bind .getMe fun _ => .bind .modifyMe fun _ => .bind (translate_accesses _ _).keepsInv fun _ => .bind .modifyMe fun _ => .pure

theorem pin_keepsInv {kind : Fin 8} {l : Leaf} : (pin kind l).KeepsInv := .modifyMe

theorem execTch_inv {s : State} (hs : s.Inv) {kind : Fin 8} {a : GReg} {imm : Int} {_la : La} : Result.Inv (execTch kind a imm _la s) :=
  .bundle hs (.bind issue_keepsInv fun _ => .bind readG_keepsInv fun _ => .ite (.bind (aperture_accesses _ _).keepsInv fun _ => .pure) (.get fun _ _
    => .ite .pure (.bind .getMe fun _ => .ite .raise_bind (.bind translateFresh_keepsInv fun _ => .ite .raise_bind pin_keepsInv))))

theorem execLda_inv {s : State} (hs : s.Inv) {d a : GReg} {imm : Int} {q : QType} {la : La} : Result.Inv (execLda d a imm q la s) :=
  .bundle hs (.bind issue_keepsInv fun _ => .bind readG_keepsInv fun _ => .bind aligned_keepsInv fun _ => .bind strongWindow_keepsInv fun _ => .bind
    (locate_accesses _ _ _).keepsInv fun _ => .bind (awaitOwn_accesses _).keepsInv fun _ => .bind (meet_accesses _ _).keepsInv fun _ => .bind
    refuseMixed_keepsInv fun _ => .get fun _ _ => .bind scramble_keepsInv fun _ => .bind (readBytes_accesses _).keepsInv fun _ => .bind
    observe_keepsInv fun _ => .bind .modifyMe fun _ => late_keepsInv)

theorem execStl_inv {s : State} (hs : s.Inv) {d a : GReg} {imm : Int} {q : QType} {xs : Option XS} : Result.Inv (execStl d a imm q xs s) :=
  .bundle hs (.bind issue_keepsInv fun _ => .bind readG_keepsInv fun _ => .bind readG_keepsInv fun _ => .bind .require fun _ => .bind
    aligned_keepsInv fun _ => .get fun _ _ => .bind .await fun _ => .ite (.get fun _ _ => .bind storeData_keepsInv fun _ => markStrong_keepsInv)
    storeStrong_keepsInv)

theorem branch_keepsInv {taken : Word → Word → Bool} {a b : GReg} {imm : Int} : (branch taken a b imm).KeepsInv :=
  .bind issue_keepsInv fun _ => .bind readG_keepsInv fun _ => .bind readG_keepsInv fun _ => .ite .modifyMe .pure

theorem execJmp_inv {s : State} (hs : s.Inv) {imm : Int} : Result.Inv (execJmp imm s) := .bundle hs .modifyMe

theorem execJal_inv {s : State} (hs : s.Inv) {imm : Int} : Result.Inv (execJal imm s) :=
  .bundle hs (.bind issue_keepsInv fun _ => .bind .getMe fun _ => .bind writeG_keepsInv fun _ => .modifyMe)

theorem execJr_inv {s : State} (hs : s.Inv) {d a : GReg} : Result.Inv (execJr d a s) :=
  .bundle hs (.bind issue_keepsInv fun _ => .bind readG_keepsInv fun _ => .bind .require fun _ => .bind .getMe fun _ => .bind writeG_keepsInv fun _
    => .modifyMe)

theorem execNop_inv {s : State} (hs : s.Inv) : Result.Inv (execNop s) := .bundle hs .pure
theorem execBrk_inv {s : State} (hs : s.Inv) : Result.Inv (execBrk s) := .bundle hs .trap

/-! ### `Machine/Arith.lean` -/

theorem binaryLate_keepsInv {f : Word → Word → Word} {d a b : GReg} {la : La} : (binaryLate f d a b la).KeepsInv :=
  .bind issue_keepsInv fun _ => .bind readG_keepsInv fun _ => .bind readG_keepsInv fun _ => late_keepsInv

theorem execBext_inv {s : State} (hs : s.Inv) {d a b : GReg} : Result.Inv (execBext d a b s) := by
  dsimp only [execBext]
  refine .bundle hs (.bind issue_keepsInv fun _ => .bind readG_keepsInv fun _ => .bind readG_keepsInv fun _ => ?_)
  split
  exacts [.trap, writeG_keepsInv]

theorem execBins_inv {s : State} (hs : s.Inv) {d a b : GReg} : Result.Inv (execBins d a b s) := by
  dsimp only [execBins]
  refine .bundle hs (.bind issue_keepsInv fun _ => .bind readG_keepsInv fun _ => .bind readG_keepsInv fun _ => .bind readG_keepsInv fun _ => ?_)
  split
  exacts [.trap, writeG_keepsInv]

theorem execRand_inv {s : State} (hs : s.Inv) {d : GReg} : Result.Inv (execRand d s) :=
  .bundle hs (.bind issue_keepsInv fun _ => .bind .getMe fun _ => .bind .modifyMe fun _ => writeG_keepsInv)

/-! ### `Machine/Events.lean` -/

theorem State.Inv.rcbFlag {s : State} {rcb bit : Nat} {on : Bool} (hs : s.Inv) : (s.rcbFlag rcb bit on).Inv := by
  dsimp only [State.rcbFlag]
  exact State.inv_store _ _ _ hs

theorem State.Inv.charge {s : State} {rcb : Nat} {f : Nat → Nat → Nat} {cores ridges : Nat} (hs : s.Inv) : (s.charge rcb f cores ridges).Inv := by
  dsimp only [State.charge]
  exact .foldl (fun _ _ h => State.inv_store _ _ _ (State.inv_store _ _ _ h)) hs

theorem State.Inv.countUndeliverable {s : State} {rcb n : Nat} (hs : s.Inv) : (s.countUndeliverable rcb n).Inv := by
  dsimp only [State.countUndeliverable]
  exact State.inv_store _ _ _ hs

theorem State.Inv.undeliverable {s : State} {team n : Nat} (hs : s.Inv) : (s.undeliverable team n).Inv := by
  dsimp only [State.undeliverable]
  exact .ite hs (.countUndeliverable hs)

theorem State.Inv.wake0 {s : State} {b : Nat} (hs : s.Inv) : (s.wake0 b).Inv := by
  dsimp only [State.wake0]
  exact .ite (.retireCtx hs) hs

theorem State.Inv.enter {s : State} {b : Nat} {f : Bank → Bank} (hs : s.Inv) : (s.enter b f).Inv := by
  dsimp only [State.enter]
  exact .wake0 hs

theorem State.Inv.wakeRecord {s : State} {team : Nat} {c : CoreId} (hs : s.Inv) : (s.wakeRecord team c).Inv := by
  dsimp only [State.wakeRecord]
  split
  exacts [hs, State.inv_store _ _ _ hs]

theorem State.Inv.enterServed {s : State} {v : Served} {f : Bank → Bank} (hs : s.Inv) : (s.enterServed v f).Inv := by
  dsimp only [State.enterServed]
  exact .ite (.wake0 (.setServedBank hs)) (.wakeRecord (.setServedBank hs))

theorem State.Inv.readyAt {s : State} {v : Served} {addr : Word} (hs : s.Inv) : (s.readyAt v addr).Inv := by
  dsimp only [State.readyAt]
  exact .ite (.enterServed hs) (.undeliverable hs)

theorem State.Inv.decrementAt {s : State} {h : Word} {v : Served} {loc n : Nat} {e : Ending} (hs : s.Inv) : (s.decrementAt h v loc n e).Inv := by
  dsimp only [State.decrementAt]
  exact .ite (.ite (State.inv_store _ _ _ hs) hs) (.ite (.readyAt (.ite (State.inv_store _ _ _ (State.inv_store _ _ _ (.ite (State.inv_store _ _ _
    hs) hs))) (State.inv_store _ _ _ (.ite (State.inv_store _ _ _ hs) hs)))) (.ite (State.inv_store _ _ _ (State.inv_store _ _ _ (.ite
    (State.inv_store _ _ _ hs) hs))) (State.inv_store _ _ _ (.ite (State.inv_store _ _ _ hs) hs))))

theorem State.Inv.succeed {s : State} {part : Nat} {e : Ending} {h : Word} (hs : s.Inv) : (s.succeed part e h).Inv := by
  dsimp only [State.succeed]
  split
  exacts [.decrementAt hs, .postNoctx hs]

theorem State.Inv.succeedAll {s : State} {part : Nat} {e : Ending} {hs : List Word} (inv : s.Inv) : (s.succeedAll part e hs).Inv := by
  dsimp only [State.succeedAll]
  exact .foldl (fun _ _ h => .succeed h) inv

theorem State.Inv.endMember {s : State} {b : Nat} {killed : Bool} (hs : s.Inv) : (s.endMember b killed).Inv := by
  dsimp only [State.endMember]
  split
  exacts [hs, .undeliverable hs]

/-! ### `Machine/Copy.lean` -/

theorem sendRow_keepsInv {d : CopyDesc} {core id : Nat} {dst : Word} {srcs : List Nat} : (sendRow d core id dst srcs).KeepsInv := by
  dsimp only [sendRow]
  refine .get fun _ _ => ?_
  split
  exacts [.pure, .forM fun _ => .bind sendPacket_keepsInv fun _ => .pure]

theorem acceptCopy_keepsInv {page op : Nat} {d : CopyDesc} {rows : List (Word × Word)} : (acceptCopy page op d rows).KeepsInv := by
  unfold acceptCopy
  extract_lets
  refine .when classed_keepsInv fun _ => .get fun _ _ => ?_
  refine .bind (locateAll_accesses _ _).keepsInv fun _ => .bind (locateAll_accesses _ _).keepsInv fun _ => ?_
  refine .bind (awaitOwn_accesses _).keepsInv fun _ => .bind (meet_accesses _ _).keepsInv fun _ => .bind (meet_accesses _ _).keepsInv fun _ => ?_
  refine .bind logMark_keepsInv fun _ => .get fun _ _ => .bind (.forM fun _ => .ite sendRow_keepsInv .pure) fun _ => .get fun _ hs => ?_
  exact .bind (.set (.setCore (.setRidge hs))) fun _ => .pure

theorem launchCopy_keepsInv {page op : Nat} {d : GReg} : (launchCopy page op d).KeepsInv :=
  .bind issue_keepsInv fun _ => .bind .getMe fun _ => .bind .require fun _ => .bind acceptCopy_keepsInv fun _ => writeG_keepsInv

theorem loadBlock_keepsInv {ea : Word} : (loadBlock ea).KeepsInv :=
  .bind aligned_keepsInv fun _ => .bind (loadBytes_accesses _ _ _).keepsInv fun _ => .pure

theorem execCpput_inv {s : State} (hs : s.Inv) {a : GReg} : Result.Inv (execCpput a s) :=
  .bundle hs (.bind issue_keepsInv fun _ => .bind readG_keepsInv fun _ => .bind loadBlock_keepsInv fun _ => .modifyMe)

theorem indexedCopy_keepsInv {op : Nat} {gather : Bool} {d a : GReg} {b : VReg} : (indexedCopy op gather d a b).KeepsInv :=
  .bind issue_keepsInv fun _ => .bind readG_keepsInv fun _ => .bind loadBlock_keepsInv fun _ => .bind readV_keepsInv fun _ => .bind .require fun _ =>
    .bind acceptCopy_keepsInv fun _ => writeG_keepsInv

theorem execCpwait_inv {s : State} (hs : s.Inv) {a : GReg} : Result.Inv (execCpwait a s) :=
  .bundle hs (.bind issue_keepsInv fun _ => .bind readG_keepsInv fun _ => .bind .require fun _ => .get fun _ _ => .bind .require fun _ => .bind
    .await fun _ => .modifyMe)

theorem movedByte_keepsInv {c : Copy} {src dst : Nat} : (movedByte c src dst).KeepsInv := .ite takeByte_keepsInv (.get fun _ _ => .pure)

theorem moveBytes_keepsInv {c : Copy} {moves : List (Nat × Nat)} : (moveBytes c moves).KeepsInv :=
  .get fun _ _ => .bind (.mapM fun _ => movedByte_keepsInv) fun _ => .get fun _ hs' => .bind (.set (.stampEngine (State.inv_storeAt _ _ (.noteOld
    hs')))) fun _ => .pure

theorem execCopyComplete_inv {s : State} (hs : s.Inv) {n : Nat} : Result.Inv (execCopyComplete n s) := by
  dsimp only [execCopyComplete]
  refine .step hs (.get fun _ hs => ?_)
  split
  exacts [.stall, .bind .await fun _ => .bind meetEngine_keepsInv fun _ => .bind (.set hs) fun _ => .bind moveBytes_keepsInv fun _ => .get fun _ hs
    => .set (.onSeat hs)]

theorem execCopyInterrupt_inv {s : State} (hs : s.Inv) : Result.Inv (execCopyInterrupt s) := by
  dsimp only [execCopyInterrupt]
  refine .step hs (.get fun _ _ => .bind .await fun _ => ?_)
  split
  exacts [.stall, .bind .modifyMe fun _ => .modify fun _ h => .takeTrap h]

theorem execDoneWordPush_inv {s : State} (hs : s.Inv) : Result.Inv (execDoneWordPush s) := by
  dsimp only [execDoneWordPush]
  refine .step hs (.bind .getMe fun _ => ?_)
  split
  exacts [.stall, .bind .await fun _ => .modifyMe]

/-! ### `Machine/Tasks.lean` -/

theorem execMsend_inv {s : State} (hs : s.Inv) {a b : GReg} : Result.Inv (execMsend a b s) :=
  .bundle hs (.bind issue_keepsInv fun _ => .bind readG_keepsInv fun _ => .bind readG_keepsInv fun _ => .get fun _ _ => .bind .require fun _ => .bind
    .await fun _ => .bind logMark_keepsInv fun _ => .bind .modifyMe fun _ => .bind .modifyBank fun _ => .modify fun _ h => h)

theorem execHset_inv {s : State} (hs : s.Inv) {a : GReg} {imm : Nat} : Result.Inv (execHset a imm s) := by
  dsimp only [execHset]
  refine .bundle hs (.bind issue_keepsInv fun _ => .bind readG_keepsInv fun _ => .bind .require fun _ => .get fun _ hs => ?_)
  split
  exacts [.modifyBank, .set (.foldl (fun _ _ h => h) (.foldl (fun _ _ h => h) hs))]

theorem State.Inv.pushTask {s : State} {b : Nat} {p : List Byte} (hs : s.Inv) : (s.pushTask b p).Inv := by
  dsimp only [State.pushTask]
  exact .enter (.ite (Memory.wf_writes _ _ hs) hs)

theorem execSpawn_inv {s : State} (hs : s.Inv) {a : GReg} : Result.Inv (execSpawn a s) :=
  .bundle hs (.bind issue_keepsInv fun _ => .bind readG_keepsInv fun _ => .bind (loadPacket_accesses _).keepsInv fun _ => .get fun _ _ => .bind
    .require fun _ => .bind .await fun _ => .bind logMark_keepsInv fun _ => .modify fun _ h => .ite (.undeliverable h) (.pushTask h))

theorem recordFor_keepsInv {h : Word} : (recordFor h).KeepsInv := by
  dsimp only [recordFor]
  refine .get fun _ _ => ?_
  split
  exacts [.raise, .bind .await fun _ => .pure]

theorem publish_keepsInv {op : Nat} {owner : CoreId} : (publish op owner).KeepsInv :=
  .get fun _ _ => .bind .await fun _ => .get fun _ _ => .ite logMark_keepsInv .pure

theorem execCdarm_inv {s : State} (hs : s.Inv) {a b : GReg} : Result.Inv (execCdarm a b s) :=
  .bundle hs (.bind issue_keepsInv fun _ => .bind readG_keepsInv fun _ => .bind readG_keepsInv fun _ => .bind .require fun _ => .bind
    recordFor_keepsInv fun _ => .bind publish_keepsInv fun _ => .modify fun _ h => .ite (State.inv_store _ _ _ (State.inv_store _ _ _
    (State.inv_store _ _ _ h))) (.ite (.readyAt (State.inv_store _ _ _ (State.inv_store _ _ _ h))) (State.inv_store _ _ _ (State.inv_store _ _ _ h))))

theorem execCddec_inv {s : State} (hs : s.Inv) {a b : GReg} : Result.Inv (execCddec a b s) :=
  .bundle hs (.bind issue_keepsInv fun _ => .bind readG_keepsInv fun _ => .bind readG_keepsInv fun _ => .bind .require fun _ => .bind
    recordFor_keepsInv fun _ => .bind publish_keepsInv fun _ => .modify fun _ h => .decrementAt h)

theorem execJwait_inv {s : State} (hs : s.Inv) {d a : GReg} : Result.Inv (execJwait d a s) :=
  .bundle hs (.bind issue_keepsInv fun _ => .bind readG_keepsInv fun _ => .ite .raise_bind (.bind recordFor_keepsInv fun _ => .bind
    (awaitOwn_accesses _).keepsInv fun _ => .get fun _ _ => .bind .await fun _ => .bind (consume_accesses _).keepsInv fun _ => .bind .modifyMe fun _
    => writeG_keepsInv))

/-! ### `Machine/Trail.lean` -/

theorem State.Inv.unwind {s : State} {base : Nat} {x : Ctx} {from_ : Nat} (hs : s.Inv) : (s.unwind base x from_).1.Inv := by
  dsimp only [State.unwind]
  exact .foldl (fun _ _ h => .stampHomes (State.inv_store _ _ _ h)) hs

theorem tryStep_keepsInv {stealable : Bool} {a b : GReg} : (tryStep stealable a b).KeepsInv :=
  .bind issue_keepsInv fun _ => .bind readG_keepsInv fun _ => .bind readG_keepsInv fun _ => .bind .require fun _ => .bind (.mapM fun _ =>
    readG_keepsInv) fun _ => .get fun _ _ => .bind pushTrail_keepsInv fun _ => .modifyMe

theorem undoItem_keepsInv {i : Nat × Word} : (undoItem i).KeepsInv :=
  .get fun _ _ => .ite (.bind (locate_accesses _ _ _).keepsInv fun _ => .bind (meet_accesses _ _).keepsInv fun _ => .bind perform_keepsInv fun _ =>
    .modifyMe) (.when .modifyMe fun _ => .modifyMe)

theorem failStart_keepsInv : failStart.KeepsInv := by
  dsimp only [failStart]
  refine .get fun _ _ => .bind .await fun _ => ?_
  split
  · exact .trap
  · split
    · exact .raise_bind
    · split
      exacts [.raise_bind, .pure]

theorem failEnter_keepsInv {c : Nat} : (failEnter c).KeepsInv :=
  .get fun _ _ => .bind .await fun _ => .get fun _ _ => .bind (loadWord_accesses _ _).keepsInv fun _ => .get fun _ _ => .bind (.modify fun _ h =>
    State.inv_store _ _ _ h) fun _ => .modifyMe

theorem undoAll_ok_inv {is : List (Nat × Word)} {s t : State} (hs : s.Inv) (h : undoAll is s = .ok t) : t.Inv := by
  induction is generalizing s with
  | nil => cases h; exact hs
  | cons i is ih =>
    unfold undoAll at h
    split at h
    next hi => exact ih (undoItem_keepsInv _ _ _ hi hs) h
    next => cases h

theorem undoAll_error_inv {is : List (Nat × Word)} {s t : State} {e : Stop} (hs : s.Inv) (h : undoAll is s = .error (e, t)) : t.Inv := by
  induction is generalizing s with
  | nil => cases h
  | cons i is ih =>
    unfold undoAll at h
    split at h
    next hi => exact ih (undoItem_keepsInv _ _ _ hi hs) h
    next => cases h; exact hs

theorem execFail_inv {s : State} (hs : s.Inv) : Result.Inv (execFail s) := by
  dsimp only [execFail]
  split
  · exact .bundle hs .throw
  next h =>
    have hu := failStart_keepsInv _ _ _ h hs
    split
    next h => exact .bundle (undoAll_error_inv hu h) .throw
    next h => exact .bundle (.setMe (undoAll_ok_inv hu h)) failEnter_keepsInv

theorem State.Inv.cutTo {s : State} {m : Nat} (hs : s.Inv) : (s.cutTo m).Inv := by
  dsimp only [State.cutTo]
  exact .foldl (fun _ _ h => State.inv_store _ _ _ h) hs

theorem execCut_inv {s : State} (hs : s.Inv) {a : GReg} : Result.Inv (execCut a s) :=
  .bundle hs (.bind issue_keepsInv fun _ => .bind readG_keepsInv fun _ => .get fun _ _ => .bind .require fun _ => .modify fun _ h => .cutTo h)

theorem execMark_inv {s : State} (hs : s.Inv) {d : GReg} : Result.Inv (execMark d s) :=
  .bundle hs (.bind issue_keepsInv fun _ => .bind .getMe fun _ => writeG_keepsInv)

theorem execOtask_inv {s : State} (hs : s.Inv) {d a : GReg} : Result.Inv (execOtask d a s) :=
  .bundle hs (.bind issue_keepsInv fun _ => .bind readG_keepsInv fun _ => .bind readG_keepsInv fun _ => .bind readG_keepsInv fun _ => .bind
    (loadPacket_accesses _).keepsInv fun _ => .get fun _ _ => .bind .require fun _ => .bind .await fun _ => .ite (.bind .await fun _ => .bind
    pushTrail_keepsInv fun _ => .get fun _ hs => .set (.ite (.undeliverable hs) (.enter hs))) (.get fun _ hs => .set (.ite (.undeliverable hs)
    (.enter hs))))

theorem endTask_inv {s : State} (hs : s.Inv) : Result.Inv (endTask s) := by
  dsimp only [endTask]
  split
  exacts [.bundle hs .trap, .next hs]

theorem execOend_inv {s : State} (hs : s.Inv) : Result.Inv (execOend s) := endTask_inv hs

theorem State.Inv.undoTask {s : State} {base : Nat} {x : Ctx} {t : Machine.Task} (hs : s.Inv) : (s.undoTask base x t).1.Inv := by
  dsimp only [State.undoTask]
  exact .unwind hs

theorem execOhoriz_inv {s : State} (hs : s.Inv) {d : GReg} : Result.Inv (execOhoriz d s) :=
  .bundle hs (.bind issue_keepsInv fun _ => .get fun _ _ => .bind writeG_keepsInv fun _ => writeG_keepsInv)

/-! ### `Machine/Teams.lean` -/

theorem State.Inv.countEnded {s : State} {k : Team} (hs : s.Inv) : (s.countEnded k).Inv := by
  dsimp only [State.countEnded]
  split
  exacts [hs, .ite hs (.charge (.ite hs (State.inv_store _ _ _ hs)))]

theorem State.Inv.vacate {s : State} {b : Nat} (hs : s.Inv) : (s.vacate b).Inv := by
  dsimp only [State.vacate]
  exact .setBank (.foldl (fun _ _ h => .setCtx h) (.foldl (fun _ _ h => .quitRope (.leaveSprint (.endLease h))) hs))

theorem State.Inv.endTeam {s : State} {t : Nat} (hs : s.Inv) : (s.endTeam t).Inv := by
  dsimp only [State.endTeam]
  exact .countEnded (.foldl (fun _ _ h => .vacate h) hs)

theorem State.Inv.tryEndTeam {s : State} {t : Nat} (hs : s.Inv) : (s.tryEndTeam t).Inv := by
  dsimp only [State.tryEndTeam]
  exact .ite (.endTeam hs) hs

theorem State.Inv.settleTeam {s : State} {b : Nat} (hs : s.Inv) : (s.settleTeam b).Inv := by
  dsimp only [State.settleTeam]
  split
  exacts [.tryEndTeam hs, hs]

theorem awaitSuccessors_keepsInv {c : CtxId} : (awaitSuccessors c).KeepsInv := .get fun _ _ => .await

theorem State.Inv.endEvent {s : State} {c : CtxId} {e : Ending} (hs : s.Inv) : (s.endEvent c e).Inv := by
  dsimp only [State.endEvent]
  exact .quitRope (.succeedAll hs)

theorem State.Inv.exitMember {s : State} {c : CtxId} {killed : Bool} (hs : s.Inv) : (s.exitMember c killed).Inv := by
  dsimp only [State.exitMember]
  exact .endMember (.recordState (.quitRope (.leaveSprint hs)))

theorem State.Inv.enterTeam {s : State} {c : CoreId} {t : Nat} {f : Bank → Bank} (hs : s.Inv) : (s.enterTeam c t f).Inv := by
  dsimp only [State.enterTeam]
  split
  exacts [.ite (.enterServed hs) (.undeliverable hs), .undeliverable hs]

theorem awaitUndo_keepsInv {base : Nat} {x : Ctx} {t : Machine.Task} : (awaitUndo base x t).KeepsInv :=
  .get fun _ _ => .bind .await fun _ => .bind .await fun _ => .ite .throw .pure

theorem State.Inv.retireTask {s : State} {c : CtxId} {x : Ctx} (hs : s.Inv) : (s.retireTask c x).Inv := by
  dsimp only [State.retireTask]
  exact .quitRope hs

theorem execOabort_inv {s : State} (hs : s.Inv) : Result.Inv (execOabort s) := by
  unfold execOabort
  extract_lets x
  split
  · exact .bundle hs .trap
  next r _ =>
    split
    · exact .bundle hs .throw
    · extract_lets u t s₁ s₂ _ s₃ s₄
      have h₁ : s₁.Inv := .setTeam (.undoTask hs)
      have h₃ : s₃.Inv := .retireTask (.retire h₁)
      have h₄ : s₄.Inv := .settleTeam h₃
      exact .next (.of_mem h₄ rfl)

theorem State.Inv.finishTask {s : State} {part : Nat} {t : Machine.Task} {e : Ending} (hs : s.Inv) : (s.finishTask part t e).Inv := by
  dsimp only [State.finishTask]
  exact .succeedAll hs

theorem execOtaskCommit_inv {s : State} (hs : s.Inv) : Result.Inv (execOtaskCommit s) := by
  dsimp only [execOtaskCommit]
  refine .step hs (.get fun _ hs => ?_)
  split
  · exact .bind .await fun _ => .bind .await fun _ => .set (.settleTeam (.retireTask (.retireCtx (.finishTask hs))))
  · split
    exacts [.stall, .bind .await fun _ => .set (.tryEndTeam (.succeedAll hs))]

theorem State.Inv.requeueAt {s : State} {c : CoreId} {t : Machine.Task} (hs : s.Inv) : (s.requeueAt c t).Inv := by
  dsimp only [State.requeueAt]
  exact .enterTeam hs

theorem execTaskAbort_inv {s : State} (hs : s.Inv) : Result.Inv (execTaskAbort s) := by
  unfold execTaskAbort
  refine .step hs (.get fun s hs => ?_)
  extract_lets x
  split
  next r _ =>
    refine .bind .await fun _ => .bind awaitUndo_keepsInv fun _ => ?_
    extract_lets u _ s₁ s₂
    have h₁ : s₁.Inv := .retireTask (.undoTask hs)
    have h₂ : s₂.Inv := .ite h₁ (.requeueAt h₁)
    exact .set (.settleTeam h₂)
  · split
    · exact .stall
    next y r _ =>
      refine .bind awaitUndo_keepsInv fun _ => ?_
      extract_lets u z s₁ s₂
      have h₁ : s₁.Inv := .undoTask hs
      have h₂ : s₂.Inv := .writeAreas (.of_mem h₁ rfl)
      exact .set (.ite h₂ (.requeueAt h₂))

/-! ### `Machine/Fabric.lean` -/

theorem remoteSpans_keepsInv {k : Nat} {va : Word} {off n : Nat} : (remoteSpans k va off n).KeepsInv := by
  induction k generalizing va off n with
  | zero => exact .pure
  | succ k ih =>
    unfold remoteSpans
    refine .ite .pure (.get fun _ _ => .ite .trap_bind ?_)
    exact .bind (translate_accesses _ _).keepsInv fun _ => .bind .require fun _ => .bind .require fun _ => .bind ih fun _ => .pure

theorem streamAperture_keepsInv {ea : Word} {n : Nat} : (streamAperture ea n).KeepsInv := by
  dsimp only [streamAperture]
  refine .get fun _ _ => ?_
  split
  · exact .raise
  · split
    exacts [.ite .raise .pure, .pure]

theorem spans_keepsInv {ea : Word} {n : Nat} : (spans ea n).KeepsInv := .ite (.bind streamAperture_keepsInv fun _ => .pure) remoteSpans_keepsInv
theorem beforeStream_keepsInv {op : Nat} : (beforeStream op).KeepsInv := .bind awaitEarliest_keepsInv fun _ => logMark_keepsInv

theorem sendStore_keepsInv {routed : Bool} {ps : List Span} {data : List Byte} {sid cls : Nat} : (sendStore routed ps data sid cls).KeepsInv :=
  .forM fun _ => .bind sendPacket_keepsInv fun _ => .pure

theorem streamStore_keepsInv {op : Nat} {ea : Word} {data : List Byte} {sid cls : Nat} : (streamStore op ea data sid cls).KeepsInv :=
  .bind classed_keepsInv fun _ => .bind aligned_keepsInv fun _ => .bind spans_keepsInv fun _ => .bind beforeStream_keepsInv fun _ =>
    sendStore_keepsInv

theorem execRst_inv {s : State} (hs : s.Inv) {d a : GReg} {imm : Int} {sid : Fin 64} {cls : Fin 4} : Result.Inv (execRst d a imm sid cls s) :=
  .bundle hs (.bind issue_keepsInv fun _ => .bind readG_keepsInv fun _ => .bind readG_keepsInv fun _ => streamStore_keepsInv)

theorem execRstv_inv {s : State} (hs : s.Inv) {d : VReg} {a : GReg} {imm : Int} {sid : Fin 64} {cls : Fin 4} : Result.Inv (execRstv d a imm sid cls
    s) :=
  .bundle hs (.bind issue_keepsInv fun _ => .bind readG_keepsInv fun _ => .bind readV_keepsInv fun _ => streamStore_keepsInv)

theorem execRstm_inv {s : State} (hs : s.Inv) {a b : GReg} {sid : Fin 64} {cls : Fin 4} : Result.Inv (execRstm a b sid cls s) :=
  .bundle hs (.bind issue_keepsInv fun _ => .bind readG_keepsInv fun _ => .bind readG_keepsInv fun _ => .bind classed_keepsInv fun _ => .bind
    aligned_keepsInv fun _ => .bind (loadBytes_accesses _ _ _).keepsInv fun _ => .bind .require fun _ => .bind spans_keepsInv fun _ => .bind
    (loadBytes_accesses _ _ _).keepsInv fun _ => .bind beforeStream_keepsInv fun _ => sendStore_keepsInv)

theorem remoteAtomic_keepsInv {op size : Nat} {d : GReg} {la : La} {ea : Word} {body : Word → PacketBody} {sid cls : Nat} : (remoteAtomic op size d
    la ea body sid cls).KeepsInv := by
  dsimp only [remoteAtomic]
  refine .bind classed_keepsInv fun _ => .bind aligned_keepsInv fun _ => .bind spans_keepsInv fun _ => .bind beforeStream_keepsInv fun _ => ?_
  split
  exacts [.bind .getMe fun _ => .bind sendPacket_keepsInv fun _ => late_keepsInv, .pure]

theorem atomicB_keepsInv {op size : Nat} {d a b : GReg} {la : La} {body : Word → Word → PacketBody} {sid cls : Nat} :
    (atomicB op size d a b la body sid cls).KeepsInv :=
  .bind issue_keepsInv fun _ => .bind readG_keepsInv fun _ => .bind readG_keepsInv fun _ => remoteAtomic_keepsInv

theorem execRacas_inv {s : State} (hs : s.Inv) {d a : GReg} {la : La} {sid : Fin 64} {cls : Fin 4} : Result.Inv (execRacas d a la sid cls s) :=
  .bundle hs (.bind issue_keepsInv fun _ => .bind readG_keepsInv fun _ => .bind readG_keepsInv fun _ => .bind readG_keepsInv fun _ =>
    remoteAtomic_keepsInv)

theorem execRbegin_inv {s : State} (hs : s.Inv) : Result.Inv (execRbegin s) :=
  .bundle hs (.bind issue_keepsInv fun _ => .bind awaitEarliest_keepsInv fun _ => .bind .getMe fun _ => .bind .require fun _ => .bind (.mapM fun _ =>
    readG_keepsInv) fun _ => .get fun _ _ => .bind pushTrail_keepsInv fun _ => .modifyMe)

theorem releaseRegion_keepsInv {r : Region} : (releaseRegion r).KeepsInv :=
  .get fun _ hs => .ite .modifyMe (.bind (.set (State.inv_store _ _ _ hs)) fun _ => .bind .modifyMe fun _ => .ite pushTrail_keepsInv .pure)

theorem execRcommit_inv {s : State} (hs : s.Inv) : Result.Inv (execRcommit s) := by
  dsimp only [execRcommit]
  refine .bundle hs (.bind awaitEarliest_keepsInv fun _ => .bind .getMe fun _ => ?_)
  split
  exacts [.trap, .get fun _ _ => .bind .await fun _ => releaseRegion_keepsInv]

theorem destOf_keepsInv {w : Word} {names : Bool} : (destOf w names).KeepsInv :=
  .get fun _ _ => .bind .require fun _ => .ite (.bind .require fun _ => .pure) (.bind .require fun _ => .bind .require fun _ => .pure)

theorem execRreq_inv {s : State} (hs : s.Inv) {d a b : GReg} : Result.Inv (execRreq d a b s) := by
  dsimp only [execRreq]
  refine .bundle hs ?_
  refine .bind issue_keepsInv fun _ => .bind readG_keepsInv fun _ => .bind readG_keepsInv fun _ => .bind destOf_keepsInv fun _ => .bind
    awaitEarliest_keepsInv fun _ => .bind loadBlock_keepsInv fun _ => .bind .require fun _ => .get fun _ _ => ?_
  split
  exacts [.stall, .bind logMark_keepsInv fun _ => .get fun _ _ => .bind .modifyCore fun _ => .bind (.modify fun _ h => .spray h) fun _ =>
    writeG_keepsInv]

theorem entrySpans_keepsInv {ea : Word} {n : Nat} : (entrySpans ea n).KeepsInv := fun s r t h => by
  unfold entrySpans at h
  split at h
  · exact M.KeepsInv.raise _ _ _ h
  · split at h
    · split at h
      · exact M.KeepsInv.raise _ _ _ h
      · cases h
    · exact remoteSpans_keepsInv _ _ _ h

theorem execRsl_inv {s : State} (hs : s.Inv) {a b : GReg} : Result.Inv (execRsl a b s) := by
  dsimp only [execRsl]
  refine .bundle hs ?_
  refine .bind issue_keepsInv fun _ => .bind readG_keepsInv fun _ => .bind readG_keepsInv fun _ => .bind .getMe fun _ => .bind .require fun _ =>
    .bind destOf_keepsInv fun _ => .get fun _ _ => .bind .require fun _ => .bind aligned_keepsInv fun _ => .bind (loadBytes_accesses _ _ _).keepsInv
    fun _ => ?_
  split
  exacts [.trap, .bind (.keepPins entrySpans_keepsInv) fun _ => .bind .require fun _ => .bind .await fun _ => .bind beforeStream_keepsInv fun _ =>
    .modify fun _ h => h]

theorem entryData_keepsInv {e : SendEntry × Nat} : (entryData e).KeepsInv :=
  .bind (loadBytes_accesses _ _ _).keepsInv fun _ => .bind spans_keepsInv fun _ => .get fun _ _ => .pure

theorem execRslgo_inv {s : State} (hs : s.Inv) : Result.Inv (execRslgo s) :=
  .bundle hs (.bind .getMe fun _ => .bind .require fun _ => .bind beforeStream_keepsInv fun _ => .get fun _ _ => .bind (.mapM fun _ =>
    entryData_keepsInv) fun _ => .bind (.forM fun _ => sendStore_keepsInv) fun _ => .modify fun _ h => h)

theorem sendCounter_keepsInv {op : Nat} {w : Word} {body : PacketBody} {sid cls : Nat} : (sendCounter op w body sid cls).KeepsInv :=
  .bind classed_keepsInv fun _ => .bind destOf_keepsInv fun _ => .bind .getMe fun _ => .bind .require fun _ => .bind beforeStream_keepsInv fun _ =>
    .bind sendPacket_keepsInv fun _ => .pure

theorem execRsetc_inv {s : State} (hs : s.Inv) {a b : GReg} {sid : Fin 64} {cls : Fin 4} : Result.Inv (execRsetc a b sid cls s) :=
  .bundle hs (.bind issue_keepsInv fun _ => .bind readG_keepsInv fun _ => .bind readG_keepsInv fun _ => sendCounter_keepsInv)

theorem execRclose_inv {s : State} (hs : s.Inv) {a b : GReg} {sid : Fin 64} {cls : Fin 4} : Result.Inv (execRclose a b sid cls s) :=
  .bundle hs (.bind issue_keepsInv fun _ => .bind readG_keepsInv fun _ => .bind readG_keepsInv fun _ => .bind .require fun _ => sendCounter_keepsInv)

/-! ### `Machine/Slices.lean` -/

theorem gatherLocs_keepsInv {base : Word} {size : Nat} {x : Int} : (gatherLocs base size x).KeepsInv :=
  .ite .pure (.ite .raise (.bind (locate_accesses _ _ _).keepsInv fun _ => .pure))

theorem gatherElem_keepsInv {locs : Option (List Nat)} : (gatherElem locs).KeepsInv := by
  dsimp only [gatherElem]
  split
  exacts [.pure, .bind (awaitOwn_accesses _).keepsInv fun _ => .bind (readBytes_accesses _).keepsInv fun _ => .pure]

theorem execSgath_inv {s : State} (hs : s.Inv) {d : VReg} {a : GReg} {b : VReg} {q : QType} {la : La} : Result.Inv (execSgath d a b q la s) :=
  .bundle hs (.bind .require fun _ => .bind issue_keepsInv fun _ => .bind readG_keepsInv fun _ => .bind readV_keepsInv fun _ => .get fun _ _ => .bind
    (.underPins fun _ => gatherLocs_keepsInv) fun _ => .bind (.mapM fun _ => gatherElem_keepsInv) fun _ => late_keepsInv)

theorem atomicStep_keepsInv {size : Nat} {f : Nat → Word → Nat} {signed : Bool} {d : GReg} {x : Word} {la : La} {ea : Word} : (atomicStep size f
    signed d x la ea).KeepsInv :=
  .bind aligned_keepsInv fun _ => .ite .raise_bind (.bind strongWindow_keepsInv fun _ => .bind (locate_accesses _ _ _).keepsInv fun _ => .bind
    (awaitOwn_accesses _).keepsInv fun _ => .bind (meet_accesses _ _).keepsInv fun _ => .bind refuseMixed_keepsInv fun _ => .bind (consume_accesses
    _).keepsInv fun _ => .bind logStore_keepsInv fun _ => .get fun _ _ => .bind performStrong_keepsInv fun _ => late_keepsInv)

theorem sliceAtomic_keepsInv {f : Nat → Nat → Word → Nat} {signed : Bool} {d a b : GReg} {q : QType} {la : La} : (sliceAtomic f signed d a b q
    la).KeepsInv :=
  .bind .require fun _ => .bind issue_keepsInv fun _ => .bind readG_keepsInv fun _ => .bind readG_keepsInv fun _ => atomicStep_keepsInv

theorem execAfadd_inv {s : State} (hs : s.Inv) {d a b : GReg} {q : QType} {la : La} : Result.Inv (execAfadd d a b q la s) :=
  .bundle hs (.bind .require fun _ => .bind issue_keepsInv fun _ => .bind readG_keepsInv fun _ => .bind readG_keepsInv fun _ => atomicStep_keepsInv)

theorem execAcas_inv {s : State} (hs : s.Inv) {d a : GReg} {q : QType} {la : La} : Result.Inv (execAcas d a q la s) :=
  .bundle hs (.bind .require fun _ => .bind issue_keepsInv fun _ => .bind readG_keepsInv fun _ => .bind readG_keepsInv fun _ => .bind readG_keepsInv
    fun _ => atomicStep_keepsInv)

/-! ### `Machine/Commit.lean` -/

theorem State.Inv.onIssuer {s : State} {p : Packet} {f : Ctx → Ctx} (hs : s.Inv) : (s.onIssuer p f).Inv := by
  dsimp only [State.onIssuer]
  exact .onSeat hs

theorem State.Inv.acknowledge {s : State} {p : Packet} (hs : s.Inv) : (s.acknowledge p).Inv := by
  dsimp only [State.acknowledge]
  split
  exacts [State.inv_store _ _ _ (.onIssuer hs), .onIssuer hs]

theorem State.Inv.dropResult {s : State} {p : Packet} (hs : s.Inv) : (s.dropResult p).Inv := by
  dsimp only [State.dropResult]
  split
  · split
    exacts [.onIssuer (.onIssuer hs), .onPlace (.onIssuer hs), .onIssuer hs]
  · exact hs

theorem State.Inv.deliverSaved {s : State} {r : Nat} {q : Pending} (hs : s.Inv) : (s.deliverSaved r q).Inv := by
  dsimp only [State.deliverSaved]
  split
  exacts [.onPlace hs, hs, .ite hs (State.inv_store _ _ _ hs)]

theorem State.Inv.settlePacket {s : State} {p : Packet} {st : PacketState} {result : Word} (hs : s.Inv) : (s.settlePacket p st result).Inv := by
  dsimp only [State.settlePacket]
  exact .ite hs hs

theorem State.Inv.countAt {s : State} {part off : Nat} (hs : s.Inv) : (s.countAt part off).Inv := by
  dsimp only [State.countAt]
  exact State.inv_store _ _ _ hs

theorem takeWord_keepsInv : takeWord.KeepsInv := .bind (.mapM fun _ => takeByte_keepsInv) fun _ => .pure

theorem meetCommit_keepsInv {p : Packet} {locs : List Nat} : (meetCommit p locs).KeepsInv := by
  dsimp only [meetCommit]
  refine .get fun _ _ => .bind .await fun _ => ?_
  split
  exacts [.await, .bind .await fun _ => .ite .throw .pure]

theorem commitMixed_keepsInv {p : Packet} {locs : List Nat} : (commitMixed p locs).KeepsInv := .ite (.get fun _ _ => scramble_keepsInv) .pure

theorem commitBytes_keepsInv {p : Packet} {locs : List Nat} : (commitBytes p locs).KeepsInv := by
  dsimp only [commitBytes]
  split
  · refine .get fun _ hs => ?_
    split
    exacts [.modify fun _ h => .stampHomes h, .bind meetEngine_keepsInv fun _ => .bind moveBytes_keepsInv fun _ => .ite (.get fun _ hs => .bind (.set
      hs) fun _ => .modify fun _ h => .stampHomes h) (.modify fun _ h => .stampHomes h)]
  · exact .bind (.modify fun _ h => State.inv_storeAt _ _ (.noteOld h)) fun _ => .modify fun _ h => .stampHomes h
  · exact .bind (.modify fun _ h => State.inv_storeAt _ _ (.noteOld h)) fun _ => .modify fun _ h => .stampHomes h
  · exact .modify fun _ h => .stampHomes h

theorem bumpCounter_keepsInv {loc : Nat} {f : Nat → Nat} : (bumpCounter loc f).KeepsInv :=
  .get fun _ hs => .bind (.set (State.inv_store _ _ _ hs)) fun _ => .pure

theorem refusePacket_keepsInv {p : Packet} : (refusePacket p).KeepsInv := .modify fun _ h => .settlePacket h

theorem State.Inv.arrivalEvent {s : State} {c : CoreId} {p : Packet} {hid : Nat} {addr : Word} {new : Nat} (hs : s.Inv) : (s.arrivalEvent c p hid
    addr new).Inv := by
  dsimp only [State.arrivalEvent]
  exact .enterTeam hs

theorem State.Inv.advance {s : State} {p : Packet} {result : Option Word} (hs : s.Inv) : (s.advance p result).Inv := hs

theorem commitCounted_keepsInv {p : Packet} {counter : Option (CoreId × Nat)} : (commitCounted p counter).KeepsInv := by
  unfold commitCounted
  extract_lets bump stored atomic j
  have hbump {f} : (bump f).KeepsInv := by
    unfold bump
    split
    exacts [bumpCounter_keepsInv, .pure]
  have hstored {a n} : (stored a n).KeepsInv := by
    refine .get fun _ _ => ?_
    split
    · exact refusePacket_keepsInv
    · exact .bind meetCommit_keepsInv fun _ => .bind commitBytes_keepsInv fun _ => .bind commitMixed_keepsInv fun _ => .bind hbump fun _ =>
        .modify fun _ h => .settlePacket (.advance h)
  have hatomic {a n f} : (atomic a n f).KeepsInv := by
    refine .get fun _ _ => ?_
    split
    · exact refusePacket_keepsInv
    next locs _ =>
      refine .bind meetCommit_keepsInv fun _ => .get fun s hs => ?_
      extract_lets old bad s₁ s₂ w
      have h₁ : s₁.Inv := .stampHomes (State.inv_storeAt _ _ (.noteOld hs))
      have h₂ : s₂.Inv := by
        unfold s₂
        clear_value bad
        split
        exacts [.onIssuer h₁, h₁]
      exact .bind (.set h₂) fun _ => .bind commitMixed_keepsInv fun _ => .modify fun _ h => .settlePacket (.advance h)
  clear_value bump stored atomic
  have hj a : (j a).KeepsInv := by
    unfold j
    split
    case h_1 | h_2 | h_3 => exact hstored
    case h_4 | h_5 | h_6 | h_7 => exact hatomic
    · exact .bind hbump fun _ => .modify fun _ h => .settlePacket (.advance h)
    · exact .pure
    · refine .bind hbump fun new => .get fun s hs => ?_
      extract_lets a s₁ s₂
      have h₁ : s₁.Inv := by
        unfold s₁
        split
        exacts [.ite (.arrivalEvent hs) hs, hs]
      have h₂ : s₂.Inv := by
        unfold s₂
        refine .ite ?_ h₁
        split
        exacts [.setCore h₁, h₁]
      exact .set (.settlePacket (.advance h₂))
  clear_value j
  split
  exacts [.bind meetCommit_keepsInv hj, hj _]

theorem commitHere_keepsInv {p : Packet} : (commitHere p).KeepsInv := by
  dsimp only [commitHere]
  refine .get fun _ hs => .ite refusePacket_keepsInv (.ite (.set (.countAt (.settlePacket hs))) ?_)
  refine .ite ?_ ?_
  · refine .ite ?_ (.set (.settlePacket hs))
    split
    exacts [.set (.settlePacket hs), refusePacket_keepsInv]
  · refine .ite (.set (.countAt (.settlePacket hs))) (.bind .await fun _ => .ite commitCounted_keepsInv ?_)
    split
    exacts [refusePacket_keepsInv, commitCounted_keepsInv]

theorem commitAway_keepsInv {p : Packet} : (commitAway p).KeepsInv := by
  dsimp only [commitAway]
  refine .get fun _ hs => ?_
  refine .ite ?_ (.bind .await fun _ => .ite (.bind takeWord_keepsInv fun _ => .modify fun _ h => .settlePacket h) (.set (.settlePacket hs)))
  split
  exacts [.set (.settlePacket hs), refusePacket_keepsInv, .set (.settlePacket hs)]

theorem messageTaken_keepsInv {p : Packet} {m : Message} : (messageTaken p m).KeepsInv :=
  .get fun _ hs => .bind .await fun _ => .set (.contourReceived hs)

theorem execStreamCommit_inv {s : State} (hs : s.Inv) {packet : Nat} : Result.Inv (execStreamCommit packet s) := by
  dsimp only [execStreamCommit]
  refine .step hs (.get fun _ _ => ?_)
  split
  · exact .stall
  · refine .bind .await fun _ => ?_
    split
    exacts [messageTaken_keepsInv, .ite commitHere_keepsInv commitAway_keepsInv]

theorem execStreamAck_inv {s : State} (hs : s.Inv) {packet : Nat} : Result.Inv (execStreamAck packet s) := by
  dsimp only [execStreamAck]
  refine .step hs (.get fun _ hs => ?_)
  split
  exacts [.stall, .bind .await fun _ => .set (.acknowledge (.dropResult hs))]

theorem execRemoteAtomicResult_inv {s : State} (hs : s.Inv) {packet : Nat} : Result.Inv (execRemoteAtomicResult packet s) := by
  dsimp only [execRemoteAtomicResult]
  refine .step hs (.get fun _ hs => ?_)
  split
  · exact .stall
  · refine .bind .await fun _ => .set (.acknowledge ?_)
    split
    · split
      exacts [.deliver hs, hs]
    · split
      exacts [.deliverSaved hs, hs]
    · exact hs

theorem State.Inv.countFailed {s : State} {p : Packet} (hs : s.Inv) : (s.countFailed p).Inv := by
  dsimp only [State.countFailed]
  exact .ite hs hs

theorem execFabricFailure_inv {s : State} (hs : s.Inv) {packet : Nat} : Result.Inv (execFabricFailure packet s) := by
  dsimp only [execFabricFailure]
  refine .step hs (.get fun _ hs => ?_)
  split
  · exact .stall
  · split
    exacts [.set (.contourReceived (.onIssuer (.countFailed hs))), .ite (.bind .await fun _ => .set (.onIssuer (.countFailed hs))) (.set
      (.acknowledge (.dropResult (.showStreams (.onIssuer (.countFailed hs))))))]

theorem execStreamGapTimeout_inv {s : State} (hs : s.Inv) {packet : Nat} : Result.Inv (execStreamGapTimeout packet s) := by
  dsimp only [execStreamGapTimeout]
  refine .step hs (.get fun _ hs => ?_)
  split
  exacts [.stall, .bind .await fun _ => .set (.countAt (.settlePacket hs))]

theorem execBrokenStreamClear_inv {s : State} (hs : s.Inv) {sid : Nat} {dest : Dest} : Result.Inv (execBrokenStreamClear sid dest s) :=
  .step hs .modifyMe

theorem execRequestArrive_inv {s : State} (hs : s.Inv) {n : Nat} : Result.Inv (execRequestArrive n s) := by
  dsimp only [execRequestArrive]
  refine .step hs (.get fun _ hs => ?_)
  split
  · exact .stall
  · refine .bind .await fun _ => ?_
    split
    exacts [.bind .await fun _ => .set hs, .bind .await fun _ => .set (.enterTeam hs)]

theorem execRequestTimeout_inv {s : State} (hs : s.Inv) {tag : Nat} : Result.Inv (execRequestTimeout tag s) :=
  .step hs (.get fun _ hs => .bind .await fun _ => .set hs)

theorem execRegionTimeout_inv {s : State} (hs : s.Inv) : Result.Inv (execRegionTimeout s) := by
  dsimp only [execRegionTimeout]
  refine .step hs (.get fun _ hs => ?_)
  split
  exacts [.stall, .bind .await fun _ => .set hs]

theorem State.Inv.disown {s : State} (hs : s.Inv) : s.disown.Inv := by
  dsimp only [State.disown]
  exact .foldl (fun _ _ h => .dropResult h) hs

theorem execRegionFailure_inv {s : State} (hs : s.Inv) : Result.Inv (execRegionFailure s) := by
  unfold execRegionFailure
  refine .step hs (.get fun s hs => ?_)
  split
  · exact .stall
  · split
    · exact .stall
    · refine .bind .await fun _ => .bind .await fun _ => .bind .await fun _ => ?_
      extract_lets s₁ u s₂
      have h₂ : s₂.Inv := .unwind (.disown (.finishPending hs))
      exact .set (.setMe h₂)

theorem execUalinkReadRequest_inv {s : State} (hs : s.Inv) {gid : Nat} : Result.Inv (execUalinkReadRequest gid s) := .step hs (.modify fun _ h => h)

theorem execStationLinkDown_inv {s : State} (hs : s.Inv) {station : Nat} : Result.Inv (execStationLinkDown station s) :=
  .step hs (.modify fun _ h => h)

theorem execStationLinkUp_inv {s : State} (hs : s.Inv) {station : Nat} : Result.Inv (execStationLinkUp station s) := .step hs (.modify fun _ h => h)

theorem execPortLinkChange_inv {s : State} (hs : s.Inv) {port : Nat} {up : Bool} : Result.Inv (execPortLinkChange port up s) :=
  .step hs (.modify fun _ h => h)

/-! ### `Machine/Contour.lean` -/

theorem setSlot_keepsInv {n : Nat} {k : Slot} : (setSlot n k).KeepsInv := .modifyBank
theorem slotOf0_keepsInv {w : Word} : (slotOf0 w).KeepsInv := .bind .require fun _ => .pure
theorem f32Operand_keepsInv {w : Word} : (f32Operand w).KeepsInv := .bind .require fun _ => .pure

theorem contourWait_keepsInv : contourWait.KeepsInv := by
  dsimp only [contourWait]
  refine .bind awaitEarliest_keepsInv fun _ => .get fun _ _ => ?_
  split
  exacts [.await, .pure]

theorem contourWrite_keepsInv {op n : Nat} : (contourWrite op n).KeepsInv := .bind logMark_keepsInv fun _ => .get fun _ hs => .set hs
theorem writableSlot_keepsInv {n : Nat} : (writableSlot n).KeepsInv := .get fun _ _ => .bind .require fun _ => .pure

theorem execCvdef_inv {s : State} (hs : s.Inv) {a b : GReg} : Result.Inv (execCvdef a b s) :=
  .bundle hs (.bind issue_keepsInv fun _ => .bind contourWait_keepsInv fun _ => .bind readG_keepsInv fun _ => .bind slotOf0_keepsInv fun _ => .bind
    readG_keepsInv fun _ => .get fun _ _ => .bind .require fun _ => .bind aligned_keepsInv fun _ => .bind (loadBytes_accesses _ _ _).keepsInv fun _
    => .bind .require fun _ => .bind .require fun _ => .bind contourWrite_keepsInv fun _ => setSlot_keepsInv)

theorem installField_keepsInv {op : Nat} {check : BitVec 32 → Bool} {put : Slot → BitVec 32 → Slot} {a b : GReg} : (installField op check put a
    b).KeepsInv :=
  .bind issue_keepsInv fun _ => .bind contourWait_keepsInv fun _ => .bind readG_keepsInv fun _ => .bind slotOf0_keepsInv fun _ => .bind
    readG_keepsInv fun _ => .bind f32Operand_keepsInv fun _ => .bind writableSlot_keepsInv fun _ => .bind .require fun _ => .bind
    contourWrite_keepsInv fun _ => .bind .getMe fun _ => setSlot_keepsInv

theorem execCvfan_inv {s : State} (hs : s.Inv) {a b : GReg} : Result.Inv (execCvfan a b s) :=
  .bundle hs (.bind issue_keepsInv fun _ => .bind contourWait_keepsInv fun _ => .bind readG_keepsInv fun _ => .bind slotOf0_keepsInv fun _ => .bind
    readG_keepsInv fun _ => .bind writableSlot_keepsInv fun _ => .get fun _ _ => .bind .require fun _ => .bind .await fun _ => .bind .require fun _
    => .bind contourWrite_keepsInv fun _ => setSlot_keepsInv)

theorem execCvrun_inv {s : State} (hs : s.Inv) {a : GReg} : Result.Inv (execCvrun a s) :=
  .bundle hs (.bind issue_keepsInv fun _ => .bind contourWait_keepsInv fun _ => .bind readG_keepsInv fun _ => .bind slotOf0_keepsInv fun _ => .bind
    writableSlot_keepsInv fun _ => .bind .getMe fun _ => .get fun _ _ => .bind .require fun _ => .bind contourWrite_keepsInv fun _ =>
    setSlot_keepsInv)

theorem execCvstop_inv {s : State} (hs : s.Inv) {a : GReg} : Result.Inv (execCvstop a s) :=
  .bundle hs (.bind issue_keepsInv fun _ => .bind contourWait_keepsInv fun _ => .bind readG_keepsInv fun _ => .bind slotOf0_keepsInv fun _ => .bind
    writableSlot_keepsInv fun _ => .bind .getMe fun _ => .bind contourWrite_keepsInv fun _ => setSlot_keepsInv)

theorem execCvread_inv {s : State} (hs : s.Inv) {d a : GReg} : Result.Inv (execCvread d a s) := by
  dsimp only [execCvread]
  refine .bundle hs (.bind issue_keepsInv fun _ => .bind readG_keepsInv fun _ => .bind .require fun _ => .get fun _ _ => ?_)
  split
  exacts [.when setSlot_keepsInv fun _ => writeG_keepsInv, writeG_keepsInv]

theorem execCvguard_inv {s : State} (hs : s.Inv) {a b : GReg} : Result.Inv (execCvguard a b s) :=
  .bundle hs (.bind issue_keepsInv fun _ => .bind contourWait_keepsInv fun _ => .bind readG_keepsInv fun _ => .bind slotOf0_keepsInv fun _ => .bind
    readG_keepsInv fun _ => .bind writableSlot_keepsInv fun _ => .bind .require fun _ => .bind contourWrite_keepsInv fun _ => setSlot_keepsInv)

theorem execCvsurvey_inv {s : State} (hs : s.Inv) {a b : GReg} : Result.Inv (execCvsurvey a b s) := by
  unfold execCvsurvey
  split
  · exact .bundle hs .stall
  · exact .bundle hs .modifyMe
  · extract_lets arm
    have harm : arm.KeepsInv := .bind issue_keepsInv fun _ => .bind readG_keepsInv fun _ => .bind readG_keepsInv fun _ => .bind .getMe fun _ =>
      .bind .require fun _ => .bind .require fun _ => .bind (locate_accesses _ _ _).keepsInv fun _ => .bind (meet_accesses _ _).keepsInv fun _ =>
      .get fun _ _ => .bind .modifyCore fun _ => .modifyMe
    split
    next h => exact .next (.of_mem (harm.ok h hs) rfl)
    next => exact .bundle hs .throw

theorem execSurveyFire_inv {s : State} (hs : s.Inv) : Result.Inv (execSurveyFire s) := by
  dsimp only [execSurveyFire]
  refine .step hs (.get fun _ hs => ?_)
  split
  exacts [.stall, .bind .await fun _ => .set (.onSeat (.stampEngine (.foldl (fun _ _ h => State.inv_store _ _ _ h) hs)))]

theorem State.Inv.queueCrossing {s : State} {team b h : Nat} {time : Word} {e : Nat × Nat × Nat × List Byte} (hs : s.Inv) :
    (s.queueCrossing team b h time e).Inv := by
  dsimp only [State.queueCrossing]
  exact .ite (.enterTeam hs) (.departMessage (.contourSent hs))

theorem execContourCrossing_inv {s : State} (hs : s.Inv) : Result.Inv (execContourCrossing s) := by
  dsimp only [execContourCrossing]
  refine .step hs (.get fun _ hs => ?_)
  split
  · refine .bind .await fun _ => ?_
    split
    exacts [.bind .await fun _ => .ite (.bind .await fun _ => .set (.enter hs)) (.bind .await fun _ => .bind .await fun _ => .set (.foldl (fun _ _ h
      => .queueCrossing h) (.foldl (fun _ _ h => .postNoctx h) hs))), .ite (.bind .await fun _ => .set (.enter hs)) (.bind .await fun _ => .bind
      .await fun _ => .set (.foldl (fun _ _ h => .queueCrossing h) (.foldl (fun _ _ h => .postNoctx h) hs)))]
  · exact .stall

theorem execHorizonReduction_inv {s : State} (hs : s.Inv) {team : Nat} : Result.Inv (execHorizonReduction team s) :=
  .step hs (.get fun _ hs => .set (.foldl (fun _ _ h => .ite h h) hs))

/-! ### `Machine/Sync.lean` -/

theorem awaitScope_keepsInv {q : QType} : (awaitScope q).KeepsInv := .bind .require fun _ => .get fun _ _ => .bind .await fun _ => .await

theorem execFence_inv {s : State} (hs : s.Inv) {q : QType} : Result.Inv (execFence q s) :=
  .bundle hs (.bind awaitScope_keepsInv fun _ => .modify fun _ h => h)

theorem execFencea_inv {s : State} (hs : s.Inv) {q : QType} : Result.Inv (execFencea q s) :=
  .bundle hs (.bind .require fun _ => .get fun _ _ => .bind .await fun _ => .modifyMe)

theorem execSfence_inv {s : State} (hs : s.Inv) {sid : Fin 64} : Result.Inv (execSfence sid s) := .bundle hs (.get fun _ _ => .await)

theorem execWaitge_inv {s : State} (hs : s.Inv) {a b : GReg} : Result.Inv (execWaitge a b s) := by
  dsimp only [execWaitge]
  refine .bundle hs ?_
  refine .bind issue_keepsInv fun _ => .bind readG_keepsInv fun _ => .bind readG_keepsInv fun _ => .bind aligned_keepsInv fun _ => .bind
    (locate_accesses _ _ _).keepsInv fun _ => .bind (awaitOwn_accesses _).keepsInv fun _ => .bind (readBytes_accesses _).keepsInv fun _ => .bind
    .getMe fun _ => ?_
  split
  exacts [.ite .raise .pure, .bind .await fun _ => .bind observe_keepsInv fun _ => .modifyMe]

theorem beforeStall_inv {s : State} (hs : s.Inv) {m : M Unit} (hm : m.KeepsInv) : Result.Inv (beforeStall m s) := by
  dsimp only [beforeStall]
  split
  next h => exact .next (.of_mem (hm.ok h hs) rfl)
  next => exact .bundle hs .throw

theorem awaitPhase_keepsInv {i phase : Nat} : (awaitPhase i phase).KeepsInv := .get fun _ _ => .await
theorem notePhase_keepsInv {i : Nat} : (notePhase i).KeepsInv := .get fun _ _ => .modifyMe

theorem execBarr_inv {s : State} (hs : s.Inv) {imm : Nat} : Result.Inv (execBarr imm s) :=
  .bundle hs (.bind .require fun _ => .get fun _ _ => .bind .await fun _ => .modify fun _ h => h)

theorem execBarw_inv {s : State} (hs : s.Inv) {imm : Nat} : Result.Inv (execBarw imm s) := by
  dsimp only [execBarw]
  refine .ite (.bundle hs .trap) ?_
  split
  exacts [.bundle hs awaitPhase_keepsInv,
    beforeStall_inv hs (.get fun _ _ => .bind .await fun _ => .bind notePhase_keepsInv fun _ => .modify fun _ h => h)]

theorem execBarx_inv {s : State} (hs : s.Inv) {imm : Nat} : Result.Inv (execBarx imm s) := by
  dsimp only [execBarx]
  refine .ite (.bundle hs .trap) ?_
  split
  exacts [.bundle hs awaitPhase_keepsInv, .ite (beforeStall_inv hs notePhase_keepsInv) (.bundle hs .pure)]

theorem execBarrierPhaseComplete_inv {s : State} (hs : s.Inv) {team id : Nat} : Result.Inv (execBarrierPhaseComplete team id s) :=
  .step hs (.get fun _ hs => .bind .await fun _ => .set (.ite hs hs))

theorem execEvwait_inv {s : State} (hs : s.Inv) : Result.Inv (execEvwait s) :=
  .ite (.ite (.bundle hs .modifyBank) (.next hs)) (.ite (endTask_inv hs) (.bundle hs (.bind awaitSuccessors_keepsInv fun _ => .modify fun _ h =>
    .settleTeam (.endEvent h))))

theorem execYield_inv {s : State} (hs : s.Inv) : Result.Inv (execYield s) := .bundle hs .modifyMe
theorem execUret_inv {s : State} (hs : s.Inv) : Result.Inv (execUret s) := .bundle hs (.bind .getMe fun _ => .bind .require fun _ => .modifyMe)

theorem serviceReturn_keepsInv {n : Nat} {status : Word} : (serviceReturn n status).KeepsInv :=
  .get fun _ _ => .bind .modifyMe fun _ => writeG_keepsInv

theorem execScallExit_inv {s : State} (hs : s.Inv) : Result.Inv (execScallExit s) :=
  .bundle hs (.bind issue_keepsInv fun _ => .get fun _ _ => .ite serviceReturn_keepsInv (.get fun _ _ => .bind .modifyMe fun _ => .modify fun _ h =>
    .settleTeam (.exitMember h)))

theorem execScallTimerArm_inv {s : State} (hs : s.Inv) : Result.Inv (execScallTimerArm s) := by
  dsimp only [execScallTimerArm]
  refine .bundle hs (.bind issue_keepsInv fun _ => .bind readG_keepsInv fun _ => .bind readG_keepsInv fun _ => .get fun _ _ => ?_)
  split
  exacts [.bind .modifyCore fun _ => serviceReturn_keepsInv, serviceReturn_keepsInv]

theorem execScallTimerCancel_inv {s : State} (hs : s.Inv) : Result.Inv (execScallTimerCancel s) :=
  .bundle hs (.bind issue_keepsInv fun _ => .bind readG_keepsInv fun _ => .get fun _ _ => .ite (.bind .modifyCore fun _ => serviceReturn_keepsInv)
    serviceReturn_keepsInv)

theorem execScallDestroyDeque_inv {s : State} (hs : s.Inv) : Result.Inv (execScallDestroyDeque s) :=
  .bundle hs (.bind issue_keepsInv fun _ => .bind .modifyBank fun _ => serviceReturn_keepsInv)

theorem execScallRefused_inv {s : State} (hs : s.Inv) {imm : Nat} : Result.Inv (execScallRefused imm s) :=
  .bundle hs (.bind issue_keepsInv fun _ => .bind .require fun _ => serviceReturn_keepsInv)

theorem State.Inv.recarve {s : State} {cc tc b : Nat} (hs : s.Inv) : (s.recarve cc tc b).Inv := by
  unfold State.recarve
  extract_lets old _ s₁ new grown data s₂ s₃ base
  have h₂ : s₂.Inv := State.inv_storeAt _ _ (.fitL1 (.setCore hs))
  have h₃ : s₃.Inv := .of_mem h₂ rfl
  exact .foldl (fun _ _ h => .setCtx h) h₃

theorem State.Inv.decideCarve {s : State} {team : Nat} {banks : List Nat} (hs : s.Inv) : (s.decideCarve team banks).Inv := by
  dsimp only [State.decideCarve]
  split
  · split
    exacts [.foldl (fun _ _ h => .ite h h) hs, .ite (.foldl (fun _ _ h => .ite h h) hs) (.foldl (fun _ _ h => .ite h h) (.foldl (fun _ _ h =>
      .recarve h) hs))]
  · exact .foldl (fun _ _ h => .ite h h) hs

theorem carveWait_keepsInv : carveWait.KeepsInv :=
  .get fun _ hs => .ite (.bind .await fun _ => .bind (.set (.decideCarve hs)) fun _ => .bind .getMe fun _ => .bind .modifyMe fun _ => .ite .trap
    .pure) (.bind .getMe fun _ => .bind .modifyMe fun _ => .ite .trap .pure)

theorem execCarve_inv {s : State} (hs : s.Inv) {a : GReg} : Result.Inv (execCarve a s) := by
  unfold execCarve
  refine .ite (.bundle hs .trap) (.ite (beforeStall_inv hs ?_) ?_)
  · exact .bind issue_keepsInv fun _ => .bind readG_keepsInv fun _ => .get fun _ hs => .bind (.set (.setTeam hs)) fun _ => .modifyMe
  · split
    · exact .bundle (.setMe (.ite (.decideCarve hs) hs)) .raise
    · exact .bundle hs carveWait_keepsInv

theorem State.Inv.endSprint {s : State} {r : Nat} {trap : Bool} (hs : s.Inv) : (s.endSprint r trap).Inv := by
  dsimp only [State.endSprint]
  split
  exacts [.ite hs hs, hs]

theorem execSprint_inv {s : State} (hs : s.Inv) {d a : GReg} : Result.Inv (execSprint d a s) :=
  .bundle hs (.bind issue_keepsInv fun _ => .bind readG_keepsInv fun _ => .bind (.modify fun _ h => .ite (.endSprint h) h) fun _ => .get fun _ hs =>
    .ite (.when (.set hs) fun _ => writeG_keepsInv) (.when (.set hs) fun _ => writeG_keepsInv))

theorem execSprintq_inv {s : State} (hs : s.Inv) {d : GReg} : Result.Inv (execSprintq d s) :=
  .bundle hs (.bind issue_keepsInv fun _ => .get fun _ _ => writeG_keepsInv)

/-! ### `Machine/Control.lean` -/

theorem State.Inv.yieldNotice {s : State} {c : CtxId} {deadline : Word} (hs : s.Inv) : (s.yieldNotice c deadline).Inv := by
  dsimp only [State.yieldNotice]
  exact .ite (.enter hs) hs

theorem State.Inv.requestYield {s : State} {c : CtxId} {deadline : Word} (hs : s.Inv) : (s.requestYield c deadline).Inv := by
  dsimp only [State.requestYield]
  exact .yieldNotice hs

theorem stagectlOp_keepsInv {w : Word} : (stagectlOp w).KeepsInv := .get fun _ _ => .bind .require fun _ => .modifyCore

theorem State.Inv.endPartition {s : State} {n : Nat} (hs : s.Inv) : (s.endPartition n).Inv := by
  dsimp only [State.endPartition]
  exact .foldl (fun _ _ h => .charge h) (.foldl (fun _ _ h => h) (.foldl (fun _ _ h => .vacate h) (.foldl (fun _ _ h => .recordState h) hs)))

theorem ploadOp_keepsInv {n : Word} : (ploadOp n).KeepsInv := by
  unfold ploadOp
  refine .get fun s hs => .bind .require fun _ => ?_
  extract_lets s₁ s₂ s₃
  have h₁ : s₁.Inv := .ite hs (.evictPart hs)
  have h₂ : s₂.Inv := .ite (.endPartition h₁) h₁
  have h₃ : s₃.Inv := .setPart h₂
  clear_value s₃
  exact .set (.of_mem h₃ rfl)

theorem systemWrite_keepsInv {n : Nat} {w : Word} : (systemWrite n w).KeepsInv := by
  dsimp only [systemWrite]
  refine .get fun _ _ => .ite .trap (.ite .trap ?_)
  split
  exacts [.modifyMe, .modifyMe, .modifyMe, .modifyMe, .modifyCore, .ite .modifyCore .pure, .modifyCore, .modifyCore, .modify fun _ h => .requestYield
    h, .modify fun _ h => h, .modify fun _ h => h, .modify fun _ h => h, ploadOp_keepsInv, .modify fun _ h => h, stagectlOp_keepsInv, .modify fun _ h
    => h, .modify fun _ h => h, .trap]

theorem writeControl_keepsInv {n : Nat} {w : Word} : (writeControl n w).KeepsInv :=
  .ite (.get fun _ _ => .get fun _ _ => .bind .require fun _ => systemWrite_keepsInv) (.bind .require fun _ => .bind .require fun _ => .bind .getMe
    fun _ => .when pushTrail_keepsInv fun _ => .modifyMe)

theorem readControl_keepsInv {d : GReg} {n : Nat} : (readControl d n).KeepsInv :=
  .ite launchCopy_keepsInv (.bind issue_keepsInv fun _ => .get fun _ _ => .bind .require fun _ => writeG_keepsInv)

theorem execKget_inv {s : State} (hs : s.Inv) {d : GReg} {imm : Nat} : Result.Inv (execKget d imm s) :=
  .bundle hs (.bind .require fun _ => readControl_keepsInv)

theorem execKput_inv {s : State} (hs : s.Inv) {d : GReg} {imm : Nat} : Result.Inv (execKput d imm s) :=
  .bundle hs (.bind .require fun _ => .bind issue_keepsInv fun _ => .bind readG_keepsInv fun _ => writeControl_keepsInv)

theorem supervisorOnly_keepsInv : supervisorOnly.KeepsInv := .get fun _ _ => .get fun _ _ => .require
theorem stagedCtx_keepsInv : stagedCtx.KeepsInv := .get fun _ _ => .bind .require fun _ => .bind .await fun _ => .pure

theorem State.Inv.setSlotCtx {s : State} {c : CtxId} {x : Ctx} (hs : s.Inv) : (s.setSlotCtx c x).Inv := by
  dsimp only [State.setSlotCtx]
  exact .ite (.foldl (fun _ _ h => State.inv_storeWords _ _ h) hs) hs

theorem execSkget_inv {s : State} (hs : s.Inv) {d : GReg} {imm : Nat} : Result.Inv (execSkget d imm s) :=
  .bundle hs (.bind supervisorOnly_keepsInv fun _ => .bind .require fun _ => .get fun _ _ => .ite (.bind issue_keepsInv fun _ => .bind
    stagedCtx_keepsInv fun _ => .get fun _ _ => writeG_keepsInv) readControl_keepsInv)

theorem execSkput_inv {s : State} (hs : s.Inv) {d : GReg} {imm : Nat} : Result.Inv (execSkput d imm s) :=
  .bundle hs (.bind supervisorOnly_keepsInv fun _ => .bind .require fun _ => .bind issue_keepsInv fun _ => .get fun _ _ => .ite (.bind
    stagedCtx_keepsInv fun _ => .bind .require fun _ => .bind readG_keepsInv fun _ => .modify fun _ h => .ite (.yieldNotice (.setSlotCtx h))
    (.setSlotCtx h)) (.bind readG_keepsInv fun _ => writeControl_keepsInv))

theorem execHeartWrite_inv {s : State} (hs : s.Inv) {value : Word} : Result.Inv (execHeartWrite value s) := .step hs (.modify fun _ h => h)

theorem execYieldRequest_inv {s : State} (hs : s.Inv) {deadline : Word} : Result.Inv (execYieldRequest deadline s) :=
  .step hs (.modify fun _ h => .requestYield h)

/-! ### `Machine/Fetch.lean` -/

theorem fetchLocs_keepsInv {ea : Word} : (fetchLocs ea).KeepsInv := by
  dsimp only [fetchLocs]
  refine .get fun _ _ => .ite (.bind (aperture_accesses _ _).keepsInv fun _ => .pure) (.ite (physical_accesses _ _).keepsInv ?_)
  split
  · exact .throw
  · split
    exacts [.raise, .bind .modifyCore fun _ => .when .await fun _ => .pure]

theorem fetchWord_keepsInv {ea : Word} : (fetchWord ea).KeepsInv :=
  .bind fetchLocs_keepsInv fun _ => .get fun _ _ => .bind .await fun _ => .bind .await fun _ => .bind (consume_accesses _).keepsInv fun _ => .ite
    (.bind takeBit_keepsInv fun _ => .ite .pure .pure) .pure

theorem fetchWords_keepsInv {ea : Word} {k : Nat} : (fetchWords ea k).KeepsInv := by
  induction k generalizing ea with
  | zero => exact .pure
  | succ k ih => exact .bind fetchWord_keepsInv fun _ => .ite (.bind ih fun _ => .pure) .pure

theorem fetchBundle_keepsInv : fetchBundle.KeepsInv := by
  dsimp only [fetchBundle]
  refine .get fun _ _ => .bind ?_ fun _ => .bind .modifyMe fun _ => .pure
  split
  exacts [.pure, fetchWords_keepsInv]

theorem State.Inv.follow {s : State} {c : CtxId} (hs : s.Inv) : (s.follow c).Inv := by
  dsimp only [State.follow]
  split
  exacts [.ite (.ite hs hs) (.ite hs hs), hs]

/-! ### `Machine/Priv.lean` -/

theorem computeOnly_keepsInv : computeOnly.KeepsInv := .get fun _ _ => .require

theorem execTret_inv {s : State} (hs : s.Inv) : Result.Inv (execTret s) :=
  .bundle hs (.bind supervisorOnly_keepsInv fun _ => .bind computeOnly_keepsInv fun _ => .modifyMe)

theorem State.Inv.duplicate {s : State} {src dst n : Nat} (hs : s.Inv) : (s.duplicate src dst n).Inv := by
  dsimp only [State.duplicate]
  exact State.inv_copyRange _ _ _ hs

theorem State.Inv.moveRange {s : State} {src dst n : Nat} (hs : s.Inv) : (s.moveRange src dst n).Inv := by
  dsimp only [State.moveRange]
  exact .duplicate hs

theorem State.Inv.writeImage {s : State} {b a : Nat} (hs : s.Inv) : (s.writeImage b a).Inv := by
  dsimp only [State.writeImage]
  exact .moveRange (.foldl (fun _ _ h => .ite (State.inv_storeWords _ _ (State.inv_storeWords _ _ h)) h) (State.inv_storeWords _ _
    (State.inv_zeroRange _ _ hs)))

theorem State.Inv.bankToImage {s : State} {b a : Nat} (hs : s.Inv) : (s.bankToImage b a).Inv := by
  dsimp only [State.bankToImage]
  split
  all_goals exact .writeImage hs

theorem State.Inv.imageToBank {s : State} {b a : Nat} (hs : s.Inv) : (s.imageToBank b a).Inv := by
  dsimp only [State.imageToBank]
  split
  all_goals exact .moveRange hs

theorem State.Inv.ctxToRecord {s : State} {c : CtxId} {r : Nat} (hs : s.Inv) : (s.ctxToRecord c r).Inv := by
  dsimp only [State.ctxToRecord]
  exact .writeRecord (.finishPending hs)

theorem State.Inv.recordToCtx {s : State} {c : CtxId} {r state : Nat} (hs : s.Inv) : (s.recordToCtx c r state).Inv := by
  dsimp only [State.recordToCtx]
  exact .recordState (.reseat hs)

theorem State.Inv.showState {s : State} {c : CtxId} (hs : s.Inv) : (s.showState c).Inv := by
  dsimp only [State.showState]
  exact .recordState hs

theorem awaitKill_keepsInv {c : CtxId} : (awaitKill c).KeepsInv := by
  dsimp only [awaitKill]
  refine .get fun _ _ => ?_
  split
  exacts [awaitSuccessors_keepsInv, awaitUndo_keepsInv]

theorem State.Inv.killHandler {s : State} {c : CtxId} (hs : s.Inv) : (s.killHandler c).Inv := by
  unfold State.killHandler
  extract_lets x
  split
  · exact .endEvent hs
  · extract_lets u t s₁
    have h₁ : s₁.Inv := .setTeam (.undoTask hs)
    exact .retireTask h₁

theorem State.Inv.resolve {s : State} {c : CtxId} {action : Nat} (hs : s.Inv) : (s.resolve c action).Inv := by
  dsimp only [State.resolve]
  split
  exacts [.showState hs, .showState hs, .ite (.park hs) (.showState hs), .settleTeam (.showState (.ite (.exitMember hs) (.killHandler hs)))]

theorem State.Inv.takeActions {s : State} {b : Nat} {valid : BitVec 9} (hs : s.Inv) : (s.takeActions b valid).Inv := by
  dsimp only [State.takeActions]
  refine .ite ?_ hs
  refine .foldl (fun _ _ h => ?_) hs
  split
  exacts [.ite (.resolve h) h, h]

theorem execGresume_inv {s : State} (hs : s.Inv) {a : GReg} : Result.Inv (execGresume a s) := by
  dsimp only [execGresume]
  refine .bundle hs ?_
  refine .bind supervisorOnly_keepsInv fun _ => .bind issue_keepsInv fun _ => .bind readG_keepsInv fun _ => .bind .require fun _ => .get fun _ hs =>
    .bind .require fun _ => ?_
  split
  · exact .trap
  · refine .ite (.bind .require fun _ => .when awaitKill_keepsInv fun _ => .set (.resolve hs)) ?_
    split
    exacts [.trap, .bind .require fun _ => .set hs]

theorem execStage_inv {s : State} (hs : s.Inv) {a b : GReg} : Result.Inv (execStage a b s) :=
  .bundle hs (.bind supervisorOnly_keepsInv fun _ => .bind computeOnly_keepsInv fun _ => .bind issue_keepsInv fun _ => .bind readG_keepsInv fun _ =>
    .bind readG_keepsInv fun _ => .get fun _ _ => .bind .require fun _ => .bind .require fun _ => .get fun _ _ => .bind .await fun _ => .get fun _ _
    => .bind .require fun _ => .bind .await fun _ => .modifyCore)

theorem execSpill_inv {s : State} (hs : s.Inv) {a b : GReg} : Result.Inv (execSpill a b s) :=
  .bundle hs (.bind supervisorOnly_keepsInv fun _ => .bind computeOnly_keepsInv fun _ => .bind issue_keepsInv fun _ => .bind readG_keepsInv fun _ =>
    .bind readG_keepsInv fun _ => .get fun _ _ => .bind .require fun _ => .bind .require fun _ => .bind .require fun _ => .bind .await fun _ =>
    .modifyCore)

theorem State.Inv.nameTeam {s : State} {b r : Nat} (hs : s.Inv) : (s.nameTeam b r).Inv := by
  dsimp only [State.nameTeam]
  exact .ite hs hs

theorem execStageComplete_inv {s : State} (hs : s.Inv) : Result.Inv (execStageComplete s) := by
  dsimp only [execStageComplete]
  refine .step hs (.get fun _ hs => ?_)
  split
  exacts [.bind .await fun _ => .set (.takeActions (.ite (.nameTeam (.recordToCtx hs)) (.imageToBank hs))), .stall]

theorem State.Inv.spillSlot {s : State} {c : CtxId} {dst : Nat} (hs : s.Inv) : (s.spillSlot c dst).Inv := by
  dsimp only [State.spillSlot]
  exact .ite (.ctxToRecord hs) (.ite (.ctxToRecord hs) (.recordState (.moveRange hs)))

theorem State.Inv.spillBank {s : State} {b dst : Nat} (hs : s.Inv) : (s.spillBank b dst).Inv := by
  dsimp only [State.spillBank]
  exact .ite (.bankToImage hs) (.ite (.bankToImage (.imageToBank hs)) (.moveRange hs))

theorem State.Inv.endOp {s : State} {c slot : Nat} {valid : BitVec 9} (hs : s.Inv) : (s.endOp c slot valid).Inv := hs

theorem execSpillComplete_inv {s : State} (hs : s.Inv) : Result.Inv (execSpillComplete s) := by
  unfold execSpillComplete
  refine .step hs (.get fun _ hs => ?_)
  extract_lets
  split
  · split
    · simp only [bind_assoc, pure_bind]
      exact .bind .await fun _ => .set (.endOp (.spillSlot hs))
    · simp only [pure_bind]
      exact .set (.endOp (.spillBank hs))
  · exact .stall

theorem State.Inv.leaveBank {s : State} {c : CtxId} (hs : s.Inv) : (s.leaveBank c).Inv := by
  dsimp only [State.leaveBank]
  exact .leaveSprint (.detach (.endLease hs))

theorem State.Inv.enterBank {s : State} {valid : BitVec 9} {c : CtxId} (hs : s.Inv) : (s.enterBank valid c).Inv := by
  dsimp only [State.enterBank]
  exact .ite hs (.ite (.recordToCtx hs) hs)

theorem State.Inv.flip {s : State} {c : CoreId} (hs : s.Inv) : (s.flip c).Inv := by
  unfold State.flip
  extract_lets k old new s₁ s₂ s₃ _ s₄ s₅ s₆
  have h₁ : s₁.Inv := .foldl (fun _ _ h => .leaveBank h) hs
  have h₂ : s₂.Inv := .ite h₁ (.imageToBank h₁)
  have h₃ : s₃.Inv := .foldl (fun _ _ h => .enterBank h) h₂
  have h₄ : s₄.Inv := .setCore h₃
  have h₅ : s₅.Inv := .foldl (fun _ _ h => .showState (.showState h)) h₄
  have h₆ : s₆.Inv := .foldl (fun _ _ h => h) h₅
  exact .takeActions h₆

theorem execSwapgo_inv {s : State} (hs : s.Inv) : Result.Inv (execSwapgo s) :=
  .bundle hs (.bind supervisorOnly_keepsInv fun _ => .bind computeOnly_keepsInv fun _ => .get fun _ _ => .bind .require fun _ => .bind .require fun _
    => .bind .await fun _ => .modify fun _ h => .flip h)

theorem execSwapTimeDue_inv {s : State} (hs : s.Inv) : Result.Inv (execSwapTimeDue s) :=
  .step hs (.get fun _ hs => .bind .await fun _ => .ite (.set (.postNoctx (.setCore hs)))
    (.bind .await fun _ => .set (.setRidge (.setCore (.flip hs)))))

theorem State.Inv.exchangeRidge {s : State} {r out_ in_ : Nat} (hs : s.Inv) : (s.exchangeRidge r out_ in_).Inv := by
  unfold State.exchangeRidge
  extract_lets s₁ s₂
  have h₁ : s₁.Inv := .ite hs (.moveRange hs)
  have h₂ : s₂.Inv := State.inv_zeroRange _ _ h₁
  exact .ite (.of_mem h₂ rfl) (.moveRange h₁)

theorem execRidgeFlip_inv {s : State} (hs : s.Inv) : Result.Inv (execRidgeFlip s) :=
  .step hs (.get fun _ hs => .bind .await fun _ => .set (.exchangeRidge hs))

theorem invalidation_keepsInv {a b : GReg} : (invalidation a b).KeepsInv :=
  .bind supervisorOnly_keepsInv fun _ => .bind issue_keepsInv fun _ => .bind readG_keepsInv fun _ => .bind readG_keepsInv fun _ => .bind .require fun
    _ => .get fun _ _ => .bind .require fun _ => .pure

theorem State.Inv.invalidateAll {s : State} {w : Word} {g : BitVec 32} (hs : s.Inv) : (s.invalidateAll w g).Inv := by
  dsimp only [State.invalidateAll]
  exact .foldl (fun _ _ h => h) hs

theorem execTlbinv_inv {s : State} (hs : s.Inv) {a b : GReg} : Result.Inv (execTlbinv a b s) := by
  unfold execTlbinv
  split
  · exact .bundle hs .throw
  next h =>
    refine .ite (.bundle (invalidation_keepsInv.ok h hs) (.modify fun _ h => .invalidateAll h)) (.next ?_)
    exact .noteStall (.invalidateAll hs)

theorem State.Inv.unpinRecord {s : State} {r : Nat} (hs : s.Inv) : (s.unpinRecord r).Inv := by
  dsimp only [State.unpinRecord]
  exact State.inv_storeWords _ _ hs

theorem execPinrel_inv {s : State} (hs : s.Inv) {a : GReg} : Result.Inv (execPinrel a s) := by
  dsimp only [execPinrel]
  refine .bundle hs (.bind supervisorOnly_keepsInv fun _ => .bind issue_keepsInv fun _ => .bind readG_keepsInv fun _ => .get fun _ hs => ?_)
  split
  exacts [.trap, .set (.foldl (fun _ _ h => .unpinRecord h) hs)]

theorem State.Inv.stopEntry {s : State} {p : Nat} {c : CoreId} (hs : s.Inv) : (s.stopEntry p c).Inv := by
  dsimp only [State.stopEntry]
  exact State.inv_storeWords _ _ hs

theorem State.Inv.haltPart {s : State} {p : Nat} (hs : s.Inv) : (s.haltPart p).Inv := by
  dsimp only [State.haltPart]
  exact .foldl (fun _ _ h => .setCore h) (.setPart hs)

theorem State.Inv.releasePart {s : State} {p : Nat} (hs : s.Inv) : (s.releasePart p).Inv := by
  dsimp only [State.releasePart]
  exact .foldl (fun _ _ h => h) hs

theorem State.Inv.completeStop {s : State} {p : Nat} (hs : s.Inv) : (s.completeStop p).Inv := by
  dsimp only [State.completeStop]
  exact .setPart (.foldl (fun _ _ h => .stopEntry h) hs)

theorem treeOperand_keepsInv {a : GReg} : (treeOperand a).KeepsInv := by
  dsimp only [treeOperand]
  refine .bind supervisorOnly_keepsInv fun _ => .bind issue_keepsInv fun _ => .bind readG_keepsInv fun _ => ?_
  split
  exacts [.trap, .get fun _ _ => .bind .require fun _ => .pure]

theorem execGstop_inv {s : State} (hs : s.Inv) {a : GReg} : Result.Inv (execGstop a s) := by
  unfold execGstop
  split
  · exact .bundle hs .throw
  next p _ s' h =>
    have hs' : s'.Inv := treeOperand_keepsInv.ok h hs
    refine .ite (.ite (.bundle hs' (.modify fun _ h => .releasePart h)) (.bundle hs' .pure)) (.ite (.bundle hs' .pure) ?_)
    split
    · exact .ite (.bundle hs' (.modify fun _ h => .completeStop h)) (.next (.noteStall hs))
    · refine .ite (.bundle hs' (.modify fun _ h => .completeStop (.haltPart h))) ?_
      extract_lets s₁ _ s₂
      have h₁ : s₁.Inv := .haltPart hs
      have h₂ : s₂.Inv := .setMe h₁
      clear_value s₂
      exact .next (.of_mem h₂ rfl)

theorem State.Inv.adoptCtx {s : State} {c : CtxId} {r : Nat} (hs : s.Inv) : (s.adoptCtx c r).Inv := by
  dsimp only [State.adoptCtx]
  exact .recordState hs

theorem execAdopt_inv {s : State} (hs : s.Inv) {d a : GReg} : Result.Inv (execAdopt d a s) :=
  .bundle hs (.bind supervisorOnly_keepsInv fun _ => .get fun _ _ => .bind .require fun _ => .bind issue_keepsInv fun _ => .bind readG_keepsInv fun _
    => .bind aligned_keepsInv fun _ => .get fun _ hs => .bind .await fun _ => .when (.set (.adoptCtx hs)) fun _ => writeG_keepsInv)

/-! ### `Machine/Percolator.lean` -/

theorem State.Inv.taskMark {s : State} {c : CtxId} {t : Machine.Task} (hs : s.Inv) : (s.taskMark c t).Inv := by
  dsimp only [State.taskMark]
  exact State.inv_storeWords _ _ hs

theorem State.Inv.startHandler {s : State} {c : CtxId} {e : Start} {code : Word} {cause : Nat} (hs : s.Inv) : (s.startHandler c e code cause).Inv :=
    by
  dsimp only [State.startHandler]
  split
  exacts [.taskMark (.ite (Memory.wf_writes _ _ hs) hs), .ite (Memory.wf_writes _ _ hs) hs]

theorem State.Inv.noFallback {s : State} {b : Nat} (hs : s.Inv) : (s.noFallback b).Inv := by
  dsimp only [State.noFallback]
  exact .postNoctx (.undeliverable hs)

theorem State.Inv.serveWake {s : State} {b : Nat} {x : Bank} (hs : s.Inv) : (s.serveWake b x).Inv := by
  dsimp only [State.serveWake]
  exact .ite (.wake0 hs) hs

theorem State.Inv.serveNoHandler {s t : State} {b : Nat} (hs : s.Inv) (h : s.serveNoHandler b = some t) : t.Inv := by
  unfold State.serveNoHandler at h
  split at h
  · cases h
    exact .setCtx (.setBank hs)
  · split at h
    · cases h
      exact .serveWake hs
    · cases h
  · cases h

theorem execHandlerStart_inv {s : State} (hs : s.Inv) : Result.Inv (execHandlerStart s) := by
  dsimp only [execHandlerStart]
  refine .step hs (.get fun s hs => .bind .await fun _ => ?_)
  split
  · exact .set (.setCtx (.setBank hs))
  · refine .ite (.set (.serveWake hs)) ?_
    split
    · split
      next h => exact .set (.serveNoHandler hs h)
      next => exact .stall
    · refine .bind .await fun _ => .ite (.set (.takeTrap (.setBank hs))) ?_
      split
      exacts [.set (.noFallback (.setBank hs)), .set (.startHandler (.setBank hs))]
  · exact .stall

theorem execHandlerTableApply_inv {s : State} (hs : s.Inv) : Result.Inv (execHandlerTableApply s) := by
  dsimp only [execHandlerTableApply]
  refine .step hs (.get fun _ hs => ?_)
  split
  exacts [.stall, .set hs]

theorem State.Inv.arriveMessage {s t : State} (hs : s.Inv) {c : CoreId} {m : Message} (h : s.arriveMessage c m = some t) : t.Inv := by
  unfold State.arriveMessage at h
  extract_lets room s₁ at h
  have h₁ : s₁.Inv := .contourReceived (s := s.countRecv c m.part) hs
  clear_value s₁
  split at h
  · cases h
  · split at h
    · cases h
      exact .enterTeam h₁
    · cases h
      exact .enterTeam (.of_mem h₁ rfl)

theorem execMessageArrive_inv {s : State} (hs : s.Inv) {bank : Option Nat} : Result.Inv (execMessageArrive bank s) := by
  unfold execMessageArrive
  refine .step hs (.get fun s hs => ?_)
  split
  · extract_lets x
    split
    · exact .stall
    · extract_lets left
      have hl : left.Inv := .setBank hs
      split
      · exact .set (.departMessage hl)
      · split
        next h => exact .set (.arriveMessage hl h)
        next => exact .stall
  · split
    · exact .stall
    · extract_lets left
      have hl : left.Inv := .of_mem hs rfl
      split
      · exact .set hl
      · refine .ite (.set (.contourReceived hl)) ?_
        split
        next h => exact .set (.arriveMessage hl h)
        next => exact .stall

theorem execStealRequest_inv {s : State} (hs : s.Inv) : Result.Inv (execStealRequest s) := by
  dsimp only [execStealRequest]
  refine .step hs (.get fun _ hs => ?_)
  split
  · exact .stall
  · refine .bind .await fun _ => ?_
    split
    all_goals exact .set hs

theorem State.Inv.takeAlternative {s : State} {c : CtxId} {r : Nat} {a : State × Option Stolen} (hs : s.Inv) (h : s.takeAlternative c r = some a) :
    a.1.Inv := by
  unfold State.takeAlternative at h
  extract_lets loc remain i table snap s₁ s₂ at h
  have h₂ : s₂.Inv := State.inv_store _ _ _ (State.inv_store _ _ _ hs)
  clear_value s₁ s₂
  split at h
  · cases h
    exact hs
  · split at h
    · split at h
      all_goals cases h
      exacts [hs, h₂]
    · cases h
    · cases h
    · cases h
      exact hs

theorem State.Inv.answerSteal {s : State} {v : CoreId} {team : Nat} {a : State × Option Stolen × Bool} (hs : s.Inv)
    (h : s.answerSteal v team = some a) : a.1.Inv := by
  unfold State.answerSteal at h
  extract_lets b x loc s' at h
  have hs' : s'.Inv := .setBank hs
  clear_value s'
  split at h
  · cases h
    exact hs
  · split at h
    · split at h
      · cases h
      · split at h
        all_goals cases h
        all_goals exact hs'
    · split at h
      · cases h
        exact .setBank hs
      · split at h
        · cases h
          exact hs
        · obtain ⟨a, ha, rfl⟩ := Option.map_eq_some_iff.mp h
          exact .takeAlternative hs ha

theorem execStealAnswer_inv {s : State} (hs : s.Inv) : Result.Inv (execStealAnswer s) := by
  unfold execStealAnswer
  refine .step hs (.get fun s hs => ?_)
  extract_lets v
  split
  · exact .stall
  · extract_lets b
    split
    · exact .stall
    next h =>
      have hs' := State.Inv.answerSteal hs h
      extract_lets _ s₁
      have h₁ : s₁.Inv := .setCore hs'
      clear_value s₁
      split
      exacts [.set (.takeTrap h₁), .set (.of_mem h₁ rfl)]

theorem execStealReplyReceive_inv {s : State} (hs : s.Inv) : Result.Inv (execStealReplyReceive s) := by
  dsimp only [execStealReplyReceive]
  refine .step hs (.get fun _ hs => ?_)
  split
  exacts [.set (.enterTeam hs), .set hs, .stall]

theorem execReadyRingPush_inv {s : State} (hs : s.Inv) : Result.Inv (execReadyRingPush s) := by
  dsimp only [execReadyRingPush]
  refine .step hs (.get fun _ hs => ?_)
  split
  exacts [.stall, .bind .await fun _ => .set (.enter hs)]

theorem State.Inv.wakeTeam {s : State} {c : CoreId} {t : Nat} (hs : s.Inv) : (s.wakeTeam c t).Inv := by
  dsimp only [State.wakeTeam]
  split
  exacts [.ite (.undeliverable hs) (.ite (.serveWake hs) (.setServedBank hs)), .undeliverable hs]

theorem execTimerFire_inv {s : State} (hs : s.Inv) {n : Nat} : Result.Inv (execTimerFire n s) := by
  dsimp only [execTimerFire]
  refine .step hs (.get fun _ hs => ?_)
  split
  · exact .stall
  · refine .bind .await fun _ => .set ?_
    split
    exacts [.enterTeam hs, .wakeTeam hs]

theorem execLongLatencyComplete_inv {s : State} (hs : s.Inv) {n : Nat} : Result.Inv (execLongLatencyComplete n s) := by
  dsimp only [execLongLatencyComplete]
  refine .step hs (.get fun _ hs => ?_)
  split
  exacts [.stall, .bind .await fun _ => .set (.deliver hs)]

theorem execPinExpire_inv {s : State} (hs : s.Inv) : Result.Inv (execPinExpire s) := .step hs (.bind .getMe fun _ => .bind .await fun _ => .modifyMe)

theorem execTranslationWalk_inv {s : State} (hs : s.Inv) : Result.Inv (execTranslationWalk s) := by
  dsimp only [execTranslationWalk]
  refine .step hs (.get fun _ hs => ?_)
  split
  · exact .stall
  · refine .ite (.set hs) (.bind .await fun _ => ?_)
    split
    exacts [.set (.takeTrap hs), .set hs]

theorem execUnassignedOpcode_inv {s : State} (hs : s.Inv) {bad : BadBundle} : Result.Inv (execUnassignedOpcode bad s) := by
  dsimp only [execUnassignedOpcode]
  split
  exacts [.bundle hs .raise, .ite (.bundle hs .raise) (.next hs)]

theorem State.Inv.placeRecord {s : State} {r : Nat} {c : CtxId} (hs : s.Inv) : (s.placeRecord r c).Inv := by
  dsimp only [State.placeRecord]
  exact .ite hs (State.inv_store _ _ _ hs)

theorem State.Inv.migrate {s : State} {old new : CtxId} (hs : s.Inv) : (s.migrate old new).Inv := by
  dsimp only [State.migrate]
  exact .placeRecord (.placeRecord (.reseat (.reseat (.leaveSprint (.detach (.endLease hs))))))

theorem execContextMigrate_inv {s : State} (hs : s.Inv) : Result.Inv (execContextMigrate s) := by
  dsimp only [execContextMigrate]
  refine .step hs (.get fun _ hs => .bind .await fun _ => ?_)
  split
  exacts [.set hs, .set (.migrate hs)]

/-! ### `Machine/Launch.lean` -/

theorem execLaunchRecordTake_inv {s : State} (hs : s.Inv) : Result.Inv (execLaunchRecordTake s) :=
  .step hs (.get fun _ hs => .bind .await fun _ => .bind .await fun _ => .set (.ite (.postNoctx (State.inv_store _ _ _ hs)) (.ite (.postNoctx
    (State.inv_store _ _ _ hs)) (State.inv_store _ _ _ hs))))

theorem State.Inv.writeHeader {s : State} {c : CtxId} (hs : s.Inv) : (s.writeHeader c).Inv := by
  dsimp only [State.writeHeader]
  exact State.inv_storeWords _ _ (State.inv_storeWords _ _ hs)

theorem State.Inv.setCarve {s : State} {c : CoreId} {carve : Nat} (hs : s.Inv) : (s.setCarve c carve).Inv := by
  dsimp only [State.setCarve]
  exact .fitL1 hs

theorem State.Inv.launchMember {s : State} {t : Nat} {c : CoreId} (hs : s.Inv) : (s.launchMember t c).Inv := by
  dsimp only [State.launchMember]
  exact .setCore (.foldl (fun _ _ h => .writeHeader (.setCtx h)) (.setCarve (.setBank hs)))

theorem State.Inv.launchTeam {s : State} {d : Nat} {g : Grid} {j : Nat} {members : List CoreId} (hs : s.Inv) : (s.launchTeam d g j members).Inv := by
  dsimp only [State.launchTeam]
  exact .foldl (fun _ _ h => .launchMember h) hs

theorem State.Inv.startMember {s : State} {t : Nat} {c : CoreId} (hs : s.Inv) : (s.startMember t c).Inv := by
  dsimp only [State.startMember]
  exact Memory.wf_writes _ _ hs

theorem execTeamStart_inv {s : State} (hs : s.Inv) {team : Nat} : Result.Inv (execTeamStart team s) :=
  .step hs (.get fun _ hs => .bind .await fun _ => .set (.foldl (fun _ _ h => .startMember h) hs))

theorem State.Inv.saveRidge {s : State} {t r i : Nat} (hs : s.Inv) : (s.saveRidge t r i).Inv := by
  dsimp only [State.saveRidge]
  exact .ite (.exchangeRidge hs) (.duplicate hs)

theorem State.Inv.loadRidge {s : State} {t r i : Nat} (hs : s.Inv) : (s.loadRidge t r i).Inv := by
  dsimp only [State.loadRidge]
  exact .ite (.exchangeRidge hs) hs

theorem State.Inv.swapOut {s : State} {t : Nat} (hs : s.Inv) : (s.swapOut t).Inv := by
  unfold State.swapOut
  extract_lets k banks s₁ s₂
  have h₁ : s₁.Inv := .foldl (fun _ _ h => .saveRidge h) hs
  have h₂ : s₂.Inv := .foldl (fun s b h => by
    refine .setBank (.bankToImage (.foldl (fun s n h => ?_) h))
    exact .setCtx (.ite (.recordState (.ctxToRecord (.leaveBank h))) (.ctxToRecord (.leaveBank h)))) h₁
  exact .setTeam h₂

theorem State.Inv.swapInMember {s : State} {t : Nat} {c : CoreId} {records : List (Nat × Nat)} {image : Option Nat} (hs : s.Inv) : (s.swapInMember t
    c records image).Inv := by
  dsimp only [State.swapInMember]
  split
  exacts [.foldl (fun _ _ h => .placeRecord (.ite (.recordState (.recordToCtx h)) (.recordToCtx h))) (.setCarve hs), .imageToBank (.foldl (fun _ _ h
    => .placeRecord (.ite (.recordState (.recordToCtx h)) (.recordToCtx h))) (.setCarve hs))]

theorem State.Inv.swapIn {s : State} {t : Nat} {cores : List CoreId} (hs : s.Inv) : (s.swapIn t cores).Inv := by
  dsimp only [State.swapIn]
  exact .tryEndTeam (.foldl (fun _ _ h => .takeActions h) (.foldl (fun _ _ h => .loadRidge h) (.foldl (fun _ _ h => .swapInMember h) (.foldl (fun _ _
    h => h) hs))))

theorem State.Inv.fillSlot {s t : State} {d : Nat} {g : Grid} (hs : s.Inv) (h : s.fillSlot d g = some t) : t.Inv := by
  unfold State.fillSlot at h
  split at h
  · cases h
  · split at h
    · cases h
    · extract_lets note at h
      have hn {u : State} (hu : u.Inv) : (note u).Inv := .setDie hu
      clear_value note
      split at h
      all_goals obtain ⟨_, _, rfl⟩ := Option.map_eq_some_iff.mp h
      exacts [hn (.swapIn hs), hn (.launchTeam hs)]

theorem State.Inv.fillSlots {s : State} {d : Nat} {g : Grid} {k : Nat} (hs : s.Inv) : (s.fillSlots d g k).Inv := by
  induction k generalizing s g with
  | zero => exact hs
  | succ k ih =>
    unfold State.fillSlots
    split
    · exact hs
    · split
      · exact hs
      next h => exact ih (.fillSlot hs h)

theorem State.Inv.admitHead {s : State} {d : Nat} {g : Grid} (hs : s.Inv) : (s.admitHead d g).Inv := by
  dsimp only [State.admitHead]
  exact .foldl (fun _ _ h => .launchTeam h) (.charge hs)

theorem State.Inv.admitAll {s : State} {d n : Nat} (hs : s.Inv) : (s.admitAll d n).Inv := by
  induction n generalizing s with
  | zero => exact hs
  | succ n ih =>
    unfold State.admitAll
    extract_lets k cs
    split
    · exact .setDie hs
    · split
      · exact hs
      · exact ih (.admitHead (.setDie hs))

theorem State.Inv.requestYields {s : State} {b : Nat} {deadline : Word} (hs : s.Inv) : (s.requestYields b deadline).Inv := by
  dsimp only [State.requestYields]
  exact .yieldNotice (.foldl (fun _ _ h => h) hs)

theorem State.Inv.expire {s : State} {t deadline : Nat} (hs : s.Inv) : (s.expire t deadline).Inv := by
  dsimp only [State.expire]
  exact .foldl (fun _ _ h => .requestYields h) hs

theorem State.Inv.decision {s : State} {d : Nat} (hs : s.Inv) : (s.decision d).Inv := by
  dsimp only [State.decision]
  exact .admitAll (.foldl (fun _ _ h => .fillSlots h) (.foldl (fun _ _ h => .expire h) hs))

theorem execDispenserDecision_inv {s : State} (hs : s.Inv) : Result.Inv (execDispenserDecision s) :=
  .step hs (.get fun _ hs => .bind .await fun _ => .set (.decision hs))

theorem execQuantumExpire_inv {s : State} (hs : s.Inv) {team : Nat} : Result.Inv (execQuantumExpire team s) := by
  dsimp only [execQuantumExpire]
  refine .step hs (.get fun _ hs => ?_)
  split
  exacts [.stall, .bind .await fun _ => .set (.ite hs (.expire hs))]

theorem execYieldDeadline_inv {s : State} (hs : s.Inv) : Result.Inv (execYieldDeadline s) :=
  .step hs (.get fun _ hs => .bind .await fun _ => .bind .await fun _ => .set (.foldl (fun _ _ h => h) hs))

theorem execTeamSwap_inv {s : State} (hs : s.Inv) {team : Nat} : Result.Inv (execTeamSwap team s) := by
  unfold execTeamSwap
  refine .step hs (.get fun s hs => .bind .await fun _ => ?_)
  split
  · exact .stall
  next d g _ =>
    refine .bind .await fun _ => ?_
    extract_lets s₁
    have h₁ : s₁.Inv := .swapOut hs
    clear_value s₁
    cases h : s₁.fillSlot d g with
    | none => exact .set h₁
    | some t => exact .set (.fillSlot h₁ h)

theorem execLeaseGrant_inv {s : State} (hs : s.Inv) : Result.Inv (execLeaseGrant s) := by
  dsimp only [execLeaseGrant]
  refine .step hs (.get fun _ hs => .bind .await fun _ => ?_)
  split
  · exact .stall
  · split
    exacts [.stall, .set hs]

theorem execLeaseTimeout_inv {s : State} (hs : s.Inv) : Result.Inv (execLeaseTimeout s) := by
  dsimp only [execLeaseTimeout]
  refine .step hs (.get fun _ hs => ?_)
  split
  exacts [.stall, .bind .await fun _ => .set hs]

/-! ### `Machine/Vector.lean` -/

theorem accepts_keepsInv {ok : Bool} : (accepts ok).KeepsInv := .require

theorem laneLocs_keepsInv {acc : Acc} {ea : Word} {n : Nat} : (laneLocs acc ea n).KeepsInv := fun s _ _ h => by
  unfold laneLocs at h
  split at h
  · cases h
  · exact (locate_accesses _ _ _).keepsInv _ _ _ h

theorem lanesLocs_keepsInv {acc : Acc} {lanes : List (Word × Nat)} : (lanesLocs acc lanes).KeepsInv := .underPins fun _ => laneLocs_keepsInv

theorem vectorLoad_keepsInv {q : QType} {d : VReg} {la : La} {eas : List Word} : (vectorLoad q d la eas).KeepsInv :=
  .get fun _ _ => .bind lanesLocs_keepsInv fun _ => .bind (awaitOwn_accesses _).keepsInv fun _ => .bind (.mapM fun _ => .bind (readBytes_accesses
    _).keepsInv fun _ => .pure) fun _ => late_keepsInv

theorem logLanes_keepsInv {op : Nat} {items : List ((Word × List Byte) × List Nat)} : (logLanes op items).KeepsInv :=
  .get fun _ _ => .ite (.bind .await fun _ => .ite (.bind .await fun _ => .bind pushTrail_keepsInv fun _ => .forM fun _ => logWord_keepsInv) (.forM
    fun _ => logWord_keepsInv)) .pure

theorem performLane_keepsInv {i : (Word × List Byte) × List Nat} : (performLane i).KeepsInv := by
  dsimp only [performLane]
  refine .get fun _ _ => .ite ?_ perform_keepsInv
  split
  exacts [.pure, .bind sendPacket_keepsInv fun _ => .ite markLogged_keepsInv .pure]

theorem vectorStore_keepsInv {op : Nat} {q : QType} {v : VWord} {eas : List Word} : (vectorStore op q v eas).KeepsInv :=
  .bind lanesLocs_keepsInv fun _ => .get fun _ _ => .bind (awaitOwn_accesses _).keepsInv fun _ => .bind (meet_accesses _ _).keepsInv fun _ => .bind
    logLanes_keepsInv fun _ => .bind (.forM fun _ => performLane_keepsInv) fun _ => .modify fun _ h => .ite h h

theorem execVld_inv {s : State} (hs : s.Inv) {d : VReg} {a : GReg} {imm : Int} {q : QType} {la : La} : Result.Inv (execVld d a imm q la s) :=
  .bundle hs (.bind issue_keepsInv fun _ => .bind readG_keepsInv fun _ => vectorLoad_keepsInv)

theorem execVst_inv {s : State} (hs : s.Inv) {d : VReg} {a : GReg} {imm : Int} {q : QType} : Result.Inv (execVst d a imm q s) :=
  .bundle hs (.bind issue_keepsInv fun _ => .bind readG_keepsInv fun _ => .bind readV_keepsInv fun _ => vectorStore_keepsInv)

theorem execVlds_inv {s : State} (hs : s.Inv) {d : VReg} {a b : GReg} {q : QType} {la : La} : Result.Inv (execVlds d a b q la s) :=
  .bundle hs (.bind accepts_keepsInv fun _ => .bind issue_keepsInv fun _ => .bind readG_keepsInv fun _ => .bind readG_keepsInv fun _ =>
    vectorLoad_keepsInv)

theorem execVsts_inv {s : State} (hs : s.Inv) {d : VReg} {a b : GReg} {q : QType} : Result.Inv (execVsts d a b q s) :=
  .bundle hs (.bind accepts_keepsInv fun _ => .bind issue_keepsInv fun _ => .bind readG_keepsInv fun _ => .bind readG_keepsInv fun _ => .bind
    readV_keepsInv fun _ => vectorStore_keepsInv)

theorem execVldx_inv {s : State} (hs : s.Inv) {d : VReg} {a : GReg} {b : VReg} {q : QType} {la : La} : Result.Inv (execVldx d a b q la s) :=
  .bundle hs (.bind accepts_keepsInv fun _ => .bind issue_keepsInv fun _ => .bind readG_keepsInv fun _ => .bind readV_keepsInv fun _ =>
    vectorLoad_keepsInv)

theorem execVstx_inv {s : State} (hs : s.Inv) {d : VReg} {a : GReg} {b : VReg} {q : QType} : Result.Inv (execVstx d a b q s) :=
  .bundle hs (.bind accepts_keepsInv fun _ => .bind issue_keepsInv fun _ => .bind readG_keepsInv fun _ => .bind readV_keepsInv fun _ => .bind
    readV_keepsInv fun _ => vectorStore_keepsInv)

theorem lanewise_keepsInv {ok : Bool} {q : QType} {f : Nat → Nat → Nat} {d a b : VReg} : (lanewise ok q f d a b).KeepsInv :=
  .bind accepts_keepsInv fun _ => .bind issue_keepsInv fun _ => .bind readV_keepsInv fun _ => .bind readV_keepsInv fun _ => writeV_keepsInv

theorem lanewise3_keepsInv {ok : Bool} {q : QType} {f : Nat → Nat → Nat → Nat} {d a b : VReg} : (lanewise3 ok q f d a b).KeepsInv :=
  .bind accepts_keepsInv fun _ => .bind issue_keepsInv fun _ => .bind readV_keepsInv fun _ => .bind readV_keepsInv fun _ => .bind readV_keepsInv fun
    _ => writeV_keepsInv

theorem lanewise1_keepsInv {ok : Bool} {q : QType} {f : Nat → Nat} {d a : VReg} : (lanewise1 ok q f d a).KeepsInv :=
  .bind accepts_keepsInv fun _ => .bind issue_keepsInv fun _ => .bind readV_keepsInv fun _ => writeV_keepsInv

theorem bitwise_keepsInv {f : VWord → VWord → VWord} {d a b : VReg} : (bitwise f d a b).KeepsInv :=
  .bind issue_keepsInv fun _ => .bind readV_keepsInv fun _ => .bind readV_keepsInv fun _ => writeV_keepsInv

theorem execVmcnt_inv {s : State} (hs : s.Inv) {d : GReg} {a : VReg} {q : QType} : Result.Inv (execVmcnt d a q s) :=
  .bundle hs (.bind accepts_keepsInv fun _ => .bind issue_keepsInv fun _ => .bind readV_keepsInv fun _ => writeG_keepsInv)

theorem execVcvt_inv {s : State} (hs : s.Inv) {d a : VReg} {code : Fin 8} {q : QType} : Result.Inv (execVcvt d a code q s) :=
  .bundle hs (.bind accepts_keepsInv fun _ => .bind issue_keepsInv fun _ => .bind readV_keepsInv fun _ => writeV_keepsInv)

theorem execVpack4_inv {s : State} (hs : s.Inv) {d a : VReg} {code : Fin 8} {q : QType} {la : La} : Result.Inv (execVpack4 d a code q la s) :=
  .bundle hs (.bind accepts_keepsInv fun _ => .bind .require fun _ => .bind issue_keepsInv fun _ => .bind (.mapM fun _ => readV_keepsInv) fun _ =>
    .bind .getMe fun _ => .bind .modifyMe fun _ => .bind late_keepsInv fun _ => late_keepsInv)

theorem execVunpk4_inv {s : State} (hs : s.Inv) {d a : VReg} {q : QType} : Result.Inv (execVunpk4 d a q s) :=
  .bundle hs (.bind accepts_keepsInv fun _ => .bind .require fun _ => .bind issue_keepsInv fun _ => .bind readV_keepsInv fun _ => .bind
    readV_keepsInv fun _ => .forM fun _ => writeV_keepsInv)

theorem reduce_keepsInv {ff : Val → Val → Val} {fi : Int → Int → Int} {d : GReg} {a : VReg} {q : QType} :
    (Machine.reduce ff fi d a q).KeepsInv := by
  dsimp only [reduce]
  refine .bind .require fun _ => .bind issue_keepsInv fun _ => .bind readV_keepsInv fun _ => ?_
  split
  exacts [writeG_keepsInv, writeG_keepsInv, .bind readV_keepsInv fun _ => writeG_keepsInv]

theorem execVbcast_inv {s : State} (hs : s.Inv) {d : VReg} {a : GReg} {q : QType} : Result.Inv (execVbcast d a q s) :=
  .bundle hs (.bind accepts_keepsInv fun _ => .bind issue_keepsInv fun _ => .bind readG_keepsInv fun _ => writeV_keepsInv)

theorem execVext_inv {s : State} (hs : s.Inv) {d : GReg} {a : VReg} {imm : Nat} {q : QType} : Result.Inv (execVext d a imm q s) :=
  .bundle hs (.bind .require fun _ => .bind issue_keepsInv fun _ => .bind readV_keepsInv fun _ => writeG_keepsInv)

theorem execVins_inv {s : State} (hs : s.Inv) {d : VReg} {a : GReg} {imm : Nat} {q : QType} : Result.Inv (execVins d a imm q s) :=
  .bundle hs (.bind .require fun _ => .bind issue_keepsInv fun _ => .bind readG_keepsInv fun _ => .bind readV_keepsInv fun _ => writeV_keepsInv)

theorem execVperm_inv {s : State} (hs : s.Inv) {d a b : VReg} {q : QType} : Result.Inv (execVperm d a b q s) :=
  .bundle hs (.bind accepts_keepsInv fun _ => .bind issue_keepsInv fun _ => .bind readV_keepsInv fun _ => .bind readV_keepsInv fun _ =>
    writeV_keepsInv)

theorem execVmov_inv {s : State} (hs : s.Inv) {d a : VReg} {q : QType} : Result.Inv (execVmov d a q s) :=
  .bundle hs (.bind .require fun _ => .bind issue_keepsInv fun _ => .bind readV_keepsInv fun _ => .ite (.bind readV_keepsInv fun _ => .bind
    writeV_keepsInv fun _ => .bind .getMe fun _ => writeV_keepsInv) writeV_keepsInv)

theorem execViota_inv {s : State} (hs : s.Inv) {d : VReg} {q : QType} : Result.Inv (execViota d q s) :=
  .bundle hs (.bind accepts_keepsInv fun _ => .bind issue_keepsInv fun _ => writeV_keepsInv)

theorem execVscal_inv {s : State} (hs : s.Inv) {d a : VReg} {b : GReg} {q : QType} : Result.Inv (execVscal d a b q s) :=
  .bundle hs (.bind accepts_keepsInv fun _ => .bind issue_keepsInv fun _ => .bind readG_keepsInv fun _ => .bind readV_keepsInv fun _ =>
    writeV_keepsInv)

/-! ### `Machine/Matrix.lean` -/

theorem awaitLease_keepsInv : awaitLease.KeepsInv := .get fun _ _ => .await

theorem State.Inv.countLease {s : State} (hs : s.Inv) : s.countLease.Inv := by
  dsimp only [State.countLease]
  split
  all_goals exact hs

theorem execMlease_inv {s : State} (hs : s.Inv) {d : GReg} : Result.Inv (execMlease d s) := by
  dsimp only [execMlease]
  refine .bundle hs (.bind issue_keepsInv fun _ => .get fun _ _ => ?_)
  split
  exacts [.stall, writeG_keepsInv]

theorem execMfree_inv {s : State} (hs : s.Inv) : Result.Inv (execMfree s) := .bundle hs (.modify fun _ h => .endLease h)
theorem typed_keepsInv {q : QType} : (typed q).KeepsInv := accepts_keepsInv

theorem execMfmt_inv {s : State} (hs : s.Inv) {a : GReg} {q : QType} : Result.Inv (execMfmt a q s) :=
  .bundle hs (.bind typed_keepsInv fun _ => .bind issue_keepsInv fun _ => .bind readG_keepsInv fun _ => .bind .require fun _ => .bind
    (loadWord_accesses _ _).keepsInv fun _ => .bind .require fun _ => .get fun _ _ => .bind .require fun _ => .modifyCore)

theorem modifierOk_keepsInv {used w : Word} : (modifierOk used w).KeepsInv := .require

theorem acceptJob_keepsInv {walk counted notify : Bool} {cmd : Cmd} {dests held : List Nat} : (acceptJob walk counted notify cmd dests held).KeepsInv
    :=
  .get fun _ hs => .bind (.set (.ite (.countLease hs) hs)) fun _ => .pure

theorem checkRange_keepsInv {t : QType} {desc : MDesc} : (checkRange t desc).KeepsInv :=
  .bind .require fun _ => .bind .require fun _ => .bind .require fun _ => .bind .require fun _ => .require

theorem buildStep_keepsInv {listed : Bool} {d a b : GReg} {q : QType} : (buildStep listed d a b q).KeepsInv :=
  .bind typed_keepsInv fun _ => .bind issue_keepsInv fun _ => .bind readG_keepsInv fun _ => .bind readG_keepsInv fun _ => .bind awaitLease_keepsInv
    fun _ => .get fun _ _ => .bind .require fun _ => .bind modifierOk_keepsInv fun _ => .bind (loadDesc_accesses _).keepsInv fun _ => .bind .require
    fun _ => .bind checkRange_keepsInv fun _ => .bind (.ite (loadList_accesses _ _ _).keepsInv .pure) fun _ => .bind (rowLocs_accesses _ _
    _).keepsInv fun _ => .bind (meet_accesses _ _).keepsInv fun _ => .bind acceptJob_keepsInv fun _ => writeG_keepsInv

theorem multiplyStep_keepsInv {listed : Bool} {d a b : GReg} {q : QType} : (multiplyStep listed d a b q).KeepsInv :=
  .bind typed_keepsInv fun _ => .bind issue_keepsInv fun _ => .bind readG_keepsInv fun _ => .bind readG_keepsInv fun _ => .bind awaitLease_keepsInv
    fun _ => .get fun _ _ => .bind .require fun _ => .bind modifierOk_keepsInv fun _ => .bind (loadDesc_accesses _).keepsInv fun _ => .bind .require
    fun _ => .bind checkRange_keepsInv fun _ => .bind (.ite (loadList_accesses _ _ _).keepsInv .pure) fun _ => .bind (rowLocs_accesses _ _
    _).keepsInv fun _ => .bind (meet_accesses _ _).keepsInv fun _ => .bind acceptJob_keepsInv fun _ => writeG_keepsInv

theorem execMzero_inv {s : State} (hs : s.Inv) {d : GReg} {imm : Nat} : Result.Inv (execMzero d imm s) :=
  .bundle hs (.bind .require fun _ => .bind issue_keepsInv fun _ => .bind awaitLease_keepsInv fun _ => .bind acceptJob_keepsInv fun _ =>
    writeG_keepsInv)

theorem execMdrain_inv {s : State} (hs : s.Inv) {d a b : GReg} : Result.Inv (execMdrain d a b s) :=
  .bundle hs (.bind issue_keepsInv fun _ => .bind readG_keepsInv fun _ => .bind readG_keepsInv fun _ => .bind awaitLease_keepsInv fun _ => .bind
    modifierOk_keepsInv fun _ => .bind .require fun _ => .bind (loadDesc_accesses _).keepsInv fun _ => .bind .require fun _ => .bind (.ite
    (loadList_accesses _ _ _).keepsInv .pure) fun _ => .bind .require fun _ => .bind (.ite .pure (.ite (destParts_accesses _).keepsInv
    (destParts_accesses _).keepsInv)) fun _ => .bind (meet_accesses _ _).keepsInv fun _ => .bind .getMe fun _ => .when .await fun _ => .get fun _ _
    => .when .modifyMe fun _ => .when .modifyMe fun _ => .bind acceptJob_keepsInv fun _ => writeG_keepsInv)

theorem execMwalk_inv {s : State} (hs : s.Inv) {d a b : GReg} : Result.Inv (execMwalk d a b s) :=
  .bundle hs (.bind issue_keepsInv fun _ => .bind readG_keepsInv fun _ => .bind readG_keepsInv fun _ => .bind modifierOk_keepsInv fun _ => .bind
    (loadDesc_accesses _).keepsInv fun _ => .bind .require fun _ => .bind (sourceLocs_accesses _).keepsInv fun _ => .bind (destParts_accesses
    _).keepsInv fun _ => .bind (meet_accesses _ _).keepsInv fun _ => .bind (meet_accesses _ _).keepsInv fun _ => .get fun _ _ => .bind
    acceptJob_keepsInv fun _ => writeG_keepsInv)

theorem checkJob_keepsInv {x : Word} : (checkJob x).KeepsInv := .bind .require fun _ => .get fun _ _ => .bind .require fun _ => .pure

theorem execMwait_inv {s : State} (hs : s.Inv) {a : GReg} : Result.Inv (execMwait a s) :=
  .bundle hs (.bind issue_keepsInv fun _ => .bind readG_keepsInv fun _ => .bind checkJob_keepsInv fun _ => .await)

theorem execMpoll_inv {s : State} (hs : s.Inv) {d a : GReg} : Result.Inv (execMpoll d a s) :=
  .bundle hs (.bind issue_keepsInv fun _ => .bind readG_keepsInv fun _ => .bind checkJob_keepsInv fun _ => writeG_keepsInv)

theorem State.Inv.runLoad {s : State} {r : Nat} {rows scales : List (List Nat)} {t : QType} {col0 k0 : Nat} (hs : s.Inv) : (s.runLoad r rows scales t
    col0 k0).1.Inv := by
  dsimp only [State.runLoad]
  exact .foldl (fun _ _ h => State.inv_storeAt _ _ h) (.foldl (fun _ _ h => State.inv_storeAt _ _ h) hs)

theorem State.Inv.zeroOutside {s : State} {r tile row0 col0 m n : Nat} (hs : s.Inv) : (s.zeroOutside r tile row0 col0 m n).Inv := by
  dsimp only [State.zeroOutside]
  exact .foldl (fun _ _ h => .ite (State.inv_zeroRange _ _ (State.inv_zeroRange _ _ h)) (State.inv_zeroRange _ _ h)) hs

theorem State.Inv.drainFrom {s : State} {r tile : Nat} {s32 : Bool} {dt : QType} {sr clear : Bool} {es : List (Nat × Nat)} {g : Word} (hs : s.Inv) :
    (s.drainFrom r tile s32 dt sr clear es g).1.Inv := by
  induction es generalizing s g with
  | nil => exact hs
  | cons e es ih => exact ih (.ite (State.inv_store _ _ _ hs) hs)

theorem State.Inv.runWalk {s : State} {coords dests : List Nat} (hs : s.Inv) : (s.runWalk coords dests).Inv := by
  dsimp only [State.runWalk]
  exact .stampEngine (State.inv_storeAt _ _ hs)

theorem State.Inv.cleanseTile {s : State} {r tile : Nat} {w : Nat × Nat → Bool} (hs : s.Inv) : (s.cleanseTile r tile w).Inv := hs

theorem State.Inv.runMultiply {s : State} {r : Nat} {rows scales : List (List Nat)} {ta tb : QType} {tile row0 col0 n k k0 : Nat} {fresh clear : Bool}
    (hs : s.Inv) : (s.runMultiply r rows scales ta tb tile row0 col0 n k k0 fresh clear).state.Inv := by
  unfold State.runMultiply
  extract_lets cells out inside done
  have hout : out.1.Inv := foldl_keeps (R := fun a b => a.1.Inv → b.1.Inv) (fun _ => id) (fun _ _ _ h h' => h' ∘ h)
    (fun _ _ => State.inv_store _ _ _) _ (s, false, false) hs
  have hdone : done.Inv := .ite (.zeroOutside hout) hout
  exact .cleanseTile hdone

theorem State.Inv.runDrain {s : State} {r tile : Nat} {elems : List (Nat × Nat)} {dests : List Nat} {s32 : Bool} {dt : QType} {sr port clear : Bool}
    {rng : Word} (hs : s.Inv) : (s.runDrain r tile elems dests s32 dt sr port clear rng).state.Inv := by
  unfold State.runDrain
  extract_lets bad size drained out moves written
  have hout : out.1.Inv := .ite (.cleanseTile (.drainFrom hs)) (.drainFrom hs)
  have hwritten : written.Inv := .stampEngine (State.inv_storeAt _ _ hout)
  clear_value out written
  split
  exacts [hout, .of_mem hwritten rfl]

theorem State.Inv.runCmd {s : State} {r : Nat} {c : Cmd} (hs : s.Inv) : (s.runCmd r c).state.Inv := by
  cases c with
  | load => exact .runLoad hs
  | multiply => exact .runMultiply hs
  | zero => exact .cleanseTile (State.inv_zeroRange _ _ hs)
  | drain => exact .runDrain hs
  | walk => exact .runWalk hs

theorem State.Inv.completeJob {s : State} {r : Nat} {j : Job} (hs : s.Inv) : (s.completeJob r j).Inv := by
  unfold State.completeJob
  extract_lets ran s₁ core k ovf s₂
  have h₁ : s₁.Inv := .runCmd (.noteOld hs)
  have h₂ : s₂.Inv := .setCore h₁
  exact .onSeat h₂

theorem execMatrixJobComplete_inv {s : State} (hs : s.Inv) : Result.Inv (execMatrixJobComplete s) := by
  dsimp only [execMatrixJobComplete]
  refine .step hs (.get fun _ hs => ?_)
  split
  exacts [.stall, .bind meetEngine_keepsInv fun _ => .set (.completeJob hs)]

theorem execIndexWalkComplete_inv {s : State} (hs : s.Inv) : Result.Inv (execIndexWalkComplete s) := by
  dsimp only [execIndexWalkComplete]
  refine .step hs (.get fun _ hs => ?_)
  split
  exacts [.stall, .set (.completeJob hs)]

/-! ### `Machine/Power.lean` -/

theorem State.Inv.chillRegion {s : State} {rcb : Nat} (hs : s.Inv) : (s.chillRegion rcb).Inv := by
  dsimp only [State.chillRegion]
  exact .foldl (fun _ _ h => .endSprint h) hs

theorem execSprintLeaseExpire_inv {s : State} (hs : s.Inv) : Result.Inv (execSprintLeaseExpire s) :=
  .step hs (.get fun _ hs => .bind .await fun _ => .set (.endSprint hs))

theorem State.Inv.chargeEnergy {s : State} {rcb : Nat} (hs : s.Inv) : (s.chargeEnergy rcb).Inv := by
  dsimp only [State.chargeEnergy]
  exact .ite (.rcbFlag (State.inv_store _ _ _ hs)) (State.inv_store _ _ _ hs)

theorem execSprintEnergyCharge_inv {s : State} (hs : s.Inv) : Result.Inv (execSprintEnergyCharge s) := by
  dsimp only [execSprintEnergyCharge]
  refine .step hs (.get fun _ hs => ?_)
  split
  exacts [.stall, .bind .await fun _ => .set (.foldl (fun _ _ h => .chillRegion h) (.foldl (fun _ _ h => .chargeEnergy h) hs))]

theorem execIcefieldUpdate_inv {s : State} (hs : s.Inv) {milliwatts : Nat} : Result.Inv (execIcefieldUpdate milliwatts s) :=
  .step hs (.get fun _ hs => .ite (.set (.foldl (fun _ _ h => .ite (.endSprint h) h) hs)) (.ite (.set hs) (.set hs)))

theorem execBiasWindow_inv {s : State} (hs : s.Inv) {events : Nat} : Result.Inv (execBiasWindow events s) :=
  .step hs (.get fun _ hs => .bind .await fun _ => .set hs)

theorem execBiasHoldExpire_inv {s : State} (hs : s.Inv) : Result.Inv (execBiasHoldExpire s) := by
  dsimp only [execBiasHoldExpire]
  refine .step hs (.get fun _ hs => ?_)
  split
  exacts [.stall, .bind .await fun _ => .set hs]

theorem State.Inv.setHot {s : State} {rcb : Nat} {on : Bool} (hs : s.Inv) : (s.setHot rcb on).Inv := by
  dsimp only [State.setHot]
  exact .ite (.chillRegion (.rcbFlag hs)) (.rcbFlag hs)

theorem State.Inv.followHeat {s : State} {rcb : Nat} (hs : s.Inv) : (s.followHeat rcb).Inv := by
  dsimp only [State.followHeat]
  split
  · split
    all_goals exact hs
  · refine .ite (.setHot hs) ?_
    split
    all_goals exact hs

theorem execTemperatureSample_inv {s : State} (hs : s.Inv) {rcb : Nat} {readings : List (Nat × Word)} : Result.Inv (execTemperatureSample rcb
    readings s) :=
  .step hs (.modify fun _ h => .followHeat (.foldl (fun _ _ h => h) h))

theorem execHotDwellExpire_inv {s : State} (hs : s.Inv) {rcb : Nat} : Result.Inv (execHotDwellExpire rcb s) :=
  .step hs (.get fun _ hs => .bind .await fun _ => .set (.followHeat hs))

theorem State.Inv.marginError {s : State} {r : Nat} (hs : s.Inv) : (s.marginError r).Inv := by
  dsimp only [State.marginError]
  exact .ite hs (.endSprint (.postNoctx hs))

theorem execUncorrectableError_inv {s : State} (hs : s.Inv) {site : ErrorSite} : Result.Inv (execUncorrectableError site s) := by
  dsimp only [execUncorrectableError]
  refine .step hs (.modify fun _ h => ?_)
  split
  · split
    exacts [.marginError h, h]
  · exact .marginError (.ite h h)
  · exact h
  · exact .marginError h

/-! ### `Machine/Ropes.lean` -/

theorem modifyDie_keepsInv {f : Die → Die} : (modifyDie f).KeepsInv := fun _ _ _ h => by cases h; exact id

theorem State.Inv.leaveRope {s : State} (hs : s.Inv) : s.leaveRope.Inv := by
  dsimp only [State.leaveRope]
  split
  exacts [hs, .ite (.quitRope hs) hs]

theorem execRlead_inv {s : State} (hs : s.Inv) {d a : GReg} : Result.Inv (execRlead d a s) :=
  .bundle hs (.bind issue_keepsInv fun _ => .bind readG_keepsInv fun _ => .get fun _ _ => .bind .require fun _ => .bind (.modify fun _ h =>
    .leaveRope h) fun _ => .get fun _ _ => .bind modifyDie_keepsInv fun _ => .bind .modifyMe fun _ => writeG_keepsInv)

theorem execRfollow_inv {s : State} (hs : s.Inv) {a b : GReg} : Result.Inv (execRfollow a b s) := by
  dsimp only [execRfollow]
  refine .bundle hs (.bind issue_keepsInv fun _ => .bind readG_keepsInv fun _ => .bind readG_keepsInv fun _ => .get fun _ _ => ?_)
  split
  exacts [.trap, .bind .require fun _ => .bind (.modify fun _ h => .quitRope h) fun _ => .bind modifyDie_keepsInv fun _ => .modifyMe]

theorem execRdetach_inv {s : State} (hs : s.Inv) : Result.Inv (execRdetach s) := .bundle hs (.modify fun _ h => .leaveRope h)

theorem State.Inv.reattach {s : State} {die id : Nat} {pc : Word} {m : CtxId} (hs : s.Inv) : (s.reattach die id pc m).Inv := by
  dsimp only [State.reattach]
  split
  exacts [.ite hs hs, hs]

theorem execRrejoin_inv {s : State} (hs : s.Inv) : Result.Inv (execRrejoin s) := by
  dsimp only [execRrejoin]
  split
  exacts [.bundle hs .pure, .ite (.bundle hs (.modify fun _ h => .foldl (fun _ _ h => .reattach h) h)) (.ite (.bundle hs .pure) (.ite (.bundle hs
    .stall) (.next hs)))]

theorem modifyPart_keepsInv {f : Machine.Part → Machine.Part} : (modifyPart f).KeepsInv := fun _ _ _ h => by cases h; exact id

theorem execThset_inv {s : State} (hs : s.Inv) {d a b : GReg} : Result.Inv (execThset d a b s) := by
  dsimp only [execThset]
  refine .bundle hs ?_
  refine .bind issue_keepsInv fun _ => .bind readG_keepsInv fun _ => .bind readG_keepsInv fun _ => .bind (loadBytes_accesses _ _ _).keepsInv fun _ =>
    .bind .require fun _ => .get fun _ _ => ?_
  split
  exacts [.trap, .bind modifyPart_keepsInv fun _ => writeG_keepsInv]

theorem ownHandle_keepsInv {h : Word} : (ownHandle h).KeepsInv := by
  dsimp only [ownHandle]
  refine .get fun _ _ => ?_
  split
  exacts [.ite .pure .trap, .trap]

theorem setHandle_keepsInv {n : Nat} {h : Option Handle} : (setHandle n h).KeepsInv := modifyPart_keepsInv

theorem execThprio_inv {s : State} (hs : s.Inv) {a b : GReg} : Result.Inv (execThprio a b s) :=
  .bundle hs (.bind issue_keepsInv fun _ => .bind readG_keepsInv fun _ => .bind readG_keepsInv fun _ => .bind ownHandle_keepsInv fun _ => .bind
    .require fun _ => setHandle_keepsInv)

theorem execThevict_inv {s : State} (hs : s.Inv) {a : GReg} : Result.Inv (execThevict a s) :=
  .bundle hs (.bind issue_keepsInv fun _ => .bind readG_keepsInv fun _ => .bind ownHandle_keepsInv fun _ => .get fun _ _ => .bind .await fun _ =>
    .bind (.modify fun _ h => .evictTensor h) fun _ => setHandle_keepsInv)

theorem execThdemote_inv {s : State} (hs : s.Inv) {a : GReg} : Result.Inv (execThdemote a s) :=
  .bundle hs (.bind issue_keepsInv fun _ => .bind readG_keepsInv fun _ => .bind ownHandle_keepsInv fun _ => setHandle_keepsInv)

theorem execXprobe_inv {s : State} (hs : s.Inv) {d a : GReg} : Result.Inv (execXprobe d a s) :=
  .bundle hs (.bind issue_keepsInv fun _ => .bind readG_keepsInv fun _ => .get fun _ _ => writeG_keepsInv)

/-! ### `Machine/Service.lean` -/

theorem State.Inv.takeFaulted {s : State} {c : CtxId} {t : Trap} (hs : s.Inv) : (s.takeFaulted c t).Inv := by
  dsimp only [State.takeFaulted]
  exact .takeTrap hs

theorem execSystemFault_inv {s : State} (hs : s.Inv) : Result.Inv (execSystemFault s) := by
  dsimp only [execSystemFault]
  refine .step hs (.get fun _ hs => ?_)
  split
  exacts [.stall, .set (.takeFaulted hs)]

theorem State.Inv.recordNumber {s : State} {f : FaultRecord} (hs : s.Inv) : (s.recordNumber f).2.Inv := by
  unfold State.recordNumber
  split
  exacts [hs, .ringNumber hs]

theorem execFaultRecordPost_inv {s : State} (hs : s.Inv) : Result.Inv (execFaultRecordPost s) := by
  unfold execFaultRecordPost
  refine .step hs (.get fun s hs => ?_)
  split
  · exact .stall
  next f rest _ =>
    have h := State.Inv.recordNumber (f := f) hs
    split
    next hn =>
      rw [hn] at h
      exact .bind .await fun _ => .set (.of_mem (State.inv_storeWords _ _ h) rfl)

theorem execStoreAcknowledgement_inv {s : State} (hs : s.Inv) : Result.Inv (execStoreAcknowledgement s) :=
  .step hs (.get fun _ hs => .bind .await fun _ => .set (.receiveAck hs))

theorem State.Inv.parkPending {s : State} (hs : s.Inv) : s.parkPending.Inv := by
  dsimp only [State.parkPending]
  refine .foldl (fun _ _ h => ?_) hs
  split
  exacts [.ite (.takeFaulted h) h, h]

theorem State.Inv.freeze {s : State} (hs : s.Inv) : s.freeze.Inv := by
  dsimp only [State.freeze]
  exact .foldl (fun _ _ h => .recordState h) (.parkPending hs)

theorem execWatchdogExpire_inv {s : State} (hs : s.Inv) : Result.Inv (execWatchdogExpire s) :=
  .step hs (.get fun _ hs => .bind .await fun _ => .set (.freeze hs))

theorem State.Inv.startService {s : State} {n : Nat} (hs : s.Inv) : (s.startService n).Inv := by
  dsimp only [State.startService]
  exact .foldl (fun _ _ h => h) hs

theorem execServiceWarmRestart_inv {s : State} (hs : s.Inv) : Result.Inv (execServiceWarmRestart s) :=
  .step hs (.modify fun _ h => .foldl (fun _ _ h => .startService h) (.ite h (.freeze h)))

theorem execServiceCoreRemoval_inv {s : State} (hs : s.Inv) {n : Nat} : Result.Inv (execServiceCoreRemoval n s) :=
  .step hs (.get fun _ hs => .bind .await fun _ => .set hs)

theorem execTimeLockLost_inv {s : State} (hs : s.Inv) : Result.Inv (execTimeLockLost s) :=
  .step hs (.get fun _ hs => .bind .await fun _ => .set (.postNoctx hs))

theorem execTimeLockRegained_inv {s : State} (hs : s.Inv) : Result.Inv (execTimeLockRegained s) := .step hs (.modify fun _ h => h)

theorem State.Inv.addRecord {s : State} {r : FlashRecord} (hs : s.Inv) : (s.addRecord r).Inv := by
  dsimp only [State.addRecord]
  split
  exacts [hs, .ite hs hs]

theorem State.Inv.dropRidge {s : State} {r p : Nat} (hs : s.Inv) : (s.dropRidge r p).Inv := by
  dsimp only [State.dropRidge]
  exact .ite (State.inv_store _ _ _ hs) hs

theorem State.Inv.recordRidges {s : State} (hs : s.Inv) : s.recordRidges.Inv := by
  dsimp only [State.recordRidges]
  split
  exacts [.ite (.addRecord hs) hs, hs]

theorem execRidgeDrain_inv {s : State} (hs : s.Inv) : Result.Inv (execRidgeDrain s) := by
  dsimp only [execRidgeDrain]
  refine .step hs (.get fun _ hs => .ite (.set hs) ?_)
  refine .bind .await fun _ => ?_
  split
  exacts [.set (.recordRidges (.foldl (fun _ _ h => .dropRidge h) hs)), .set (.recordRidges (State.inv_zeroRange _ _ hs))]

theorem State.Inv.applyRidges {s : State} {physical retired : List Nat} (hs : s.Inv) : (s.applyRidges physical retired).Inv := by
  dsimp only [State.applyRidges]
  exact .foldl (fun _ _ h => h) (.foldl (fun _ _ h => h) hs)

theorem State.Inv.beat {s : State} {w : Word} (hs : s.Inv) : (s.beat w).Inv := .of_mem hs rfl
theorem State.Inv.lockTime {s : State} (hs : s.Inv) : s.lockTime.Inv := .of_mem hs rfl

theorem State.Inv.bringUpStep {s : State} {config : BootConfig} {n : Nat} (hs : s.Inv) : (bringUpStep config n s).Inv := by
  unfold Machine.bringUpStep
  split
  · exact .of_mem hs rfl
  · exact .foldl (fun _ _ h => .startService h) (State.inv_zeroRange _ _ hs)
  · split
    exacts [.applyRidges hs, hs]
  · extract_lets s₁
    have h₁ : s₁.Inv := .of_mem hs rfl
    clear_value s₁
    split
    exacts [.lockTime (.of_mem h₁ rfl), .lockTime h₁]
  · split
    exacts [.beat hs, hs]

theorem State.Inv.bringUpTo {s : State} {config : BootConfig} {ns : List Nat} (hs : s.Inv) : (bringUpTo config s ns).Inv := by
  induction ns generalizing s with
  | nil => exact hs
  | cons n ns ih =>
    unfold Machine.bringUpTo
    exact .ite (.of_mem hs rfl) (ih (.of_mem (.bringUpStep hs) rfl))

theorem execPowerGood_inv {s : State} {config : BootConfig} : Result.Inv (execPowerGood config s) :=
  .next (.bringUpTo (.of_mem State.reset_inv rfl))

theorem execAttestationRequest_inv {s : State} (hs : s.Inv) {nonce : List Byte} : Result.Inv (execAttestationRequest nonce s) :=
  .step hs (.modify fun _ h => h)

theorem State.Inv.placeBytes {s : State} {part va : Nat} {bs : List Byte} (hs : s.Inv) : (s.placeBytes part va bs).Inv := by
  dsimp only [State.placeBytes]
  refine .foldl (fun _ _ h => ?_) hs
  split
  exacts [Memory.wf_write _ _ h, h]

theorem State.Inv.placeRegion {s : State} {j : JobMessage} {root i : Nat} (hs : s.Inv) : (s.placeRegion j root i).Inv := by
  dsimp only [State.placeRegion]
  exact State.inv_storeWords _ _ hs

theorem State.Inv.placePart {s : State} {j : JobMessage} (hs : s.Inv) : (s.placePart j).Inv :=
  Memory.wf_foldl_writes _ _ hs

theorem State.Inv.placeLaunch {s : State} {j : JobMessage} {root : Nat} {l : LaunchPlan} (hs : s.Inv) : (s.placeLaunch j root l).Inv := by
  dsimp only [State.placeLaunch]
  exact State.inv_store _ _ _ (State.inv_storeWords _ _ hs)

theorem State.Inv.placeRoot {s : State} {root : Nat} (hs : s.Inv) : (s.placeRoot root).Inv := by
  dsimp only [State.placeRoot]
  split
  exacts [State.inv_storeWords _ _ hs, hs]

theorem State.Inv.placeJob {s : State} {j : JobMessage} (hs : s.Inv) : (s.placeJob j).Inv := by
  dsimp only [State.placeJob]
  exact .foldl (fun _ _ h => .placeLaunch h) (.foldl (fun _ _ h => .placeRegion h) (.placeRoot (.foldl (fun _ _ h => .placeBytes h) (.foldl (fun _ _
    h => .placeBytes h) (.placePart hs)))))

theorem execJobMessage_inv {s : State} (hs : s.Inv) {job : JobMessage} : Result.Inv (execJobMessage job s) :=
  .step hs (.get fun _ hs => .bind .await fun _ => .bind .await fun _ => .set (.ite (.placeJob hs) hs))

/-! ### Every instruction -/

theorem exec_inv {s : State} (hs : s.Inv) (i : Instr) : Result.Inv (exec i s) := by
  cases i with
  | add | sub | and | or | xor | shl | shr | sra | mul | mulh | min | max | seq | slt | rot | fadd | fsub | fmul | fdiv | fmin | fmax | feq | flt |
    fle => exact .bundle hs binary_keepsInv
  | sel | fma => exact .bundle hs ternary_keepsInv
  | addi | andi | ori | xori | shli | shri | srai | slti | popc | clz | ctz | bswap | fsqrt | fcvt | fcls => exact .bundle hs unary_keepsInv
  | li | pcrel => exact .bundle hs constant_keepsInv
  | lih => exact execLih_inv hs
  | ldb | ldbn | ldh | ldhn | ldw | ldwn | ldd => exact .bundle hs loadStep_keepsInv
  | stb | sth | stw | std => exact .bundle hs storeStep_keepsInv
  | tch _ _ _ la => exact execTch_inv (_la := la) hs
  | lda => exact execLda_inv hs
  | stl => exact execStl_inv hs
  | beq | bne | blt | bge | bltn | bgen => exact .bundle hs branch_keepsInv
  | jmp => exact execJmp_inv hs
  | jal => exact execJal_inv hs
  | jr => exact execJr_inv hs
  | div | divn | rem | remn => exact .bundle hs binaryLate_keepsInv
  | bext => exact execBext_inv hs
  | bins => exact execBins_inv hs
  | kget => exact execKget_inv hs
  | kput => exact execKput_inv hs
  | rand => exact execRand_inv hs
  | vld => exact execVld_inv hs
  | vst => exact execVst_inv hs
  | vlds => exact execVlds_inv hs
  | vsts => exact execVsts_inv hs
  | vldx => exact execVldx_inv hs
  | vstx => exact execVstx_inv hs
  | vadd | vsub | vmul | vmin | vmax | vshl | vshr | vcmpeq | vcmplt => exact .bundle hs lanewise_keepsInv
  | vfma | vsel => exact .bundle hs lanewise3_keepsInv
  | vand | vor | vxor => exact .bundle hs bitwise_keepsInv
  | vcvt => exact execVcvt_inv hs
  | vpack4 => exact execVpack4_inv hs
  | vunpk4 => exact execVunpk4_inv hs
  | vredsum | vredmax | vredmin => exact .bundle hs reduce_keepsInv
  | vbcast => exact execVbcast_inv hs
  | vext => exact execVext_inv hs
  | vins => exact execVins_inv hs
  | vperm => exact execVperm_inv hs
  | vrcp | vrsq | vexp => exact .bundle hs lanewise1_keepsInv
  | vscal => exact execVscal_inv hs
  | vmov => exact execVmov_inv hs
  | vmcnt => exact execVmcnt_inv hs
  | viota => exact execViota_inv hs
  | mlease => exact execMlease_inv hs
  | mfmt => exact execMfmt_inv hs
  | mbld | mbldg => exact .bundle hs buildStep_keepsInv
  | mmul | mgath => exact .bundle hs multiplyStep_keepsInv
  | mzero => exact execMzero_inv hs
  | mdrain => exact execMdrain_inv hs
  | mwalk => exact execMwalk_inv hs
  | mwait => exact execMwait_inv hs
  | mpoll => exact execMpoll_inv hs
  | cpput => exact execCpput_inv hs
  | cplaunch | cpLaunchRead => exact .bundle hs launchCopy_keepsInv
  | cpgath | cpscat => exact .bundle hs indexedCopy_keepsInv
  | cpwait => exact execCpwait_inv hs
  | sgath => exact execSgath_inv hs
  | aadd | aand | aor | amin | amax | axchg => exact .bundle hs sliceAtomic_keepsInv
  | acas => exact execAcas_inv hs
  | afadd => exact execAfadd_inv hs
  | msend => exact execMsend_inv hs
  | hset => exact execHset_inv hs
  | spawn => exact execSpawn_inv hs
  | cdarm => exact execCdarm_inv hs
  | cddec => exact execCddec_inv hs
  | jwait => exact execJwait_inv hs
  | fence => exact execFence_inv hs
  | fencea => exact execFencea_inv hs
  | fencer => exact .bundle hs awaitScope_keepsInv
  | sfence => exact execSfence_inv hs
  | barr => exact execBarr_inv hs
  | barw => exact execBarw_inv hs
  | barx => exact execBarx_inv hs
  | waitge => exact execWaitge_inv hs
  | carve => exact execCarve_inv hs
  | sprint => exact execSprint_inv hs
  | sprintq => exact execSprintq_inv hs
  | scallRefused => exact execScallRefused_inv hs
  | rst => exact execRst_inv hs
  | rstv => exact execRstv_inv hs
  | rstm => exact execRstm_inv hs
  | raadd | rafadd | raxchg => exact .bundle hs atomicB_keepsInv
  | racas => exact execRacas_inv hs
  | rreq => exact execRreq_inv hs
  | rsl => exact execRsl_inv hs
  | rsetc => exact execRsetc_inv hs
  | rclose => exact execRclose_inv hs
  | tryChoice | trySteal => exact .bundle hs tryStep_keepsInv
  | cut => exact execCut_inv hs
  | mark => exact execMark_inv hs
  | otask => exact execOtask_inv hs
  | ohoriz => exact execOhoriz_inv hs
  | cvdef => exact execCvdef_inv hs
  | cvslope | cvquant => exact .bundle hs installField_keepsInv
  | cvfan => exact execCvfan_inv hs
  | cvrun => exact execCvrun_inv hs
  | cvstop => exact execCvstop_inv hs
  | cvread => exact execCvread_inv hs
  | cvguard => exact execCvguard_inv hs
  | cvsurvey => exact execCvsurvey_inv hs
  | rlead => exact execRlead_inv hs
  | rfollow => exact execRfollow_inv hs
  | thset => exact execThset_inv hs
  | thprio => exact execThprio_inv hs
  | thevict => exact execThevict_inv hs
  | thdemote => exact execThdemote_inv hs
  | xprobe => exact execXprobe_inv hs
  | skget => exact execSkget_inv hs
  | skput => exact execSkput_inv hs
  | stage => exact execStage_inv hs
  | spill => exact execSpill_inv hs
  | tlbinv => exact execTlbinv_inv hs
  | pinrel => exact execPinrel_inv hs
  | gstop => exact execGstop_inv hs
  | gresume => exact execGresume_inv hs
  | adopt => exact execAdopt_inv hs
  | teamStart => exact execTeamStart_inv hs
  | quantumExpire => exact execQuantumExpire_inv hs
  | yieldRequest => exact execYieldRequest_inv hs
  | teamSwap => exact execTeamSwap_inv hs
  | messageArrive => exact execMessageArrive_inv hs
  | horizonReduction => exact execHorizonReduction_inv hs
  | copyComplete => exact execCopyComplete_inv hs
  | barrierPhaseComplete => exact execBarrierPhaseComplete_inv hs
  | timerFire => exact execTimerFire_inv hs
  | longLatencyComplete => exact execLongLatencyComplete_inv hs
  | streamCommit => exact execStreamCommit_inv hs
  | streamAck => exact execStreamAck_inv hs
  | remoteAtomicResult => exact execRemoteAtomicResult_inv hs
  | fabricFailure => exact execFabricFailure_inv hs
  | requestArrive => exact execRequestArrive_inv hs
  | requestTimeout => exact execRequestTimeout_inv hs
  | ualinkReadRequest => exact execUalinkReadRequest_inv hs
  | stationLinkDown => exact execStationLinkDown_inv hs
  | icefieldUpdate => exact execIcefieldUpdate_inv hs
  | biasWindow => exact execBiasWindow_inv hs
  | temperatureSample => exact execTemperatureSample_inv hs
  | hotDwellExpire => exact execHotDwellExpire_inv hs
  | uncorrectableError => exact execUncorrectableError_inv hs
  | heartWrite => exact execHeartWrite_inv hs
  | ploadWrite => exact .step hs ploadOp_keepsInv
  | stagectlWrite => exact .step hs stagectlOp_keepsInv
  | jobMessage => exact execJobMessage_inv hs
  | attestationRequest => exact execAttestationRequest_inv hs
  | powerGood => exact execPowerGood_inv
  | unassignedOpcode => exact execUnassignedOpcode_inv hs
  | streamGapTimeout => exact execStreamGapTimeout_inv hs
  | brokenStreamClear => exact execBrokenStreamClear_inv hs
  | stationLinkUp => exact execStationLinkUp_inv hs
  | portLinkChange => exact execPortLinkChange_inv hs
  | serviceCoreRemoval => exact execServiceCoreRemoval_inv hs
  | nop => exact execNop_inv hs
  | brk => exact execBrk_inv hs
  | mfree => exact execMfree_inv hs
  | evwait => exact execEvwait_inv hs
  | yield => exact execYield_inv hs
  | uret => exact execUret_inv hs
  | scallExit => exact execScallExit_inv hs
  | scallTimerArm => exact execScallTimerArm_inv hs
  | scallTimerCancel => exact execScallTimerCancel_inv hs
  | scallDestroyDeque => exact execScallDestroyDeque_inv hs
  | rbegin => exact execRbegin_inv hs
  | rcommit => exact execRcommit_inv hs
  | rslgo => exact execRslgo_inv hs
  | fail => exact execFail_inv hs
  | oend => exact execOend_inv hs
  | oabort => exact execOabort_inv hs
  | rdetach => exact execRdetach_inv hs
  | rrejoin => exact execRrejoin_inv hs
  | tret => exact execTret_inv hs
  | swapgo => exact execSwapgo_inv hs
  | launchRecordTake => exact execLaunchRecordTake_inv hs
  | dispenserDecision => exact execDispenserDecision_inv hs
  | yieldDeadline => exact execYieldDeadline_inv hs
  | handlerStart => exact execHandlerStart_inv hs
  | handlerTableApply => exact execHandlerTableApply_inv hs
  | stealRequest => exact execStealRequest_inv hs
  | stealAnswer => exact execStealAnswer_inv hs
  | stealReplyReceive => exact execStealReplyReceive_inv hs
  | readyRingPush => exact execReadyRingPush_inv hs
  | otaskCommit => exact execOtaskCommit_inv hs
  | taskAbort => exact execTaskAbort_inv hs
  | contourCrossing => exact execContourCrossing_inv hs
  | surveyFire => exact execSurveyFire_inv hs
  | leaseGrant => exact execLeaseGrant_inv hs
  | leaseTimeout => exact execLeaseTimeout_inv hs
  | matrixJobComplete => exact execMatrixJobComplete_inv hs
  | indexWalkComplete => exact execIndexWalkComplete_inv hs
  | doneWordPush => exact execDoneWordPush_inv hs
  | copyInterrupt => exact execCopyInterrupt_inv hs
  | translationWalk => exact execTranslationWalk_inv hs
  | pinExpire => exact execPinExpire_inv hs
  | contextMigrate => exact execContextMigrate_inv hs
  | regionTimeout => exact execRegionTimeout_inv hs
  | regionFailure => exact execRegionFailure_inv hs
  | swapTimeDue => exact execSwapTimeDue_inv hs
  | ridgeFlip => exact execRidgeFlip_inv hs
  | stageComplete => exact execStageComplete_inv hs
  | spillComplete => exact execSpillComplete_inv hs
  | sprintLeaseExpire => exact execSprintLeaseExpire_inv hs
  | systemFault => exact execSystemFault_inv hs
  | faultRecordPost => exact execFaultRecordPost_inv hs
  | watchdogExpire => exact execWatchdogExpire_inv hs
  | timeLockLost => exact execTimeLockLost_inv hs
  | storeAcknowledgement => exact execStoreAcknowledgement_inv hs
  | sprintEnergyCharge => exact execSprintEnergyCharge_inv hs
  | biasHoldExpire => exact execBiasHoldExpire_inv hs
  | timeLockRegained => exact execTimeLockRegained_inv hs
  | serviceWarmRestart => exact execServiceWarmRestart_inv hs
  | ridgeDrain => exact execRidgeDrain_inv hs

/-! ### Turns and steps -/

theorem turn_inv {s t : State} {c : CtxId} {i : Instr} (hs : s.Inv) (h : turn s c = .ok (i, t)) : t.Inv := by
  unfold turn at h
  extract_lets s₁ at h
  have h₁ : s₁.Inv := .of_mem hs rfl
  clear_value s₁
  split at h
  · cases h; exact h₁
  · split at h
    · cases h; exact h₁
    · split at h
      · cases h; exact h₁
      · split at h
        · cases h
        · split at h
          next hf =>
            have hu := fetchBundle_keepsInv.ok hf (.follow h₁)
            split at h
            · cases h; exact .setCtx hu
            · cases h; exact hu
          · cases h

theorem runTurn_inv {s : State} (hs : s.Inv) {c : CtxId} : Result.Inv (runTurn s c) := by
  unfold runTurn
  split
  next h => exact exec_inv (turn_inv hs h) _
  · exact .next (.takeTrap (.of_mem hs rfl))
  · exact .fault
  · exact .refused
  · exact .next (.of_mem hs rfl)

theorem runHardware_inv {s : State} (hs : s.Inv) {x : Candidate} : Result.Inv (runHardware s x) := by
  unfold runHardware
  split
  next h => exact .next (.of_mem (exec_inv (s := s.at x.core x.ctx) (.of_mem hs rfl) _ _ h) rfl)
  · exact .fault
  · exact .refused

theorem autonomous_inv {s : State} (hs : s.Inv) : Result.Inv (autonomous s) := by
  unfold autonomous
  split
  exacts [runTurn_inv hs, runHardware_inv hs, .next (.of_mem hs rfl)]

theorem State.Inv.takeIn {s : State} {f : State → State} (hf : ∀ s, s.Inv → (f s).Inv) (hs : s.Inv) : (s.takeIn f).Inv := .ite hs (hf s hs)

/-- Time passes without a change of memory. -/
theorem ticked_inv {r : Host.Outcome State Fault Refusal} (hr : Result.Inv r) : Result.Inv (ticked r) := by
  cases r with
  | next s => exact .next (.of_mem (hr s rfl) rfl)
  | fault => exact .fault
  | refused => exact .refused

theorem step_inv {s : State} (hs : s.Inv) : Result.Inv (step s) := by
  unfold step
  refine ticked_inv ?_
  split
  · exact autonomous_inv hs
  · exact exec_inv (by exact hs) _
  · exact autonomous_inv (.of_mem hs rfl)
  · exact .next (.takeIn (fun _ h => .contourSent (.of_mem h rfl)) (.of_mem hs rfl))
  all_goals exact .next (.takeIn (fun _ h => .of_mem h rfl) (.of_mem hs rfl))

/-- Settles O57: each instruction, each step of the hardware and each input keeps the form, since every write to the memory goes through
`Memory.write`. -/
theorem invKept : Obligations.InvKept := fun _ t hs h => step_inv hs t h

end Sys2Proof.Machine
end

section
/-! SUPPORT. Fences, waits and barriers (R218, R256 to R260): when the condition of each holds, and what arriving, waiting and completing a
phase leave. -/

namespace Sys2Proof.Machine

/-! ### Fences -/

section
variable {s : State} {q : QType}

theorem State.owes_eq_false {n : Nat} {which : Packet → Bool} :
    s.owes n which = false ↔ ∀ p, p ∈ s.packets → (s.isMine p && s.packetIn n p) = true → which p = false := by
  simp [State.owes]

/-- No packet to the scope is owed, and beyond a core none of its stores is unacknowledged. -/
theorem awaitScope_run (hq : q.val < 6) (hp : ∀ p, p ∈ s.packets → (s.isMine p && s.packetIn q.val p) = false)
    (ha : 2 ≤ q.val → s.myCore.acks = []) : awaitScope q s = .ok ((), s) := by
  have owes : s.owes q.val (fun _ => true) = false := State.owes_eq_false.mpr fun p h hm => by rw [hp p h] at hm; cases hm
  have acks : (decide (q.val < 2) || s.myCore.acks.isEmpty) = true := by
    by_cases h : q.val < 2
    · simp [h]
    · simp [ha (by omega)]
  unfold awaitScope
  rw [require_passes (decide_eq_true hq), M.bind_ok (M.get_run s), M.bind_ok (M.await_run (by rw [owes]; rfl) _ s), M.await_run acks]

theorem awaitScope_waits (hq : q.val < 6)
    (h : (∃ p, p ∈ s.packets ∧ (s.isMine p && s.packetIn q.val p) = true) ∨ (2 ≤ q.val ∧ s.myCore.acks ≠ [])) :
    awaitScope q s = .error (.wait .other) := by
  unfold awaitScope
  rw [require_passes (decide_eq_true hq), M.bind_ok (M.get_run s)]
  cases owes : s.owes q.val (fun _ => true) with
  | true => exact M.bind_error (M.await_wait rfl _ s)
  | false =>
    obtain ⟨p, hp, hm⟩ | ⟨h2, ha⟩ := h
    · cases State.owes_eq_false.mp owes p hp hm
    · rw [M.bind_ok (M.await_run (show (!false) = true from rfl) _ s)]
      exact M.await_wait (by simp [ha, Nat.not_lt.mpr h2]) _ s

theorem awaitScope_refuses (hq : 6 ≤ q.val) : awaitScope q s = .error (.trap { cls := 0, detail := 19 }) :=
  M.bind_error (M.require_trap (decide_eq_false (Nat.not_lt.mpr hq)) 0 19 s)

theorem fence_refuses (hq : 6 ≤ q.val) (i : Instr) (h : i ∈ [Instr.fence q, .fencea q, .fencer q]) :
    exec i s = .next (s.trapped (s.me.withDetail { cls := 0, detail := 19 })) := by
  simp only [List.mem_cons, List.not_mem_nil, or_false] at h
  obtain rfl | rfl | rfl := h
  · exact runBundle_trap (M.bind_error (awaitScope_refuses hq))
  · exact require_traps (decide_eq_false (Nat.not_lt.mpr hq))
  · exact runBundle_trap (awaitScope_refuses hq)

theorem fencea_completes (hq : q.val < 6)
    (h : ∀ p, p ∈ s.packets → (s.isMine p && s.packetIn q.val p) = true → isAtomicBody p.body = false) :
    exec (.fencea q) s = .next (s.setMe s.me.acquire).done :=
  runBundle_ok ((require_passes (decide_eq_true hq)).trans ((M.bind_ok (M.get_run s)).trans
    ((M.bind_ok (M.await_run (by rw [State.owes_eq_false.mpr h]; rfl) _ s)).trans (M.modifyMe_run _ s))))

theorem fencea_waits (hq : q.val < 6)
    (h : ∃ p, p ∈ s.packets ∧ (s.isMine p && s.packetIn q.val p) = true ∧ isAtomicBody p.body = true) :
    exec (.fencea q) s = .next (s.noteStall .other) := by
  have owes : s.owes q.val (fun p => isAtomicBody p.body) = true := by
    rw [← Bool.not_eq_false, State.owes_eq_false]
    obtain ⟨p, hp, hm, ha⟩ := h
    intro none
    cases ha.symm.trans (none p hp hm)
  exact runBundle_wait ((require_passes (decide_eq_true hq)).trans ((M.bind_ok (M.get_run s)).trans
    (M.bind_error (M.await_wait (by rw [owes]; rfl) _ s))))

theorem sfence_completes {sid : Fin 64} (h : ∀ p, p ∈ s.packets → s.isMine p = true → p.sid ≠ sid.val) :
    exec (.sfence sid) s = .next s.done :=
  runBundle_ok ((M.bind_ok (M.get_run s)).trans (M.await_run (by simpa using h) _ s))

theorem sfence_waits {sid : Fin 64} (h : ∃ p, p ∈ s.packets ∧ s.isMine p = true ∧ p.sid = sid.val) :
    exec (.sfence sid) s = .next (s.noteStall .other) :=
  runBundle_wait ((M.bind_ok (M.get_run s)).trans (M.await_wait (by simpa using h) _ s))

end

/-! ### waitge -/

section
variable {s t u : State} {a b : GReg} {ea bound : Word} {locs : List Nat}

theorem waitge_misaligned (hc : s.clear [a, b] [] [] [] = true) (hr : s.Reads [a, b] [ea, bound] t) (h : ea.toNat % 8 ≠ 0) :
    exec (.waitge a b) s = .next (s.trapped { cls := 2, detail := 6, addr := ea }) :=
  runBundle_cause ((issue_read_two hc hr _).trans (M.bind_error (aligned_trap h t))) (Nat.succ_ne_zero 1)

variable (hc : s.clear [a, b] [] [] [] = true) (hr : s.Reads [a, b] [ea, bound] t) (hal : ea.toNat % 8 = 0)
  (hl : locate .load ea 8 t = .ok (locs, u)) (free : u.unshared locs) (landed : u.landed locs) (clean : u.me.faulted = none)
  (fits : u.numberAt locs < 2 ^ 64)
include hc hr hal hl free landed clean fits

theorem waitge_completes (h : bound.toNat ≤ u.numberAt locs) {v : State} (hv : observe locs u = .ok ((), v)) :
    exec (.waitge a b) s = .next (v.setMe v.me.acquire).done := by
  have number : BitVec.toNat (BitVec.ofNat 64 (leNat (u.loadAt locs))) = u.numberAt locs := Nat.mod_eq_of_lt fits
  refine runBundle_ok ((issue_read_two hc hr _).trans ?_)
  rw [M.bind_ok (aligned_run hal t), M.bind_ok hl, M.bind_ok (awaitOwn_run landed), M.bind_ok (readBytes_run free), M.bind_ok (M.getMe_run u)]
  simp only [clean, number]
  rw [M.bind_ok (M.await_run (decide_eq_true h) _ u), M.bind_ok hv, M.modifyMe_run]

theorem waitge_waits (h : u.numberAt locs < bound.toNat) : exec (.waitge a b) s = .next (s.noteStall .other) := by
  have number : BitVec.toNat (BitVec.ofNat 64 (leNat (u.loadAt locs))) = u.numberAt locs := Nat.mod_eq_of_lt fits
  refine runBundle_wait ((issue_read_two hc hr _).trans ?_)
  rw [M.bind_ok (aligned_run hal t), M.bind_ok hl, M.bind_ok (awaitOwn_run landed), M.bind_ok (readBytes_run free), M.bind_ok (M.getMe_run u)]
  simp only [clean, number]
  exact M.bind_error (M.await_wait (decide_eq_false (Nat.not_le.mpr h)) _ u)

end

/-! ### Barriers -/

section
variable {s : State} {i phase : Nat}

theorem State.arrived_eq_true : s.arrived i = true ↔ coreOf s.cur ∈ (s.myBarrier i).here := List.contains_iff_mem

theorem State.arrived_eq_false : s.arrived i = false ↔ coreOf s.cur ∉ (s.myBarrier i).here := by
  rw [← State.arrived_eq_true, Bool.not_eq_true]

/-- The current context once it has noted the phase that it waits for. -/
def State.phaseNoted (s : State) (i : Nat) : Ctx :=
  { s.me with barrier := ⟨i, (s.myBarrier i).phase, s.me.pc, s.me.handling.toNat⟩ :: s.me.barrier }

theorem notePhase_run (s : State) (i : Nat) : notePhase i s = .ok ((), s.setMe (s.phaseNoted i)) := rfl

theorem beforeStall_ok {m : M Unit} {t : State} (h : m s = .ok ((), t)) :
    beforeStall m s = .next { t.setMe { t.me with wait := .other } with stalled := [] } := by
  unfold beforeStall
  rw [h]

theorem beforeStall_waits {m : M Unit} {w : Wait} (h : m s = .error (.wait w)) : beforeStall m s = .next (s.noteStall w) := by
  unfold beforeStall
  rw [h]
  exact runBundle_wait rfl

theorem barrier_refuses (h : 16 ≤ i) (op : Instr) (hop : op ∈ [Instr.barr i, .barw i, .barx i]) :
    exec op s = .next (s.trapped (s.me.withDetail { cls := 0, detail := 9 })) := by
  simp only [List.mem_cons, List.not_mem_nil, or_false] at hop
  obtain rfl | rfl | rfl := hop
  · exact require_traps (decide_eq_false (Nat.not_lt.mpr h))
  · exact (if_pos h).trans (runBundle_trap rfl)
  · exact (if_pos h).trans (runBundle_trap rfl)

variable (hi : i < 16)
include hi

theorem barr_arrives (h : s.arrived i = false) : exec (.barr i) s = .next (s.arrive i).done :=
  runBundle_ok ((require_passes (decide_eq_true hi)).trans ((M.bind_ok (M.get_run s)).trans
    ((M.bind_ok (M.await_run (by rw [h]; rfl) _ s)).trans (M.modify_run _ s))))

theorem barr_waits (h : s.arrived i = true) : exec (.barr i) s = .next (s.noteStall .other) :=
  runBundle_wait ((require_passes (decide_eq_true hi)).trans ((M.bind_ok (M.get_run s)).trans
    (M.bind_error (M.await_wait (by rw [h]; rfl) _ s))))

theorem execBarw_eq : exec (.barw i) s = match s.me.waitsAt i with
    | some phase => runBundle (awaitPhase i phase) s
    | none => beforeStall (do
        await (!(← get).arrived i)
        notePhase i
        modify (fun s => s.arrive i)) s := if_neg (Nat.not_le.mpr hi)

theorem execBarx_eq : exec (.barx i) s = match s.me.waitsAt i with
    | some phase => runBundle (awaitPhase i phase) s
    | none => if s.arrived i then beforeStall (notePhase i) s else runBundle (pure ()) s := if_neg (Nat.not_le.mpr hi)

theorem barw_arrives (hw : s.me.waitsAt i = none) (h : s.arrived i = false) :
    exec (.barw i) s = .next { (s.arrive i).setMe { s.phaseNoted i with wait := .other } with stalled := [] } := by
  rw [execBarw_eq hi, hw]
  refine (beforeStall_ok ((M.bind_ok (M.get_run s)).trans ((M.bind_ok (M.await_run (by rw [h]; rfl) _ s)).trans
    ((M.bind_ok (notePhase_run s i)).trans (M.modify_run _ _))))).trans ?_
  have commutes : (s.setMe (s.phaseNoted i)).arrive i = (s.arrive i).setMe (s.phaseNoted i) := rfl
  rw [commutes, State.setMe_me, State.setMe_setMe]

theorem barw_waits (hw : s.me.waitsAt i = none) (h : s.arrived i = true) : exec (.barw i) s = .next (s.noteStall .other) := by
  rw [execBarw_eq hi, hw]
  exact beforeStall_waits ((M.bind_ok (M.get_run s)).trans (M.bind_error (M.await_wait (by rw [h]; rfl) _ s)))

theorem barx_waits (hw : s.me.waitsAt i = none) (h : s.arrived i = true) :
    exec (.barx i) s = .next { s.setMe { s.phaseNoted i with wait := .other } with stalled := [] } := by
  rw [execBarx_eq hi, hw]
  refine (if_pos h).trans ((beforeStall_ok (notePhase_run s i)).trans ?_)
  rw [State.setMe_me, State.setMe_setMe]

theorem barx_goes (hw : s.me.waitsAt i = none) (h : s.arrived i = false) : exec (.barx i) s = .next s.done := by
  rw [execBarx_eq hi, hw]
  exact (if_neg (by rw [h]; exact Bool.false_ne_true)).trans (runBundle_ok rfl)

/-- A bundle that has noted a phase is done once that phase is complete. -/
theorem awaited_completes (hw : s.me.waitsAt i = some phase) (h : phase < (s.myBarrier i).phase) :
    exec (.barw i) s = .next s.done ∧ exec (.barx i) s = .next s.done := by
  have run : awaitPhase i phase s = .ok ((), s) := (M.bind_ok (M.get_run s)).trans (M.await_run (decide_eq_true h) _ s)
  rw [execBarw_eq hi, execBarx_eq hi, hw]
  exact ⟨runBundle_ok run, runBundle_ok run⟩

theorem awaited_waits (hw : s.me.waitsAt i = some phase) (h : (s.myBarrier i).phase ≤ phase) :
    exec (.barw i) s = .next (s.noteStall .other) ∧ exec (.barx i) s = .next (s.noteStall .other) := by
  have run : awaitPhase i phase s = .error (.wait .other) :=
    (M.bind_ok (M.get_run s)).trans (M.await_wait (decide_eq_false (Nat.not_lt.mpr h)) _ s)
  rw [execBarw_eq hi, execBarx_eq hi, hw]
  exact ⟨runBundle_wait run, runBundle_wait run⟩

end

/-! ### A phase's end -/

theorem Table.get_map {α : Type} (f : α → α) {d : Nat → α} {k : Nat} (hd : f (d k) = d k) (t : Table α) :
    Table.get d (t.map (fun e => (e.1, f e.2))) k = f (Table.get d t k) := by
  induction t with
  | nil => exact hd.symm
  | cons e t ih =>
    by_cases h : e.1 = k
    · simp [Table.get, h]
    · simpa [Table.get, h] using ih

section
variable {s : State} {team i : Nat}

/-- The waiters of a phase, and no other context, receive the barrier word. -/
theorem Ctx.release_eq (x : Ctx) (team i phase departed : Nat) : x.release team i phase departed =
    if x.team = some team ∧ (∃ w, w ∈ x.barrier ∧ w.id = i ∧ w.phase = phase) then x.pushDone (barrierWord departed i) else x := by
  simp [Ctx.release, List.any_eq_true]

/-- What the end of a phase leaves, by what its waiters' contexts become. -/
theorem barrierPhaseComplete_ends (hb : ((s.team team).barriers.get Barrier.idle i).here ≠ [])
    (hc : ∀ m, m ∈ (s.team team).members → m ∈ ((s.team team).barriers.get Barrier.idle i).here ∨ m ∈ (s.team team).departed) :
    let b := (s.team team).barriers.get Barrier.idle i
    ∃ u, exec (.barrierPhaseComplete team i) s = .next u ∧
      (u.team team).barriers.get Barrier.idle i = ⟨b.phase + 1, [], 0⟩ ∧ u.mem = s.mem ∧
      (b.departed = 0 → u.ctxs = s.ctxs) ∧ (b.departed ≠ 0 → ∀ c, u.ctx c = (s.ctx c).release team i b.phase b.departed) := by
  intro b
  have ready : (!b.here.isEmpty && (s.team team).complete b) = true := by
    simp only [Bool.and_eq_true, Bool.not_eq_true', List.isEmpty_eq_false_iff, Team.complete, List.all_eq_true, Bool.or_eq_true,
      List.contains_iff_mem]
    exact ⟨hb, hc⟩
  refine ⟨_, runStep_ok ((M.bind_ok (M.get_run s)).trans ((M.bind_ok (M.await_run ready _ s)).trans (M.set_run _ _))), ?_⟩
  have next : Table.get Barrier.idle (Table.put (s.team team).barriers i ⟨b.phase + 1, [], 0⟩) i = ⟨b.phase + 1, [], 0⟩ :=
    Table.get_put_same _ _ _ _
  by_cases h : b.departed = 0
  · rw [if_pos h]
    exact ⟨(congrArg (fun t : Team => t.barriers.get Barrier.idle i) (State.setTeam_team ..)).trans next, rfl, fun _ => rfl,
      fun h' => absurd h h'⟩
  · rw [if_neg h]
    exact ⟨(congrArg (fun t : Team => t.barriers.get Barrier.idle i) (State.setTeam_team ..)).trans next, rfl, fun h' => absurd h' h, fun _ _ =>
      Table.get_map _ rfl _⟩

end

/-- Settles O34: each fence and wait by what it waits for, each barrier operation by whether the member has arrived and what its context has
noted. -/
theorem synchronization : Obligations.Synchronization := by
  refine ⟨fun s t u q sid a b ea bound locs => ⟨fence_refuses, fun hq => ⟨fun h => ?_, fun h => ?_, fencea_completes hq, fencea_waits hq⟩,
    sfence_completes, sfence_waits, fun hc hr => ⟨waitge_misaligned hc hr, fun hal hl free landed clean fits =>
      ⟨fun h v hv => waitge_completes hc hr hal hl free landed clean fits h hv, waitge_waits hc hr hal hl free landed clean fits⟩⟩⟩,
    fun s i team => ⟨barrier_refuses, fun hi => ⟨fun h => ?_, fun h => ?_, fun hw => ⟨fun h => ?_, fun h => ?_, fun h => ?_, fun h => ?_⟩,
      fun phase hw => ⟨awaited_completes hi hw, awaited_waits hi hw⟩⟩, fun hb hc => ?_⟩⟩
  · have run := awaitScope_run hq h.1 h.2
    exact ⟨runBundle_ok ((M.bind_ok run).trans (M.modify_run _ s)), runBundle_ok run⟩
  · have run := awaitScope_waits hq h
    exact ⟨runBundle_wait (M.bind_error run), runBundle_wait run⟩
  · exact barr_arrives hi (State.arrived_eq_false.mpr h)
  · exact barr_waits hi (State.arrived_eq_true.mpr h)
  · exact barw_arrives hi hw (State.arrived_eq_false.mpr h)
  · exact barw_waits hi hw (State.arrived_eq_true.mpr h)
  · exact barx_waits hi hw (State.arrived_eq_true.mpr h)
  · exact barx_goes hi hw (State.arrived_eq_false.mpr h)
  · obtain ⟨u, run, barrier, mem, kept, released⟩ := barrierPhaseComplete_ends hb hc
    exact ⟨u, run, barrier, mem, kept, fun h c => (released h c).trans (Ctx.release_eq ..)⟩

end Sys2Proof.Machine
end

section
/-! SUPPORT. The service's steps (R204, R205, R211, R424, R426 to R428, R433 to R435, R450, R460 to R462, R468, R469): errors and the causes they
leave, the ring, the freeze and the restart, links, and the drain of a ridge. -/

namespace Sys2Proof.Machine

/-! ### Steps that wait and steps that act -/

/-- A step of the hardware that only changes the state. -/
theorem runStep_modify (f : State → State) (s : State) : runStep (modify f) s = .next (f s).stepped := runStep_ok (M.modify_run f s)

/-- A step of the hardware that reads the state first. -/
theorem runStep_get {f : State → M Unit} {s : State} : runStep (get >>= f) s = runStep (f s) s := by
  unfold runStep
  rw [M.bind_ok (M.get_run s)]

/-- A step of the hardware whose condition does not hold does nothing. -/
theorem runStep_idle {ok : Bool} (h : ok = false) (f : Unit → M Unit) (s : State) : runStep (await ok >>= f) s = .next s :=
  runStep_wait (M.bind_error (M.await_wait h _ s))

/-- A step of the hardware whose condition holds sets the state that it computes. -/
theorem runStep_await_set {ok : Bool} (h : ok = true) (s t : State) : runStep (await ok >>= fun _ => set t) s = .next t.stepped :=
  runStep_ok ((M.bind_ok (M.await_run h _ s)).trans (M.set_run s t))

/-! ### Uncorrectable errors -/

section
variable {s : State} {loc : Nat} {c : CtxId}

theorem execUncorrectableError_eq (site : ErrorSite) : exec (.uncorrectableError site) s = execUncorrectableError site s := rfl

theorem error_line (h : loc < 2 ^ 47) :
    exec (.uncorrectableError (.line loc)) s = .next ({ s with poison := (loc / 128 :: s.poison).dedup } : State).stepped := by
  have at_ : ridgeAt loc = none := if_pos h
  rw [execUncorrectableError_eq, execUncorrectableError, runStep_modify]
  dsimp only
  rw [at_]
  rfl

/-- At the safe point an error does not move the bias. -/
theorem State.marginError_safe {r : Nat} (h : (!(decide ((s.ridge r).trim = 0) && decide ((s.ridge r).leaseLeft = 0))) = false) :
    s.marginError r = s := by
  simp only [Bool.not_eq_false', Bool.and_eq_true, decide_eq_true_eq] at h
  exact if_pos h

theorem error_cache_held {core : CoreId}
    (ht : (!(decide ((s.ridge (ridgeOf core)).trim = 0) && decide ((s.ridge (ridgeOf core)).leaseLeft = 0))) = false)
    (h : ∃ e, e ∈ s.l1 core ∧ e.line = loc / 128) :
    exec (.uncorrectableError (.cache core loc)) s = .next ({ s with poison := (loc / 128 :: s.poison).dedup } : State).stepped := by
  have held : (s.l1 core).any (fun l => l.line == lineOf loc) = true := by
    obtain ⟨e, he, hl⟩ := h
    exact List.any_eq_true.mpr ⟨e, he, beq_iff_eq.mpr hl⟩
  rw [execUncorrectableError_eq, execUncorrectableError, runStep_modify]
  dsimp only
  rw [if_pos held]
  exact congrArg (fun t : State => Host.Outcome.next t.stepped) (State.marginError_safe (s := { s with poison := (lineOf loc :: s.poison).dedup }) ht)

theorem error_cache_other {core : CoreId}
    (ht : (!(decide ((s.ridge (ridgeOf core)).trim = 0) && decide ((s.ridge (ridgeOf core)).leaseLeft = 0))) = false)
    (h : ∀ e, e ∈ s.l1 core → e.line ≠ loc / 128) : exec (.uncorrectableError (.cache core loc)) s = .next s.stepped := by
  have held : ¬(s.l1 core).any (fun l => l.line == lineOf loc) = true := fun hl => by
    obtain ⟨e, he, hl⟩ := List.any_eq_true.mp hl
    exact h e he (beq_iff_eq.mp hl)
  rw [execUncorrectableError_eq, execUncorrectableError, runStep_modify]
  dsimp only
  rw [if_neg held, State.marginError_safe ht]

/-- The lease's end leaves every context's own cause. -/
theorem State.endSprint_faulted (s : State) (r : Nat) (trap : Bool) (c : CtxId) : ((s.endSprint r trap).ctx c).faulted = (s.ctx c).faulted := by
  unfold State.endSprint
  extract_lets g t
  split
  next d _ =>
    split
    · by_cases h : c = d
      · subst h
        rw [State.setCtx_ctx]
        rfl
      · rw [State.setCtx_ctx_other _ _ _ _ h]
        rfl
    · rfl
  · rfl

/-- An error while a ridge is margined or leased puts it at its safe point, and leaves every context's own cause. -/
theorem State.marginError_ctx (s : State) (r : Nat) (c : CtxId) : ((s.marginError r).ctx c).faulted = (s.ctx c).faulted := by
  unfold State.marginError
  extract_lets g t
  split
  · rfl
  · exact State.endSprint_faulted (s.postNoctx 0 { cls := 2, detail := 1 }) r true c

theorem State.endSprint_time (s : State) (r : Nat) (trap : Bool) : (s.endSprint r trap).time = s.time := by
  unfold State.endSprint
  extract_lets g t
  split
  · split
    · rfl
    · rfl
  · rfl

theorem State.marginError_holds {r : Nat} (h : (s.ridge r).trim ≠ 0) :
    ((s.marginError r).ridge r).trim = 0 ∧ ((s.marginError r).ridge r).hold = some s.time := by
  unfold State.marginError
  extract_lets g t
  rw [if_neg fun h' => h h'.1, State.setRidge_ridge]
  exact ⟨rfl, congrArg some (State.endSprint_time ..)⟩

theorem error_registers : exec (.uncorrectableError (.registers c)) s = .next (s.setCtx c { s.ctx c with
    faulted := some ((s.ctx c).faulted.getD { cls := 2, detail := 2, precise := false }) }).stepped := by
  rw [execUncorrectableError_eq, execUncorrectableError, runStep_modify]
  rfl

theorem error_carve : exec (.uncorrectableError (.carve c)) s = .next ((s.registerError c).marginError (ridgeOf (coreOf c))).stepped := by
  rw [execUncorrectableError_eq, execUncorrectableError, runStep_modify]

theorem State.registerError_faulted (h : (s.ctx c).faulted = none) :
    ((s.registerError c).ctx c).faulted = some { cls := 2, detail := 2, precise := false } := by
  unfold State.registerError
  rw [State.setCtx_ctx, h]
  rfl

end

/-! ### Acknowledgements and links -/

section
variable {s : State} {n : Nat}

theorem storeAcknowledgement_idle (h : (s.core s.focus).acks = []) : exec .storeAcknowledgement s = .next s :=
  runStep_get.trans (runStep_idle (by rw [h]; rfl) _ s)

theorem storeAcknowledgement_acts {home : Nat} {gen : BitVec 32} {acks : List (Nat × BitVec 32)} (h : (s.core s.focus).acks = (home, gen) :: acks) :
    exec .storeAcknowledgement s = .next (s.receiveAck s.focus).stepped :=
  runStep_get.trans (runStep_await_set (by rw [h]; rfl) s _)

theorem State.receiveAck_cons {c : CoreId} {home : Nat} {gen : BitVec 32} {acks : List (Nat × BitVec 32)}
    (h : (s.core c).acks = (home, gen) :: acks) :
    s.receiveAck c = { s.setCore c { s.core c with acks := acks, egress := (s.core c).egress.tail, homeGens := (s.core c).homeGens.put home gen } with
      strong := s.strong.put c ((s.strong.get (fun _ => []) c).filter (fun p => !(p.home == home && p.gen == gen))) } := by
  unfold State.receiveAck
  dsimp only
  rw [h]

theorem linkDown_stations (x : BitVec 32) (n i : Nat) : (x &&& ~~~(1#32 <<< n)).getLsbD i = (x.getLsbD i && i != n) := by
  by_cases h : i < 32
  · obtain lt | rfl | gt := Nat.lt_trichotomy i n
    · simp [h, lt, Nat.ne_of_lt lt]
    · simp [h]
    · simp [h, Nat.ne_of_gt gt, Nat.sub_ne_zero_of_lt gt, Nat.not_lt.mpr gt.le]
  · simp [BitVec.getLsbD_of_ge _ _ (Nat.le_of_not_lt h)]

theorem linkUp_stations {n : Nat} (hn : n < 32) (x : BitVec 32) (i : Nat) : (x ||| 1#32 <<< n).getLsbD i = (x.getLsbD i || i == n) := by
  obtain lt | rfl | gt := Nat.lt_trichotomy i n
  · simp [lt, Nat.ne_of_lt lt]
  · simp [hn]
  · simp [Nat.ne_of_gt gt, Nat.sub_ne_zero_of_lt gt]

theorem portLink_ports {n : Nat} (hn : n < 4) (x : BitVec 4) (up : Bool) (i : Nat) :
    (if up then x ||| 1#4 <<< n else x &&& ~~~(1#4 <<< n)).getLsbD i = if i = n then up else x.getLsbD i := by
  obtain lt | rfl | gt := Nat.lt_trichotomy i n
  · cases up <;> simp [lt, Nat.ne_of_lt lt, Nat.lt_trans lt hn]
  · cases up <;> simp [hn]
  · rw [if_neg (Nat.ne_of_gt gt)]
    by_cases h : i < 4
    · cases up <;> simp [h, Nat.sub_ne_zero_of_lt gt, Nat.not_lt.mpr gt.le]
    · cases up <;> simp [BitVec.getLsbD_of_ge _ _ (Nat.le_of_not_lt h)]

end


/-! ### A context takes its cause -/

/-- What a cause taken in a context changes: that context, the memory, and what the context held outside it. -/
structure State.ButCtx (s t : State) (c : CtxId) : Prop where
  rest : t = { s with mem := t.mem, ctxs := t.ctxs, banks := t.banks, images := t.images, ridges := t.ridges, teams := t.teams }
  other : ∀ d, d ≠ c → t.ctx d = s.ctx d
  entry : ∀ d x, d ≠ c → (d, x) ∈ s.ctxs → (d, x) ∈ t.ctxs

theorem Table.mem_put_other {α : Type} {t : Table α} {k j : Nat} {x y : α} (hj : j ≠ k) (h : (j, y) ∈ t) : (j, y) ∈ Table.put t k x := by
  induction t with
  | nil => cases h
  | cons e t ih =>
    obtain ⟨i, z⟩ := e
    unfold Table.put
    split
    · exact List.mem_cons_of_mem _ h
    · split
      next hi =>
        obtain h | h := List.mem_cons.mp h
        · cases h; exact absurd hi hj
        · exact List.mem_cons_of_mem _ h
      next =>
        obtain h | h := List.mem_cons.mp h
        · rw [h]; exact List.mem_cons_self
        · exact List.mem_cons_of_mem _ (ih h)

namespace State.ButCtx

variable {c : CtxId}

theorem refl (s : State) : s.ButCtx s c := ⟨rfl, fun _ _ => rfl, fun _ _ _ h => h⟩

theorem trans {s t u : State} (h : s.ButCtx t c) (h' : t.ButCtx u c) : s.ButCtx u c where
  rest := by rw [h'.rest, h.rest]
  other := fun d hd => (h'.other d hd).trans (h.other d hd)
  entry := fun d x hd hx => h'.entry d x hd (h.entry d x hd hx)

/-- A step that leaves every context. -/
theorem of_eq {s t : State}
    (h : t = { s with mem := t.mem, ctxs := s.ctxs, banks := t.banks, images := t.images, ridges := t.ridges, teams := t.teams }) :
    s.ButCtx t c := by
  have hc : t.ctxs = s.ctxs := by rw [h]
  exact ⟨by rw [hc]; exact h, fun d _ => by unfold State.ctx; rw [hc], fun d x _ hx => by rw [hc]; exact hx⟩

theorem setCtx (s : State) (x : Ctx) : s.ButCtx (s.setCtx c x) c :=
  ⟨rfl, fun _ hd => State.setCtx_ctx_other _ _ _ _ hd, fun _ _ hd h => Table.mem_put_other hd h⟩

theorem foldl {α : Type} {f : State → α → State} (hf : ∀ (s : State) a, s.ButCtx (f s a) c) (l : List α) (s : State) :
    s.ButCtx (l.foldl f s) c :=
  foldl_keeps (R := fun s t => s.ButCtx t c) refl (fun _ _ _ => trans) hf l s

theorem faults {s t : State} (h : s.ButCtx t c) : t.faults = s.faults := by rw [h.rest]

end State.ButCtx

section
variable (s : State) (c : CtxId)

theorem State.deliver_butCtx (p : Pending) : s.ButCtx (s.deliver c p) c := by
  have place : ∀ (d : GReg) (r : Reserved) f, s.ButCtx (s.onPlace c d r f) c := fun d r f => by
    unfold State.onPlace State.setHomeBank
    cases r with
    | buffer n => exact .setCtx s _
    | link h n => cases h <;> exact .of_eq rfl
  unfold State.deliver
  split
  · split
    · exact place _ _ _
    · exact .setCtx s _
  · split
    · exact place _ _ _
    · exact .setCtx s _
  · exact .setCtx s _
  · exact .setCtx s _

theorem State.finishPending_butCtx : s.ButCtx (s.finishPending c) c := (State.ButCtx.setCtx s _).trans (.foldl (fun s p => s.deliver_butCtx c p) _ _)

theorem State.endLease_butCtx : s.ButCtx (s.endLease c) c := by
  unfold State.endLease
  dsimp only
  split
  · split
    · exact .of_eq rfl
    · exact .refl s
  · exact .refl s

theorem State.leaveSprint_butCtx : s.ButCtx (s.leaveSprint c) c := by
  unfold State.leaveSprint
  dsimp only
  split
  · exact .of_eq rfl
  · exact .refl s

/-- What a cause that parks its context leaves, apart from its fault record, which is queued last (R425, R426). -/
structure State.Parks (s t : State) (c : CtxId) (cause : Trap) : Prop where
  kept : ∃ u x, s.ButCtx u c ∧ t = { u with faults := u.faults ++ [x] }
  run : (t.ctx c).run = .parked
  cause : (t.ctx c).cause = some cause
  faulted : (t.ctx c).faulted = none

theorem State.park_parks (t : Trap) : s.Parks (s.park c t) c t := by
  unfold State.park
  extract_lets s1 s2 s3 s4 x s5 s6 n s7 s8 s9
  have left : s.ButCtx s5 c := (s.finishPending_butCtx c).trans ((State.endLease_butCtx _ c).trans ((State.ButCtx.setCtx _ _).trans
    ((State.leaveSprint_butCtx _ c).trans (.setCtx _ _))))
  obtain ⟨m₆, h₆⟩ : ∃ m, s6 = { s5 with mem := m } := s5.writeRecord_eq c 4
  clear_value s6
  obtain ⟨m₇, h₇⟩ : ∃ m, s7 = { s6 with mem := m } := ⟨s7.mem, rfl⟩
  clear_value s7
  obtain ⟨m₈, h₈⟩ : ∃ m, s8 = { s7 with mem := m } := by
    unfold s8
    split
    · exact ⟨s7.mem, rfl⟩
    · exact ⟨_, rfl⟩
  clear_value s8
  obtain ⟨ts, h₉⟩ : ∃ ts, s9 = { s8 with teams := ts } := by
    unfold s9
    split
    · exact ⟨_, rfl⟩
    · exact ⟨s8.teams, rfl⟩
  clear_value s9
  subst h₉ h₈ h₇ h₆
  have kept : s.ButCtx { s5 with mem := m₈, teams := ts } c := left.trans (.of_eq rfl)
  have here : State.ctx { s5 with mem := m₈, teams := ts } c = { x with run := .parked, wait := .none, faulted := none, cause := some t } := by
    exact State.setCtx_ctx s4 c _
  clear_value s5
  exact ⟨⟨_, _, kept, rfl⟩, congrArg Ctx.run here, congrArg Ctx.cause here, congrArg Ctx.faulted here⟩

end


/-- A cause taken in a context leaves every other context as it is, whether it parks the context or enters a vector. -/
theorem State.takeTrap_butCtx (s : State) (c : CtxId) (t : Trap) : ∃ u fs, s.ButCtx u c ∧ s.takeTrap c t = { u with faults := fs } := by
  unfold State.takeTrap
  dsimp only
  split
  · exact ⟨_, s.faults, .setCtx s _, rfl⟩
  · split
    · exact ⟨_, s.faults, .setCtx s _, rfl⟩
    · obtain ⟨u, x, kept, e⟩ := (s.park_parks c t).kept
      exact ⟨u, _, kept, e⟩

/-- Before an imprecise cause is taken only its context changes. -/
theorem State.takeFaulted_eq (s : State) (c : CtxId) (t : Trap) : ∃ v, s.ButCtx v c ∧ s.takeFaulted c t = v.takeTrap c t :=
  ⟨_, (State.ButCtx.setCtx s _).trans (.setCtx _ _), rfl⟩

theorem State.takeFaulted_butCtx (s : State) (c : CtxId) (t : Trap) : ∃ u fs, s.ButCtx u c ∧ s.takeFaulted c t = { u with faults := fs } := by
  obtain ⟨v, kept, e⟩ := s.takeFaulted_eq c t
  obtain ⟨u, fs, taken, e'⟩ := v.takeTrap_butCtx c t
  exact ⟨u, fs, kept.trans taken, e.trans e'⟩

section
variable {s : State} {t : Trap}

theorem systemFault_idle (h : s.me.faulted = none) : exec .systemFault s = .next s := by
  refine runStep_get.trans ?_
  simp only [h]
  exact runStep_wait rfl

/-- An imprecise cause that is no user trap parks its context outside the service (R424, R426). -/
theorem systemFault_parks (h : s.me.faulted = some t) (hs : isService (coreOf s.cur) = false) (hu : t.isUser = false) :
    ∃ u x, exec .systemFault s = .next u ∧ u.me.run = .parked ∧ u.me.cause = some t ∧ u.me.faulted = none ∧ u.faults = s.faults ++ [x] := by
  have step : exec .systemFault s = .next (s.takeFaulted s.cur t).stepped := by
    refine runStep_get.trans ?_
    simp only [h]
    exact runStep_ok (M.set_run _ _)
  obtain ⟨v, kept, ev⟩ := s.takeFaulted_eq s.cur t
  have parks : v.takeTrap s.cur t = v.park s.cur t := by
    unfold State.takeTrap
    simp only [hs, hu, Bool.false_and, Bool.false_eq_true, if_false]
  obtain ⟨⟨u, x, parked, e⟩, run, cause, faulted⟩ := v.park_parks s.cur t
  have cur : (v.park s.cur t).cur = s.cur := by rw [e, (kept.trans parked).rest]
  have me : (v.park s.cur t).stepped.me = (v.park s.cur t).ctx s.cur := congrArg _ cur
  rw [ev, parks] at step
  refine ⟨_, x, step, ?_, ?_, ?_, ?_⟩
  · rw [me, run]
  · rw [me, cause]
  · rw [me, faulted]
  · show (v.park s.cur t).faults = _
    rw [e, (kept.trans parked).faults]

end

/-! ### The ring -/

section
variable {s : State} {n : Nat} {f : FaultRecord} {rest : List FaultRecord}

theorem faultRecordPost_idle (h : s.faults = []) : exec .faultRecordPost s = .next s := by
  refine runStep_get.trans ?_
  simp only [h]
  exact runStep_wait rfl

theorem faultRecordPost_eq (h : s.faults = f :: rest) (hn : f.slot = some n) : exec .faultRecordPost s =
    runStep (do
      await (decide ((n + 2 ^ 32 - s.load (s.ring + 8) 4) % 2 ^ 32 < 4096))
      set { s.storeWords (s.ringSlot n) f.words with faults := rest }) s := by
  refine runStep_get.trans ?_
  simp only [h, State.recordNumber, hn]

end

/-! ### The freeze -/

/-- Taking the causes of some contexts leaves the cores, the images and every context that has none to take. -/
structure State.KeepsSound (s t : State) : Prop where
  rest : t = { s with
    mem := t.mem, ctxs := t.ctxs, banks := t.banks, images := t.images, ridges := t.ridges, teams := t.teams, faults := t.faults }
  sound : ∀ d, (s.ctx d).faulted = none → t.ctx d = s.ctx d
  entry : ∀ d x, (s.ctx d).faulted = none → (d, x) ∈ s.ctxs → (d, x) ∈ t.ctxs

theorem State.KeepsSound.refl (s : State) : s.KeepsSound s := ⟨rfl, fun _ _ => rfl, fun _ _ _ h => h⟩

theorem State.KeepsSound.trans (s t u : State) (h : s.KeepsSound t) (h' : t.KeepsSound u) : s.KeepsSound u where
  rest := by rw [h'.rest, h.rest]
  sound := fun d hd => (h'.sound d (by rw [h.sound d hd]; exact hd)).trans (h.sound d hd)
  entry := fun d x hd hx => h'.entry d x (by rw [h.sound d hd]; exact hd) (h.entry d x hd hx)

theorem State.parkPending_keepsSound (s : State) : s.KeepsSound s.parkPending := by
  refine foldl_keeps State.KeepsSound.refl State.KeepsSound.trans (fun s c => ?_) _ s
  split
  next t ht =>
    split
    · obtain ⟨u, fs, kept, e⟩ := s.takeFaulted_butCtx c t
      rw [e]
      have other : ∀ d, (s.ctx d).faulted = none → d ≠ c := fun d hd hc => by
        rw [hc, ht] at hd
        cases hd
      exact ⟨by rw [kept.rest], fun d hd => kept.other d (other d hd), fun d x hd => kept.entry d x (other d hd)⟩
    · exact .refl s
  next => exact .refl s

/-- A context as it is frozen (R434). -/
def Ctx.freeze (x : Ctx) : Ctx := { x with status := x.status ||| 16 }

theorem Ctx.freeze_freeze (x : Ctx) : x.freeze.freeze = x.freeze := by
  simp [Ctx.freeze, BitVec.or_assoc]

/-- A context frozen, in its record too. -/
def State.freezeCtx (s : State) (c : CtxId) : State := (s.setCtx c (s.ctx c).freeze).recordState (s.ctx c).record 5

theorem State.recordState_eq (s : State) (r n : Nat) : ∃ m, s.recordState r n = { s with mem := m } := by
  unfold State.recordState
  split
  · exact ⟨s.mem, rfl⟩
  · exact ⟨_, rfl⟩

theorem State.freezeCtx_ctx (s : State) (c d : CtxId) : (s.freezeCtx c).ctx d = if d = c then (s.ctx d).freeze else s.ctx d := by
  obtain ⟨m, e⟩ := (s.setCtx c (s.ctx c).freeze).recordState_eq (s.ctx c).record 5
  have at_ : (s.freezeCtx c).ctx d = (s.setCtx c (s.ctx c).freeze).ctx d := by
    unfold State.freezeCtx
    rw [e]
    rfl
  rw [at_]
  split
  next h => rw [h, State.setCtx_ctx]
  next h => exact State.setCtx_ctx_other _ _ _ _ h

theorem State.freezeCtx_foldl_ctx (l : List CtxId) (s : State) (d : CtxId) :
    (l.foldl State.freezeCtx s).ctx d = if d ∈ l then (s.ctx d).freeze else s.ctx d := by
  induction l generalizing s with
  | nil => rfl
  | cons c l ih =>
    rw [List.foldl_cons, ih, State.freezeCtx_ctx]
    by_cases hc : d = c
    · subst hc
      simp [Ctx.freeze_freeze]
    · simp [hc]


theorem State.freezeCtx_foldl_eq (l : List CtxId) (s : State) : ∃ m cs, l.foldl State.freezeCtx s = { s with mem := m, ctxs := cs } := by
  induction l generalizing s with
  | nil => exact ⟨s.mem, s.ctxs, rfl⟩
  | cons c l ih =>
    obtain ⟨m, cs, e⟩ := ih (s.freezeCtx c)
    obtain ⟨m', e'⟩ := (s.setCtx c (s.ctx c).freeze).recordState_eq (s.ctx c).record 5
    exact ⟨m, cs, e.trans (congrArg (fun u : State => { u with mem := m, ctxs := cs }) e')⟩

/-- The contexts that a freeze reaches. -/
def State.frozen (s : State) : List CtxId := (s.ctxs.filter (fun e => freezes e.1 e.2)).map Prod.fst

theorem State.freeze_eq (s : State) : s.freeze = { s.parkPending.frozen.foldl State.freezeCtx s.parkPending with
    crashed := true
    cores := (s.parkPending.frozen.foldl State.freezeCtx s.parkPending).cores.map (fun e => (e.1, { e.2 with swapt := BitVec.allOnes 64 })) } := rfl

section
variable (s : State)

/-- A freeze changes no image, and of the service's own state only that it has crashed. -/
theorem State.freeze_rest : ∃ m cs bs is rs ts fs ks, s.freeze = { s with
    mem := m, ctxs := cs, banks := bs, images := is, ridges := rs, teams := ts, faults := fs, cores := ks, crashed := true } := by
  obtain ⟨m, cs, e⟩ := State.freezeCtx_foldl_eq s.parkPending.frozen s.parkPending
  rw [State.freeze_eq, e, s.parkPending_keepsSound.rest]
  exact ⟨_, _, _, _, _, _, _, _, rfl⟩

theorem State.freeze_core (c : CoreId) : s.freeze.core c = { s.core c with swapt := BitVec.allOnes 64 } := by
  obtain ⟨m, cs, e⟩ := State.freezeCtx_foldl_eq s.parkPending.frozen s.parkPending
  have cores : (s.parkPending.frozen.foldl State.freezeCtx s.parkPending).cores = s.cores := by
    rw [e, s.parkPending_keepsSound.rest]
  rw [State.freeze_eq, cores]
  exact Table.get_map (fun k : Core => { k with swapt := BitVec.allOnes 64 }) rfl s.cores

theorem Table.entry_get {α : Type} (d : Nat → α) {t : Table α} {k : Nat} (h : k ∈ t.map Prod.fst) : (k, Table.get d t k) ∈ t := by
  induction t with
  | nil => cases h
  | cons e t ih =>
    obtain ⟨j, x⟩ := e
    by_cases hj : j = k
    · subst hj
      simp [Table.get]
    · rw [List.map_cons, List.mem_cons] at h
      rw [Table.get, if_neg hj]
      exact List.mem_cons_of_mem _ (ih (h.resolve_left fun h => hj h.symm))

/-- A freeze sets the frozen flag of a context that has no cause to take and is neither parked nor gone (R434). -/
theorem State.freeze_status {c : CtxId} (hc : c ∈ s.ctxs.map Prod.fst) (hs : isService (coreOf c) = false) (hp : (s.ctx c).run ≠ .parked)
    (he : (s.ctx c).run ≠ .exited) (hf : (s.ctx c).faulted = none) : (s.freeze.ctx c).status = (s.ctx c).status ||| 16 := by
  have kept : s.parkPending.ctx c = s.ctx c := s.parkPending_keepsSound.sound c hf
  have entry : (c, s.ctx c) ∈ s.parkPending.ctxs := s.parkPending_keepsSound.entry c _ hf (Table.entry_get Ctx.reset hc)
  have frozen : c ∈ s.parkPending.frozen :=
    List.mem_map_of_mem (f := Prod.fst) (List.mem_filter.mpr ⟨entry, by simp [freezes, hs, hp, he]⟩)
  have reached : s.freeze.ctx c = (s.ctx c).freeze := by
    refine (State.freezeCtx_foldl_ctx s.parkPending.frozen s.parkPending c).trans ?_
    rw [if_pos frozen, kept]
  rw [reached]
  rfl

end

section
variable {s : State}

theorem watchdogExpire_idle
    (h : field s.heart 63 32 = 0 ∨ s.crashed = true ∨ s.time < s.heartAt + field s.heart 63 32 * 1000) : exec .watchdogExpire s = .next s := by
  refine runStep_get.trans (runStep_idle ?_ _ s)
  simp only [Bool.and_eq_false_iff, decide_eq_false_iff_not, not_not, Bool.not_eq_false', Nat.not_le]
  tauto

theorem watchdogExpire_freezes (h₀ : field s.heart 63 32 ≠ 0) (hc : s.crashed = false) (h : s.heartAt + field s.heart 63 32 * 1000 ≤ s.time) :
    exec .watchdogExpire s = .next s.freeze.stepped :=
  runStep_get.trans (runStep_await_set (by simp [h₀, hc, h]) s _)

end

/-! ### The service's restart -/

section
variable {s : State} {n : Nat}

/-- Some contexts of a bank as reset leaves them. -/
def State.resetCtxs (s : State) (b : Nat) (l : List Nat) : State := l.foldl (fun s i => s.setCtx (ctxIn b i) (Ctx.reset (ctxIn b i))) s

theorem State.resetCtxs_other {b : Nat} {d : CtxId} (l : List Nat) (s : State) (h : ∀ i ∈ l, d ≠ ctxIn b i) :
    (s.resetCtxs b l).ctx d = s.ctx d := by
  induction l generalizing s with
  | nil => rfl
  | cons i l ih =>
    exact (ih _ fun j hj => h j (List.mem_cons_of_mem _ hj)).trans (State.setCtx_ctx_other _ _ _ _ (h i List.mem_cons_self))

theorem State.resetCtxs_eq (b : Nat) (l : List Nat) (s : State) : ∃ cs, s.resetCtxs b l = { s with ctxs := cs } := by
  induction l generalizing s with
  | nil => exact ⟨s.ctxs, rfl⟩
  | cons i l ih => exact ih (s.setCtx _ _)

/-- A service core's restart changes only the contexts of its active bank. -/
theorem State.startService_other {m : Nat} {d : CtxId} (h : ∀ i, i < 8 → d ≠ ctxIn (s.activeBank (1024 + m)) i) :
    (s.startService m).ctx d = s.ctx d :=
  (State.setCtx_ctx_other _ _ _ _ (h 0 (by decide))).trans (State.resetCtxs_other (List.range 8) s fun i hi => h i (List.mem_range.mp hi))

theorem State.startService_eq (m : Nat) : ∃ cs, s.startService m = { s with ctxs := cs } := by
  obtain ⟨cs, e⟩ := State.resetCtxs_eq (s.activeBank (1024 + m)) (List.range 8) s
  unfold State.startService
  unfold State.resetCtxs at e
  dsimp only
  rw [e]
  exact ⟨_, rfl⟩

/-- Context 0 of a service core's active bank runs from the service's start. -/
def State.servesAt (s : State) (b n : Nat) : Prop := (s.ctx (ctxIn b 0)).run = .running ∧ (s.ctx (ctxIn b 0)).pc = Config.serviceEntry (1024 + n)

theorem State.startService_serves (n : Nat) : (s.startService n).servesAt (s.activeBank (1024 + n)) n := by
  unfold State.servesAt State.startService
  dsimp only
  rw [State.setCtx_ctx]
  exact ⟨rfl, rfl⟩

theorem State.startService_foldl_serves {b : Nat} (l : List Nat) (hb : b = s.activeBank (1024 + n)) (ha : ∀ m, (s.core m).active < 2)
    (h : n ∈ l ∨ s.servesAt b n) : (l.foldl (fun s m => s.startService m) s).servesAt b n := by
  induction l generalizing s with
  | nil => exact h.resolve_left (List.not_mem_nil)
  | cons m l ih =>
    obtain ⟨cs, e⟩ := s.startService_eq m
    have core : (s.startService m).core = s.core := by rw [e]; rfl
    have bank : (s.startService m).activeBank (1024 + n) = s.activeBank (1024 + n) := by rw [e]; rfl
    refine ih (hb.trans bank.symm) (fun m' => by rw [core]; exact ha m') ?_
    by_cases hm : m = n
    · subst hm
      exact .inr (hb ▸ s.startService_serves m)
    · refine h.imp (fun h => (List.mem_cons.mp h).resolve_left (Ne.symm hm)) fun h => ?_
      have other : (s.startService m).ctx (ctxIn b 0) = s.ctx (ctxIn b 0) := State.startService_other fun i hi => by
        have h₁ := ha (1024 + n)
        have h₂ := ha (1024 + m)
        rw [hb]
        show ((1024 + n) * 2 + (s.core (1024 + n)).active) * 8 + 0 ≠ ((1024 + m) * 2 + (s.core (1024 + m)).active) * 8 + i
        omega
      unfold State.servesAt
      rw [other]
      exact h

theorem State.startService_foldl_eq (l : List Nat) (s : State) : ∃ cs, l.foldl (fun s m => s.startService m) s = { s with ctxs := cs } := by
  induction l generalizing s with
  | nil => exact ⟨s.ctxs, rfl⟩
  | cons m l ih =>
    obtain ⟨cs, e⟩ := s.startService_eq m
    obtain ⟨cs', e'⟩ := ih (s.startService m)
    exact ⟨cs', e'.trans (congrArg (fun u : State => { u with ctxs := cs' }) e)⟩

/-- The package as the restart finds it: frozen, and with the new image where there is one (R435, R468). -/
def State.restarting (s : State) : State :=
  let b := if s.crashed then s else s.freeze
  { b with bootImage := b.newImage.getD b.bootImage, newImage := none }

theorem serviceWarmRestart_run (s : State) : exec .serviceWarmRestart s =
    .next (s.restarting.serviceCores.foldl (fun s n => s.startService n) s.restarting).stepped := by
  show execServiceWarmRestart s = _
  rw [execServiceWarmRestart, runStep_modify]
  rfl

theorem State.restarting_service (s : State) :
    s.restarting.crashed = true ∧ s.restarting.bootImage = s.newImage.getD s.bootImage ∧ s.restarting.newImage = none := by
  unfold State.restarting
  split
  next h => exact ⟨h, rfl, rfl⟩
  next =>
    obtain ⟨m, cs, bs, is, rs, ts, fs, ks, e⟩ := s.freeze_rest
    rw [e]
    exact ⟨rfl, rfl, rfl⟩

theorem State.restarting_core (s : State) (c : CoreId) :
    (s.restarting.core c).active = (s.core c).active ∧ (s.restarting.core c).removed = (s.core c).removed := by
  unfold State.restarting
  split
  next => exact ⟨rfl, rfl⟩
  next =>
    have core : State.core { s.freeze with bootImage := s.freeze.newImage.getD s.freeze.bootImage, newImage := none } c = s.freeze.core c := rfl
    rw [core, s.freeze_core]
    exact ⟨rfl, rfl⟩

end


/-! ### Service cores and time lock -/

section
variable {s : State} {n : Nat}

theorem serviceCoreRemoval_idle (h : n ∉ s.serviceCores ∨ s.serviceCores.length < 2) : exec (.serviceCoreRemoval n) s = .next s := by
  refine runStep_get.trans (runStep_idle ?_ _ s)
  rw [Bool.and_eq_false_iff, decide_eq_false_iff_not, Nat.not_le]
  exact h.imp_left fun h => by simpa using h

theorem serviceCoreRemoval_removes (h : n ∈ s.serviceCores) (h₂ : 2 ≤ s.serviceCores.length) :
    exec (.serviceCoreRemoval n) s = .next (s.setCore (1024 + n) { s.core (1024 + n) with removed := true }).stepped :=
  runStep_get.trans (runStep_await_set (by simp [h, h₂]) s _)

theorem timeLockLost_idle (h : s.timeLock = false) : exec .timeLockLost s = .next s := runStep_get.trans (runStep_idle h _ s)

theorem timeLockLost_posts (h : s.timeLock = true) :
    exec .timeLockLost s = .next (({ s with timeLock := false } : State).postNoctx 0 { cls := 7, detail := 11 }).stepped :=
  runStep_get.trans (runStep_await_set h s _)

end

/-! ### Draining a ridge -/

/-- A new ridge map comes into force where it is the operator's and newer than the one in force (R465). -/
theorem State.addRecord_configOf {s : State} {f : FlashRecord} {key : List Byte} (hk : operatorKey s.flash = some key)
    (hf : recordSigned f key = true) (h3 : recordKind f = 3) (newer : ∀ q, q ∈ s.flash → recordKind q = 3 → recordSeq q < recordSeq f) :
    (s.addRecord f).configOf 3 = some f.content := by
  have above : (match s.flash.find? (fun q => recordKind q == recordKind f) with
      | some q => decide (recordSeq q < recordSeq f)
      | none => true) = true := by
    split
    next q hq =>
      have hk : (recordKind q == recordKind f) = true := List.find?_some (p := fun q => recordKind q == recordKind f) hq
      exact decide_eq_true (newer q (List.mem_of_find?_eq_some hq) ((beq_iff_eq.mp hk).trans h3))
    next => rfl
  unfold State.addRecord
  simp only [hk]
  rw [if_pos ⟨hf, above, by omega⟩]
  have lower : (s.flash.filter (fun q => decide (recordKind q < recordKind f))).find? (fun r => recordKind r == 3) = none :=
    List.find?_eq_none.mpr fun q hq => by
      have := of_decide_eq_true (List.mem_filter.mp hq).2
      simp only [beq_iff_eq]
      omega
  unfold State.configOf
  dsimp only
  rw [List.find?_append, lower, Option.none_or, List.find?_cons_of_pos (by simp [h3])]
  rfl

theorem State.addRecord_eq (s : State) (f : FlashRecord) : ∃ fl, s.addRecord f = { s with flash := fl } := by
  unfold State.addRecord
  extract_lets kind newer
  split
  · exact ⟨s.flash, rfl⟩
  · split
    · exact ⟨_, rfl⟩
    · exact ⟨s.flash, rfl⟩

theorem State.recordRidges_eq (s : State) : ∃ fl, s.recordRidges = { s with flash := fl, newMap := none } := by
  unfold State.recordRidges
  extract_lets t
  split
  next r _ =>
    split
    · obtain ⟨fl, e⟩ := t.addRecord_eq r
      exact ⟨fl, e⟩
    · exact ⟨s.flash, rfl⟩
  next => exact ⟨s.flash, rfl⟩

/-- A record that says how the ridges stand is a ridge map. -/
theorem State.mapsRidges_kind {s : State} {f : FlashRecord} {key : List Byte} (h : s.mapsRidges f.content = true) (hf : recordSigned f key = true) :
    recordKind f = 3 := by
  have kind : recordKind f = contentKind f.content := by
    simp only [recordSigned, recordOk, Bool.and_eq_true, decide_eq_true_eq] at hf
    obtain ⟨⟨⟨-, kind⟩, -⟩, -⟩ := hf
    exact kind
  rw [kind]
  unfold State.mapsRidges at h
  split at h
  next e => rw [e]; rfl
  next => cases h

/-- What a drained ridge leaves of the records in force and of the new map (R465, R469). -/
structure State.Records (s u : State) : Prop where
  taken : u.newMap = none
  none : s.newMap = none → u.flash = s.flash
  other : ∀ f, s.newMap = some f → u.mapsRidges f.content = false → u.flash = s.flash
  force : ∀ f key, s.newMap = some f → u.mapsRidges f.content = true → operatorKey s.flash = some key → recordSigned f key = true →
    (∀ q, q ∈ s.flash → recordKind q = 3 → recordSeq q < recordSeq f) → u.configOf 3 = some f.content

theorem State.recordRidges_records (s : State) : s.Records s.recordRidges := by
  obtain ⟨fl, e⟩ := s.recordRidges_eq
  have maps : s.recordRidges.mapsRidges = s.mapsRidges := by rw [e]; rfl
  refine ⟨by rw [e], fun h => ?_, fun f h hm => ?_, fun f key h hm hk hf newer => ?_⟩
  · simp only [State.recordRidges, h]
  · rw [maps] at hm
    simp only [State.recordRidges, h, hm, Bool.false_eq_true, if_false]
  · rw [maps] at hm
    simp only [State.recordRidges, h, hm, if_true]
    exact State.addRecord_configOf (s := { s with newMap := Option.none }) hk hf (State.mapsRidges_kind hm hf) newer

theorem State.dropRidge_eq (s : State) (r p : Nat) : ∃ m ps, s.dropRidge r p = { s with mem := m, parts := ps } := by
  unfold State.dropRidge
  dsimp only
  split
  · exact ⟨_, _, rfl⟩
  · exact ⟨s.mem, s.parts, rfl⟩

theorem State.dropRidge_other (s : State) (r : Nat) {p q : Nat} (h : q ≠ p) : (s.dropRidge r p).part q = s.part q := by
  unfold State.dropRidge
  dsimp only
  split
  · exact State.setPart_part_other _ _ _ _ h
  · rfl

theorem testBit_without (x r : Nat) : (x &&& (2 ^ 128 - 1 - 2 ^ r)).testBit r = false := by
  rw [Nat.testBit_and]
  by_cases h : r < 128
  · have top : (2 ^ 128 - (2 ^ r + 1)).testBit r = false := by
      rw [Nat.testBit_two_pow_sub_succ (Nat.pow_lt_pow_right Nat.one_lt_two h), Nat.testBit_two_pow_self, Bool.not_true, Bool.and_false]
    rw [Nat.sub_sub, Nat.add_comm 1, top, Bool.and_false]
  · have : 2 ^ 128 - 1 - 2 ^ r = 0 := by
      have := Nat.pow_le_pow_right (Nat.zero_lt_two) (Nat.le_of_not_lt h)
      omega
    rw [this, Nat.zero_testBit, Bool.and_false]

theorem State.dropRidge_drops (s : State) (r p : Nat) : ((s.dropRidge r p).part p).ridges.testBit r = false := by
  unfold State.dropRidge
  dsimp only
  split
  · show (Part.ridges (State.part (State.setPart _ _ _) p)).testBit r = false
    rw [State.setPart_part]
    exact testBit_without _ _
  next h => exact Bool.eq_false_of_not_eq_true h

theorem State.dropRidge_foldl_drops (l : List Nat) (s : State) (r q : Nat) (h : q ∈ l ∨ (s.part q).ridges.testBit r = false) :
    ((l.foldl (fun s p => s.dropRidge r p) s).part q).ridges.testBit r = false := by
  induction l generalizing s with
  | nil => exact h.resolve_left List.not_mem_nil
  | cons p l ih =>
    refine ih _ ?_
    by_cases hp : q = p
    · subst hp
      exact .inr (s.dropRidge_drops r q)
    · refine h.imp (fun h => (List.mem_cons.mp h).resolve_left hp) fun h => ?_
      rw [s.dropRidge_other r hp]
      exact h

theorem State.dropRidge_foldl_eq (l : List Nat) (s : State) (r : Nat) :
    ∃ m ps, l.foldl (fun s p => s.dropRidge r p) s = { s with mem := m, parts := ps } := by
  induction l generalizing s with
  | nil => exact ⟨s.mem, s.parts, rfl⟩
  | cons p l ih =>
    obtain ⟨m, ps, e⟩ := s.dropRidge_eq r p
    obtain ⟨m', ps', e'⟩ := ih (s.dropRidge r p)
    exact ⟨m', ps', e'.trans (congrArg (fun u : State => { u with mem := m', parts := ps' }) e)⟩

section
variable {s t u : State} {r : Nat}

theorem State.Records.stepped (h : s.Records u) : s.Records u.stepped := ⟨h.taken, h.none, h.other, h.force⟩

theorem State.Records.of_eq (hf : t.flash = s.flash) (hn : t.newMap = s.newMap) (h : t.Records u) : s.Records u where
  taken := h.taken
  none := by rw [← hf, ← hn]; exact h.none
  other := by rw [← hf, ← hn]; exact h.other
  force := by rw [← hf, ← hn]; exact h.force

theorem State.recordRidges_kept (s : State) : s.recordRidges.ridge = s.ridge ∧ s.recordRidges.die = s.die ∧ s.recordRidges.part = s.part ∧
    s.recordRidges.mem = s.mem := by
  obtain ⟨fl, e⟩ := s.recordRidges_eq
  rw [e]
  exact ⟨rfl, rfl, rfl, rfl⟩

/-- The state in which a ridge number has its spare, and nothing on it. -/
def State.spared (s : State) (r p : Nat) (rest : List Nat) : State :=
  ((s.setDie (r / 32) { s.die (r / 32) with spares := rest }).setRidge r { Ridge.reset r with physical := p }).zeroRange (ridgeLoc r 0) ridgeBytes

theorem State.spared_recorded (s : State) (r p : Nat) (rest : List Nat) :
    let u := (s.spared r p rest).recordRidges
    u.ridge r = { Ridge.reset r with physical := p } ∧ (u.die (r / 32)).spares = rest ∧
      (∀ i, i < ridgeBytes → u.mem.read (ridgeLoc r i) = 0) ∧ s.Records u := by
  intro u
  obtain ⟨ridge, die, -, mem⟩ := (s.spared r p rest).recordRidges_kept
  refine ⟨(congrFun ridge r).trans (State.setRidge_ridge ..), ?_, fun i hi => ?_,
    .of_eq (t := s.spared r p rest) rfl rfl (State.recordRidges_records _)⟩
  · exact congrArg Die.spares ((congrFun die (r / 32)).trans (State.setDie_die ..))
  · rw [mem, ridgeLoc_add]
    exact State.read_zeroRange_inside _ _ _ hi

/-- The state in which a ridge number is retired, and no partition holds it. -/
def State.withdrawn (s : State) (r : Nat) : State :=
  (List.range 8).foldl (fun s p => s.dropRidge r p) (s.setRidge r { s.ridge r with retired := true })

theorem State.withdrawn_kept (s : State) (r : Nat) : (s.withdrawn r).ridge r = { s.ridge r with retired := true } ∧
    (s.withdrawn r).flash = s.flash ∧ (s.withdrawn r).newMap = s.newMap := by
  obtain ⟨m, ps, e⟩ := State.dropRidge_foldl_eq (List.range 8) (s.setRidge r { s.ridge r with retired := true }) r
  unfold State.withdrawn
  rw [e]
  exact ⟨State.setRidge_ridge .., rfl, rfl⟩

theorem State.withdrawn_recorded (s : State) (r : Nat) :
    let u := (s.withdrawn r).recordRidges
    (u.ridge r).retired = true ∧ (∀ p, p < 8 → (u.part p).ridges.testBit r = false) ∧ s.Records u := by
  intro u
  obtain ⟨ridge, -, part, -⟩ := (s.withdrawn r).recordRidges_kept
  obtain ⟨kept, flash, map⟩ := s.withdrawn_kept r
  refine ⟨?_, fun p hp => ?_, .of_eq flash map (s.withdrawn r).recordRidges_records⟩
  · exact congrArg Ridge.retired ((congrFun ridge r).trans kept)
  · exact (congrArg (fun f : Nat → Part => (f p).ridges.testBit r) part).trans
      (State.dropRidge_foldl_drops _ _ r p (.inl (List.mem_range.mpr hp)))

end

/-! What the drain of the focus core's ridge does (R469). -/

section
variable {s : State}

theorem ridgeDrain_starts (h : (s.ridge (ridgeOf s.focus)).draining = false) :
    exec .ridgeDrain s = .next (s.setRidge (ridgeOf s.focus) { s.ridge (ridgeOf s.focus) with draining := true }).stepped := by
  refine runStep_get.trans ?_
  simp only [h, if_true]
  exact runStep_ok (M.set_run _ _)

variable (draining : (s.ridge (ridgeOf s.focus)).draining = true)
include draining

theorem ridgeDrain_idle (h : s.ridgeEmpty (ridgeOf s.focus) = false ∨ (s.ridge (ridgeOf s.focus)).retired = true) :
    exec .ridgeDrain s = .next s := by
  refine runStep_get.trans ?_
  simp only [draining, Bool.true_eq_false, if_false]
  refine runStep_idle ?_ _ s
  rw [Bool.and_eq_false_iff, Bool.not_eq_false']
  exact h

variable (empty : s.ridgeEmpty (ridgeOf s.focus) = true) (held : (s.ridge (ridgeOf s.focus)).retired = false)
include empty held

theorem ridgeDrain_spares {p : Nat} {rest : List Nat} (h : (s.die (ridgeOf s.focus / 32)).spares = p :: rest) :
    exec .ridgeDrain s = .next (s.spared (ridgeOf s.focus) p rest).recordRidges.stepped := by
  refine runStep_get.trans ?_
  rw [if_neg (Bool.not_eq_false _ ▸ draining)]
  simp only [h]
  refine runStep_await_set ?_ s _
  rw [empty, held]
  rfl

theorem ridgeDrain_retires (h : (s.die (ridgeOf s.focus / 32)).spares = []) :
    exec .ridgeDrain s = .next (s.withdrawn (ridgeOf s.focus)).recordRidges.stepped := by
  refine runStep_get.trans ?_
  rw [if_neg (Bool.not_eq_false _ ▸ draining)]
  simp only [h]
  refine runStep_await_set ?_ s _
  rw [empty, held]
  rfl

end

section
variable {s : State} {n : Nat} {f : FaultRecord} {rest : List FaultRecord}

/-! What the oldest queued record does, by the ring's room (R428). -/

variable (h : s.faults = f :: rest) (hn : f.slot = some n)
include h hn

theorem faultRecordPost_posts (room : (n + 2 ^ 32 - s.load (s.ring + 8) 4) % 2 ^ 32 < 4096) :
    exec .faultRecordPost s = .next ({ s.storeWords (s.ringSlot n) f.words with faults := rest } : State).stepped :=
  (faultRecordPost_eq h hn).trans (runStep_await_set (decide_eq_true room) s _)

theorem faultRecordPost_full (full : 4096 ≤ (n + 2 ^ 32 - s.load (s.ring + 8) 4) % 2 ^ 32) : exec .faultRecordPost s = .next s :=
  (faultRecordPost_eq h hn).trans (runStep_idle (decide_eq_false (Nat.not_lt.mpr full)) _ s)

end

section
variable {s : State}

/-- A missed heartbeat freezes the package: no switch falls due, and a context that runs on is frozen (R434). -/
theorem watchdogExpire_freeze (c : CtxId) (h₀ : field s.heart 63 32 ≠ 0) (hc : s.crashed = false)
    (h : s.heartAt + field s.heart 63 32 * 1000 ≤ s.time) :
    ∃ u, exec .watchdogExpire s = .next u ∧ u.crashed = true ∧ (∀ i, (u.core i).swapt = BitVec.allOnes 64) ∧
      (c ∈ s.ctxs.map Prod.fst → isService (coreOf c) = false → (s.ctx c).run ≠ .parked → (s.ctx c).run ≠ .exited →
        (s.ctx c).faulted = none → (u.ctx c).status = (s.ctx c).status ||| 16) :=
  ⟨_, watchdogExpire_freezes h₀ hc h, rfl, fun i => congrArg Core.swapt (s.freeze_core i), s.freeze_status⟩

/-- A restart brings up the service's cores, on the new image where there is one (R435, R468). -/
theorem serviceWarmRestart_restarts (n : Nat) :
    ∃ u, exec .serviceWarmRestart s = .next u ∧ u.crashed = true ∧ u.bootImage = s.newImage.getD s.bootImage ∧ u.newImage = none ∧
      (n < 8 → (s.core (1024 + n)).removed = false → (∀ m, (s.core m).active < 2) →
        u.servesAt (s.activeBank (1024 + n)) n) := by
  obtain ⟨cs, e⟩ := State.startService_foldl_eq s.restarting.serviceCores s.restarting
  obtain ⟨crashed, image, none⟩ := s.restarting_service
  refine ⟨_, serviceWarmRestart_run s, ?_, ?_, ?_, fun hn removed active => ?_⟩
  · exact (congrArg State.crashed e).trans crashed
  · exact (congrArg State.bootImage e).trans image
  · exact (congrArg State.newImage e).trans none
  · have active' (m : Nat) : (s.restarting.core m).active < 2 := by
      rw [(s.restarting_core m).1]
      exact active m
    have starts : n ∈ s.restarting.serviceCores := by
      refine List.mem_filter.mpr ⟨List.mem_range.mpr hn, ?_⟩
      rw [(s.restarting_core _).2, removed]
      rfl
    have bank : s.activeBank (1024 + n) = s.restarting.activeBank (1024 + n) := by
      unfold State.activeBank
      rw [(s.restarting_core _).1]
    exact State.startService_foldl_serves _ bank active' (.inl starts)

theorem ualinkReadRequest_replies (n : Nat) :
    exec (.ualinkReadRequest n) s = .next ({ s with replies := s.replies ++ [.unsupported n] } : State).stepped := by
  show execUalinkReadRequest n s = _
  rw [execUalinkReadRequest, runStep_modify]

theorem stationLinkDown_run (n : Nat) :
    exec (.stationLinkDown n) s = .next ({ s with stations := s.stations &&& ~~~(1#32 <<< n) } : State).stepped := by
  show execStationLinkDown n s = _
  rw [execStationLinkDown, runStep_modify]

theorem stationLinkUp_run (n : Nat) : exec (.stationLinkUp n) s = .next ({ s with stations := s.stations ||| 1#32 <<< n } : State).stepped := by
  show execStationLinkUp n s = _
  rw [execStationLinkUp, runStep_modify]

theorem portLinkChange_run (n : Nat) (up : Bool) : exec (.portLinkChange n up) s =
    .next ({ s with ports := if up then s.ports ||| 1#4 <<< n else s.ports &&& ~~~(1#4 <<< n) } : State).stepped := by
  show execPortLinkChange n up s = _
  rw [execPortLinkChange, runStep_modify]

theorem timeLockRegained_locks : exec .timeLockRegained s = .next ({ s with timeLock := true } : State).stepped := by
  show execTimeLockRegained s = _
  rw [execTimeLockRegained, runStep_modify]

end

/-- Settles O51, one lemma to a clause. -/
theorem serviceSteps : Obligations.ServiceSteps := by
  intro s loc n c t f rest acks home gen up k r g trimmed posts taken noted
  refine ⟨error_line, error_cache_held, error_cache_other, error_registers, ?_, systemFault_idle, systemFault_parks, faultRecordPost_idle,
    fun h hn => ⟨faultRecordPost_posts h hn, faultRecordPost_full h hn⟩, storeAcknowledgement_idle, ?_,
    ⟨watchdogExpire_idle, watchdogExpire_freeze c⟩, serviceWarmRestart_restarts n, ⟨serviceCoreRemoval_idle, serviceCoreRemoval_removes⟩,
    timeLockLost_idle, ?_, timeLockRegained_locks, ridgeDrain_starts, fun draining => ⟨ridgeDrain_idle draining, ?_, ?_⟩,
    ualinkReadRequest_replies n, ?_, ?_, ?_⟩
  case refine_1 =>
    exact ⟨_, error_carve, fun h => (State.marginError_ctx _ _ _).trans (State.registerError_faulted h),
      State.marginError_holds (s := s.registerError c)⟩
  case refine_2 =>
    intro h
    rw [storeAcknowledgement_acts h, State.receiveAck_cons h]
  case refine_3 => exact fun h => ⟨_, _, timeLockLost_posts h, rfl, rfl⟩
  case refine_4 =>
    intro p spares empty held h
    obtain ⟨ridge, die, zero, records⟩ := s.spared_recorded r p spares
    exact ⟨_, ridgeDrain_spares draining empty held h, ridge, die, zero,
      records.stepped.taken, records.stepped.none, records.stepped.other, records.stepped.force⟩
  case refine_5 =>
    intro empty held h
    obtain ⟨retired, dropped, records⟩ := s.withdrawn_recorded r
    exact ⟨_, ridgeDrain_retires draining empty held h, retired, fun p hp => .inl (dropped p hp),
      records.stepped.taken, records.stepped.none, records.stepped.other, records.stepped.force⟩
  case refine_6 => exact ⟨_, stationLinkDown_run n, linkDown_stations s.stations n⟩
  case refine_7 => exact fun hn => ⟨_, stationLinkUp_run n, linkUp_stations hn s.stations⟩
  case refine_8 => exact fun hn => ⟨_, portLinkChange_run n up, portLink_ports hn s.ports up⟩

end Sys2Proof.Machine
end
